-- ==== Sys2Proof/Syntax.lean ====
section
/-! DEFINITION. The commands and events of spec/opcode_table.json, one constructor of `Instr` each, and the data they
carry. The table gives no row a bit, so the operands are read from each row's rule: what arrives at a port (R395,
Table 18-1), what a response carries, or what a self-test or another engine reports. -/

namespace Sys2Proof

/-- The two masters (R71): the host control core, or the manager on the side-band. -/
inductive Port where
  | host | mgr
deriving DecidableEq, Repr, Inhabited

/-- What starts a cold reset (Table 18-7). -/
inductive ColdCause where
  | powerOn | pin | jqCtl | tripPowerRemoved
deriving DecidableEq, Repr, Inhabited

/-- What starts a warm reset (Table 18-7). -/
inductive WarmCause where
  | pin | jqCtl (port : Port)
deriving DecidableEq, Repr, Inhabited

/-- The detected errors of R359. -/
inductive DetSrc where
  | pair | checksum | parity
deriving DecidableEq, Repr, Inhabited

/-- A word at rest, or on its way to storage, that SEC-DED finds uncorrectable (R363, Table 16-4): in an operand buffer by job address, in a
table bank by cluster, slot and word, an accumulator entry by cluster × 256 + entry, a slipway word by cluster, slipway and cell, and a word
between PACK/STORE and storage by its address, in job memory or in the scratchpad. -/
inductive RestErr where
  | operand (addr : Nat)
  | table (cluster slot word : Nat)
  | acc (key : Nat)
  | slip (cluster which cell : Nat)
  | output (job : Bool) (addr : Nat)
deriving DecidableEq, Repr, Inhabited

/-- What one run of a command, or one step of it, meets outside its own operands (R311, R312, R359, R281, R363): words corrected by SEC-DED
and lines found uncorrectable, both by scratchpad address; uncorrectable words elsewhere; a detected error and its logical cluster; what a
fault between PACK/STORE and storage adds to the store digest; the cycles charged; and whether a command without granules goes to its first
tile boundary only (R274) or on to its last. -/
structure RunEnv where
  corrected : List Nat
  uncorrectable : List Nat
  rest : List RestErr
  detected : Option (DetSrc × Nat)
  storeDelta : Nat
  cycles : Nat
  stepwise : Bool
deriving DecidableEq, Repr, Inhabited

/-- A run that meets nothing. -/
def RunEnv.clean (cycles : Nat) : RunEnv := ⟨[], [], [], none, 0, cycles, false⟩

/-- One 64-byte sector of a read response, with its poison mark (R300). -/
structure Sector where
  bytes : List Byte
  poison : Bool
deriving DecidableEq, Repr, Inhabited

/-- Which of the Retriever's two streams a request belongs to (R289): memory, with the channel that the fabric's
address decoder names (R292), or remote. -/
inductive ReqStream where
  | memory (channel : Nat) | remote
deriving DecidableEq, Repr, Inhabited

/-- A digest record (Table 15-5) without the addresses of its post. -/
structure DigRec where
  crossing : Nat
  landing : Nat
  lane : Nat
  store : Nat
  elements : Nat
  invalid : Bool
  differ : Bool
  tide : Nat
deriving DecidableEq, Repr, Inhabited

/-- An exact accumulator entry, which is also the raw record of Table 8-2: the integer `A`, the reference exponent ρ,
the count and the state bits (R191). -/
structure AccRec where
  a : Int
  rho : Int
  count : Nat
  st : BitVec 5
deriving DecidableEq, Repr, Inhabited

/-- One line of the mirrored range with its poison mark (Table 14-6). -/
structure RangeLine where
  addr : Nat
  bytes : List Byte
  mark : Bool
deriving DecidableEq, Repr, Inhabited

/-- One 16 × 64 slipway tile, row by row: FP32 encodings with their poison bits. -/
abbrev SlipTile := List (Word32 × Bool)

/-- The name of one table slot in a snapshot: cluster, bank role (0 active, 1 shadow), slot, SHAPE_ID, CHECK, valid
bit and GEN (Table 14-6). -/
structure TableName where
  cluster : Nat
  shadow : Bool
  slot : Nat
  shapeId : Nat
  check : Nat
  valid : Bool
  gen : Nat
deriving DecidableEq, Repr, Inhabited

/-- A partner-mirror snapshot (Table 14-6): its header, the digest records, the ledger registers, the lengths and
holds of the berths, the collective numbers, accumulators, held slipways, table names and the mirrored range. -/
structure Snapshot where
  tag : Nat
  crossing : Nat
  landing : Nat
  segment : Option DigRec
  cross : Option DigRec
  ledger : List (Nat × Nat)
  vlens : List (Nat × Nat)
  holds : List (Option Nat)
  colls : List (Nat × Nat)
  accs : List (Nat × AccRec)
  slips : List (Nat × SlipTile)
  tables : List TableName
  range : List RangeLine
deriving DecidableEq, Repr, Inhabited

/-- SOURCE and DEST of Table 14-3: package index and ring position. -/
structure TowPlace where
  package : Nat
  ring : Nat
deriving DecidableEq, Repr, Inhabited

/-- A towline message: the header of Table 14-3 and its payload. The snapshot that a MIRROR or a RESTORE_DATA message carries stands as
data, not as bytes (log entry 156). `place`: the (crossing, landing) that a RESTORE_REQ asks for, the requester's LDG_COMMITTED, and of a
RESTORE_DATA without a snapshot that of the COMMITTED slot, where there is one (R342; Table 14-3 names no field for it: log entry 171). -/
structure TowMsg where
  tag : Nat
  crossing : Nat
  landing : Nat
  kind : Nat
  group : Nat
  ret : Bool
  isVoid : Bool
  reason : Nat
  senderCp : Nat
  coll : Nat
  rows : Nat
  rowBlock : Nat
  source : TowPlace
  dest : TowPlace
  payload : List Byte
  snap : Option Snapshot
  place : Option (Nat × Nat) := none
deriving DecidableEq, Repr, Inhabited

/-- What the first bursts of a partner's snapshot tell (R341): its tag, its landing, and the digests of its control part. -/
structure SnapHead where
  tag : Nat
  crossing : Nat
  landing : Nat
  segment : Option DigRec
  cross : Option DigRec
deriving DecidableEq, Repr, Inhabited

/-- The header of a snapshot. -/
def Snapshot.head (n : Snapshot) : SnapHead := ⟨n.tag, n.crossing, n.landing, n.segment, n.cross⟩

/-- A burst that arrives (R333): of a message of any other kind, or of a partner's snapshot, its first with the header. -/
inductive Burst where
  | part | mirrorHead (h : SnapHead) | mirrorPart
deriving DecidableEq, Repr, Inhabited

/-- What scratchpad reads outside a command meet (R311, R312): words corrected and lines found uncorrectable, by scratchpad address. -/
structure ReadErr where
  corrected : List Nat
  lost : List Nat
deriving DecidableEq, Repr, Inhabited

/-- Reads that meet nothing. -/
def ReadErr.none : ReadErr := ⟨[], []⟩

/-- What of them lies among the addresses that a read covers. -/
def ReadErr.within (p : Nat → Bool) (err : ReadErr) : ReadErr := ⟨err.corrected.filter p, err.lost.filter p⟩

/-- A block of the keep island that is written in two copies (R400): the acceptance and the completion record of a berth, the
landing-reached record, the commitment record, the crossing copy, MAN_KEPT_TAG, and the repair table. -/
inductive KeepBlock where
  | accepted (berth : Nat) | completed (berth : Nat) | landing | commit | crossing | tag | repair
deriving DecidableEq, Repr, Inhabited

/-- The writes of the keep island that had not reached their cycle 12 (R401): how many acceptances, the latest ones, and the other
blocks. -/
structure Torn where
  accepts : Nat
  blocks : List KeepBlock
deriving DecidableEq, Repr, Inhabited

/-- No write is torn. -/
def Torn.none : Torn := ⟨0, []⟩

/-- How a write or a read through a register offset reaches the 64-bit register (R421): the whole register, or one
half under the capture and hold of R418. -/
inductive Access where
  | whole | low | high
deriving DecidableEq, Repr, Inhabited

/-- What the start-up self-test found (R411 step 8): failed physical clusters, failed rows (region, physical bank,
row), failed banks (region, physical bank), and the Tollhouse's pass bits (Table 17-7). -/
structure SelfTest where
  clusters : List Nat
  rows : List (Nat × Nat × Nat)
  banks : List (Nat × Nat)
  toll : BitVec 9
deriving DecidableEq, Repr, Inhabited

/-- The commands and events of the block, one per row of spec/opcode_table.json, in the table's order. -/
inductive Instr where
  /-- R411: `keepBad` is a keep check that finds a seal broken and no shadow to repair it (R402). -/
  | coldReset (cause : ColdCause) (keepBad : Bool)
  | warmReset (cause : WarmCause)
  | replayReset (port : Port)
  | resetDrainEnd
  | fabReady
  | startupSelfTestEnd (found : SelfTest)
  /-- R402: whether the keep check found a seal broken with no shadow to repair it, where the reset did not say so. -/
  | mainSideUp (keepBad : Bool := false)
  /-- R409: the nibbles sampled while BCN_FRAME is high. -/
  | beaconFrame (nibbles : List (BitVec 4))
  | beaconFrameEffect
  | moorWait
  | railOrderViolation
  | keepSupplyALow
  | keepSupplyReturn
  /-- R401: the writes that had not reached their cycle 12. -/
  | keepIslandFailing (torn : Torn)
  | keepSupplyRestored (supplyB : Bool)
  /-- R401: the blocks whose current seal failed. -/
  | keepSealCheckEnd (failed : List KeepBlock)
  /-- R407: VDD_CORE in mV. -/
  | vddCoreBelowMin (mv : Nat := 0)
  | vddCoreAboveNext (mv : Nat := 1000)
  | vddCoreCollapse
  /-- R406: hottest sensor in 1/16 °C, the three supplies in mV (Table 18-14), and the writes that a trip cuts off. -/
  | thermalSample (temp : Int) (vcore vkeepA vkeepB : Nat) (torn : Torn := .none)
  | pwrCtlTarget (port : Port) (step : BitVec 2)
  | pwrCtlGate (port : Port) (gate : Bool)
  | throttleSwitch
  | clockGate
  | clockWake
  /-- R416: a frame whose operation is neither READ nor WRITE; operation 0 is NOP. -/
  | sbNop (version : BitVec 2) (op : BitVec 6) (addr : BitVec 24) (data : BitVec 32) (crc : Byte)
  /-- R416; `late`: the main-side access did not end in 8 bit times (Table 18-10, BUSY). -/
  | sbRead (version : BitVec 2) (addr : BitVec 24) (data : BitVec 32) (crc : Byte) (late : Bool)
  | sbWrite (version : BitVec 2) (addr : BitVec 24) (data : BitVec 32) (crc : Byte) (late : Bool)
  | sbFrameCut
  /-- R267: CORE_SUB_FMT, CORE_SUB_DATA as bytes, CORE_SCALAR as 16 words of 64 bits. -/
  | coreSubmit (fmt : Bool) (data : List Byte) (scalar : List Word64)
  /-- R257: bytes written at an offset of the port's submission window. -/
  | cqSubmit (port : Port) (off : Nat) (bytes : List Byte)
  | cqSubmit64 (port : Port) (off : Nat) (bytes : List Byte)
  | submissionResponse
  | abortBerth (port : Port) (berth : BitVec 5)
  | winRelease (port : Port) (window : BitVec 7)
  /-- R284: offset in the result-window area and length in bytes. -/
  | resultWindowRead (off : BitVec 27) (len : Nat) (err : ReadErr := .none)
  | chain (berth : BitVec 5) (env : RunEnv)
  | forerunnerChain (berth : BitVec 5) (env : RunEnv)
  | normFwd (berth : BitVec 5) (env : RunEnv)
  | rmsFwd (berth : BitVec 5) (env : RunEnv)
  | normBwd (berth : BitVec 5) (env : RunEnv)
  | rmsBwd (berth : BitVec 5) (env : RunEnv)
  | smaxFwd (berth : BitVec 5) (env : RunEnv)
  | smaxBwd (berth : BitVec 5) (env : RunEnv)
  | matmul (berth : BitVec 5) (env : RunEnv)
  | load (berth : BitVec 5) (env : RunEnv)
  | store (berth : BitVec 5) (env : RunEnv)
  | attn (berth : BitVec 5) (env : RunEnv)
  | landingMarker (berth : BitVec 5)
  /-- R274: `env` is what the tiles issued at the boundary meet. -/
  | tileBoundary (env : RunEnv)
  /-- R358: the signature that the secondary formed of the berth's next tile. -/
  | tileSignatureCompare (berth : BitVec 5) (secondary : Nat)
  /-- R281: the cycles charged to the command under way in a berth would exceed the cap. -/
  | durationCapExpiry (berth : BitVec 5 := 0)
  | commandComplete (berth : BitVec 5)
  /-- R213: the statistics of one row block of the issuing command are complete. -/
  | statisticsReady (rowBlock : Nat)
  | finisherRowAccept
  | finisherRowDeliver (env : RunEnv)
  | retrieverRequest (stream : ReqStream)
  | readResponse (tag : Nat) (sectors : List Sector)
  | writeAck (tag : Nat)
  | translationFault (tag : Nat)
  | retry (port : Port)
  | fail (port : Port)
  | rtvLookaheadWrite (port : Port) (value : Word64)
  | rtvLeashWrite (port : Port) (value : Word64)
  | towBerthGroupWrite (port : Port) (berth : BitVec 5) (value : Word64)
  | towMirrorRangeWrite (port : Port) (value : Word64)
  | kenReqWrite (port : Port) (value : Word64)
  | landingReached
  | landingGateOpen
  | crossingOpen
  | landingCommitted
  | kennelStaticCopyEnd (region : Nat)
  /-- R370: the physical cluster (5 × region + position) whose in-line test ended, and whether it passed. -/
  | inlineTestEnd (cluster : Nat) (pass : Bool)
  | outOfLineTestEnd (cluster : Nat) (pass : Bool)
  | manOpen (port : Port)
  | manClose (port : Port)
  | manDiscard (port : Port)
  | manDisarm (port : Port)
  | manApplyNow (port : Port)
  | manForget (port : Port)
  | manApplyAt (port : Port) (crossing : BitVec 48) (landing : BitVec 16)
  /-- R75: offset in the 1 MiB aperture and the bytes written. -/
  | stagingApertureWrite (port : Port) (off : Nat) (bytes : List Byte)
  | manifestVerificationEnd
  /-- R82: the regions that were not ready at cycle P1. -/
  | applicationPhase1End (notReady : List Nat)
  | applicationPhase2End
  /-- R169: offset in the shadow table window and the bytes written. -/
  | shadowWindowWrite (port : Port) (off : Nat) (bytes : List Byte)
  | tblCommit (port : Port) (mask : BitVec 32) (slot : BitVec 4)
  | tblClear (port : Port) (mask : BitVec 32) (slot : BitVec 4)
  | tblLoad (port : Port) (mask : BitVec 32) (slot : BitVec 4)
  /-- R167: the words (cluster, word) of the copies that are found uncorrectable. -/
  | tblLoadFetchEnd (lost : List (Nat × Nat))
  | swapIdle (port : Port) (mask : BitVec 32)
  /-- R333, R341: one burst of an incoming message. -/
  | towBurstReceived (burst : Burst := .part)
  | burstAck (id : Nat)
  | burstRefused (id : Nat)
  | burstResend (id : Nat)
  | towMessage (msg : TowMsg) (env : RunEnv)
  | hopAbandoned (id : Nat) (env : RunEnv)
  | towTimerExpiry (berth : BitVec 5) (rowBlock : Nat) (env : RunEnv)
  | mirrorSnapshotReadEnd (err : ReadErr := .none)
  | mirrorReceived (snap : Snapshot)
  | restore (port : Port)
  /-- R342: a partner's request, with the tag and the committed landing it carries. -/
  | restoreReq (tag crossing landing : Nat)
  /-- R342: the partner's answer with its header's tag and crossing; none: it holds no COMMITTED slot. -/
  | restoreData (slot : Option Snapshot) (tag : Nat := 0) (crossing : Nat := 0) (place : Option (Nat × Nat) := none)
  | multicastDrop (cluster : Nat)
  /-- R315, R316: `err`: what the reads of the copy meet. -/
  | rowCopyEnd (region bank row : Nat) (err : ReadErr := .none)
  | bankCopyEnd (region bank : Nat) (err : ReadErr := .none)
  | traceArm (port : Port) (crossing : BitVec 48) (landing : BitVec 16)
  | evtLogRdWrite (port : Port) (value : BitVec 16)
  | resume (port : Port)
  | rebase (port : Port) (berth : BitVec 5)
  | tollStatus (port : Port)
  | tollNonce (port : Port)
  | tollAuth (port : Port)
  | tollLogout (port : Port)
  | tollSelftest (port : Port)
  /-- R386: the pass bits that a SELFTEST delivers. -/
  | tollSelftestEnd (pass : BitVec 9)
  | tollReadPubkey (port : Port) (slot : Byte)
  | tollLoadPubkey (port : Port) (slot : Byte)
  | tollLoadWrapped (port : Port) (slot : Byte)
  /-- R383: whether the pairwise consistency test passed. -/
  | tollGenkey (port : Port) (consistent : Bool)
  | tollClearSlot (port : Port) (slot : Byte)
  | tollZeroise (port : Port)
  | tollZeroisePermanent (port : Port)
  | zeroiseEnd
  | tollFieldLock (port : Port)
  | certArm (port : Port)
  | certCancel (port : Port)
  /-- R392: whether the write of the certificate met a translation fault. -/
  | certificateWritten (fault : Bool)
  | debugInstrumentEnable
  /-- R421: a host write to a register offset, whole or by halves; or of the bytes given, to a byte window. -/
  | registerWrite (off : BitVec 28) (access : Access) (value : Word64) (bytes : Option (List Byte) := none)
  /-- R418, R421: a host read at a register offset, whole or by halves; or of as many bytes as are given, in a byte window or a read-only
  area. -/
  | registerHalfRead (off : BitVec 28) (access : Access) (len : Option Nat := none)
deriving DecidableEq, Repr

end Sys2Proof
end

