-- ==== Sys2Proof/Machine/Values.lean ====
section
/-! DEFINITION. What an element is: the formats of Table 4-1, the rounding modes of Table 4-2, the value a lane
register holds (R89, R113, R441), and the exact reading of a value. -/

namespace Sys2Proof.Machine

/-- The formats of Table 4-1 (R89). Code 0xF is reserved and has no constructor. -/
inductive Fmt where
  | fp32 | bf16 | fp16 | e4m3 | e5m2
  | mxE4m3 | mxE5m2 | mxE3m2 | mxE2m3 | mxE2m1 | mxInt8
  | int8 | int32 | mask1 | index32
deriving DecidableEq, Repr, Inhabited

/-- The rounding modes of Table 4-2 (R95). -/
inductive RMode where
  | rne | rtz | rup | rdn | sr
deriving DecidableEq, Repr, Inhabited

/-- What a V, S or temporary register holds (R113): an FP32 encoding or an integer-class number. An integer-class
number is the number itself (R106 reads INT8, INT32 and INDEX32 into it without conversion). -/
inductive Val where
  | fp (bits : Word32)
  | int (i : Int)
deriving DecidableEq, Repr, Inhabited

/-- An exact reading of a floating-point value: NaN, infinity, or sign and magnitude. -/
inductive FVal where
  | nan (signalling : Bool)
  | inf (neg : Bool)
  | fin (neg : Bool) (mag : Rat)
deriving DecidableEq, Repr, Inhabited

/-- The layout of a floating-point format: exponent bits, mantissa bits, bias, and whether the all-ones exponent
field holds infinities and NaNs (Table 4-1). -/
structure Layout where
  eBits : Nat
  mBits : Nat
  bias : Int
  ieee : Bool
  /-- E4M3 keeps S.1111.111 for its only NaN. -/
  topNan : Bool
deriving DecidableEq, Repr, Inhabited

/-- A register value with its poison bit (R107, R113). -/
structure PVal where
  val : Val
  poison : Bool
deriving DecidableEq, Repr, Inhabited

/-- The settings of the FMTS section that reach arithmetic (Table 3-5). -/
structure NumCfg where
  defaultMode : RMode
  ftz : Bool
  fill : Word32
deriving DecidableEq, Repr, Inhabited

end Sys2Proof.Machine
end

