-- ==== Sys2Proof/Config.lean ====
section
/-! DEFINITION. What an integration fixes (the WZ-64 configuration of R1) and the free values: constants without a
body, for what the spec leaves to the published coefficient image, to the entropy source or to nothing at all. No
proof can see what a free value is; a claim about one holds for every value. -/

namespace Sys2Proof

/-- The seven tables of Table 6-2. -/
inductive SegTable where
  | e2 | l2 | rc | sq | rs | tk | hs
deriving DecidableEq, Repr, Inhabited

namespace Config

/-- Regions (R1, R28): the WZ-64 has eight. -/
def regions : Nat := 8

/-- Logical clusters, `4N` (R16). -/
def clusters : Nat := 32

/-- Engines on a package (R24). -/
def engines : Nat := 44

/-- Free value (R143, R148; log entry 10): the coefficients C0, C1 and C2 of the published image, by table and segment
index, at their stated widths. -/
opaque coefficients : SegTable → Nat → BitVec 42 × BitVec 32 × BitVec 20

/-- Free value (R200, R214; log entry 11): which FP32 value within one ulp of `1/√v` the finisher delivers. -/
opaque rstdPick : Rat → Nat

/-- Free value (R385; log entry 13): the 384 bits of full entropy that a seeding of the DRBG takes, by the number of seedings before
it and byte index. -/
opaque entropy : Nat → Nat → Byte

/-- Free value (R385; log entry 13): the binary samples of the noise source that a seeding takes. -/
opaque noise : Nat → List Bool

/-- Free value (R316; log entry 50): how many lines a bank copy has copied when a crossing end cuts it short, by the model's
counter of free values. -/
opaque copiedLines : Nat → Nat

/-- Free value (R60; log entry 152): the tide of the opening of a crossing that RESUME loads after a cold reset, by the model's counter of
free values. -/
opaque openTide : Nat → Nat

/-- Free value (R418; log entry 66): the low half that a register takes with a high half when no low half of it is held, by
the model's counter of free values. -/
opaque unheldLow : Nat → BitVec 32

/-- Free value (R416, Table 18-10; log entry 70): the DATA of a side-band response that carries no read data and answers
no write, by the model's counter of free values. -/
opaque sbData : Nat → BitVec 32

/-- Free value (R363, Table 16-4; log entry 175): what an output word that was uncorrectable on its way to storage adds to the store digest,
by the model's counter of free values. -/
opaque lostWord : Nat → Nat

end Config

end Sys2Proof
end

