-- ==== Sys2Proof/Machine/Flags.lean ====
section
/-! DEFINITION. The arithmetic flags of Table 4-5 (R109, R110) and the form in which every operation returns them:
beside its result. OR is order-free, so the order of collection never matters. -/

namespace Sys2Proof.Machine

/-- The seven flags, bit positions of Table 4-5. -/
abbrev Flags := BitVec 7

def flagNone : Flags := 0#7
def flagInvalid : Flags := 1#7
def flagDivZero : Flags := 2#7
def flagOverflow : Flags := 4#7
def flagUnderflow : Flags := 8#7
def flagInexact : Flags := 16#7
def flagPoisonSeen : Flags := 32#7
def flagTableClamp : Flags := 64#7

/-- A flag raised under a condition. -/
def flagIf (c : Bool) (f : Flags) : Flags := if c then f else flagNone

/-- The OR of a list of flag sets (R110). -/
def flagsAll (fs : List Flags) : Flags := fs.foldl (· ||| ·) flagNone

/-- The flags of a rounding that changed the value. -/
def flagsInexact (c : Bool) : Flags := flagIf c flagInexact

end Sys2Proof.Machine
end

