-- ==== Sys2Proof/Machine/Float.lean ====
section
/-! DEFINITION. Formats bit by bit, the one rounding of every conversion (R95 to R100), the conversions of Table 4-4
(R106), flush-to-zero (R103), NaN and infinity (R104, R105, R441), stochastic rounding (R100 to R102) and MX blocks
(R92 to R94). -/

namespace Sys2Proof.Machine

/-- Format codes of Table 4-1; 0xF is reserved (R90). -/
def fmtOfCode : Nat → Option Fmt
  | 0x0 => some .fp32 | 0x1 => some .bf16 | 0x2 => some .fp16 | 0x3 => some .e4m3
  | 0x4 => some .e5m2 | 0x5 => some .mxE4m3 | 0x6 => some .mxE5m2 | 0x7 => some .mxE3m2
  | 0x8 => some .mxE2m3 | 0x9 => some .mxE2m1 | 0xA => some .mxInt8 | 0xB => some .int8
  | 0xC => some .int32 | 0xD => some .mask1 | 0xE => some .index32
  | _ => none

def fmtCode : Fmt → Nat
  | .fp32 => 0 | .bf16 => 1 | .fp16 => 2 | .e4m3 => 3 | .e5m2 => 4 | .mxE4m3 => 5 | .mxE5m2 => 6
  | .mxE3m2 => 7 | .mxE2m3 => 8 | .mxE2m1 => 9 | .mxInt8 => 10 | .int8 => 11 | .int32 => 12
  | .mask1 => 13 | .index32 => 14

/-- Bits of one stored element, without an MX scale (Table 4-1). -/
def fmtBits : Fmt → Nat
  | .fp32 => 32 | .bf16 => 16 | .fp16 => 16 | .e4m3 => 8 | .e5m2 => 8 | .mxE4m3 => 8 | .mxE5m2 => 8
  | .mxE3m2 => 6 | .mxE2m3 => 6 | .mxE2m1 => 4 | .mxInt8 => 8 | .int8 => 8 | .int32 => 32
  | .mask1 => 1 | .index32 => 32

/-- The microscaling formats, codes 0x5 to 0xA. -/
def fmtIsMx : Fmt → Bool
  | .mxE4m3 | .mxE5m2 | .mxE3m2 | .mxE2m3 | .mxE2m1 | .mxInt8 => true
  | _ => false

/-- The formats that the unpack stage reads into the integer class (R106). -/
def fmtIsInt : Fmt → Bool
  | .int8 | .int32 | .index32 => true
  | _ => false

/-- The floating-point layout of a format's element (Table 4-1). -/
def fmtLayout : Fmt → Option Layout
  | .fp32 => some ⟨8, 23, 127, true, false⟩
  | .bf16 => some ⟨8, 7, 127, true, false⟩
  | .fp16 => some ⟨5, 10, 15, true, false⟩
  | .e4m3 | .mxE4m3 => some ⟨4, 3, 7, false, true⟩
  | .e5m2 | .mxE5m2 => some ⟨5, 2, 15, true, false⟩
  | .mxE3m2 => some ⟨3, 2, 3, false, false⟩
  | .mxE2m3 => some ⟨2, 3, 1, false, false⟩
  | .mxE2m1 => some ⟨2, 1, 1, false, false⟩
  | _ => none

def layoutFp32 : Layout := ⟨8, 23, 127, true, false⟩

/-- Exponent of the smallest normal value. -/
def layoutEmin (l : Layout) : Int := 1 - l.bias

/-- Smallest normal magnitude. -/
def layoutMinNormal (l : Layout) : Rat := pow2 (layoutEmin l)

/-- Largest finite magnitude (Table 4-1). -/
def layoutMax (l : Layout) : Rat :=
  let topE : Int := (2 ^ l.eBits : Nat) - 1 - l.bias - (if l.ieee then 1 else 0)
  let topM : Nat := 2 ^ (l.mBits + 1) - 1 - (if l.topNan then 1 else 0)
  (topM : Rat) * pow2 (topE - l.mBits)

/-- `⌊log2 m⌋` of a positive rational. -/
def floorLog2 (m : Rat) : Int :=
  let k : Int := (Nat.log2 m.num.toNat : Int) - (Nat.log2 m.den : Int)
  if pow2 k ≤ m then k else k - 1

/-- The exact value that the bits of a floating-point element spell (R89). -/
def decodeFloat (l : Layout) (bits : Nat) : FVal :=
  let m := bits % 2 ^ l.mBits
  let e := (bits >>> l.mBits) % 2 ^ l.eBits
  let neg := (bits >>> (l.mBits + l.eBits)) % 2 == 1
  let ones := 2 ^ l.eBits - 1
  if l.ieee && e == ones then
    if m == 0 then .inf neg else .nan (m < 2 ^ (l.mBits - 1))
  else if l.topNan && e == ones && m == 2 ^ l.mBits - 1 then .nan false
  else if e == 0 then .fin neg ((m : Rat) * pow2 (layoutEmin l - l.mBits))
  else .fin neg (((2 ^ l.mBits + m : Nat) : Rat) * pow2 ((e : Int) - l.bias - l.mBits))

/-- The bits of a magnitude that the layout represents exactly. -/
def encodeMag (l : Layout) (mag : Rat) : Nat :=
  if mag ≤ 0 then 0
  else
    let e := floorLog2 mag
    if e < layoutEmin l then (mag / pow2 (layoutEmin l - l.mBits)).num.toNat
    else
      let n := (mag / pow2 (e - l.mBits)).num.toNat
      ((e + l.bias).toNat <<< l.mBits) + (n - 2 ^ l.mBits)

def layoutSign (l : Layout) (neg : Bool) : Nat := if neg then 2 ^ (l.eBits + l.mBits) else 0

/-- The canonical NaN of a layout (Table 4-3). -/
def layoutNan (l : Layout) : Nat :=
  if l.topNan then 2 ^ (l.eBits + l.mBits) - 1
  else (2 ^ l.eBits - 1) <<< l.mBits ||| 2 ^ (l.mBits - 1)

def layoutInf (l : Layout) (neg : Bool) : Nat := layoutSign l neg + (2 ^ l.eBits - 1) <<< l.mBits

/-- One rounding of a positive exact magnitude to a multiple of `2^u` (Table 4-2; SR by R100). The flag says whether
the value changed. -/
def roundToQuantum (mode : RMode) (neg : Bool) (draw : Nat) (u : Int) (m : Rat) : Nat × Bool :=
  let q := m / pow2 u
  let n := q.floor.toNat
  let r := q - n
  let up : Bool :=
    match mode with
    | .rne => decide (1 / 2 < r) || (decide (r = 1 / 2) && n % 2 == 1)
    | .rtz => false
    | .rup => !neg && decide (0 < r)
    | .rdn => neg && decide (0 < r)
    | .sr => decide (2 ^ 24 ≤ (r * (2 ^ 24 : Nat)).floor.toNat + draw) && decide (0 < (r * (2 ^ 24 : Nat)).floor)
  (if up then n + 1 else n, decide (0 < r))

/-- The quantum exponent at a positive magnitude: subnormal precision below the smallest normal. -/
def quantumAt (l : Layout) (m : Rat) : Int := max (floorLog2 m) (layoutEmin l) - l.mBits

/-- A finite magnitude rounded once into a layout (R97 to R100, R103): bits with sign, and flags.
`flush` is flush-to-zero as it applies to this destination. -/
def roundFinite (l : Layout) (flush : Bool) (mode : RMode) (draw : Nat) (neg : Bool) (m : Rat) : Nat × Flags :=
  if m ≤ 0 then (layoutSign l neg, flagNone)
  else
    let u := quantumAt l m
    let rneRes := roundToQuantum .rne neg 0 u m
    let rneMag := (rneRes.1 : Rat) * pow2 u
    let ovMode : RMode := if mode = .sr then .rne else mode
    let res := roundToQuantum mode neg draw u m
    let mag := (res.1 : Rat) * pow2 u
    let srSat := decide (mode = .sr) && decide (layoutMax l < mag) && decide (rneMag ≤ layoutMax l)
    let ovf := if mode = .sr then decide (layoutMax l < rneMag) else decide (layoutMax l < mag)
    if ovf then
      let toInf : Bool := l.ieee && (match ovMode with
        | .rne => true | .rtz => false | .rup => !neg | .rdn => neg | .sr => true)
      (if toInf then layoutInf l neg else layoutSign l neg + encodeMag l (layoutMax l),
        flagOverflow ||| flagInexact)
    else if srSat then (layoutSign l neg + encodeMag l (layoutMax l), flagInexact)
    else if flush && decide (0 < mag) && decide (mag < layoutMinNormal l) then
      (layoutSign l neg, flagUnderflow ||| flagInexact)
    else
      (layoutSign l neg + encodeMag l mag,
        flagIf res.2 flagInexact ||| flagIf (res.2 && decide (mag < layoutMinNormal l)) flagUnderflow)

/-- The sign and magnitude of a signed exact number; an exact zero is +0 (R98). -/
def signedMag (q : Rat) : Bool × Rat := (decide (q < 0), if q < 0 then -q else q)

/-- The exact reading of an FP32 encoding, with a subnormal operand read as zero under flush (R103). -/
def readFp32 (ftz : Bool) (w : Word32) : FVal :=
  match decodeFloat layoutFp32 w.toNat with
  | .fin neg mag => if ftz && decide (mag < layoutMinNormal layoutFp32) then .fin neg 0 else .fin neg mag
  | v => v

def canonNan32 : Word32 := 0x7FC00000#32

def plusZero : Val := .fp 0#32

def fpOne : Val := .fp 0x3F800000#32

/-- A finite exact number rounded by RNE to FP32 (R96). -/
def rneFp32 (ftz : Bool) (neg : Bool) (m : Rat) : Word32 × Flags :=
  let r := roundFinite layoutFp32 ftz .rne 0 neg m
  (BitVec.ofNat 32 r.1, r.2)

/-- An exact signed number rounded by RNE to FP32; an exact zero is +0. -/
def rneSigned (ftz : Bool) (q : Rat) : Word32 × Flags := rneFp32 ftz (signedMag q).1 (signedMag q).2

def inf32 (neg : Bool) : Word32 := BitVec.ofNat 32 (layoutInf layoutFp32 neg)

/-- The FP32 encoding of an exact reading (used where no rounding is needed). -/
def encodeFp32 (ftz : Bool) : FVal → Word32 × Flags
  | .nan sig => (canonNan32, flagIf sig flagInvalid)
  | .inf neg => (inf32 neg, flagNone)
  | .fin neg mag => rneFp32 ftz neg mag

/-- A value taken in a floating-point role: an integer-class value is converted to FP32 with RNE (Table 4-4), and
an FP32 value is read under flush (R103). -/
def asFloat (ftz : Bool) : Val → FVal × Flags
  | .fp w => (readFp32 ftz w, flagNone)
  | .int i =>
    let r := rneSigned false i
    (decodeFloat layoutFp32 r.1.toNat, r.2)

/-- The numeric value of a finite reading. -/
def finValue (neg : Bool) (mag : Rat) : Rat := if neg then -mag else mag

/-- The sum of two readings before rounding: exact, with ∞ − ∞ a NaN with INVALID (R98, R105). -/
def exactAdd : FVal → FVal → FVal × Flags
  | .nan s, .nan t => (.nan false, flagIf (s || t) flagInvalid)
  | .nan s, _ => (.nan false, flagIf s flagInvalid)
  | _, .nan t => (.nan false, flagIf t flagInvalid)
  | .inf a, .inf b => if a == b then (.inf a, flagNone) else (.nan false, flagInvalid)
  | .inf a, .fin _ _ => (.inf a, flagNone)
  | .fin _ _, .inf b => (.inf b, flagNone)
  | .fin na ma, .fin nb mb =>
    let q := finValue na ma + finValue nb mb
    if q = 0 then (.fin (na && nb && decide (ma = 0) && decide (mb = 0)) 0, flagNone)
    else (.fin (decide (q < 0)) (signedMag q).2, flagNone)

/-- The product of two readings, exact, with 0 × ∞ a NaN with INVALID (R105). -/
def exactMul : FVal → FVal → FVal × Flags
  | .nan s, .nan t => (.nan false, flagIf (s || t) flagInvalid)
  | .nan s, _ => (.nan false, flagIf s flagInvalid)
  | _, .nan t => (.nan false, flagIf t flagInvalid)
  | .inf a, .inf b => (.inf (a != b), flagNone)
  | .inf a, .fin nb mb => if mb = 0 then (.nan false, flagInvalid) else (.inf (a != nb), flagNone)
  | .fin na ma, .inf b => if ma = 0 then (.nan false, flagInvalid) else (.inf (na != b), flagNone)
  | .fin na ma, .fin nb mb => (.fin (na != nb) (ma * mb), flagNone)

def negF : FVal → FVal
  | .nan s => .nan s
  | .inf n => .inf (!n)
  | .fin n m => .fin (!n) m

/-- A fused multiply-add rounded once by RNE to FP32 (R118). Without an addend the exact product is rounded once and
a zero product keeps its sign. -/
def fusedMulAdd (ftz : Bool) (a b : FVal) (c : Option FVal) : Word32 × Flags :=
  let p := exactMul a b
  match c with
  | none =>
    let r := encodeFp32 ftz p.1
    (r.1, p.2 ||| r.2)
  | some cv =>
    let s := exactAdd p.1 cv
    let r := encodeFp32 ftz s.1
    (r.1, p.2 ||| s.2 ||| r.2)

/-- The exact sum of a list of readings, rounded once to FP32 by RNE (R15, R183). The list is not empty. -/
def exactSumF : List FVal → FVal × Flags
  | [] => (.fin false 0, flagNone)
  | [a] => (match a with | .nan s => (.nan false, flagIf s flagInvalid) | v => (v, flagNone))
  | a :: as =>
    let rest := exactSumF as
    let r := exactAdd a rest.1
    (r.1, r.2 ||| rest.2)

/-- One rounding of an exact number to an integer by a mode. -/
def roundInt (mode : RMode) (draw : Nat) (neg : Bool) (m : Rat) : Int × Bool :=
  if m ≤ 0 then (0, false)
  else
    let r := roundToQuantum mode neg draw 0 m
    (if neg then -(r.1 : Int) else r.1, r.2)

/-- Saturation into a range: the value and whether it saturated. -/
def saturate (lo hi i : Int) : Int × Bool :=
  if i < lo then (lo, true) else if hi < i then (hi, true) else (i, false)

def intRange : Fmt → Int × Int
  | .int8 => (-128, 127)
  | .int32 => (-(2 ^ 31 : Nat), (2 ^ 31 : Nat) - 1)
  | .index32 => (0, (2 ^ 32 : Nat) - 1)
  | _ => (0, 0)

/-- A reading converted to an integer format (Table 4-4): NaN gives 0 with INVALID; out of range saturates with
INVALID, and saturation also changes the value (Table 4-5, INEXACT "saturation included"; log entry 14). A draw of SR
that alone carries the value past the range saturates in the same way (DESIGN CHOICE, log entry 140: Table 4-4 is
followed, not the "INEXACT only" of R100). -/
def floatToInt (f : Fmt) (mode : RMode) (draw : Nat) : FVal → Int × Flags
  | .nan _ => (0, flagInvalid)
  | .inf neg => (if neg then (intRange f).1 else (intRange f).2, flagInvalid ||| flagInexact)
  | .fin neg m =>
    let r := roundInt mode draw neg m
    let s := saturate (intRange f).1 (intRange f).2 r.1
    (s.1, flagIf s.2 (flagInvalid ||| flagInexact) ||| flagIf r.2 flagInexact)

/-- Flush-to-zero reaches FP32, BF16 and FP16 only (R103). -/
def flushFor (ftz : Bool) : Fmt → Bool
  | .fp32 | .bf16 | .fp16 => ftz
  | _ => false

/-- An exact value converted into a format that is not MX (Table 4-4, R97): stored bits and flags. -/
def convertExact (ftz : Bool) (f : Fmt) (mode : RMode) (draw : Nat) (v : FVal) : Nat × Flags :=
  match f with
  | .mask1 => (match v with | .fin _ m => if m = 0 then 0 else 1 | _ => 1, flagNone)
  | .int8 | .int32 | .index32 =>
    let r := floatToInt f mode draw v
    ((BitVec.ofInt (fmtBits f) r.1).toNat, r.2)
  | _ =>
    match fmtLayout f with
    | none => (0, flagNone)
    | some l =>
      match v with
      | .nan s => (layoutNan l, flagIf s flagInvalid)
      | .inf neg =>
        if l.ieee then (layoutInf l neg, flagNone)
        else (layoutSign l neg + encodeMag l (layoutMax l), flagInvalid)
      | .fin neg m => roundFinite l (flushFor ftz f) mode draw neg m

/-- A lane value converted into a format that is not MX (Table 4-4, R97): stored bits and flags. An integer keeps its
value in an integer format, saturated. The conversion takes V as an operand, so under flush a subnormal that V holds
unflushed is read as a zero (R103; log entry 73). -/
def convertBits (ftz : Bool) (f : Fmt) (mode : RMode) (draw : Nat) (v : Val) : Nat × Flags :=
  match v with
  | .fp w => convertExact ftz f mode draw (readFp32 ftz w)
  | .int i =>
    match f with
    | .int8 | .int32 | .index32 =>
      let s := saturate (intRange f).1 (intRange f).2 i
      ((BitVec.ofInt (fmtBits f) s.1).toNat, flagIf s.2 (flagInvalid ||| flagInexact))
    | _ => convertExact ftz f mode draw (.fin (signedMag i).1 (signedMag i).2)

/-- The value that a lane reads from a stored element that is not MX (R113, R441, Table 4-4). MASK1 reads as the
FP32 number 0.0 or 1.0. Flush at the read is applied by the operation that takes the value (R103). -/
def unpackBits (f : Fmt) (bits : Nat) : Val :=
  match f with
  | .fp32 => .fp (BitVec.ofNat 32 bits)
  | .int8 => .int (BitVec.ofNat 8 bits).toInt
  | .int32 => .int (BitVec.ofNat 32 bits).toInt
  | .index32 => .int (bits : Int)
  | .mask1 => if bits % 2 == 1 then fpOne else plusZero
  | _ =>
    match fmtLayout f with
    | none => plusZero
    | some l =>
      match decodeFloat l bits with
      | .nan _ =>
        if l.ieee then
          let m := bits % 2 ^ l.mBits
          let sign := (bits >>> (l.mBits + l.eBits)) % 2
          .fp (BitVec.ofNat 32 (sign <<< 31 ||| 0xFF <<< 23 ||| m <<< (23 - l.mBits)))
        else .fp canonNan32
      | .inf neg => .fp (inf32 neg)
      | .fin neg m => .fp (BitVec.ofNat 32 (layoutSign layoutFp32 neg + encodeMag layoutFp32 m))

/-- A stored element read into a lane under the flush of R103: a subnormal FP32, BF16 or FP16 operand reads as a zero
of the same sign, without a flag. -/
def readElement (ftz : Bool) (f : Fmt) (bits : Nat) : Val :=
  match f, fmtLayout f with
  | .fp32, some l | .bf16, some l | .fp16, some l =>
    (match decodeFloat l bits with
      | .fin neg m => if ftz && decide (m < layoutMinNormal l) then
          .fp (BitVec.ofNat 32 (layoutSign layoutFp32 neg)) else unpackBits f bits
      | _ => unpackBits f bits)
  | _, _ => unpackBits f bits

/-! ### Stochastic rounding (R100 to R102) -/

def rotl64 (x : Word64) (n : Nat) : Word64 := x.rotateLeft n

/-- The 24-bit draw of R101. -/
def srDraw (seed : Word64) (crossing : Nat) (tensor stage index : Nat) : Nat :=
  let w1 : Word64 := BitVec.ofNat 64 ((crossing % 2 ^ 48) <<< 16 ||| tensor % 2 ^ 16)
  let elem : Word64 := BitVec.ofNat 64 ((stage % 8) <<< 61 ||| index % 2 ^ 61)
  let round (s k : Word64) : Word64 :=
    let a := (s ^^^ k) * 0x9B3F52C71D84E6A5#64
    a ^^^ (a >>> 31)
  let s := round (round (round (round elem seed) w1) (rotl64 seed 32)) (rotl64 w1 32)
  bitsOf s.toNat 63 40

/-- The logical linear index of R102. -/
def linearIndex (n2 n1 n0 i3 i2 i1 i0 : Nat) : Nat := ((i3 * n2 + i2) * n1 + i1) * n0 + i0

/-! ### Microscaling blocks (R92 to R94) -/

/-- `emax` of R93 step 3. -/
def mxEmax : Fmt → Int
  | .mxE4m3 => 8 | .mxE5m2 => 15 | .mxE3m2 => 4 | .mxE2m3 => 2 | .mxE2m1 => 2 | _ => 0

/-- The largest element magnitude an MX conversion stores: for MXFP8 E5M2 the largest finite value. -/
def mxElementBits (f : Fmt) (mode : RMode) (draw : Nat) (neg : Bool) (m : Rat) : Nat × Flags :=
  match f with
  | .mxInt8 =>
    let r := roundInt mode draw neg (m * 64)
    let s := saturate (-127) 127 r.1
    ((BitVec.ofInt 8 s.1).toNat, flagIf (r.2 || s.2) flagInexact)
  | _ =>
    match fmtLayout f with
    | none => (0, flagNone)
    | some l =>
      if m ≤ 0 then (layoutSign l neg, flagNone)
      else
        let u := quantumAt l m
        let res := roundToQuantum mode neg draw u m
        let mag := (res.1 : Rat) * pow2 u
        if layoutMax l < mag then (layoutSign l neg + encodeMag l (layoutMax l), flagInexact)
        else (layoutSign l neg + encodeMag l mag, flagIf res.2 flagInexact)

/-- The exact reading of a value that a block conversion takes, under the flush of R103 (log entry 73). -/
def mxRead (ftz : Bool) : Val → FVal
  | .fp w => readFp32 ftz w
  | .int i => .fin (signedMag i).1 (signedMag i).2

/-- One block of R93: the exact values of its active elements (`none`: a tail position, written as zero) with their draws.
Answers the scale byte, the element bits, and the flags. -/
def mxConvertReads (f : Fmt) (mode : RMode) (reads : List (Option FVal × Nat)) : Nat × List Nat × Flags :=
  let bad := reads.any fun r => match r.1 with
    | some (.nan _) => true | some (.inf _) => true | _ => false
  if bad then (0xFF, reads.map fun _ => 0, flagInvalid)
  else
    let mags := reads.filterMap fun r => match r.1 with
      | some (.fin _ m) => some m | _ => none
    let amax := mags.foldl max 0
    let x0 : Int := if amax ≤ 0 then -127 else floorLog2 amax - mxEmax f
    let x : Int := max (-127) (min 127 x0)
    let out := reads.map fun r => match r.1 with
      | some (.fin neg m) => mxElementBits f mode r.2 neg (m * pow2 (-x))
      | _ => (0, flagNone)
    ((x + 127).toNat, out.map (·.1), flagsAll (out.map (·.2)))

/-- The exact element value of an MX element without its scale (R94, R234). -/
def mxElementValue (f : Fmt) (bits : Nat) : FVal :=
  match f with
  | .mxInt8 =>
    let i := (BitVec.ofNat 8 bits).toInt
    .fin (decide (i < 0)) ((i.natAbs : Rat) / 64)
  | _ =>
    match fmtLayout f with
    | none => .fin false 0
    | some l => decodeFloat l bits

/-- An MX element decoded into a lane (R94, R441): one RNE rounding to FP32, never flushed. An MXFP8 E5M2 NaN element
keeps its sign and payload in V (DESIGN CHOICE, log entry 139: R441 is followed, not the canonical NaN of R94). -/
def mxDecode (f : Fmt) (scale bits : Nat) : Val × Flags :=
  if scale == 0xFF then (.fp canonNan32, flagNone)
  else
    match mxElementValue f bits with
    | .nan _ =>
      if f = .mxE5m2 then (unpackBits .e5m2 bits, flagNone) else (.fp canonNan32, flagNone)
    | .inf neg => (.fp (inf32 neg), flagNone)
    | .fin neg m =>
      let r := rneFp32 false neg (m * pow2 ((scale : Int) - 127))
      (.fp r.1, r.2)

/-- A lane value as an operand takes it: a subnormal FP32 value becomes a zero of the same sign under flush (R103). -/
def flushVal (ftz : Bool) : Val → Val
  | .fp w => match decodeFloat layoutFp32 w.toNat with
    | .fin n m => if ftz && decide (m < layoutMinNormal layoutFp32) then
        .fp (BitVec.ofNat 32 (layoutSign layoutFp32 n)) else .fp w
    | _ => .fp w
  | v => v

/-- The value that V takes from a conversion into a format and back (CONVERT SUB 1, Table 5-3). -/
def convertInLane (ftz : Bool) (f : Fmt) (mode : RMode) (draw : Nat) (v : Val) : Val × Flags :=
  let r := convertBits ftz f mode draw v
  (unpackBits f r.1, r.2)

end Sys2Proof.Machine
end

