-- ==== Sys2Proof/Machine/Builtin.lean ====
section
/-! DEFINITION. The built-in functions (R140 to R158): exact reading of the operand, special values of Tables 6-5 and
6-6, an interval that encloses the exact result, the segment tables and the paths of phases R to X, and the one rounding of R146.
A BF16 or FP16 result, and recip, sqrt and the ln derivative in FP32, are correctly rounded (R145, R147); every other FP32
result is the rounding of y. The coefficients of the image are free values, so a result is free only where the error of P
straddles a rounding midpoint (R148). The soft-maximum terms (R224) and the log-sum-exp (R228) read the same tables; rstd
(R200) is free within one ulp. -/

namespace Sys2Proof.Machine

/-- Fraction bits of the enclosing arithmetic. -/
def ivBits : Nat := 256

/-- An enclosing interval; its ends are equal when the value is that rational. -/
abbrev Iv := Rat × Rat

def ivExact (q : Rat) : Iv := (q, q)

def ivScale (c : Rat) (a : Iv) : Iv := if c < 0 then (c * a.2, c * a.1) else (c * a.1, c * a.2)

def ivAdd (a b : Iv) : Iv := (a.1 + b.1, a.2 + b.2)

/-- Product of two intervals of non-negative numbers. -/
def ivMulPos (a b : Iv) : Iv := (a.1 * b.1, a.2 * b.2)

/-- Quotient of two intervals of positive numbers. -/
def ivDivPos (a b : Iv) : Iv := (a.1 / b.2, a.2 / b.1)

/-- Outward rounding of an interval to the working fraction. -/
def ivTrim (a : Iv) : Iv :=
  let s : Rat := ((2 ^ ivBits : Nat) : Rat)
  (((a.1 * s).floor : Rat) / s, (-((-(a.2 * s)).floor) : Rat) / s)

/-- Lower and upper Taylor sums of `e^y` for scaled `y` in `[0, 1)`: structural in the number of terms. -/
def expSumLo (y : Nat) : Nat → Nat → Nat → Nat
  | 0, _, _ => 0
  | fuel + 1, k, t => t + expSumLo y fuel (k + 1) (t * y / ((k + 1) * 2 ^ ivBits))

def expSumHi (y : Nat) : Nat → Nat → Nat → Nat
  | 0, _, t => 2 * t + 2
  | fuel + 1, k, t => t + expSumHi y fuel (k + 1) (t * y / ((k + 1) * 2 ^ ivBits) + 1)

/-- `e^y` for `y` in an interval inside `[0, 1]`. -/
def expIv (y : Iv) : Iv :=
  let s : Rat := ((2 ^ ivBits : Nat) : Rat)
  let lo := (y.1 * s).floor.toNat
  let hi := (y.2 * s).floor.toNat + 1
  ((expSumLo lo 72 0 (2 ^ ivBits) : Rat) / s, (expSumHi hi 72 0 (2 ^ ivBits) : Rat) / s)

/-- Odd series `Σ z^(2k+1) / (2k+1)` with `z` scaled, lower and upper. -/
def atanhSumLo (z2 : Nat) : Nat → Nat → Nat → Nat
  | 0, _, _ => 0
  | fuel + 1, k, t => t / (2 * k + 1) + atanhSumLo z2 fuel (k + 1) (t * z2 / 2 ^ ivBits)

def atanhSumHi (z2 : Nat) : Nat → Nat → Nat → Nat
  | 0, _, t => 2 * t + 2
  | fuel + 1, k, t => t / (2 * k + 1) + 1 + atanhSumHi z2 fuel (k + 1) (t * z2 / 2 ^ ivBits + 1)

/-- `atanh z` for a rational `z` in `[0, 1/3]`. -/
def atanhIv (z : Rat) : Iv :=
  if z ≤ 0 then ivExact 0
  else
    let s : Rat := ((2 ^ ivBits : Nat) : Rat)
    let lo := (z * s).floor.toNat
    let hi := lo + 1
    let sq (a : Nat) : Nat := a * a / 2 ^ ivBits
    ((atanhSumLo (sq lo) 90 0 lo : Rat) / s, (atanhSumHi (sq hi + 1) 90 0 hi : Rat) / s)

/-- ln 2. -/
def ln2Iv : Iv := ivScale 2 (atanhIv (1 / 3))

/-- ln of a rational in `[1, 2)`. -/
def lnMantIv (r : Rat) : Iv := ivScale 2 (atanhIv ((r - 1) / (r + 1)))

/-- log2 of a rational in `[1, 2)`. -/
def log2MantIv (r : Rat) : Iv := if r = 1 then ivExact 0 else ivDivPos (lnMantIv r) ln2Iv

/-- log2 of a positive rational; exact at a power of two. -/
def log2Iv (m : Rat) : Iv :=
  let e := floorLog2 m
  ivAdd (ivExact e) (log2MantIv (m / pow2 e))

/-- ln of a positive rational; exact at one. -/
def lnIv (m : Rat) : Iv :=
  if m = 1 then ivExact 0
  else
    let e := floorLog2 m
    let base := if e < 0 then ivScale e ln2Iv else ivMulPos (ivExact e) ln2Iv
    ivAdd base (if m / pow2 e = 1 then ivExact 0 else lnMantIv (m / pow2 e))

/-- `2^x` for a rational; exact at an integer. -/
def exp2Iv (x : Rat) : Iv :=
  let n := x.floor
  let f := x - n
  if f = 0 then ivExact (pow2 n)
  else ivScale (pow2 n) (expIv (ivTrim (ivMulPos (ivExact f) ln2Iv)))

/-- `e^x` for a rational: `2^n · e^(x − n ln 2)` with `n := ⌊x / ln 2⌋`, so that the rest lies in `[0, ln 2]`. -/
def expRatIv (x : Rat) : Iv :=
  if x = 0 then ivExact 1
  else
    let n : Int := (x / ln2Iv.1).floor
    let rest := ivTrim (ivAdd (ivExact x) (ivScale (-(n : Rat)) ln2Iv))
    ivScale (pow2 n) (expIv (max 0 rest.1, rest.2))

/-- An argument beyond which an exponential lies far outside every format is replaced by the bound: the rounded
result (R99, R155) is the same and the arithmetic stays small. -/
def clampArg (x : Rat) : Rat := max (-1024) (min 1024 x)

/-- Integer square root by Newton steps with a step bound. -/
def isqrtGo (n : Nat) : Nat → Nat → Nat
  | 0, x => x
  | fuel + 1, x =>
    let y := (x + n / x) / 2
    if y < x then isqrtGo n fuel y else x

def isqrt (n : Nat) : Nat := if n == 0 then 0 else isqrtGo n 64 (2 ^ (Nat.log2 n / 2 + 1))

/-- `√q` of a non-negative rational; exact where the root is rational. -/
def sqrtIv (q : Rat) : Iv :=
  if q ≤ 0 then ivExact 0
  else
    let nd := q.num.toNat * q.den
    let s0 := isqrt nd
    if s0 * s0 == nd then ivExact ((s0 : Rat) / q.den)
    else
      let s := isqrt (nd * 4 ^ ivBits)
      let den : Rat := ((q.den * 2 ^ ivBits : Nat) : Rat)
      ((s : Rat) / den, ((s + 1 : Nat) : Rat) / den)

/-- tanh of a positive rational: alternating series bounds below `2^-10`, else by the exponential. -/
def tanhIv (u : Rat) : Iv :=
  if u < 1 / 1024 then
    let u3 := u * u * u
    (u - u3 / 3, u - u3 / 3 + 2 * u3 * u * u / 15)
  else
    let e := expRatIv (-2 * u)
    ivDivPos (1 - e.2, 1 - e.1) (1 + e.1, 1 + e.2)

/-- The exact value of a form at a finite operand inside its domain, enclosed (the `y*` of R149; Tables 6-1, 6-6).
The sign of the operand is `neg`, its magnitude `m`, not both zero where the form has a pole. -/
def formIv (func : Nat) (deriv : Bool) (neg : Bool) (m : Rat) : Iv :=
  let x := finValue neg m
  let xc := clampArg x
  let mc := clampArg m
  match func, deriv with
  | 0, false => exp2Iv xc
  | 0, true => ivMulPos (exp2Iv xc) ln2Iv
  | 1, false => log2Iv m
  | 1, true => ivDivPos (ivExact (1 / m)) ln2Iv
  | 2, false => ivExact (1 / x)
  | 2, true => ivExact (-(1 / (x * x)))
  | 3, false => sqrtIv m
  | 3, true => ivScale (1 / 2) (ivDivPos (ivExact 1) (sqrtIv m))
  | 4, false => ivDivPos (ivExact 1) (sqrtIv m)
  | 4, true => ivScale (-(1 / (2 * m))) (ivDivPos (ivExact 1) (sqrtIv m))
  | 5, false => ivScale (if neg then -1 else 1) (tanhIv mc)
  | 5, true =>
    let e := expRatIv (-2 * mc)
    let d : Iv := (1 + e.1, 1 + e.2)
    ivScale 4 (ivDivPos e (ivMulPos d d))
  | 6, false =>
    let e := expRatIv (-mc)
    let d : Iv := (1 + e.1, 1 + e.2)
    if neg then ivDivPos e d else ivDivPos (ivExact 1) d
  | 6, true =>
    let e := expRatIv (-mc)
    let d : Iv := (1 + e.1, 1 + e.2)
    ivDivPos e (ivMulPos d d)
  | 7, _ => expRatIv xc
  | 8, false => lnIv m
  | _, _ => ivExact (1 / m)

/-- Special values: NaN, infinities, zeros and operands outside the domain (R151 to R153, Tables 6-5 and 6-6). -/
def formSpecial (func : Nat) (deriv : Bool) (v : FVal) : Option (FVal × Flags) :=
  let one : FVal := .fin false 1
  let nanInv : FVal × Flags := (.nan false, flagInvalid)
  let zero (n : Bool) : FVal := .fin n 0
  let ok (r : FVal) : Option (FVal × Flags) := some (r, flagNone)
  let pole (n : Bool) : Option (FVal × Flags) := some (.inf n, flagDivZero)
  match v with
  | .nan s => some (.nan false, flagIf s flagInvalid)
  | .inf neg =>
    match func, deriv with
    | 0, _ | 7, _ => ok (if neg then zero false else .inf false)
    | 1, false | 8, false | 3, false => if neg then some nanInv else ok (.inf false)
    | 1, true | 8, true | 3, true | 4, false => if neg then some nanInv else ok (zero false)
    | 4, true => if neg then some nanInv else ok (zero true)
    | 2, false => ok (zero neg)
    | 2, true => ok (zero true)
    | 5, false => ok (.fin neg 1)
    | 6, false => ok (if neg then zero false else one)
    | _, _ => ok (zero false)
  | .fin neg m =>
    if m = 0 then
      match func, deriv with
      | 0, false | 7, _ => ok one
      | 0, true => none
      | 1, false | 8, false => pole true
      | 1, true | 8, true | 3, true => pole false
      | 2, false | 4, false => pole neg
      | 2, true | 4, true => pole true
      | 3, false | 5, false => ok (zero neg)
      | 5, true => ok one
      | 6, false => ok (.fin false (1 / 2))
      | _, _ => ok (.fin false (1 / 4))
    else if neg && (func == 1 || func == 3 || func == 4 || func == 8) then some nanInv
    else none

/-! ### The segment tables (R143, Table 6-2) -/

/-- L of Table 6-1: log2 e rounded to nearest at `2^-66`. -/
def constL : Rat := mkRat 106452104782754579934 (2 ^ 66)

/-- C of Table 6-1: ln 2 rounded to nearest at `2^-66`. -/
def constC : Rat := mkRat 51145234580810622639 (2 ^ 66)

/-- A segment of a table: its index, its centre, and its width (Table 6-2). -/
structure Segment where
  index : Nat
  centre : Rat
  width : Rat
deriving DecidableEq, Repr

/-- The segment of an argument among equal ones of width `w` that start at `base` with index `first`. -/
def evenSegment (first : Nat) (base w a : Rat) : Segment :=
  let j := ((a - base) / w).floor.toNat
  ⟨first + j, base + ((j : Rat) + 1 / 2) * w, w⟩

/-- The segment that phase R maps an argument to (Table 6-2). L2 is indexed by the binade of `r` and the top 7 bits of its
mantissa field, 53 to 127 below 1 and 0 to 53 from 1. -/
def segmentOf : SegTable → Rat → Segment
  | .e2, a => evenSegment 0 0 (1 / 256) a
  | .l2, a => if a < 1 then evenSegment 0 (1 / 2 + 53 / 256) (1 / 256) a else evenSegment 75 1 (1 / 128) a
  | .rc, a => evenSegment 0 1 (1 / 256) a
  | .sq, a => if a < 2 then evenSegment 0 1 (1 / 128) a else evenSegment 128 2 (1 / 64) a
  | .rs, a => if a < 2 then evenSegment 0 1 (1 / 256) a else evenSegment 256 2 (1 / 128) a
  | .tk, a => evenSegment 0 0 (1 / 128) a
  | .hs, a =>
    if a < 4 then evenSegment 0 0 (1 / 128) a
    else if a < 12 then evenSegment 512 4 (1 / 32) a else evenSegment 768 12 (1 / 16) a

/-- The quadratic of R143 in units of `2^-40`: `δ` counts units of the segment width over `2^32` from the centre. -/
def quadratic (t : SegTable) (a : Rat) : Int :=
  let g := segmentOf t a
  let d : Int := ((a - g.centre) / g.width * ((2 ^ 32 : Nat) : Rat)).floor
  let c := Config.coefficients t g.index
  let q : Int := c.2.1.toInt + (c.2.2.toInt * d) / (2 ^ 32 : Nat)
  c.1.toInt + (q * d) / (2 ^ 32 : Nat)

/-- σ of a rational that is not negative. -/
def sigmaIv (u : Rat) : Iv :=
  let e := expRatIv (-u)
  ivDivPos (ivExact 1) (1 + e.1, 1 + e.2)

/-- The true value of a table at an argument (Table 6-2), enclosed. -/
def tableTrue : SegTable → Rat → Iv
  | .e2, a => exp2Iv a
  | .l2, a =>
    if a = 1 then ivDivPos (ivExact 1) ln2Iv
    else if a < 1 then
      let l := ivAdd (log2MantIv (2 * a)) (ivExact (-1))
      ivScale (1 / (1 - a)) (-l.2, -l.1)
    else ivScale (1 / (a - 1)) (log2MantIv a)
  | .rc, a => ivExact (1 / a)
  | .sq, a => sqrtIv a
  | .rs, a => ivDivPos (ivExact 1) (sqrtIv a)
  | .tk, a => if a = 0 then ivExact 1 else ivScale (1 / a) (tanhIv a)
  | .hs, a => sigmaIv a

/-- The values P of a table that lie within its relative error, in units of `2^-40` (R143: below `2^-28`). -/
def tableBand (t : SegTable) (a : Rat) : Int × Int :=
  let y := tableTrue t a
  let s : Rat := ((2 ^ 40 : Nat) : Rat)
  (-((-(y.1 * (1 - pow2 (-28)) * s)).floor), (y.2 * (1 + pow2 (-28)) * s).floor)

/-- How a path reads a table: as an interval. -/
abbrev Lookup := SegTable → Rat → Iv

/-- The band of R143's error about the true value: every image lies in it. -/
def bandLookup : Lookup := fun t a =>
  let b := tableBand t a
  ((b.1 : Rat) / ((2 ^ 40 : Nat) : Rat), (b.2 : Rat) / ((2 ^ 40 : Nat) : Rat))

/-- P of the coefficient image (R143, R148), held to the stated error of its table. -/
def imageLookup : Lookup := fun t a =>
  let b := tableBand t a
  ivExact ((max b.1 (min b.2 (quadratic t a)) : Int) / ((2 ^ 40 : Nat) : Rat))

/-- Square of an interval of non-negative numbers. -/
def ivSq (a : Iv) : Iv := ivMulPos a a

/-- Sign change of an interval. -/
def ivNeg (a : Iv) : Iv := (-a.2, -a.1)

/-- The unrounded exp2 path of a wide value (Table 6-1): the fraction truncated to 40 bits before E2 reads it. -/
def pathX2 (look : Lookup) (a : Rat) : Iv :=
  let n := a.floor
  let f : Rat := (((a - n) * ((2 ^ 40 : Nat) : Rat)).floor : Rat) / ((2 ^ 40 : Nat) : Rat)
  ivScale (pow2 n) (look .e2 f)

/-- HS, which is 1 from 28 on (Table 6-1). -/
def pathHS (look : Lookup) (u : Rat) : Iv := if 28 ≤ u then ivExact 1 else look .hs u

/-- The unrounded log2 path of a positive value (Table 6-1): reduced about √2 by the mantissa field 0x35_04F4. -/
def pathLog2 (look : Lookup) (m : Rat) : Iv :=
  let e := floorLog2 m
  let r0 := m / pow2 e
  let high := decide (((2 ^ 23 + 0x3504F4 : Nat) : Rat) ≤ r0 * ((2 ^ 23 : Nat) : Rat))
  let r := if high then r0 / 2 else r0
  let k : Int := if high then e + 1 else e
  ivAdd (ivExact k) (ivScale (r - 1) (look .l2 r))

/-- The RC path of a magnitude: `2^-e × RC(m)`. -/
def pathRC (look : Lookup) (m : Rat) : Iv :=
  let e := floorLog2 m
  ivScale (pow2 (-e)) (look .rc (m / pow2 e))

/-- The reduction of sqrt and rsqrt: `m′` in [1, 4) and half of the even exponent. -/
def sqrtReduce (m : Rat) : Rat × Int :=
  let e := floorLog2 m
  if e % 2 = 0 then (m / pow2 e, e / 2) else (2 * (m / pow2 e), (e - 1) / 2)

def pathSQ (look : Lookup) (m : Rat) : Iv := let r := sqrtReduce m; ivScale (pow2 r.2) (look .sq r.1)

def pathRS (look : Lookup) (m : Rat) : Iv := let r := sqrtReduce m; ivScale (pow2 (-r.2)) (look .rs r.1)

/-- The unrounded result y of phase X (Tables 6-1 and 6-6), every operation exact (R144). -/
def formPath (look : Lookup) (func : Nat) (deriv neg : Bool) (m : Rat) : Iv :=
  let x := finValue neg m
  let w := 2 * m * constL
  let v := m * constL
  match func, deriv with
  | 0, false => pathX2 look x
  | 0, true => ivScale constC (pathX2 look x)
  | 1, false => pathLog2 look m
  | 1, true => ivScale constL (pathRC look m)
  | 2, false => let r := pathRC look m; if neg then ivNeg r else r
  | 2, true => ivNeg (ivSq (pathRC look m))
  | 3, false => pathSQ look m
  | 3, true => ivScale (1 / 2) (pathRS look m)
  | 4, false => pathRS look m
  | 4, true => let r := pathRS look m; ivNeg (ivScale (1 / 2) (ivMulPos r (ivSq r)))
  | 5, false =>
    let y : Iv :=
      if m < 1 / 2 then ivScale m (look .tk m)
      else if m < 73 / 8 then
        let p := ivScale 2 (ivMulPos (pathX2 look (-w)) (pathHS look (2 * m)))
        (1 - p.2, 1 - p.1)
      else ivExact 1
    if neg then ivNeg y else y
  | 5, true => ivScale 4 (ivMulPos (pathX2 look (-w)) (ivSq (pathHS look (2 * m))))
  | 6, false => if neg then ivMulPos (pathX2 look (-v)) (pathHS look m) else pathHS look m
  | 6, true => ivMulPos (pathX2 look (-v)) (ivSq (pathHS look m))
  | 7, _ => pathX2 look (x * constL)
  | 8, false => ivScale constC (pathLog2 look m)
  | _, _ => pathRC look m

/-- Forms whose FP32 result is correctly rounded (Table 6-4): recip, sqrt and the derivative of ln, by R145. -/
def formCorrect (func : Nat) (deriv : Bool) : Bool :=
  match func, deriv with
  | 2, false | 3, false | 8, true => true
  | _, _ => false

/-- The magnitude interval and sign of a signed interval that does not straddle zero. -/
def ivSignMag (y : Iv) : Bool × Iv := if y.2 < 0 then (true, (-y.2, -y.1)) else (false, y)

/-- An enclosed value rounded once by RNE: both ends give the same result once the interval is fine enough, and the
lower end decides otherwise. A value that is not rational is inexact. -/
def roundIv (l : Layout) (flush : Bool) (y : Iv) : Nat × Flags :=
  let sm := ivSignMag y
  let r := roundFinite l flush .rne 0 sm.1 sm.2.1
  (r.1, r.2 ||| flagIf (decide (y.1 ≠ y.2)) flagInexact)

/-- The magnitude that an FP32 magnitude code spells, the code of infinity counting as `2^128` (R149). -/
def codeMag (code : Nat) : Rat :=
  if 0x7F800000 ≤ code then pow2 128
  else match decodeFloat layoutFp32 code with
    | .fin _ m => m
    | _ => 0

/-- The FP32 magnitude codes within `bound` ulp of an enclosed positive magnitude. -/
def codesWithin (bound : Rat) (mag : Iv) : List Nat :=
  let centre := encodeMag layoutFp32 ((roundToQuantum .rne false 0 (quantumAt layoutFp32 mag.1) mag.1).1
    * pow2 (quantumAt layoutFp32 mag.1))
  let ulp := pow2 (quantumAt layoutFp32 mag.1)
  let cands := (List.range 7).filterMap fun i =>
    if centre + i < 3 then none else some (min (centre + i - 3) 0x7F800000)
  (cands.filter fun c =>
    let v := codeMag c
    decide (v - mag.1 ≤ bound * ulp) && decide (mag.2 - v ≤ bound * ulp)).dedup

/-- The flags of an inexact FP32 result of a given magnitude code, with flush (R103, R154, R155). -/
def deliverCode (ftz : Bool) (neg : Bool) (code : Nat) : Word32 × Flags :=
  let sign := layoutSign layoutFp32 neg
  if code == 0x7F800000 then (BitVec.ofNat 32 (sign + code), flagOverflow ||| flagInexact)
  else if codeMag code < layoutMinNormal layoutFp32 then
    (BitVec.ofNat 32 (if ftz then sign else sign + code), flagUnderflow ||| flagInexact)
  else (BitVec.ofNat 32 (sign + code), flagInexact)

/-- The FP32 magnitude code that RNE gives a positive magnitude. -/
def rneCode (m : Rat) : Nat := (roundFinite layoutFp32 false .rne 0 false m).1

/-- The code of an unrounded result: where its whole band rounds to one code, that code; else the code of the image's own
value (R148). -/
def imageCode (band image : Iv) : Nat :=
  let lo := rneCode band.1
  if lo = rneCode band.2 then lo else rneCode image.1

/-- The delivered FP32 result of a form that carries no correct-rounding promise (R146, R148): forced where the exact
value is representable (R154), out of range by R155, else the one RNE rounding of y. `y` encloses the exact value. -/
def imageFp32 (ftz : Bool) (func : Nat) (deriv neg : Bool) (m : Rat) (y : Iv) : Word32 × Flags :=
  let sm := ivSignMag y
  let rne := roundFinite layoutFp32 ftz .rne 0 sm.1 sm.2.1
  let exact := decide (y.1 = y.2) && decide (rne.2 &&& flagInexact = flagNone)
  let outside := decide (layoutMax layoutFp32 + pow2 103 ≤ sm.2.1) || decide (sm.2.2 ≤ pow2 (-150))
  if exact || outside then (BitVec.ofNat 32 rne.1, rne.2)
  else deliverCode ftz sm.1 (imageCode (ivSignMag (formPath bandLookup func deriv neg m)).2
    (ivSignMag (formPath imageLookup func deriv neg m)).2)

/-- The destination layout of a PREC field: 0 FP32, 1 BF16, 2 FP16 (Table 5-3). -/
def precFmt : Nat → Fmt
  | 1 => .bf16 | 2 => .fp16 | _ => .fp32

/-- A BUILTIN stage on one element (R120, R141 to R158). -/
def builtinEval (ftz : Bool) (func : Nat) (deriv : Bool) (prec : Nat) (v : Val) : Val × Flags :=
  let a := asFloat ftz v
  let f := precFmt prec
  match fmtLayout f with
  | none => (v, a.2)
  | some l =>
    match formSpecial func deriv a.1 with
    | some (.nan _, fl) => (.fp canonNan32, a.2 ||| fl)
    | some (.inf n, fl) => (.fp (inf32 n), a.2 ||| fl)
    | some (.fin n m, fl) => (.fp (rneFp32 false n m).1, a.2 ||| fl)
    | none =>
      match a.1 with
      | .fin neg m =>
        let y := formIv func deriv neg m
        if prec == 0 && !formCorrect func deriv then
          let r := imageFp32 ftz func deriv neg m y
          (.fp r.1, a.2 ||| r.2)
        else
          let r := roundIv l (flushFor ftz f) y
          (unpackBits f r.1, a.2 ||| r.2)
      | _ => (v, a.2)

/-! ### rstd, soft-maximum terms and the log-sum-exp -/

/-- `rstd` of a positive `v = D / n² + ε` (R200): exact where representable, else a free choice within one ulp. -/
def rstdOf (ftz : Bool) (v : Rat) : Word32 × Flags :=
  let y := ivDivPos (ivExact 1) (sqrtIv v)
  let rne := roundFinite layoutFp32 ftz .rne 0 false y.1
  if decide (y.1 = y.2) && decide (rne.2 &&& flagInexact = flagNone) then (BitVec.ofNat 32 rne.1, rne.2)
  else
    let codes := codesWithin 1 y
    match codes[Config.rstdPick v % max 1 codes.length]? with
    | some c => deliverCode ftz false c
    | none => (BitVec.ofNat 32 rne.1, rne.2 ||| flagInexact)

/-- The term of R224 at a finite base-2 argument: the 24-bit significand in units of `2^-23`, and `n`. The significand is
the RNE rounding of P, whose whole band decides it but near a midpoint, where the image does. -/
def smaxTerm (t : Rat) : Nat × Int :=
  let n := t.floor
  let f : Rat := (((t - n) * ((2 ^ 40 : Nat) : Rat)).floor : Rat) / ((2 ^ 40 : Nat) : Rat)
  let unit := fun (q : Rat) => (roundToQuantum .rne false 0 0 (q * ((2 ^ 23 : Nat) : Rat))).1
  let b := bandLookup .e2 f
  let w := if unit b.1 = unit b.2 then unit b.1 else unit (imageLookup .e2 f).1
  if w = 2 ^ 24 then (2 ^ 23, n + 1) else (w, n)

/-- The log-sum-exp of R228 from `M_f` and the positive FP32 value `D`: rounded once, from the unrounded log2 path. -/
def logSumExp (ftz : Bool) (base2 : Bool) (mf : Int) (d : Rat) : Word32 × Flags :=
  let c : Rat := if base2 then 1 else constC
  let y := fun (look : Lookup) => ivScale c (ivAdd (ivExact mf) (pathLog2 look d))
  let band := y bandLookup
  let a := rneSigned ftz band.1
  let off := match decodeFloat layoutFp32 a.1.toNat with
    | .fin n v => decide (finValue n v < band.1 ∨ band.2 < finValue n v)
    | _ => true
  if decide (a.1 = (rneSigned ftz band.2).1) && (off || decide (band.1 = band.2)) then a
  else rneSigned ftz (y imageLookup).1

end Sys2Proof.Machine
end

