-- ==== Sys2Proof/Machine/Crc.lean ====
section
/-! DEFINITION. The three check codes of the engine: CRC-16 of beacon frames (R32), CRC-32 of table images and ledger
seals (Table 7-1, R400), and the two CRC-8 of side-band frames (Table 18-9). -/

namespace Sys2Proof.Machine

/-- One bit into a most-significant-first CRC register of `w` bits. -/
def crcBit (w poly : Nat) (crc : Nat) (b : Bool) : Nat :=
  let top := crc / 2 ^ (w - 1) % 2 == 1
  let sh := crc * 2 % 2 ^ w
  if top != b then Nat.xor sh poly else sh

/-- The bits of a number, most significant first. -/
def msbBits : Nat → Nat → List Bool
  | 0, _ => []
  | n + 1, v => (v / 2 ^ n % 2 == 1) :: msbBits n v

/-- A most-significant-first CRC over `n` bits of a number. -/
def crcMsb (w poly init n v : Nat) : Nat := (msbBits n v).foldl (crcBit w poly) init

/-- CRC-16 of R32: polynomial 0x1021, initial value 0xFFFF, nothing reflected, no final XOR. -/
def crc16 (n v : Nat) : Nat := crcMsb 16 0x1021 0xFFFF n v

/-- CRC-8 of a version-1 side-band frame over its first 64 bits (Table 18-9). -/
def crc8v1 (v : Nat) : Nat := crcMsb 8 0x07 0x00 64 v

/-- CRC-8 of a version-2 side-band frame (Table 18-9). -/
def crc8v2 (v : Nat) : Nat := Nat.xor (crcMsb 8 0x2F 0xFF 64 v) 0xFF

/-- One byte into the reflected CRC-32 register. -/
def crc32Step (crc : Nat) (b : Byte) : Nat :=
  (List.range 8).foldl (fun c _ => if c % 2 == 1 then Nat.xor (c / 2) 0xEDB88320 else c / 2) (Nat.xor crc b.toNat)

/-- CRC-32 of IEEE 802.3 (Table 7-1). -/
def crc32 (bs : List Byte) : Nat := Nat.xor (bs.foldl crc32Step 0xFFFFFFFF) 0xFFFFFFFF

end Sys2Proof.Machine
end

