-- ==== Sys2Proof/Machine/Sparse.lean ====
section
/-! DEFINITION. Sparse maps: lists of key and value pairs with keys strictly rising and no entry equal to the default,
so that equal maps are equal lists. Arrays of registers, the scratchpad and the stores are held in this form. -/

namespace Sys2Proof.Machine

variable {α : Type}

/-- The value at a key: the listed one, or the default. -/
def sget (d : α) (m : List (Nat × α)) (k : Nat) : α :=
  match m with
  | [] => d
  | (k', v) :: rest => if k' = k then v else sget d rest k

/-- Insert, replace or drop the entry of a key, keeping the order of keys. (The entries past the key's place hold no other
one of it in the canonical form; dropping it from them too makes a read after a write right for every list.) -/
def sput (m : List (Nat × α)) (k : Nat) (v : Option α) : List (Nat × α) :=
  match m with
  | [] => match v with
    | none => []
    | some a => [(k, a)]
  | (k', a') :: rest =>
    if k' < k then (k', a') :: sput rest k v
    else
      let others := ((k', a') :: rest).filter (fun p => p.1 != k)
      match v with
      | none => others
      | some a => (k, a) :: others

/-- Write a value, keeping the canonical form: the default is not listed. -/
def sset [DecidableEq α] (d : α) (m : List (Nat × α)) (k : Nat) (v : α) : List (Nat × α) :=
  sput m k (if v = d then none else some v)

/-- Every listed key lies above `k`. -/
def sabove (k : Nat) (m : List (Nat × α)) : Prop := ∀ p ∈ m, k < p.1

/-- The canonical form. -/
def swf [DecidableEq α] (d : α) (m : List (Nat × α)) : Prop :=
  (m.map Prod.fst).Pairwise (· < ·) ∧ ∀ p ∈ m, p.2 ≠ d

/-- Put a value before the first one of an equal or higher key. -/
def insertByKey (key : α → Nat) (x : α) : List α → List α
  | [] => [x]
  | y :: ys => if key x ≤ key y then x :: y :: ys else y :: insertByKey key x ys

/-- A list sorted by a key; equal keys keep their order. -/
def sortByKey (key : α → Nat) (xs : List α) : List α := xs.foldr (insertByKey key) []

/-- Write the same update to several keys. -/
def ssetAll [DecidableEq α] (d : α) (m : List (Nat × α)) (kvs : List (Nat × α)) : List (Nat × α) :=
  kvs.foldl (fun acc kv => sset d acc kv.1 kv.2) m

/-- Build a canonical map from the values of keys `0 … n − 1`. -/
def sofFn [DecidableEq α] (d : α) (n : Nat) (f : Nat → α) : List (Nat × α) :=
  ((List.range n).map (fun k => (k, f k))).filter (fun kv => kv.2 ≠ d)

/-- Write a run of values at keys `off, off + 1, …`, keeping the canonical form. -/
def sblit [DecidableEq α] (d : α) (m : List (Nat × α)) (off : Nat) (vs : List α) : List (Nat × α) :=
  m.filter (fun p => decide (p.1 < off)) ++
    ((vs.zipIdx off).map (fun x => (x.2, x.1))).filter (fun p => decide (p.2 ≠ d)) ++
    m.filter (fun p => decide (off + vs.length ≤ p.1))

/-- The values at `n` keys from `start` of a map whose listed keys all lie at or above it. -/
def sdenseFrom (d : α) : Nat → Nat → List (Nat × α) → List α
  | 0, _, _ => []
  | n + 1, k, [] => d :: sdenseFrom d n (k + 1) []
  | n + 1, k, (k', v) :: rest =>
    if k' = k then v :: sdenseFrom d n (k + 1) rest else d :: sdenseFrom d n (k + 1) ((k', v) :: rest)

/-- The values at keys `start … start + n − 1`. -/
def sdense (d : α) (m : List (Nat × α)) (start n : Nat) : List α :=
  sdenseFrom d n start (m.dropWhile (fun p => decide (p.1 < start)))

end Sys2Proof.Machine
end

