-- ==== Sys2Proof/Machine/Work.lean ====
section
/-! DEFINITION. What a command in progress holds between tile boundaries (R274, R302): the contributions of its reductions, the ladders and
records of its rows, the finisher's results and the rows of an attention command. -/

namespace Sys2Proof.Machine

/-- Coordinates of an element. -/
structure Coord where
  i3 : Nat
  i2 : Nat
  i1 : Nat
  i0 : Nat
deriving DecidableEq, Repr, Inhabited

/-- A contributing element of a reduction (R122): coordinates, the cluster that holds it, V and S with the poison that reaches the result,
and K. -/
structure RedEl where
  c : Coord
  cluster : Nat
  v : PVal
  st : PVal
  k : Bool
deriving DecidableEq, Repr, Inhabited

/-- A ladder (R225 to R227): the reference M, the three entries, and the row bits that travel with them: ANYKEEP, PINF, NAN and POISON.
The count rises in L0. `snan`: a masked position took a fill that is a signalling NaN (R221, log entry 151). -/
structure Ladder where
  m : Option Int
  l0 : AccRec
  l1 : AccRec
  l2 : AccRec
  anyKeep : Bool
  pinf : Bool
  nan : Bool
  poison : Bool
  snan : Bool
deriving DecidableEq, Repr, Inhabited

/-- The cases of Table 9-4. -/
inductive RowCase where
  | fullMask | nan | pinf | ninf | count | normal
deriving DecidableEq, Repr, Inhabited

/-- What the finisher forms of a row: its case, M_f, RD, the log-sum-exp, poison and flags. -/
structure SmaxRes where
  case : RowCase
  m : Int
  rd : Word32
  lse : Word32
  poison : Bool
  flags : Flags
deriving DecidableEq, Repr, Inhabited

/-- What the first pass leaves of a row: two entries, a ladder, or the fast sums with the shift and the number of elements. -/
structure RowRec where
  e1 : AccRec
  e2 : AccRec
  lad : Ladder
  s1 : Word32
  s2 : Word32
  shift : Word32
  n : Nat
  poison : Bool
deriving DecidableEq, Repr, Inhabited

/-- What the finisher delivers for a row: mean and rstd, the two mean gradients, the sum s, or the soft maximum's row. -/
structure RowStat where
  a : Word32
  b : Word32
  sm : SmaxRes
  poison : Bool
  flags : Flags
  clamped : Bool
deriving DecidableEq, Repr, Inhabited

/-- The state of one query row of an attention command: its ladder, and its output row with poison. -/
structure AttnRow where
  lad : Ladder
  o : List (Option Word32 × Bool)
deriving DecidableEq, Repr, Inhabited

/-- A piece of an output tile (R355): the tile's position, the cluster that wrote it, its lane and store contributions, and its
elements. -/
structure Piece where
  pos : Nat
  cluster : Nat
  lane : Nat
  store : Nat
  elements : Nat
deriving DecidableEq, Repr, Inhabited

/-- A tile's signature as the primary formed it (R358): the tile's number in its command, its row block and cluster, and the sum. -/
structure TileSig where
  id : Nat
  rb : Nat
  cluster : Nat
  sum : Nat
deriving DecidableEq, Repr, Inhabited

end Sys2Proof.Machine
end

