-- ==== Sys2Proof/Machine/State.lean ====
section
/-! DEFINITION. The state of the engine, unit by unit, as plain data; the reasons a step can stop; and the state right
after a power-on reset. Arrays are sparse maps (see Sparse.lean): an index that is not listed holds the default named
in the field's docstring. -/

namespace Sys2Proof.Machine

/-- The reasons an access stops the machine. No command of this block stops: the spec gives each an effect, a refusal
record or an ignored write. The type is closed and empty of causes but one, which no meaning raises (safe). -/
inductive Fault where
  /-- Raised by nobody: kept so that the type is inhabited. Safe. -/
  | none
deriving DecidableEq, Repr, Inhabited

/-- The refusals of the model. -/
inductive Refusal where
  /-- Raised by a dispatch arm whose command has no meaning yet, by its mnemonic. Safe. -/
  | notModelled (mnemonic : String)
deriving DecidableEq, Repr, Inhabited

/-! ## Manifest (chapter 3) -/

/-- A timetable entry (Table 2-4). -/
structure TimeEntry where
  crossing : Nat
  landing : Nat
  action : Nat
  everyLanding : Bool
  everyCrossing : Bool
  param : Nat
deriving DecidableEq, Repr, Inhabited

/-- A SHAP record (Table 3-5). -/
structure ShapRec where
  mask : Nat
  slot : Nat
  image : List Byte
deriving DecidableEq, Repr, Inhabited

/-- An RCPE record (Table 3-5): its `count` words of program. -/
structure RcpeRec where
  mask : Nat
  slot : Nat
  program : List Word64
deriving DecidableEq, Repr, Inhabited

/-- An engine record of TOWL (Table 3-5). -/
structure TowEngine where
  ring : Nat
  pred : Nat
  succ : Nat
  partner : Nat
  groups : Nat
deriving DecidableEq, Repr, Inhabited

/-- A group record of TOWL (Table 14-1). -/
structure TowGroupRec where
  first : Nat
  count : Nat
  engines : Nat
deriving DecidableEq, Repr, Inhabited

/-- A verified manifest: the contents of its sections (R64, R70, R72, R73), its agreement tag and digest (R67), its
length and its phase-1 length (R81). `topo` is the row of this engine's position: per region five physical positions. -/
structure Manifest where
  tag : Nat
  digest : List Byte
  length : Nat
  p1 : Nat
  jobId : Nat
  permHost : Nat
  permMgr : Nat
  gReduce : Nat
  gMac : Nat
  rowSpan : Nat
  topo : List (List Nat)
  num : NumCfg
  shap : List ShapRec
  rcpe : List RcpeRec
  timed : Bool
  times : List TimeEntry
  lookahead : Nat
  readTags : Nat
  writeTags : Nat
  engines : List TowEngine
  groups : List TowGroupRec
  protection : Nat
  fastStats : Bool
  srSeed : Nat
  dgstSeed : List Byte
  certHmac : Bool
  slots : List Nat
deriving DecidableEq, Repr, Inhabited

/-- MAN_STATUS.STAGE_STATE (Table 3-10). -/
inductive StageState where
  | empty | opened | verifying | verified | refused
deriving DecidableEq, Repr, Inhabited

/-- MAN_STATUS.APPLY_STATE (Table 3-10). -/
inductive ApplyState where
  | none | armed | applying
deriving DecidableEq, Repr, Inhabited

/-- A write or an operation held during an application (R84, R172). -/
inductive HeldTable where
  | window (off : Nat) (bytes : List Byte)
  | op (code mask slot : Nat)
deriving DecidableEq, Repr, Inhabited

/-- The MAN_ unit. `staged` lists the bytes of the staged store that are not zero. `closeAuth` and `closeKeys` hold
what R384 takes at CLOSE: whether the closing master held a session. `prior` is the tag active before the latest
application, with the (crossing, landing) of that application (R332, R341). -/
structure ManUnit where
  active : Option Manifest
  stage : StageState
  staged : List (Nat × Byte)
  stagedConf : Option Manifest
  page : Nat
  applyAt : Nat × Nat
  apply : ApplyState
  applyNow : Bool
  reason : Nat
  permDenied : Bool
  closeAuth : Bool
  prior : Option (Nat × Nat × Nat)
  held : List HeldTable
deriving DecidableEq, Repr, Inhabited

/-! ## Crossings (chapter 2) -/

/-- CRS_STATUS.PHASE (Table 2-10). -/
inductive Phase where
  | notMoored | waitBeacon | inSegment | fullLanding | afterEnd
deriving DecidableEq, Repr, Inhabited

/-- A beacon frame in flight between its last nibble and its effect edge (R409). -/
abbrev BeaconBits := List (BitVec 4)

/-- A landing-latched value that is pending (R49): register number and value. Registers: 0 LOOKAHEAD, 1 LEASH,
2 MIRROR_RANGE, 3 KEN_REQ, 32 + berth BERTH_GROUP. -/
abbrev PendingLL := List (Nat × Nat)

/-- What the decision point fixed for a landing (R43, R80): its index, its type, the number of commands accepted by
then, the application it carries (none, refused with a reason, or to be run), and the landing-latched writes that take
effect there. -/
structure Decided where
  landing : Nat
  full : Bool
  accepted : Nat
  applyRefused : Option Nat
  applies : Bool
  ll : PendingLL
deriving DecidableEq, Repr, Inhabited

/-- Where a full landing stands (Tables 2-2, 3-7): phase 1 or 2 of an application, or the schedule up to the gate. -/
inductive LandStage where
  | phase1 | phase2 | closing
deriving DecidableEq, Repr, Inhabited

/-- A full landing in progress; `tests` lists the physical clusters in in-line test. For an application it keeps
whether a snapshot is due, the segment it closed with its records, and the landing's latched writes. -/
structure LandingRun where
  landing : Nat
  stage : LandStage
  tests : List Nat
  mirror : Bool
  closes : Option Nat
  seg : Option DigRec
  cross : Option DigRec
  ll : PendingLL
deriving DecidableEq, Repr, Inhabited

/-- A landing reached and not yet committed (R48, R270): what is recorded with it, the segment it
closes, and the protection level under which it closed. -/
structure Uncommitted where
  crossing : Nat
  landing : Nat
  deadlineBase : Nat
  colls : List (Nat × Nat)
  closes : Option Nat
  prot : Nat
deriving DecidableEq, Repr, Inhabited

/-- The CRS_ unit. `ann` is the latest recorded announcement and `ann0` the latest of a landing 0 (R36).
`firstOpen`: no crossing has opened since the cold reset, and `ann0New`: an announcement of a landing 0 has been recorded
after the frame that moored (R41). -/
structure CrsUnit where
  crossing : Nat
  landing : Nat
  ann : Nat × Nat
  annTide : Nat
  annSeen : Bool
  ann0 : Option (Nat × Nat)
  ann0New : Bool
  tide : Nat
  deadlineBase : Nat
  tOpen : Nat
  beaconErr : Nat
  llDiscarded : Bool
  moored : Bool
  phase : Phase
  firstOpen : Bool
  frames : List BeaconBits
  decided : List Decided
  run : Option LandingRun
  uncommitted : List Uncommitted
  pendingLL : PendingLL
deriving DecidableEq, Repr, Inhabited

/-! ## Commands (chapter 11) -/

/-- A tag-holding request of an entry's granules or of a block of its store areas, which faulted (R302). -/
structure Faulted where
  write : Bool
  addr : Nat
  len : Nat
  pass : Nat
  slot : Nat
  prefetch : Bool
deriving DecidableEq, Repr, Inhabited

/-- One 512-byte block waiting in the store areas, of one output or of both (R297; `slot`: the first that wrote it, log entry 190): its
bytes by offset in the block, and the poison indication per 64-byte sector (R300). `held`: the tiles whose comparison it waits for (R358);
`areas`: the bytes that each cluster's store area holds of it. -/
structure WBlock where
  addr : Nat
  bytes : List (Nat × Byte)
  poison : List Nat
  slot : Nat
  held : List Nat
  areas : List (Nat × Nat)
deriving DecidableEq, Repr, Inhabited

/-- What a command has to report when it completes (R277, R279). `refusedMsg`: a towline message for it has been refused
(R332). -/
structure Result where
  refused : Option Nat
  abort : Nat
  fault : Option Nat
  cap : Bool
  mismatch : Bool
  poisonOut : Bool
  late : Bool
  flags : Flags
  timeout : Bool
  consumed : Option Nat
  vneg : Nat
  vnegAt : Nat
  masked : Nat
  maskedAt : Nat
  charged : Nat
  refusedMsg : Bool
deriving DecidableEq, Repr, Inhabited

/-- The life of an accepted command: in the queue; taken for issue and held by its landing or its data; past its last
slice, waiting for its statistics (fused rows) or a group; all outputs formed. -/
inductive Life where
  | queued | taken | stats | ran
deriving DecidableEq, Repr, Inhabited

/-- A row of a fused row command on its way through the finisher (R202, R213). `ready`: its block's statistics are
complete; `inFin`: accepted by the finisher; `done`: delivered. -/
inductive FinStage where
  | waiting | ready | inFin | done
deriving DecidableEq, Repr, Inhabited

/-- One row block of a grouped command at the towline port (R334, R335). `own` is the member's own record, `held` a
forward message that arrived before it, `final` the accepted final record. -/
structure TowBlock where
  rowBlock : Nat
  rows : Nat
  own : Option (List Byte)
  final : Option (List Byte)
  fwdHeld : Option (List Byte)
  sentFwd : Bool
  isVoid : Bool
  reason : Nat
  selfVoided : Bool
  timer : Bool
deriving DecidableEq, Repr, Inhabited

/-- An accepted command (R259, R260): berth, sequence number, order of acceptance, descriptor and scalar bank; and, from its issue on, what
was bound then and how far it has come: `pos` counts the granule positions issued in every cluster, `front` those of each cluster of a
command whose clusters run on their own; `stats` lists the row blocks whose statistics are ready. Between boundaries it holds the
contributions of its plain reductions and fast sums by stage position (`reds`), the ladders of a soft maximum by row × 32 + cluster
(`lads`), a row being 16 × row block + place, the records of the rows whose block is formed (`recs`), what the finisher delivered (`outs`),
the rows of an attention command (`rows`), and the row blocks, or the rows of an attention command, whose finisher outputs are written
(`emitted`). At full redundancy `sigs` holds the signatures still to be compared, `tiles` counts them, and `own` holds the towline records
that wait for them (R358). `banks`: the physical bank it is bound to in each logical cluster (R171). With ROW_SPAN above 1 `sent` holds the
members' entries of rows that are over in their cluster, by row block × 8192 + entry key, and `rowIn` the row block that a cluster's entries
were last cleared for (R195, R197). `pieces`: pieces of output tiles that are not finished (R355). `stop`: an abort waits for its next tile
boundary (R280). `got` holds the sectors received, by job address / 64, `held` the keys of those now in operand buffers (Granules.lean), and
`bad` the words of operand buffers found uncorrectable, by job address / 8 (R363). `taken`: it has been taken for issue, which lasts through
to its completion; `started`: it has made its first lane issue. -/
structure Entry where
  berth : Nat
  seq : Nat
  ord : Nat
  core : Bool
  fore : Bool
  bytes : List Byte
  bank : List Word32
  life : Life
  crossing : Nat
  vlen : Nat
  gen : Nat
  lookahead : Nat
  deadline : Option Nat
  coll : Option (Nat × Nat)
  taken : Bool
  started : Bool
  pos : Nat
  front : List (Nat × Nat)
  stats : List Nat
  got : List (Nat × Sector)
  held : List Nat
  bad : List Nat
  faults : List Faulted
  suspended : Bool
  aside : Bool
  fin : List (Nat × FinStage)
  tow : List TowBlock
  writes : List WBlock
  reds : List (Nat × RedEl)
  lads : List (Nat × Ladder)
  recs : List (Nat × RowRec)
  outs : List (Nat × RowStat)
  rows : List (Nat × AttnRow)
  emitted : List Nat
  tiles : Nat
  sigs : List TileSig
  own : List (Nat × List Byte)
  banks : List Bool
  sent : List (Nat × AccRec)
  rowIn : List (Nat × Nat)
  pieces : List Piece
  stop : Bool
  res : Result
deriving DecidableEq, Repr, Inhabited

/-- CQ_WIN (Table 11-11) and the bytes a window is bound to: OUT0's base and span (R282). State 0 EMPTY, 1 NOT_READY,
2 READY. -/
structure Win where
  gen : Nat
  st : Nat
  berth : Nat
  seqLow : Nat
  base : Nat
  span : Nat
deriving DecidableEq, Repr, Inhabited

/-- The path a submission came by (R259). -/
inductive SubPath where
  | core | host | mgr
deriving DecidableEq, Repr, Inhabited

/-- A submission that waits for the clocks to restart (R408): path, forerunner, descriptor bytes and bank. -/
structure Asleep where
  path : SubPath
  fore : Bool
  bytes : List Byte
  bank : List Word32
deriving DecidableEq, Repr, Inhabited

/-- A submission judged and not yet answered (R259). -/
structure Judged where
  path : SubPath
  code : Nat
  berth : Nat
  seq : Nat
deriving DecidableEq, Repr, Inhabited

/-- The CQ_ unit. `chosen`: the berth that the scheduler has taken at a boundary where the issuing command stood aside (R274). `hist` holds
(berth, sequence number, crossing, landing) of completed, uncommitted commands (R270). Default of `vlen` 0xFF_FFFF; of `rings` none; of the
submission buffers zero. -/
structure CqUnit where
  entries : List Entry
  rings : List (Nat × List Word64)
  bufHost : List (Nat × Byte)
  bufMgr : List (Nat × Byte)
  buf64Host : List (Nat × Byte)
  buf64Mgr : List (Nat × Byte)
  ackHost : Judged
  ackMgr : Judged
  ackCore : Nat
  responses : List Judged
  asleep : List Asleep
  vlen : List (Nat × Nat)
  wins : List (Nat × Win)
  issuing : Option Nat
  lastBerth : Option Nat
  chosen : Option Nat
  acceptCount : Nat
  hist : List (Nat × Nat × Nat × Nat)
  takenSinceReset : Bool
  takenSinceApply : Bool
deriving DecidableEq, Repr, Inhabited

/-! ## The keep island's journals (chapters 11, 16, 18) -/

/-- One remapped or abandoned spare row (R315): region, bank, row, spare row, remaps of the row. -/
structure RowMap where
  region : Nat
  bank : Nat
  row : Nat
  spare : Nat
deriving DecidableEq, Repr, Inhabited

/-- The repair table (R318): row mappings and abandoned spares by physical bank 0–65 of a region, the logical bank that
each spare bank serves, the spare banks that have been replaced themselves (region, spare), and the RETIRED clusters (R371). -/
structure RepairTable where
  rows : List RowMap
  spares : List (Nat × Nat × Nat)
  worn : List (Nat × Nat)
  retired : List Nat
deriving DecidableEq, Repr, Inhabited

/-- The ledger and the keep copies (R268, R400, Table 16-7). Arrays default to 0. `crossCopy` is the crossing copy
with the deadline base and the collective numbers kept with it. `landing` is the last landing-reached record. -/
structure Keep where
  accepted : List (Nat × Nat)
  completed : List (Nat × Nat)
  commitSeq : List (Nat × Nat)
  priorAccepted : List (Nat × Nat)
  priorCompleted : List (Nat × Nat)
  committed : Nat × Nat
  landing : Nat × Nat
  crossCopy : Option (Nat × Nat)
  crossBase : Nat
  colls : List (Nat × Nat)
  keptTag : Option Nat
  keptPermMgr : Nat
  repair : RepairTable
deriving DecidableEq, Repr, Inhabited

/-- The two copies of a block of the keep island (R400): whether the select cell names the second, and the seal of each, a CRC-32 over its
record. -/
structure KeepCell where
  block : KeepBlock
  second : Bool
  seal0 : Nat
  seal1 : Nat
deriving DecidableEq, Repr, Inhabited

/-- The keep island beside the records that its select cells name (R398 to R402): `cells`, the blocks written; `other`, what the copies hold
that are not current; `shadow`, what the main side keeps of it, none while the main side is down; `tide`, its tide while the main side is
down; and for how many samples each keep supply has stayed at or above 0.72 V. -/
structure Island where
  cells : List KeepCell
  other : Keep
  shadow : Option Keep
  tide : Nat
  goodA : Nat
  goodB : Nat
deriving DecidableEq, Repr, Inhabited

/-! ## Retriever (chapter 12) -/

/-- Who a request was made for. A fill of a region cache names the command whose granule missed; none: a table LOAD. A certificate's write
names its serial (R392). -/
inductive ReqOwner where
  | entry (berth seq : Nat)
  | fill (region : Nat) (who : Option (Nat × Nat))
  | post | trace (berth seq : Nat) | cert (serial : Nat)
deriving DecidableEq, Repr, Inhabited

/-- Whether a write is a certificate's. -/
def ReqOwner.isCert (o : ReqOwner) : Bool := match o with | .cert _ => true | _ => false

/-- The indication that a write carries for a sector (R300): poisoned; clean, which clears its mark; or none, and the mark stays. -/
inductive Indication where
  | poisoned | clean | none
deriving DecidableEq, Repr, Inhabited

/-- An outstanding request with its tag (R291). `pass`: 1 for a fill whose block was written after it was requested (log entry 155). -/
structure Req where
  tag : Nat
  write : Bool
  owner : ReqOwner
  addr : Nat
  len : Nat
  pass : Nat
  slot : Nat
  channel : Nat
  prefetch : Bool
  block : Option WBlock
  marks : List (Nat × Indication)
deriving DecidableEq, Repr, Inhabited

/-- A recorded or held translation fault (Table 12-8). -/
structure FaultRec where
  berth : Nat
  seq : Nat
  slot : Nat
  write : Bool
  prefetch : Bool
  addr : Nat
deriving DecidableEq, Repr, Inhabited

/-- A line of a region cache (R21): region, block (address / 512), and its sectors by number 0 to 7. -/
structure CacheLine where
  region : Nat
  block : Nat
  sectors : List (Nat × Sector)
deriving DecidableEq, Repr, Inhabited

/-- The RTV_ unit. `cache` holds the lines of the region caches, oldest first. `posts` are engine writes not yet requested: digest posts,
trace records and certificates. `passed` holds the reads passed over at the cap of R292, by job address and channel. -/
structure RtvUnit where
  lookahead : Nat
  readTags : Nat
  writeTags : Nat
  badWrite : Bool
  fault : Option FaultRec
  faultQueue : List FaultRec
  out : List Req
  nextTag : Nat
  posts : List (ReqOwner × WBlock)
  passed : List (Nat × Nat)
  cache : List CacheLine
deriving DecidableEq, Repr, Inhabited

/-! ## Scratchpad (chapter 13) -/

/-- A row or bank copy in progress (R315, R316): region, logical bank, row (none: the whole bank), the spare row it
goes to. -/
structure Copy where
  region : Nat
  bank : Nat
  row : Option Nat
  spare : Nat
deriving DecidableEq, Repr, Inhabited

/-- KEN_SP_LOG (Table 13-6). -/
structure SpLog where
  valid : Bool
  kind : Nat
  region : Nat
  bank : Nat
  row : Nat
  remaps : Nat
  tide : Nat
deriving DecidableEq, Repr, Inhabited

/-- The scratchpad. `mem` lists the bytes that are not zero; `clean` the lines (address / 64) whose mark is clear, since a cold reset marks
every line (R313); `corrected` one word address per row with a corrected error since its mapping (R314); `failedRows` the rows that have
failed by corrected errors since their mapping; `noSpare` the banks for which SHARD_MIGRATE has been raised (R317). -/
structure Scratch where
  mem : List Host.Cell
  clean : List (Nat × Bool)
  ce : List (Nat × Nat)
  corrected : List (Nat × Nat)
  failedRows : List Nat
  copies : List Copy
  noSpare : List (Nat × Nat)
  log : SpLog
deriving DecidableEq, Repr, Inhabited

/-! ## Tables, accumulators, slipways (chapters 7, 8, 10) -/

/-- The two banks of one physical cluster: the bank now active, the swap count, and the valid bits of banks 0 and 1. -/
structure TblCluster where
  phys : Bool
  gen : Nat
  valid0 : BitVec 16
  valid1 : BitVec 16
deriving DecidableEq, Repr, Inhabited

/-- A LOAD whose fetch is outstanding (R170): what it fetches for whom, the (region, block 0 to 8) that have arrived with
their sectors, and the regions whose fetch met a translation fault. -/
structure TblLoad where
  mask : Nat
  slot : Nat
  addr : Nat
  got : List (Nat × Nat × List Sector)
  failed : List Nat
deriving DecidableEq, Repr, Inhabited

/-- The JQ_TBL_ unit (R168). A physical cluster is named by where it stands: 0 to 31 the logical cluster it serves,
32 + region the kennel. Images by (cluster × 2 + bank) × 16 + slot; default image: no bytes, which reads as zeros.
`badWords` lists the table words found uncorrectable, by image × 516 + word (R167). -/
structure TblUnit where
  clusters : List (Nat × TblCluster)
  images : List (Nat × List Byte)
  addr : Nat
  busy : Bool
  lastOp : Nat
  writeLocked : Bool
  result : Nat
  failCluster : Nat
  load : Option TblLoad
  lockedSlots : List Nat
  badWords : List Nat
deriving DecidableEq, Repr, Inhabited

/-- The array state that outlives a command (R14): accumulator entries by cluster × 256 + entry, slipway tiles by
cluster × 2 + (0 A, 1 B), a cluster named as in `TblUnit`; and the holds of A and B (R241). -/
structure ArrayUnit where
  accs : List (Nat × AccRec)
  slips : List (Nat × SlipTile)
  holdA : Option Nat
  holdB : Option Nat
deriving DecidableEq, Repr, Inhabited

/-! ## Kennel (chapter 16) -/

/-- The cluster states of Table 16-5. -/
inductive ClState where
  | inService | ready | testing | retired | untested
deriving DecidableEq, Repr, Inhabited

/-- KEN_CLUSTER (Table 16-10). -/
structure ClusterRec where
  st : ClState
  lastPass : Nat
  inline : Bool
deriving DecidableEq, Repr, Inhabited

/-- The KEN_ unit and the detected-error registers. `map`: per region, the physical positions of logical positions 0–3 and of the kennel;
`clusters` in index order 5 × region + position; `copying` the logical clusters whose static copy runs, `copied` those whose copy has ended
(R367). -/
structure KenUnit where
  map : List (List Nat)
  clusters : List ClusterRec
  req : Nat
  skipRegion : Nat
  deadlineForced : Bool
  inlineRan : Bool
  rotSkipped : Bool
  copying : List Nat
  copied : List Nat
  startupPass : Bool
  pairErr : Nat
  csumErr : Nat
  faultLog : Word64
deriving DecidableEq, Repr, Inhabited

/-! ## Towline (chapter 14) -/

/-- A message leaving by the towline (R323): identity, how many of its bursts have still to be sent, are outstanding
and wait after a refusal, the row block it belongs to (none for the partner's messages and for a relay), the message, and whether it is a
message of another engine that is passed on (R322). -/
structure TxMsg where
  id : Nat
  left : Nat
  out : Nat
  waiting : Nat
  owner : Option (Nat × Nat × Nat)
  msg : TowMsg
  relay : Bool
deriving DecidableEq, Repr, Inhabited

/-- What has been decided of an incoming snapshot at its header (R341, R59): its bursts go to PENDING, are discarded, or wait in the buffer. -/
inductive SnapFate where
  | take | drop | hold
deriving DecidableEq, Repr, Inhabited

/-- A snapshot that is arriving: its header, what has been decided of it, and how many of its bursts are in the buffer. -/
structure RxSnap where
  head : SnapHead
  fate : SnapFate
  parts : Nat
deriving DecidableEq, Repr, Inhabited

/-- The TOW_ unit. `rxPartial` counts bursts of messages not yet whole; `held` holds messages under R58, R59 and R332;
`restore`: RESTORE_RESULT. `rxHead` is the snapshot that is arriving, `waitRecs` the headers of snapshots one
crossing ahead, whose comparison waits for the opening, `heldSnaps` the snapshots and `heldRestore` the restore messages held under R59
and Table 2-6. `ownRecs` and `partnerRecs` say, by (crossing, landing), whether the records that the landing's comparison reads are clean
(R354). -/
structure TowUnit where
  package : Nat
  position : Nat
  berthGroup : List (Nat × Nat)
  mirrorBase : Nat
  mirrorPages : Nat
  coll : List (Nat × Nat)
  restore : Nat
  linkFail : Bool
  reading : Option Snapshot
  snapQueued : List Snapshot
  tx : List TxMsg
  nextId : Nat
  rxPartial : Nat
  held : List TowMsg
  rxHead : Option RxSnap
  waitRecs : List SnapHead
  heldSnaps : List Snapshot
  heldRestore : List TowMsg
  slotPending : Option Snapshot
  slotCommitted : Option Snapshot
  ownRecs : List (Nat × Nat × Bool)
  partnerRecs : List (Nat × Nat × Bool)
deriving DecidableEq, Repr, Inhabited

/-! ## Wake digests (chapter 15) -/

/-- The open digests of a segment (R349). -/
structure SegDig where
  lane : Nat
  store : Nat
  laneCount : Nat
  storeCount : Nat
  invalid : Bool
deriving DecidableEq, Repr, Inhabited

/-- The JQ_DGST_ unit. `segs`: open digests by landing index; `nextInvalid`: segments of the next crossing that are INVALID already; `closed`:
the closed segments of the crossing, from which its digests are formed (R352); `taken`: the segments of
which a command has been taken since the last reset. `trace`: 0 idle, 1 armed, 2 tracing, 3 done. -/
structure DgstUnit where
  segs : List (Nat × SegDig)
  nextInvalid : List Nat
  closed : List (Nat × SegDig)
  closedCrossing : Nat
  closedLanding : Nat
  closedLane : Nat
  closedStore : Nat
  closedInvalid : Bool
  ownDiffer : Bool
  partnerDiffer : Bool
  postSkipped : Bool
  taken : List (Nat × Nat)
  trace : Nat
  traceCrossing : Nat
  traceLanding : Nat
  traceAddr : Nat
  traceLen : Nat
  records : Nat
  overflow : Bool
  missed : Bool
deriving DecidableEq, Repr, Inhabited

/-! ## Tollhouse (chapter 17) -/

/-- A key slot (R381). -/
structure KeySlot where
  key : List Byte
  uses : Nat
deriving DecidableEq, Repr, Inhabited

/-- One port's view of the Tollhouse (R379, R380). -/
structure TollPort where
  data : List (Nat × Byte)
  result : Nat
  auth : Bool
  nonce : Option (List Byte)
deriving DecidableEq, Repr, Inhabited

/-- The service running (R389). -/
inductive TollBusy where
  | none | selftest (port : Port) | zeroise (permanent : Bool) | sign
deriving DecidableEq, Repr, Inhabited

/-- What the opening of C0 captures (R391): tag, manifest digest, job and certificate mode. -/
structure CertJob where
  tag : Nat
  digest : List Byte
  jobId : Nat
  hmac : Bool
deriving DecidableEq, Repr, Inhabited

/-- The certificate (R390–R392): registers, destination, ranges, state, cause, and the captures. `vec`, `inp`, `outp` hold the store
digest of each named segment with whether it is final. `tvd` holds the table records with their landings. -/
structure CertUnit where
  range0 : Nat
  range1 : Nat
  addr : Nat
  lInHigh : Nat
  state : Nat
  cause : Nat
  dest : Nat
  c0 : Nat
  c1 : Nat
  lVec : Nat
  lIn : Nat
  lOut : Nat
  captured : Option CertJob
  tvd : List (Nat × Nat × List Byte)
  vec : Option (Nat × Bool)
  inp : Option (Nat × Bool)
  outp : Option (Nat × Bool)
  serial : Nat
deriving DecidableEq, Repr, Inhabited

/-- The fuses and their shadow (R381, R411 step 2): serial, key-wrapping key, revocation, field lock, factory
repairs. -/
structure Fuses where
  serial : Nat
  kwk : Option (List Byte)
  revoke : Bool
  lock : Bool
  factory : RepairTable
deriving DecidableEq, Repr, Inhabited

/-- The DRBG (R385): its key and counter, the generate requests since its last seeding, and the seedings so far (the model's own count,
which names the free entropy). -/
structure Drbg where
  key : List Byte
  v : List Byte
  count : Nat
  seeds : Nat
deriving DecidableEq, Repr, Inhabited

/-- The continuous tests of the noise source (R385): the last sample and its run; the first sample of the window of the adaptive
proportion test, the samples seen of it and how many equal the first; and whether a test has failed. -/
structure Health where
  last : Bool
  run : Nat
  first : Bool
  seen : Nat
  same : Nat
  failed : Bool
deriving DecidableEq, Repr, Inhabited

/-- The TOLL_ and FUSE_ unit. `waitSelftest`: a SELFTEST waits for the running
service (R389); `zeroisePending`: the cold reset of R387 waits for the next start-up (R419). -/
structure TollUnit where
  slots : List (Nat × KeySlot)
  host : TollPort
  mgr : TollPort
  busy : TollBusy
  waitSelftest : Option Port
  errorState : Bool
  zeroised : Bool
  approved : Bool
  selftest : BitVec 9
  drbg : Drbg
  health : Health
  cert : CertUnit
  fuses : Fuses
  shadow : Fuses
deriving DecidableEq, Repr, Inhabited

/-! ## Power, resets and ports (chapter 18) -/

/-- Reset kinds (Table 18-7). -/
inductive ResetKind where
  | warm | replay
deriving DecidableEq, Repr, Inhabited

/-- The PWR_ unit, the supplies and the start-up sequence. `draining`: a warm or replay reset waits for its tags.
`fabReady`, `tested`: steps 5 and 7 of Table 18-6 are over; `warmTest`: a
warm reset whose Tollhouse self-tests have not ended (Table 18-7). `hot`, `cool`: samples since the cap last moved down, and
consecutive samples below 95 °C. `coldNext`: a broken rail order makes the next reset cold (R397). -/
structure PwrUnit where
  gate : Bool
  target : Nat
  step : Nat
  capTherm : Nat
  capVolt : Nat
  pending : Option (Nat × Nat)
  gated : Bool
  waking : Bool
  thermTrip : Bool
  keepLost : Bool
  mainDown : Bool
  keepFail : Bool
  sealCheck : Bool
  srcB : Bool
  aOk : Bool
  bOk : Bool
  switched : Bool
  moorWait : Bool
  temp : Int
  vcore : Nat
  vkeepA : Nat
  vkeepB : Nat
  hot : Nat
  cool : Nat
  coldNext : Bool
  latch : Bool
  zeroisePending : Bool
  fabReady : Bool
  tested : Bool
  warmTest : Bool
  draining : Option ResetKind
deriving DecidableEq, Repr, Inhabited

/-- A side-band response frame (R416). -/
structure SbResp where
  status : Nat
  addr : Nat
  data : Nat
  version : Nat
deriving DecidableEq, Repr, Inhabited

/-- The side-band port (R415–R419): counters, the response that the next frame shifts out, the response frames shifted
out with the last request (R416), the captured register with its offset and the held low half with its register's. -/
structure SbUnit where
  crcErr : Nat
  frames : Nat
  lastStatus : Nat
  lastVersion : Nat
  waiting : Option SbResp
  shifted : List SbResp
  capture : Option (Nat × Nat)
  heldLow : Option (Nat × Nat)
deriving DecidableEq, Repr, Inhabited

/-- The host port: its capture and hold (R421), and the response of the last read: data bytes, the completer status of
R426 and the poison indication. -/
structure HostPort where
  capture : Option (Nat × Nat)
  heldLow : Option (Nat × Nat)
  data : List Byte
  code : Nat
  poison : Bool
deriving DecidableEq, Repr, Inhabited

/-! ## Events (chapter 19) -/

/-- An event to raise or raised (Table 19-8): code, command, tide and details. -/
structure EvtEntry where
  code : Nat
  cmd : Option (Nat × Nat)
  tide : Nat
  d0 : Nat
  d1 : Nat
deriving DecidableEq, Repr, Inhabited

/-- The EVT_ unit; `held` is the level of EVT_IRQ that the pin keeps while CLK_CORE is gated (R434); `kept` are records the keep island made
while the main side was down (R430). -/
structure EvtUnit where
  log : List (Nat × EvtEntry)
  wr : Nat
  rd : Nat
  lost : Nat
  pending : BitVec 15
  mask : BitVec 15
  held : Bool
  kept : List EvtEntry
deriving DecidableEq, Repr, Inhabited

/-- The engine. `stepping` is JQ_ID's stepping (letter, digit); `free` is the model's own counter for free values. -/
structure State where
  pending : List Instr
  man : ManUnit
  crs : CrsUnit
  cq : CqUnit
  keep : Keep
  isl : Island
  rtv : RtvUnit
  sp : Scratch
  tbl : TblUnit
  arr : ArrayUnit
  ken : KenUnit
  tow : TowUnit
  dgst : DgstUnit
  toll : TollUnit
  pwr : PwrUnit
  sb : SbUnit
  hostp : HostPort
  evt : EvtUnit
  stepping : Nat × Nat
  free : Nat
deriving DecidableEq, Repr, Inhabited

/-! ## Reset values -/

/-- A result with nothing to report. -/
def Result.zero : Result :=
  { refused := none, abort := 0, fault := none, cap := false, mismatch := false, poisonOut := false, late := false,
    flags := 0, timeout := false, consumed := none, vneg := 0, vnegAt := 0, masked := 0, maskedAt := 0, charged := 0,
    refusedMsg := false }

/-- No submission since reset (Table 11-10). -/
def Judged.zero : Judged := ⟨.host, 0, 0, 0⟩

/-- The manifest unit after a cold reset (Table 3-8, Tables 3-9 to 3-12). -/
def ManUnit.cold : ManUnit :=
  { active := none, stage := .empty, staged := [], stagedConf := none, page := 0, applyAt := (0, 0), apply := .none,
    applyNow := false, reason := 0, permDenied := false, closeAuth := false, prior := none, held := [] }

/-- The crossing unit after a cold reset (Tables 2-7 to 2-10). -/
def CrsUnit.cold : CrsUnit :=
  { crossing := 0, landing := 0, ann := (0, 0), annTide := 0, annSeen := false, ann0 := none, ann0New := false, tide := 0,
    deadlineBase := 0, tOpen := 0, beaconErr := 0, llDiscarded := false, moored := false, phase := .notMoored, firstOpen := true,
    frames := [], decided := [], run := none, uncommitted := [], pendingLL := [] }

/-- The command unit with every queue empty (Tables 11-10, 11-11). -/
def CqUnit.cold : CqUnit :=
  { entries := [], rings := [], bufHost := [], bufMgr := [], buf64Host := [], buf64Mgr := [], ackHost := .zero,
    ackMgr := .zero, ackCore := 0, responses := [], asleep := [], vlen := [], wins := [], issuing := none, lastBerth := none, chosen := none,
    acceptCount := 0, hist := [], takenSinceReset := false, takenSinceApply := false }

/-- A repair table that holds nothing. -/
def RepairTable.empty : RepairTable := ⟨[], [], [], []⟩

/-- The journals when keep state is lost, with the factory repairs (Table 16-7, R318). -/
def Keep.lost (factory : RepairTable) : Keep :=
  { accepted := [], completed := [], commitSeq := [], priorAccepted := [], priorCompleted := [], committed := (0, 0),
    landing := (0, 0), crossCopy := none, crossBase := 0, colls := [], keptTag := none, keptPermMgr := 0,
    repair := factory }

/-- The keep island when keep state is lost. Both supplies count as good (DESIGN CHOICE, log entry 21). -/
def Island.lost (factory : RepairTable) : Island := ⟨[], .lost factory, none, 0, 100, 100⟩

/-- The Retriever after a cold reset (Tables 12-6 to 12-8). -/
def RtvUnit.cold : RtvUnit :=
  { lookahead := 4, readTags := 2048, writeTags := 768, badWrite := false, fault := none, faultQueue := [], out := [],
    nextTag := 0, posts := [], passed := [], cache := [] }

/-- KEN_SP_LOG at reset (Table 13-6). -/
def SpLog.zero : SpLog := ⟨false, 0, 0, 0, 0, 0, 0⟩

/-- The scratchpad after a cold reset: every line marked (R313). -/
def Scratch.cold : Scratch :=
  { mem := [], clean := [], ce := [], corrected := [], failedRows := [], copies := [], noSpare := [], log := .zero }

/-- A cluster's banks at a cold reset: empty, all 0 (Table 7-4). -/
def TblCluster.zero : TblCluster := ⟨false, 0, 0, 0⟩

/-- The table unit after a cold reset (Tables 7-4 to 7-7). -/
def TblUnit.cold : TblUnit :=
  { clusters := [], images := [], addr := 0, busy := false, lastOp := 0, writeLocked := false, result := 0,
    failCluster := 0xFF, load := none, lockedSlots := [], badWords := [] }

/-- Array state cleared (Table 16-7). -/
def ArrayUnit.cold : ArrayUnit := ⟨[], [], none, none⟩

/-- The start-up map of one region (Table 16-9). -/
def KenUnit.startRow : List Nat := [0, 1, 2, 3, 4]

/-- A cluster before the start-up test has set its state: the four positions in service, the kennel untested. -/
def KenUnit.startCluster (i : Nat) : ClusterRec :=
  ⟨if i % 5 = 4 then .untested else .inService, 0, false⟩

/-- The kennel unit after a cold reset (Tables 16-9 to 16-12). -/
def KenUnit.cold : KenUnit :=
  { map := List.replicate 8 KenUnit.startRow, clusters := (List.range 40).map KenUnit.startCluster, req := 0,
    skipRegion := 0, deadlineForced := false, inlineRan := false, rotSkipped := false, copying := [], copied := [],
    startupPass := false, pairErr := 0, csumErr := 0, faultLog := 0 }

/-- The towline unit after a cold reset; POSITION comes from the straps (Tables 14-7 to 14-9). -/
def TowUnit.cold (position : Nat) : TowUnit :=
  { package := 0, position := position, berthGroup := [], mirrorBase := 0, mirrorPages := 0, coll := [], restore := 0,
    linkFail := false, reading := none, snapQueued := [], tx := [], nextId := 0, rxPartial := 0, held := [],
    rxHead := none, waitRecs := [], heldSnaps := [], heldRestore := [], slotPending := none, slotCommitted := none, ownRecs := [], partnerRecs := [] }

/-- An open digest with nothing in it. -/
def SegDig.zero : SegDig := ⟨0, 0, 0, 0, false⟩

/-- The digest unit at every reset (Tables 15-7 to 15-9). -/
def DgstUnit.cold : DgstUnit :=
  { segs := [], nextInvalid := [], closed := [], closedCrossing := 0, closedLanding := 0, closedLane := 0, closedStore := 0,
    closedInvalid := false, ownDiffer := false, partnerDiffer := false, postSkipped := false, taken := [], trace := 0,
    traceCrossing := 0, traceLanding := 0, traceAddr := 0, traceLen := 0, records := 0, overflow := false,
    missed := false }

/-- A port's view with nothing done (Tables 17-5, 17-6). -/
def TollPort.zero : TollPort := ⟨[], 0, false, none⟩

/-- No certificate (Table 17-8). -/
def CertUnit.zero : CertUnit :=
  { range0 := 0, range1 := 0, addr := 0, lInHigh := 0, state := 0, cause := 0, dest := 0, c0 := 0, c1 := 0, lVec := 0, lIn := 0,
    lOut := 0, captured := none, tvd := [], vec := none, inp := none, outp := none, serial := 0 }

/-- Fuses with nothing blown (DESIGN CHOICE, log entry 20: the spec gives no part's fuse values). -/
def Fuses.blank : Fuses := ⟨0, none, false, false, .empty⟩

/-- A DRBG that holds nothing, before its `n`-th seeding. -/
def Drbg.blank (n : Nat) : Drbg := ⟨List.replicate 32 0#8, List.replicate 16 0#8, 0, n⟩

/-- The continuous tests before the first sample. -/
def Health.start : Health := ⟨false, 0, false, 0, 0, false⟩

/-- The Tollhouse when keep state is lost (R402, Tables 17-6, 17-7). -/
def TollUnit.lost (f : Fuses) : TollUnit :=
  { slots := [], host := .zero, mgr := .zero, busy := .none, waitSelftest := none, errorState := false,
    zeroised := true, approved := true, selftest := 0, drbg := .blank 0, health := .start, cert := .zero, fuses := f, shadow := f }

/-- The power unit right after a power-on cold reset that found keep state lost: the main side is down until step 4 of
Table 18-6 ends. Monitors read 0 until the first sample; both keep supplies good (DESIGN CHOICE, log entry 21). -/
def PwrUnit.cold : PwrUnit :=
  { gate := false, target := 0, step := 0, capTherm := 0, capVolt := 0, pending := none, gated := false, waking := false,
    thermTrip := false, keepLost := true, mainDown := true, keepFail := false, sealCheck := false, srcB := false,
    aOk := true, bOk := true, switched := false, moorWait := false, temp := 0, vcore := 0, vkeepA := 0, vkeepB := 0,
    hot := 10, cool := 0, coldNext := false, latch := false, zeroisePending := false, fabReady := false,
    tested := false, warmTest := false, draining := none }

/-- The side-band port when keep state is lost (Table 18-11). -/
def SbUnit.lost : SbUnit :=
  { crcErr := 0, frames := 0, lastStatus := 0, lastVersion := 0, waiting := none, shifted := [],
    capture := none, heldLow := none }

/-- The host port with nothing read. -/
def HostPort.zero : HostPort := ⟨none, none, [], 0, false⟩

/-- The event unit after a cold reset (R435). -/
def EvtUnit.cold : EvtUnit :=
  { log := [], wr := 0, rd := 0, lost := 0, pending := 0, mask := 0, held := false, kept := [] }

/-- The engine right after power-on: a cold reset that found keep state lost, before step 4 of Table 18-6 has ended
(R402, R411, Table 16-7). The position strap 0, stepping A0 and blank fuses are the model's (log entry 20). -/
def State.reset : State :=
  { pending := [], man := .cold, crs := .cold, cq := .cold, keep := .lost .empty, isl := .lost .empty, rtv := .cold, sp := .cold,
    tbl := .cold, arr := .cold, ken := .cold, tow := .cold 0, dgst := .cold, toll := .lost .blank, pwr := .cold,
    sb := .lost, hostp := .zero, evt := .cold, stepping := (1, 0), free := 0 }

end Sys2Proof.Machine
end

