-- ==== Sys2Proof/Machine/Ops.lean ====
section
/-! DEFINITION. Operations that every unit shares: packing register fields, permissions (R71, R427), raising events
(R430), the ledger's counts (R268), the writes of the keep island (R400), and landing-latched writes (R49, R429). -/

namespace Sys2Proof.Machine

/-- A register word from its fields: lowest bit, width and value of each. -/
def packFields (fs : List (Nat × Nat × Nat)) : Word64 :=
  BitVec.ofNat 64 (fs.foldl (fun acc f => acc + (f.2.2 % 2 ^ f.2.1) * 2 ^ f.1) 0)

/-- One bit as a number. -/
def bit (b : Bool) : Nat := if b then 1 else 0

/-- Add one, saturating. -/
def satInc (top n : Nat) : Nat := if n < top then n + 1 else top

/-- Add, saturating. -/
def satAdd (top n k : Nat) : Nat := if n + k < top then n + k else top

/-! ## Permissions -/

/-- Whether a master holds a permission bit (R71): by the active manifest's mask, or, while the main side is down, by
the PERM_MGR mask kept with MAN_KEPT_TAG (R419); with none, every permission. -/
def permitted (p : Port) (b : Nat) (s : State) : Bool :=
  if s.pwr.mainDown then
    match s.keep.keptTag with
    | none => true
    | some _ => s.keep.keptPermMgr.testBit b
  else
    match s.man.active with
    | none => true
    | some m => (match p with | .host => m.permHost | .mgr => m.permMgr).testBit b

/-- A refused write is ignored and sets MAN_STATUS.PERM_DENIED (R71, R427). -/
def deny (s : State) : State := { s with man := { s.man with permDenied := true } }

/-- R428: a low half that a port holds is dropped by any other write from that port. -/
def dropHeld (p : Port) (s : State) : State :=
  match p with
  | .host => { s with hostp := { s.hostp with heldLow := none } }
  | .mgr => { s with sb := { s.sb with heldLow := none } }

/-- Run a write that needs a permission bit; a low half held by the port is dropped (R428). -/
def guarded (p : Port) (b : Nat) (f : State → State) (s : State) : State :=
  if permitted p b s then f (dropHeld p s) else deny (dropHeld p s)

/-- The main side does nothing: it is down (R419), or a thermal trip has stopped CLK_CORE (R406). -/
def mainStopped (s : State) : Bool := s.pwr.mainDown || s.pwr.thermTrip

/-- EVT_IRQ (R434): its level follows the pending and enabled events, and is kept while CLK_CORE is gated. -/
def evtIrq (s : State) : Bool := if s.pwr.gated then s.evt.held else s.evt.pending &&& s.evt.mask != 0

/-- A write to a register or window of the main side: while the main side is down or stopped nothing there answers (R406, R419). -/
def onMain (p : Port) (b : Nat) (f : State → State) (s : State) : State :=
  if mainStopped s then s else guarded p b f s

/-- A write to a register of the keep island: the host window is not served while the main side is down (R423). -/
def onKeep (p : Port) (b : Nat) (f : State → State) (s : State) : State :=
  if p = .host ∧ mainStopped s then s else guarded p b f s

/-- R421: an access of 1 to 64 bytes within one 64-byte block, inside a window of `size` bytes. -/
def oneBlock (size off n : Nat) : Bool :=
  decide (1 ≤ n) && decide (n ≤ 64) && off / 64 == (off + n - 1) / 64 && decide (off + n ≤ size)

/-- A write of bytes into a window of the main side; any other access, and one to a reserved offset, is ignored without a flag (R421). -/
def onWindow (p : Port) (b : Nat) (ok : Bool) (f : State → State) (s : State) : State :=
  if mainStopped s then s else if ok then guarded p b f s else dropHeld p s

/-! ## Events -/

/-- Unread entries of the log (Table 19-9). -/
def unread (e : EvtUnit) : Nat := (e.wr + 2 ^ 16 - e.rd) % 2 ^ 16

/-- R430: write the entry if fewer than 256 are unread, otherwise count it lost; the pending bit is set either way. -/
def logEvent (e : EvtUnit) (x : EvtEntry) : EvtUnit :=
  let pend := e.pending ||| BitVec.ofNat 15 (2 ^ x.code)
  if unread e < 256 then
    { e with log := sput e.log (e.wr % 256) (some x), wr := (e.wr + 1) % 2 ^ 16, pending := pend }
  else { e with lost := satInc 0xFFFF e.lost, pending := pend }

/-- The tide of a record: CRS_TIDE, or while the main side is down that of the keep island (Table 19-8). -/
def tideNow (s : State) : Nat := if s.pwr.mainDown then s.isl.tide else s.crs.tide

/-- Raise an event on this cycle (R430, R431). While the main side is down the keep island records it and it is raised
when the main side comes up (R419). -/
def raise (code : Nat) (cmd : Option (Nat × Nat)) (d0 d1 : Nat) (s : State) : State :=
  let x : EvtEntry := ⟨code, cmd, tideNow s, d0 % 2 ^ 64, d1 % 2 ^ 64⟩
  if s.pwr.mainDown then { s with evt := { s.evt with kept := s.evt.kept ++ [x] } }
  else { s with evt := logEvent s.evt x }

def evDeadlineMiss : Nat := 0x01
def evMismatch : Nat := 0x02
def evShardMigrate : Nat := 0x03
def evKeepSwitchover : Nat := 0x04
def evTestFail : Nat := 0x05
def evSpareExhausted : Nat := 0x06
def evRepairDone : Nat := 0x07
def evPoisonConsumed : Nat := 0x08
def evManifestApplied : Nat := 0x09
def evManifestRefused : Nat := 0x0A
def evTowlineTimeout : Nat := 0x0B
def evThrottle : Nat := 0x0C
def evVneg : Nat := 0x0D
def evFullmask : Nat := 0x0E

/-- R77, R79, R80, R82, R86, R386: every manifest refusal sets REASON and raises MANIFEST_REFUSED with MAN_STAGED_TAG. -/
def refuseManifest (reason : Nat) (s : State) : State :=
  let tag := match s.man.stagedConf with | some m => if s.man.stage = .verified then m.tag else 0 | none => 0
  raise evManifestRefused none reason tag { s with man := { s.man with reason := reason } }

/-! ## Ledger and queue -/

def ldgAccepted (s : State) (b : Nat) : Nat := sget 0 s.keep.accepted b
def ldgCompleted (s : State) (b : Nat) : Nat := sget 0 s.keep.completed b
def ldgCommitSeq (s : State) (b : Nat) : Nat := sget 0 s.keep.commitSeq b

/-- The entries of one berth, oldest first. -/
def berthEntries (s : State) (b : Nat) : List Entry := s.cq.entries.filter (fun e => e.berth == b)

/-- The oldest uncompleted command of a berth (CQ_HEAD). -/
def berthHead (s : State) (b : Nat) : Option Entry := (berthEntries s b).head?

/-- An entry of the queue by berth and sequence number. -/
def findEntry (s : State) (b seq : Nat) : Option Entry := s.cq.entries.find? (fun e => e.berth == b && e.seq == seq)

/-- Replace an entry, keeping its place. -/
def setEntry (e : Entry) (s : State) : State :=
  { s with cq := { s.cq with
      entries := s.cq.entries.map (fun x => if x.berth == e.berth && x.seq == e.seq then e else x) } }

/-- Remove an entry. -/
def dropEntry (b seq : Nat) (s : State) : State :=
  { s with cq := { s.cq with entries := s.cq.entries.filter (fun x => !(x.berth == b && x.seq == seq)) } }

/-- The command a berth has under way: its oldest entry that has been taken for issue and has not formed its outputs;
failing that, its next untaken entry. -/
def berthNext (s : State) (b : Nat) : Option Entry := (berthEntries s b).find? (fun e => e.life ≠ .ran)

/-! ## The keep island (R400, R401) -/

/-- The record of a block, over which its seal is formed. The spec gives the seal and not the record's layout (log entry 157). -/
def keepRecord (b : KeepBlock) (k : Keep) : List Byte :=
  let pair := fun (x : Nat × Nat) => leBytes 8 (x.1 + x.2 * 2 ^ 48)
  match b with
  | .accepted n => leBytes 6 (sget 0 k.accepted n)
  | .completed n => leBytes 6 (sget 0 k.completed n)
  | .landing => pair k.landing
  | .commit => pair k.committed ++ (List.range 32).flatMap (fun n => leBytes 6 (sget 0 k.commitSeq n))
  | .crossing => leBytes 1 (bit k.crossCopy.isSome) ++ pair (k.crossCopy.getD (0, 0)) ++ leBytes 8 k.crossBase ++
      (List.range 17).flatMap (fun g => leBytes 4 (sget 0 k.colls g))
  | .tag => leBytes 1 (bit k.keptTag.isSome) ++ leBytes 8 (k.keptTag.getD 0) ++ leBytes 2 k.keptPermMgr
  | .repair => k.repair.rows.flatMap (fun m => leBytes 4 (m.region + 8 * m.bank + 1024 * m.row + 2 ^ 18 * m.spare)) ++
      k.repair.spares.flatMap (fun x => leBytes 2 (x.1 + 8 * x.2.1 + 16 * x.2.2)) ++
      k.repair.worn.flatMap (fun x => leBytes 1 (x.1 + 8 * x.2)) ++ k.repair.retired.flatMap (leBytes 1)

/-- A block's record taken from one copy into another. -/
def copyBlock (b : KeepBlock) (src dst : Keep) : Keep :=
  match b with
  | .accepted n => { dst with accepted := sset 0 dst.accepted n (sget 0 src.accepted n) }
  | .completed n => { dst with completed := sset 0 dst.completed n (sget 0 src.completed n) }
  | .landing => { dst with landing := src.landing }
  | .commit => { dst with committed := src.committed, commitSeq := src.commitSeq }
  | .crossing => { dst with crossCopy := src.crossCopy, crossBase := src.crossBase, colls := src.colls }
  | .tag => { dst with keptTag := src.keptTag, keptPermMgr := src.keptPermMgr }
  | .repair => { dst with repair := src.repair }

/-- The cell of a block. -/
def cellOf (i : Island) (b : KeepBlock) : KeepCell := (i.cells.find? (fun c => c.block == b)).getD ⟨b, false, 0, 0⟩

/-- Put a cell back. -/
def putCell (c : KeepCell) (i : Island) : Island := { i with cells := i.cells.filter (fun x => x.block != c.block) ++ [c] }

/-- A block's select cell flips (R400 cycle 12, R401). -/
def flipCell (c : KeepCell) : KeepCell := { c with second := !c.second }

/-- The seal of the current copy. -/
def setSeal (v : Nat) (c : KeepCell) : KeepCell := if c.second then { c with seal1 := v } else { c with seal0 := v }

/-- A write of the keep island (R400): the record goes into the copies of its blocks that are not current, is sealed, and becomes current; the
main side's shadow follows. -/
def journal (bs : List KeepBlock) (k : Keep) (s : State) : State :=
  let i := bs.foldl (fun i b => putCell (setSeal (crc32 (keepRecord b k)) (flipCell (cellOf i b)))
    { i with other := copyBlock b s.keep i.other }) s.isl
  { s with keep := k, isl := { i with shadow := some k } }

/-- A write that had not reached its cycle 12 is torn (R401): the select cell names the earlier copy. -/
def tearBlock (b : KeepBlock) (s : State) : State :=
  { s with keep := copyBlock b s.isl.other s.keep
           isl := putCell (flipCell (cellOf s.isl b)) { s.isl with other := copyBlock b s.keep s.isl.other } }

/-! ## Landing-latched writes -/

/-- A write to a landing-latched register becomes pending; a later write to the same register wins (R49). -/
def latch (reg value : Nat) (s : State) : State :=
  { s with crs := { s.crs with pendingLL := sput s.crs.pendingLL reg (some value) } }

/-- The value of a register in a list of latched writes. -/
def llValue (xs : PendingLL) (reg : Nat) : Option Nat := (xs.find? (fun p => p.1 == reg)).map (·.2)

/-- The last value written to a landing-latched register, while it has not taken effect (R8, R49): a later decided landing
holds a later write. -/
def pendingOf (s : State) (reg : Nat) : Option Nat :=
  match llValue s.crs.pendingLL reg with
  | some v => some v
  | none => (s.crs.decided.reverse.findSome? (fun d => llValue d.ll reg)) <|> (s.crs.run.bind (fun r => llValue r.ll reg))

def llLookahead : Nat := 0
def llLeash : Nat := 1
def llMirror : Nat := 2
def llKenReq : Nat := 3
def llBerthGroup (b : Nat) : Nat := 32 + b

/-! ## Settings in force -/

/-- Protection level in force (R356); unprotected with no manifest. -/
def protection (s : State) : Nat := match s.man.active with | some m => m.protection | none => 0

/-- Timed mode (R61). -/
def timedMode (s : State) : Bool := match s.man.active with | some m => m.timed | none => false

/-- The agreement tag in force, MAN_ACTIVE_TAG. -/
def activeTag (s : State) : Nat := match s.man.active with | some m => m.tag | none => 0

/-- MAN_STAGED_TAG: zero unless STAGE_STATE is verified (Table 3-12). -/
def stagedTag (s : State) : Nat :=
  match s.man.stagedConf with | some m => if s.man.stage = .verified then m.tag else 0 | none => 0

/-- Every region cache is invalidated as a whole (R21). -/
def dropCaches (s : State) : State := { s with rtv := { s.rtv with cache := [] } }

/-- The region caches of the regions of masked clusters are invalidated (R21, R173). -/
def dropCachesOf (mask : Nat) (s : State) : State :=
  { s with rtv := { s.rtv with
      cache := s.rtv.cache.filter (fun x => !(List.range 4).any (fun q => mask.testBit (4 * x.region + q))) } }

/-- Whether a manifest application is under way (R84, R172). -/
def installing (s : State) : Bool :=
  match s.crs.run with
  | some r => r.stage != .closing
  | none => s.man.applyNow

/-- The physical position of a logical cluster (R16). -/
def physPos (s : State) (l : Nat) : Nat := ((s.ken.map.getD (l / 4) KenUnit.startRow)).getD (l % 4) 0

/-- The index of the physical cluster that serves a logical one. -/
def physIndex (s : State) (l : Nat) : Nat := 5 * (l / 4) + physPos s l

end Sys2Proof.Machine
end

