-- ==== Sys2Proof/Machine/Descriptor.lean ====
section
/-! DEFINITION. The descriptors of Tables 11-2, 11-3 and 11-5, the sizes of operands (R264) and the element offsets of
R263. -/

namespace Sys2Proof.Machine

/-- An operand slot (Table 11-3). `fmt` and `rmode` are the codes, `stride0` is TENSOR for an output. -/
structure Slot where
  base : Nat
  fmt : Nat
  job : Bool
  rmode : Nat
  stride0 : Nat
  stride1 : Nat
  stride2 : Nat
  raw : Nat
deriving DecidableEq, Repr, Inhabited

/-- A descriptor, native or forerunner (R261, R266). `stages` are the eight stage words. `res0` is any RES0 bit of
bytes 0 to 7 set, or of the forerunner's other RES0 fields. `grouped`, which no byte holds: the command runs under a group (R330). -/
structure Desc where
  seq : Nat
  berth : Nat
  cls : Nat
  acc : Bool
  slip : Nat
  scalar : Nat
  res0 : Bool
  fore : Bool
  grouped : Bool
  stages : List Nat
  vlen : Nat
  landing : Nat
  deadline : Nat
  n0 : Nat
  n1 : Nat
  n2 : Nat
  n3 : Nat
  nx : Nat
  window : Nat
  in0 : Slot
  in1 : Slot
  in2 : Slot
  in3 : Slot
  out0 : Slot
  out1 : Slot
deriving DecidableEq, Repr, Inhabited

/-- The little-endian number in bytes `[off, off + n)` of a list. -/
def bytesAt (bs : List Byte) (off n : Nat) : Nat := leNat ((bs.drop off).take n)

/-- A slot from its 14 bytes read as one number (Table 11-3). -/
def slotOf (w : Nat) : Slot :=
  { base := bitsOf w 39 0, fmt := bitsOf w 43 40, job := w.testBit 44, rmode := bitsOf w 47 45,
    stride0 := bitsOf w 63 48, stride1 := bitsOf w 87 64, stride2 := bitsOf w 111 88, raw := w }

/-- A slot that no byte names: absent (R262). -/
def Slot.absent : Slot := slotOf 0

/-- A slot whose 14 bytes are all zero is absent (R262). -/
def Slot.present (x : Slot) : Bool := x.raw != 0

/-- The descriptor of Table 11-2. -/
def nativeDesc (bs : List Byte) : Desc :=
  let w := bytesAt bs 0 8
  let v := bytesAt bs 24 8
  let n := bytesAt bs 32 12
  { seq := bitsOf w 47 0, berth := bitsOf w 52 48, cls := bitsOf w 55 53, acc := w.testBit 56, slip := bitsOf w 58 57,
    scalar := bitsOf w 62 59, res0 := w.testBit 63, fore := false, grouped := false,
    stages := (List.range 8).map (fun k => bytesAt bs (8 + 2 * k) 2),
    vlen := bitsOf v 23 0, landing := bitsOf v 39 24, deadline := bitsOf v 63 40,
    n0 := bitsOf n 23 0, n1 := bitsOf n 47 24, n2 := bitsOf n 59 48, n3 := bitsOf n 71 60, nx := bitsOf n 87 72,
    window := bitsOf n 95 88,
    in0 := slotOf (bytesAt bs 44 14), in1 := slotOf (bytesAt bs 58 14), in2 := slotOf (bytesAt bs 72 14),
    in3 := slotOf (bytesAt bs 86 14), out0 := slotOf (bytesAt bs 100 14), out1 := slotOf (bytesAt bs 114 14) }

/-- A forerunner's slot: bits [47:0] and [87:64] of Table 11-3 in 9 bytes, with the given bits [63:48] and SPACE 0 (R266; a SPACE bit that
is set is not read: log entry 154). A slot whose nine bytes are zero is absent. -/
def foreSlot (w s0 : Nat) : Slot :=
  if w = 0 then .absent else { slotOf (bitsOf w 47 0 + s0 * 2 ^ 48 + bitsOf w 71 48 * 2 ^ 64) with job := false }

/-- The descriptor of Table 11-5 as a CHAIN command (R139, R266). Its sequence number is the one nearest to the number
`e` expected next: with the low 32 bits given, in [e − 2^31, e + 2^31). -/
def foreDesc (bs : List Byte) (e : Nat) : Desc :=
  let w := bytesAt bs 0 8
  let v := bytesAt bs 16 8
  let low := bitsOf w 31 0
  let base : Int := (e : Int) - 2 ^ 31
  let s : Int := base + (((low : Int) - base) % 2 ^ 32)
  { seq := s.toNat, berth := bitsOf w 36 32, cls := 1, acc := false, slip := 0, scalar := bitsOf w 40 37,
    res0 := bitsOf w 63 41 != 0 || bitsOf v 63 40 != 0 || bytesAt bs 59 5 != 0, fore := true, grouped := false,
    stages := (List.range 4).map (fun k => bytesAt bs (8 + 2 * k) 2) ++ [0, 0, 0, 0],
    vlen := bitsOf v 23 0, landing := bitsOf v 39 24, deadline := 0,
    n0 := bytesAt bs 24 3, n1 := bytesAt bs 27 3, n2 := 1, n3 := 1, nx := 0, window := 0xFF,
    in0 := foreSlot (bytesAt bs 32 9) 1, in1 := foreSlot (bytesAt bs 41 9) 1, in2 := .absent, in3 := .absent,
    out0 := foreSlot (bytesAt bs 50 9) (bytesAt bs 30 2), out1 := .absent }

/-- The descriptor of an accepted command. -/
def Entry.desc (e : Entry) : Desc :=
  { (if e.fore then { foreDesc e.bytes e.seq with seq := e.seq } else nativeDesc e.bytes) with grouped := e.coll.isSome }

/-- The input slot of an index. -/
def Desc.input (d : Desc) (i : Nat) : Slot :=
  match i with | 0 => d.in0 | 1 => d.in1 | 2 => d.in2 | _ => d.in3

/-- Operand slots 0–5, IN0–IN3, OUT0, OUT1 (Table 12-8). -/
def Desc.slot (d : Desc) (i : Nat) : Slot :=
  match i with | 0 => d.in0 | 1 => d.in1 | 2 => d.in2 | 3 => d.in3 | 4 => d.out0 | _ => d.out1

/-- A logical shape (R264), dimension 0 last named: sizes along dimensions 0, 1, 2 and 3. -/
structure Shape where
  n0 : Nat
  n1 : Nat
  n2 : Nat
  n3 : Nat
deriving DecidableEq, Repr, Inhabited

/-- Elements of a shape. -/
def Shape.size (h : Shape) : Nat := h.n0 * h.n1 * h.n2 * h.n3

/-- The command's own shape. -/
def Desc.shape (d : Desc) : Shape := ⟨d.n0, d.n1, d.n2, d.n3⟩

/-- R263: the element offset of a coordinate from BASE, with dimension-0 stride `s0`. -/
def elemOffset (x : Slot) (h : Shape) (s0 : Nat) (c : Coord) : Nat :=
  c.i0 * s0 + c.i1 * x.stride1 + (c.i2 + c.i3 * h.n2) * 64 * x.stride2

/-- The greatest element offset of a shape: strides are not negative, so it is that of the last element. -/
def lastOffset (x : Slot) (h : Shape) (s0 : Nat) : Nat :=
  elemOffset x h s0 ⟨h.n3 - 1, h.n2 - 1, h.n1 - 1, h.n0 - 1⟩

/-- The commands that a run row serves, by class and, in FUSED_ROW and MAC, by operation. -/
inductive Kind where
  | chain | fore | normFwd | rmsFwd | normBwd | rmsBwd | smaxFwd | smaxBwd | matmul | load | store | attn | marker
deriving DecidableEq, Repr, Inhabited

/-- The 64-bit parameter of FUSED_ROW and MAC commands, stage words 0 to 3 (R207, R237). -/
def Desc.param (d : Desc) : Nat :=
  d.stages.getD 0 0 + d.stages.getD 1 0 * 2 ^ 16 + d.stages.getD 2 0 * 2 ^ 32 + d.stages.getD 3 0 * 2 ^ 48

/-- Which kind a descriptor is (Table 11-2, Tables 9-1 and 10-2). A reserved class is handled with CHAIN, a reserved
FUSED_ROW operation with NORM_FWD and a reserved MAC operation with MATMUL, where its checks refuse it (log entry 30). -/
def Desc.kind (d : Desc) : Kind :=
  if d.fore then .fore
  else match d.cls with
  | 2 => match bitsOf d.param 3 0 with
    | 2 => .rmsFwd | 3 => .normBwd | 4 => .rmsBwd | 5 => .smaxFwd | 6 => .smaxBwd | _ => .normFwd
  | 3 => match bitsOf d.param 3 0 with
    | 2 => .load | 3 => .store | 4 => .attn | _ => .matmul
  | 4 => .marker
  | _ => .chain

end Sys2Proof.Machine
end

