-- ==== Sys2Proof/Machine/Marks.lean ====
section
/-! DEFINITION. Poison marks of scratchpad lines (R312) and of job-memory sectors (R300), the spans of a command's
outputs, and marking every output storage unit of a command that ends early (Table 11-9). -/

namespace Sys2Proof.Machine

/-- Whether a scratchpad line (address / 64) carries its poison mark (R312, R313). -/
def lineMarked (s : State) (line : Nat) : Bool := !(sget false s.sp.clean line)

/-- Set or clear the mark of a line. -/
def setMark (line : Nat) (mark : Bool) (s : State) : State :=
  { s with sp := { s.sp with clean := sset false s.sp.clean line (!mark) } }

/-- Number of 16 × 64 tiles of a shape (R111). -/
def Shape.tiles (h : Shape) : Nat := ceilDiv h.n1 16 * h.n2 * h.n3 * ceilDiv h.n0 64

/-- Kind of a stage word (R114). -/
def stageKind (w : Nat) : Nat := bitsOf w 15 12

/-- The stage words up to the first NONE (R114). -/
def Desc.chainStages (d : Desc) : List Nat := d.stages.takeWhile (fun w => stageKind w != 0)

/-- The REDUCE stage that writes output `i` with its results (`companion` false) or with the indices of MAXI and MINI
(R190). -/
def Desc.reduceTo (d : Desc) (i : Nat) (companion : Bool) : Option Nat :=
  d.chainStages.find? (fun w =>
    stageKind w == 7 &&
      (if companion then (bitsOf w 11 8 == 2 || bitsOf w 11 8 == 3) && bit (w.testBit 1) + i == 1
       else bit (w.testBit 1) == i))

/-- W of R190: 24 for the raw readout of R196, 1 otherwise. -/
def reduceW (w fmt : Nat) : Nat := if 10 ≤ bitsOf w 11 8 ∧ fmt = 12 then 24 else 1

/-- A chain that compresses and does not expand writes its counts to output 1 (R127). -/
def Desc.countsOut (d : Desc) : Bool :=
  d.chainStages.any (fun w => stageKind w == 9) && !d.chainStages.any (fun w => stageKind w == 10)

/-- Table 11-4, CHAIN: the shape of output `i`. Under a group, an index output with room for a second element takes the winner's chain
position there (R330). -/
def chainOutShape (d : Desc) (i : Nat) : Shape :=
  let fmt := (d.slot (4 + i)).fmt
  match d.reduceTo i false, d.reduceTo i true with
  | some w, _ =>
    if w.testBit 3 then ⟨reduceW w fmt, 1, 1, 1⟩ else ⟨reduceW w fmt, d.n1, d.n2, d.n3⟩
  | none, some w =>
    if w.testBit 3 then ⟨if d.grouped ∧ 2 ≤ (d.slot (4 + i)).stride1 then 2 else 1, 1, 1, 1⟩ else ⟨1, d.n1, d.n2, d.n3⟩
  | none, none => if i = 1 ∧ d.countsOut then ⟨d.shape.tiles, 1, 1, 1⟩ else d.shape

/-- The logical shape of an output (Table 11-4): output 0 or 1 of a command. -/
def outShape (d : Desc) (i : Nat) : Shape :=
  match d.kind with
  | .matmul => ⟨d.nx, d.n1, d.n2, d.n3⟩
  | .store => ⟨64 * Config.clusters, 16, 1, 1⟩
  | .attn => if i = 0 then ⟨d.nx, d.n1, d.n2, d.n3⟩ else ⟨1, d.n1, d.n2, d.n3⟩
  | .smaxFwd => if i = 0 then d.shape else ⟨1, d.n1, d.n2, d.n3⟩
  | .normFwd | .rmsFwd => if i = 0 then d.shape else ⟨2, d.n1, d.n2, d.n3⟩
  | .normBwd | .rmsBwd => if i = 0 then d.shape else ⟨d.n0, 2, ceilDiv d.n1 16 * d.n2 * d.n3, 1⟩
  | .smaxBwd | .load | .marker => d.shape
  | .chain | .fore => chainOutShape d i

/-- Bits of an element of a format code (Table 4-1). -/
def codeBits (code : Nat) : Nat :=
  match code with
  | 0 => 32 | 1 => 16 | 2 => 16 | 3 => 8 | 4 => 8 | 5 => 8 | 6 => 8 | 7 => 6 | 8 => 6 | 9 => 4 | 10 => 8
  | 11 => 8 | 12 => 32 | 13 => 1 | _ => 32

/-- Whether a format code is an MX one (Table 4-1). -/
def codeIsMx (code : Nat) : Bool := decide (5 ≤ code) && decide (code ≤ 10)

/-- Bytes of the element plane that hold element offsets `0 … last`, with the padding of a last 3-byte group (R91). -/
def planeBytes (code last : Nat) : Nat :=
  if codeBits code = 6 then ceilDiv (last + 1) 4 * 3 else ceilDiv ((last + 1) * codeBits code) 8

/-- The scale plane of an MX operand begins at the first 64-byte boundary after its element plane (R92, R263). -/
def scaleBase (x : Slot) (last : Nat) : Nat := (x.base + planeBytes x.fmt last + 63) / 64 * 64

/-- The span in bytes of an operand whose last element offset is `last`: its element plane, and the scale plane of an MX
operand (R92, R263). -/
def spanBytes (x : Slot) (last : Nat) : Nat :=
  if codeIsMx x.fmt then scaleBase x last + last / 32 + 1 - x.base else planeBytes x.fmt last

/-- Whether a command writes output `i`: a chain names it; STATS asks for it; a MATMUL drains (Tables 9-2, 10-3, R122,
R127, R128). -/
def Desc.writesOut (d : Desc) (i : Nat) : Bool :=
  match d.kind with
  | .chain | .fore =>
    d.chainStages.any (fun w => stageKind w == 11 && bit (w.testBit 11) == i) || (d.reduceTo i false).isSome ||
      (d.reduceTo i true).isSome || (i == 1 && d.countsOut)
  | .normFwd | .rmsFwd | .normBwd | .rmsBwd | .smaxFwd => i == 0 || d.param.testBit 6
  | .smaxBwd | .store => i == 0
  | .matmul => i == 0 && d.param.testBit 4
  | .attn => i == 0 || d.param.testBit 23
  | .load | .marker => false

/-- BASE and length in bytes of the span of an output (R282, R304); length 0 when the command has no such output. -/
def outSpan (d : Desc) (i : Nat) : Nat × Nat :=
  let x := d.slot (4 + i)
  let h := outShape d i
  if x.present && d.writesOut i && decide (0 < h.size) then (x.base, spanBytes x (lastOffset x h 1)) else (x.base, 0)

/-- The 64-byte units that `n` bytes from an address touch. -/
def unitsOf (a n : Nat) : List Nat := if n = 0 then [] else (List.range ((a + n - 1) / 64 + 1 - a / 64)).map (· + a / 64)

/-- Every row of a shape. -/
def Shape.allRows (h : Shape) : List Coord :=
  (List.range h.n3).flatMap (fun i3 => (List.range h.n2).flatMap (fun i2 => (List.range h.n1).map (fun i1 => ⟨i3, i2, i1, 0⟩)))

/-- The storage units (address / 64) that hold an output's elements and scales: not those between strided rows. -/
def outUnits (d : Desc) (i : Nat) : List Nat :=
  let x := d.slot (4 + i)
  let h := outShape d i
  if (outSpan d i).2 = 0 then []
  else
    let sb := scaleBase x (lastOffset x h 1)
    let w := codeBits x.fmt
    ((h.allRows).flatMap (fun c =>
      let o := elemOffset x h 1 c
      unitsOf (x.base + o * w / 8) (ceilDiv (o * w % 8 + h.n0 * w) 8) ++
        (if codeIsMx x.fmt then unitsOf (sb + o / 32) ((o + h.n0 - 1) / 32 + 1 - o / 32) else []))).eraseDups

/-- A write request that carries poison indications and no bytes, one per 512-byte block with a unit (R304). An OUT1 block that OUT0 has too
is one request (R297). -/
def poisonUnits (slot : Nat) (us : List Nat) : List WBlock :=
  ((us.map (· / 8)).eraseDups).map (fun b =>
    { addr := b * 512, bytes := [], slot := slot, poison := (List.range 8).filter (fun k => us.contains (8 * b + k)), held := [],
      areas := [] })

/-- Table 11-9: every output storage unit of a command is marked poisoned, lines of the scratchpad at once and sectors of
job memory through WRITE tags. A command that FAIL ends marks every sector of its job-memory spans (R304). The entry's own
unsent writes are dropped. -/
def poisonOutputs (e : Entry) (s : State) : State :=
  let d := e.desc
  let units := fun (i : Nat) =>
    if (d.slot (4 + i)).job && e.res.fault.isSome then unitsOf (outSpan d i).1 (outSpan d i).2 else outUnits d i
  let mine := fun (i : Nat) => if (d.slot (4 + i)).job then units i else []
  let first := mine 0
  let jobs := poisonUnits 4 (first ++ (mine 1).filter (fun u => first.any (fun v => v / 8 == u / 8))) ++
    poisonUnits 5 ((mine 1).filter (fun u => !first.any (fun v => v / 8 == u / 8)))
  let lines := fun (i : Nat) => if (d.slot (4 + i)).job then [] else units i
  setEntry { e with writes := jobs } ((lines 0 ++ lines 1).foldl (fun t u => setMark u true t) s)

/-- Whether a landing index is judged against the current segment (R38): between two crossings it is not. -/
def inCrossing (s : State) : Bool :=
  (decide (s.crs.phase = .inSegment) || decide (s.crs.phase = .fullLanding)) && s.crs.landing != 0xFFFF

/-- R351: the segment of a landing index holds a command that ended with ABORT, FAULT_XLATE or CAP_EXCEEDED. -/
def invalidateSegment (landing : Nat) (s : State) : State :=
  { s with dgst := { s.dgst with
      segs := sset .zero s.dgst.segs landing { sget .zero s.dgst.segs landing with invalid := true } } }

/-- Whether a command belongs to the crossing that opens next: none is in progress, or a marker of the crossing end stands before it in its
berth (log entry 85). -/
def ofNext (s : State) (e : Entry) : Bool :=
  !(inCrossing s) || s.cq.entries.any (fun x => x.berth == e.berth && decide (x.seq < e.seq) && decide (x.desc.kind = .marker) && x.desc.landing == 0xFFFF)

/-- The segment of a command that ends early is INVALID; one of the next crossing is so from its opening (R351, log entry 85). -/
def invalidateFor (e : Entry) (s : State) : State :=
  if ofNext s e then
    { s with dgst := { s.dgst with
        nextInvalid := if s.dgst.nextInvalid.contains e.desc.landing then s.dgst.nextInvalid else s.dgst.nextInvalid ++ [e.desc.landing] } }
  else invalidateSegment e.desc.landing s

end Sys2Proof.Machine
end

