-- ==== Sys2Proof/Machine/Command.lean ====
section
/-! DEFINITION. Submission, responses, completion, aborts and result windows (chapter 11). -/

namespace Sys2Proof.Machine

/-! ## Submission (R257–R260) -/

/-- Whether the keep island is failing, so that nothing is accepted (R401). -/
def islandFailing (s : State) : Bool := s.pwr.keepFail || s.pwr.sealCheck

/-- Table 11-1, given the permission: the response code of a submission judged now. -/
def judge (s : State) (allowed : Bool) (berth seq : Nat) : Nat :=
  let a := ldgAccepted s berth
  if !allowed then 5
  else if seq = 0 then 3
  else if seq ≤ a then 2
  else if a + 1 < seq then 3
  else if 2 ^ 48 ≤ seq then 3
  else if 256 ≤ s.cq.entries.length || islandFailing s then 4
  else 1

/-- The entry of an accepted command. -/
def newEntry (s : State) (path : SubPath) (fore : Bool) (berth seq : Nat) (bytes : List Byte) (bank : List Word32) :
    Entry :=
  { berth := berth, seq := seq, ord := s.cq.acceptCount, core := path == .core, fore := fore, bytes := bytes,
    bank := bank, life := .queued, crossing := 0, vlen := 0, gen := 0, lookahead := 0, deadline := none, coll := none,
    taken := false, started := false, pos := 0, front := [], stats := [], got := [], held := [], bad := [], faults := [], suspended := false,
    aside := false, fin := [],
    tow := [], writes := [], reds := [], lads := [], recs := [], outs := [], rows := [], emitted := [], tiles := 0, sigs := [],
    own := [], banks := [], sent := [], rowIn := [], pieces := [], stop := false, res := .zero }

/-- The master that a path belongs to for permission bit 0 (R257). -/
def SubPath.port : SubPath → Port
  | .mgr => .mgr
  | _ => .host

/-- A submission reaches the engine and is judged (R259): its response waits, and an accepted one is journaled and
queued at once. -/
def submit (path : SubPath) (fore : Bool) (bytes : List Byte) (bank : List Word32) (s : State) : State :=
  let b := if fore then (foreDesc bytes 0).berth else (nativeDesc bytes).berth
  let q := if fore then (foreDesc bytes (ldgAccepted s b + 1)).seq else (nativeDesc bytes).seq
  let code := judge s (permitted path.port 0 s) b q
  let s1 := { s with cq := { s.cq with responses := s.cq.responses ++ [⟨path, code, b, q⟩] } }
  if code = 1 then
    journal [.accepted b] { s1.keep with accepted := sset 0 s1.keep.accepted b q }
      { s1 with cq := { s1.cq with entries := s1.cq.entries ++ [newEntry s path fore b q bytes bank],
                                   acceptCount := s1.cq.acceptCount + 1 } }
  else s1

/-- Whether the submission paths are open: the main side is up (R419, R423) and no reset drains (log entry 31). -/
def portsOpen (s : State) : Bool := !(mainStopped s) && s.pwr.draining.isNone

/-- A submission arrives on a path. A gated engine wakes first, and the submission reaches it on the edge on which the
clocks restart (R408). -/
def arrive (path : SubPath) (fore : Bool) (bytes : List Byte) (bank : List Word32) (s : State) : State :=
  if !portsOpen s then s
  else if s.pwr.gated then
    { s with cq := { s.cq with asleep := s.cq.asleep ++ [⟨path, fore, bytes, bank⟩] },
             pwr := { s.pwr with waking := true } }
  else submit path fore bytes bank s

/-- The scalar bank of the core port: the low 32 bits of its 16 values (R133, R258). -/
def coreBank (scalar : List Word64) : List Word32 :=
  (List.range 16).map (fun j => (scalar.getD j 0).setWidth 32)

/-- CORE_SUBMIT (R267): the descriptor that CORE_SUB_FMT selects, with its bank. -/
def execCoreSubmit (fmt : Bool) (data : List Byte) (scalar : List Word64) (s : State) :
    Host.Outcome State Fault Refusal :=
  .next (arrive .core fmt (if fmt then data.take 64 else data.take 128) (coreBank scalar) s)

/-- Bytes written into a submission buffer. -/
def bufWrite (buf : List (Nat × Byte)) (off : Nat) (bytes : List Byte) : List (Nat × Byte) :=
  (bytes.zipIdx).foldl (fun b x => sset 0 b (off + x.2) x.1) buf

/-- Bytes `[off, off + n)` of a submission buffer. -/
def bufRead (buf : List (Nat × Byte)) (off n : Nat) : List Byte := (List.range n).map (fun i => sget 0 buf (off + i))

/-- The scalar bank in a submission window from a byte offset: entry e in bytes off + 4e to off + 4e + 3. -/
def bufBank (buf : List (Nat × Byte)) (off : Nat) : List Word32 :=
  (List.range 16).map (fun e => BitVec.ofNat 32 (leNat (bufRead buf (off + 4 * e) 4)))

/-- The path of a port's window. -/
def portPath : Port → SubPath
  | .host => .host
  | .mgr => .mgr

/-- The part of a window write that lies in the window. -/
def clipWindow (size off : Nat) (bytes : List Byte) : List Byte := bytes.take (size - off)

/-- A write to CQ_SUBMIT (R257): the bytes stay in the port's buffer; one that covers byte 127 is a submission. Without
permission bit 0 a submission receives DENIED, and the write itself is refused (R427, Table 19-5). -/
def cqSubmitWrite (p : Port) (off : Nat) (bytes : List Byte) (s0 : State) : State :=
  let s := dropHeld p s0
  let bs := clipWindow 192 off bytes
  let buf := bufWrite (match p with | .host => s.cq.bufHost | .mgr => s.cq.bufMgr) off bs
  let s1 := match p with
    | .host => { s with cq := { s.cq with bufHost := buf } }
    | .mgr => { s with cq := { s.cq with bufMgr := buf } }
  let s2 := if permitted p 0 s then s1 else deny s
  if off ≤ 127 ∧ 127 < off + bs.length then arrive (portPath p) false (bufRead buf 0 128) (bufBank buf 128) s2 else s2

/-- A write to CQ_SUBMIT64 (R257, R266). -/
def cqSubmit64Write (p : Port) (off : Nat) (bytes : List Byte) (s0 : State) : State :=
  let s := dropHeld p s0
  let bs := clipWindow 128 off bytes
  let buf := bufWrite (match p with | .host => s.cq.buf64Host | .mgr => s.cq.buf64Mgr) off bs
  let s1 := match p with
    | .host => { s with cq := { s.cq with buf64Host := buf } }
    | .mgr => { s with cq := { s.cq with buf64Mgr := buf } }
  let s2 := if permitted p 0 s then s1 else deny s
  if off ≤ 63 ∧ 63 < off + bs.length then arrive (portPath p) true (bufRead buf 0 64) (bufBank buf 64) s2 else s2

/-- CQ_SUBMIT: a write of the window within one 64-byte block (R421). -/
def execCqSubmit (port : Port) (off : Nat) (bytes : List Byte) (s : State) : Host.Outcome State Fault Refusal :=
  .next (if !(portsOpen s) then s else if oneBlock 192 off bytes.length then cqSubmitWrite port off bytes s else dropHeld port s)

/-- CQ_SUBMIT64: a write of the window within one 64-byte block (R421). -/
def execCqSubmit64 (port : Port) (off : Nat) (bytes : List Byte) (s : State) : Host.Outcome State Fault Refusal :=
  .next (if !(portsOpen s) then s else if oneBlock 128 off bytes.length then cqSubmit64Write port off bytes s else dropHeld port s)

/-- SUBMISSION_RESPONSE (R259): the oldest judged submission receives its response, in the submitting master's CQ_ACK
register or on CORE_SUB_RESP. -/
def execSubmissionResponse (s : State) : Host.Outcome State Fault Refusal :=
  .next (if mainStopped s then s else match s.cq.responses with
    | [] => s
    | j :: rest =>
      let cq := { s.cq with responses := rest }
      match j.path with
      | .core => { s with cq := { cq with ackCore := j.code } }
      | .host => { s with cq := { cq with ackHost := j } }
      | .mgr => { s with cq := { cq with ackMgr := j } })

/-! ## Completion (R269, R277–R279) -/

/-- Table 11-9: the highest-ranked status that applies. -/
def Result.status (r : Result) : Nat :=
  if r.refused.isSome then 7
  else if r.abort ≠ 0 then 5
  else if r.fault.isSome then 4
  else if r.cap then 6
  else if r.mismatch then 2
  else if r.poisonOut then 1
  else if r.late then 3
  else 0

/-- DETAIL of Table 11-8. -/
def Result.detail (r : Result) : Nat :=
  match r.status with
  | 7 => r.refused.getD 0
  | 5 => r.abort
  | 4 => r.fault.getD 0
  | _ => 0

/-- The completion record (Table 11-8). -/
def completionRecord (s : State) (e : Entry) : List Word64 :=
  let d := e.desc
  let r := e.res
  [ packFields [(0, 48, e.seq), (48, 5, e.berth), (53, 3, d.cls), (56, 4, r.status)],
    packFields [(0, 48, e.crossing), (48, 16, d.landing)],
    packFields [(0, 7, if r.refused.isSome then 0 else r.flags.toNat), (8, 1, bit (0 < r.vneg)),
      (9, 1, bit (0 < r.masked)), (10, 1, bit r.late), (11, 1, bit r.mismatch), (12, 1, bit r.timeout),
      (13, 1, bit r.consumed.isSome), (16, 16, r.detail), (32, 8, d.window), (40, 16, e.gen)],
    packFields [(0, 32, r.charged), (32, 32, s.crs.tide)] ]

/-- Whether an output request of a command is still outstanding or unsent (R269, R297). -/
def writesOpen (s : State) (e : Entry) : Bool :=
  !e.writes.isEmpty ||
    s.rtv.out.any (fun q => q.write && (q.owner == .entry e.berth e.seq || q.owner == .trace e.berth e.seq)) ||
    s.rtv.posts.any (fun p => p.1 == .trace e.berth e.seq)

/-- Whether every row block of a grouped command has a final record or is voided, and no void of its own is still inside
its 2^20 cycles (R335). -/
def towDone (e : Entry) : Bool :=
  e.tow.all (fun t => (t.isVoid || t.final.isSome) && !(t.selfVoided && t.timer))

/-- Whether the oldest command of a berth may complete: its outputs have reached storage (R269), the pair comparisons
are over (R358) and its group is done (R335). A refused, aborted or failed command waits for its writes alone. -/
def mayComplete (s : State) (e : Entry) : Bool :=
  e.life == .ran && !writesOpen s e &&
    (e.res.refused.isSome || e.res.abort != 0 || e.res.fault.isSome || e.res.cap || (e.sigs.isEmpty && e.own.isEmpty && towDone e))

/-- The window that a command names becomes READY at its completion, whatever its status (R282). -/
def windowReady (d : Desc) (e : Entry) (s : State) : State :=
  if d.window < 128 ∧ e.res.refused.isNone then
    let w := sget default s.cq.wins d.window
    if w.st = 1 ∧ w.berth = e.berth ∧ w.seqLow = e.seq % 2 ^ 32 then
      { s with cq := { s.cq with wins := sset default s.cq.wins d.window { w with st := 2 } } }
    else s
  else s

/-- Complete one command (R269): the record, LDG_COMPLETED, the window, and the events raised at completion (R205, R222,
R301), in ascending code order (R430). -/
def complete (e : Entry) (s : State) : State :=
  let cmd := some (e.berth, e.seq)
  let r := e.res
  let d := e.desc
  let s1 := journal [.completed e.berth] { s.keep with completed := sset 0 s.keep.completed e.berth e.seq } { s with
    cq := { s.cq with
      rings := sput s.cq.rings (32 * e.berth + e.seq % 32) (some (completionRecord s e))
      hist := s.cq.hist ++ [(e.berth, e.seq, e.crossing, d.landing)] } }
  let s2 := dropEntry e.berth e.seq (windowReady d e s1)
  let quiet := r.refused.isSome
  let s3 := match r.consumed with
    | some a => if quiet then s2 else raise evPoisonConsumed cmd a 0 s2
    | none => s2
  let s4 := if 0 < r.vneg ∧ ¬quiet then raise evVneg cmd r.vneg r.vnegAt s3 else s3
  if 0 < r.masked ∧ ¬quiet then raise evFullmask cmd r.masked r.maskedAt s4 else s4

/-- Complete the oldest command of a berth if it may, and then each younger one that is a refusal already judged (R135:
a refused command completes on the cycle after its predecessor). `fuel` bounds the chain by the queue's length. -/
def completeRefused : Nat → Nat → State → State
  | 0, _, s => s
  | fuel + 1, b, s =>
    match berthHead s b with
    | none => s
    | some e => if e.res.refused.isSome && mayComplete s e then completeRefused fuel b (complete e s) else s

/-- COMMAND_COMPLETE (R269): the last output of a berth's oldest command has reached storage. -/
def execCommandComplete (berth : BitVec 5) (s : State) : Host.Outcome State Fault Refusal :=
  .next (if mainStopped s then s else match berthHead s berth.toNat with
    | none => s
    | some e => if mayComplete s e then completeRefused 256 berth.toNat (complete e s) else s)

/-! ## Abort, cap (R280, R281) -/

/-- The issue of a berth is free again, and a choice of the scheduler that fell on it is over (R274). -/
def releaseIssue (b : Nat) (s : State) : State :=
  { s with cq := { s.cq with issuing := if s.cq.issuing = some b then none else s.cq.issuing
                             chosen := if s.cq.chosen = some b then none else s.cq.chosen } }

/-- A command of a berth has left; the issue stays held where another command of that berth holds it (R280, R281). -/
def leaveIssue (b : Nat) (s : State) : State :=
  if (berthEntries s b).any (fun e => e.started && decide (e.life = .taken)) then s else releaseIssue b s

/-- A command that holds nothing between boundaries any more. -/
def Entry.shed (e : Entry) : Entry :=
  { e with suspended := false, aside := false, stop := false, held := [], faults := [], fin := [], reds := [], lads := [], recs := [], outs := [],
           rows := [], sigs := [], own := [], sent := [], rowIn := [], pieces := [] }

/-- End a command that is under way or queued: its outputs are marked poisoned, its segment is INVALID, and it waits to
complete (Table 11-9, R351). Where an older command of the berth ends, or one that is queued, the issue stays with the one that holds it. -/
def endEarly (e : Entry) (r : Result) (s : State) : State :=
  let e1 := { e.shed with life := .ran, res := r }
  leaveIssue e.berth (invalidateFor e1 (poisonOutputs e1 (setEntry e1 s)))

/-- Clear the fault record of a command, and record the next fault held (R303, R304). -/
def clearFault (b seq : Nat) (s : State) : State :=
  let q := s.rtv.faultQueue.filter (fun f => !(f.berth == b && f.seq == seq))
  match s.rtv.fault with
  | some f =>
    if f.berth = b ∧ f.seq = seq then { s with rtv := { s.rtv with fault := q.head?, faultQueue := q.tail } }
    else { s with rtv := { s.rtv with faultQueue := q } }
  | none => { s with rtv := { s.rtv with faultQueue := q } }

/-- A command ends with ABORT, DETAIL 1 (R280); a fault recorded for it is cleared (R304). -/
def abortEntry (e : Entry) (s : State) : State :=
  clearFault e.berth e.seq
    (endEarly { e with crossing := if e.life = .queued then s.crs.crossing else e.crossing } { e.res with abort := 1 } s)

/-- Whether a command holds the issue and goes on to a next tile boundary. -/
def holdsIssue (s : State) (e : Entry) : Bool :=
  s.cq.issuing == some e.berth && e.started && e.life == .taken && !e.suspended

/-- R280: the issuing command of the berth stops at its next tile boundary; every other command that has not formed its outputs, or is
suspended at a fault, ends with ABORT. -/
def abortBerth (b : Nat) (s : State) : State :=
  ((berthEntries s b).filter (fun e => decide (e.life ≠ .ran) || e.suspended)).foldl
    (fun t e => if holdsIssue s e then setEntry { e with stop := true } t else abortEntry e t) s

/-- ABORT_BERTH: CQ_CTL with ABORT_BERTH set (R280); needs permission bit 0. -/
def execAbortBerth (port : Port) (berth : BitVec 5) (s : State) : Host.Outcome State Fault Refusal :=
  .next (onMain port 0 (abortBerth berth.toNat) s)

/-- The cap of R281, in cycles. -/
def durationCap : Nat := 2 ^ 22

/-- A command's count would exceed the cap (R281): it ends with CAP_EXCEEDED. -/
def capEntry (e : Entry) (s : State) : State :=
  clearFault e.berth e.seq (endEarly e { e.res with cap := true, charged := durationCap } s)

/-- Whether cycles are charged to a command: it has made its first lane issue, it is neither aside nor suspended, and it has not ended
early (R281). -/
def charged (e : Entry) : Bool :=
  e.started && !e.aside && !e.suspended && e.res.abort == 0 && e.res.fault.isNone && !e.res.cap && e.res.refused.isNone

/-- DURATION_CAP_EXPIRY (R281): the cycles from the first lane issue of the berth's command under way to its completion would exceed
2^22. -/
def execDurationCapExpiry (s : State) (berth : BitVec 5 := 0) : Host.Outcome State Fault Refusal :=
  .next (if mainStopped s then s else match (berthEntries s berth.toNat).find? charged with
    | none => s
    | some e => capEntry e s)

/-! ## Result windows (R282–R285) -/

/-- R285: raise GEN and make the window EMPTY. -/
def releaseWindow (w : Nat) (s : State) : State :=
  let x := sget default s.cq.wins w
  { s with cq := { s.cq with wins := sset default s.cq.wins w { x with gen := (x.gen + 1) % 2 ^ 16, st := 0 } } }

/-- WIN_RELEASE: CQ_CTL with WIN_RELEASE set (R285); needs permission bit 0. -/
def execWinRelease (port : Port) (window : BitVec 7) (s : State) : Host.Outcome State Fault Refusal :=
  .next (onMain port 0 (releaseWindow window.toNat) s)

/-- One byte of the scratchpad as stored; an unwritten byte reads as 0 (log entry 3). -/
def spByte (s : State) (a : Nat) : Byte := sget 0 s.sp.mem a

/-- The answer of the result window to a read (R284, R426): data bytes, completer status, poison indication. -/
def windowAnswer (s : State) (off len : Nat) : List Byte × Nat × Bool :=
  let w := sget default s.cq.wins (off / 2 ^ 20 % 128)
  let g := off / 2 ^ 16 % 16
  let b := off % 2 ^ 16
  if g ≠ w.gen % 16 then ([], 2, false)
  else if w.st ≠ 2 then ([], 1, false)
  else
    let idx := (List.range len).map (· + b)
    (idx.map (fun i => if i < w.span then spByte s (w.base + i) else 0), 0,
      idx.any (fun i => decide (i < w.span) && lineMarked s ((w.base + i) / 64)))

/-! ## Rebase and resume (R272, R376) -/

/-- R272: restart the sequence numbers of a berth, when it holds no uncompleted command and all it accepted is
committed. -/
def rebaseBerth (b : Nat) (s : State) : State :=
  if (berthHead s b).isNone ∧ ldgCommitSeq s b = ldgAccepted s b then
    journal [.accepted b, .completed b, .commit]
      { s.keep with accepted := sset 0 s.keep.accepted b 0, completed := sset 0 s.keep.completed b 0,
                    commitSeq := sset 0 s.keep.commitSeq b 0 } s
  else s

/-- REBASE: LDG_CTL with REBASE set (R272); needs permission bit 6. -/
def execRebase (port : Port) (berth : BitVec 5) (s : State) : Host.Outcome State Fault Refusal :=
  .next (onMain port 6 (rebaseBerth berth.toNat) s)

/-- R376: load CRS_NOW and the deadline base from the crossing copy, when the active manifest is the kept one and no
command has been taken for issue since the reset. The phase follows the position loaded (log entry 32). The island keeps no T_open
beside the crossing copy: after a cold reset that of the crossing loaded is the tide of its announcement, where the beacon has made one
since, and otherwise a free value (R60 states none; log entry 152). -/
def resumeOp (s : State) : State :=
  match s.man.active, s.keep.keptTag, s.keep.crossCopy with
  | some m, some t, some (c, l) =>
    if m.tag = t ∧ ¬s.cq.takenSinceReset then
      let known := match s.crs.ann0 with | some (x, tide) => if x = c then some tide else none | none => none
      { s with free := s.free + 1,
               crs := { s.crs with crossing := c, landing := l, deadlineBase := s.keep.crossBase, firstOpen := false,
                                   tOpen := if s.crs.firstOpen then known.getD (Config.openTide s.free) else s.crs.tOpen,
                                   phase := if s.crs.phase = .notMoored then .notMoored
                                            else if l = 0xFFFF then .waitBeacon else .inSegment } }
    else s
  | _, _, _ => s

/-- RESUME: LDG_CTL with RESUME set (R376); needs permission bit 6. -/
def execResume (port : Port) (s : State) : Host.Outcome State Fault Refusal :=
  .next (onMain port 6 resumeOp s)

end Sys2Proof.Machine
end

