-- ==== Sys2Proof/Machine/Crypto.lean ====
section
/-! DEFINITION. The algorithms that the spec names and takes from their standards (R66–R68, R348, R380–R383, R392;
PRESUMED from the standards, log entry 15): SHA-384, HMAC-SHA-384, AES-256-GCM and ECDSA over P-384. -/

namespace Sys2Proof.Machine

/-! ## SHA-384 -/

/-- Round constants 0 to 19 of SHA-384 (FIPS 180-4). -/
def shaK0 : List Word64 :=
  [0x428a2f98d728ae22#64, 0x7137449123ef65cd#64, 0xb5c0fbcfec4d3b2f#64, 0xe9b5dba58189dbbc#64,
   0x3956c25bf348b538#64, 0x59f111f1b605d019#64, 0x923f82a4af194f9b#64, 0xab1c5ed5da6d8118#64,
   0xd807aa98a3030242#64, 0x12835b0145706fbe#64, 0x243185be4ee4b28c#64, 0x550c7dc3d5ffb4e2#64,
   0x72be5d74f27b896f#64, 0x80deb1fe3b1696b1#64, 0x9bdc06a725c71235#64, 0xc19bf174cf692694#64,
   0xe49b69c19ef14ad2#64, 0xefbe4786384f25e3#64, 0xfc19dc68b8cd5b5#64, 0x240ca1cc77ac9c65#64]

/-- Round constants 20 to 39 of SHA-384 (FIPS 180-4). -/
def shaK1 : List Word64 :=
  [0x2de92c6f592b0275#64, 0x4a7484aa6ea6e483#64, 0x5cb0a9dcbd41fbd4#64, 0x76f988da831153b5#64,
   0x983e5152ee66dfab#64, 0xa831c66d2db43210#64, 0xb00327c898fb213f#64, 0xbf597fc7beef0ee4#64,
   0xc6e00bf33da88fc2#64, 0xd5a79147930aa725#64, 0x6ca6351e003826f#64, 0x142929670a0e6e70#64,
   0x27b70a8546d22ffc#64, 0x2e1b21385c26c926#64, 0x4d2c6dfc5ac42aed#64, 0x53380d139d95b3df#64,
   0x650a73548baf63de#64, 0x766a0abb3c77b2a8#64, 0x81c2c92e47edaee6#64, 0x92722c851482353b#64]

/-- Round constants 40 to 59 of SHA-384 (FIPS 180-4). -/
def shaK2 : List Word64 :=
  [0xa2bfe8a14cf10364#64, 0xa81a664bbc423001#64, 0xc24b8b70d0f89791#64, 0xc76c51a30654be30#64,
   0xd192e819d6ef5218#64, 0xd69906245565a910#64, 0xf40e35855771202a#64, 0x106aa07032bbd1b8#64,
   0x19a4c116b8d2d0c8#64, 0x1e376c085141ab53#64, 0x2748774cdf8eeb99#64, 0x34b0bcb5e19b48a8#64,
   0x391c0cb3c5c95a63#64, 0x4ed8aa4ae3418acb#64, 0x5b9cca4f7763e373#64, 0x682e6ff3d6b2b8a3#64,
   0x748f82ee5defb2fc#64, 0x78a5636f43172f60#64, 0x84c87814a1f0ab72#64, 0x8cc702081a6439ec#64]

/-- Round constants 60 to 79 of SHA-384 (FIPS 180-4). -/
def shaK3 : List Word64 :=
  [0x90befffa23631e28#64, 0xa4506cebde82bde9#64, 0xbef9a3f7b2c67915#64, 0xc67178f2e372532b#64,
   0xca273eceea26619c#64, 0xd186b8c721c0c207#64, 0xeada7dd6cde0eb1e#64, 0xf57d4f7fee6ed178#64,
   0x6f067aa72176fba#64, 0xa637dc5a2c898a6#64, 0x113f9804bef90dae#64, 0x1b710b35131c471b#64,
   0x28db77f523047d84#64, 0x32caab7b40c72493#64, 0x3c9ebe0a15c9bebc#64, 0x431d67c49c100d4c#64,
   0x4cc5d4becb3e42b6#64, 0x597f299cfc657e2a#64, 0x5fcb6fab3ad6faec#64, 0x6c44198c4a475817#64]

/-- The initial hash value of SHA-384 (FIPS 180-4). -/
def shaInit : List Word64 :=
  [0xcbbb9d5dc1059ed8#64, 0x629a292a367cd507#64, 0x9159015a3070dd17#64, 0x152fecd8f70e5939#64,
   0x67332667ffc00b31#64, 0x8eb44a8768581511#64, 0xdb0c2e0d64f98fa7#64, 0x47b5481dbefa4fa4#64]

/-- The 80 round constants. -/
def shaK : List Word64 := shaK0 ++ shaK1 ++ shaK2 ++ shaK3

/-- The eight working words. -/
structure ShaSt where
  a : Word64
  b : Word64
  c : Word64
  d : Word64
  e : Word64
  f : Word64
  g : Word64
  h : Word64
deriving DecidableEq, Repr, Inhabited

/-- One round, with round constant plus schedule word `kw`. -/
def shaRound (s : ShaSt) (kw : Word64) : ShaSt :=
  let e1 := s.e.rotateRight 14 ^^^ s.e.rotateRight 18 ^^^ s.e.rotateRight 41
  let ch := (s.e &&& s.f) ^^^ (~~~s.e &&& s.g)
  let t1 := s.h + e1 + ch + kw
  let e0 := s.a.rotateRight 28 ^^^ s.a.rotateRight 34 ^^^ s.a.rotateRight 39
  let mj := (s.a &&& s.b) ^^^ (s.a &&& s.c) ^^^ (s.b &&& s.c)
  ⟨t1 + (e0 + mj), s.a, s.b, s.c, s.d + t1, s.e, s.f, s.g⟩

/-- The next schedule word from the latest sixteen, oldest first. -/
def shaNext (w : List Word64) : Word64 :=
  let w1 := w.getD 14 0
  let w15 := w.getD 1 0
  (w1.rotateRight 19 ^^^ w1.rotateRight 61 ^^^ (w1 >>> 6)) + w.getD 9 0 +
    (w15.rotateRight 1 ^^^ w15.rotateRight 8 ^^^ (w15 >>> 7)) + w.getD 0 0

/-- Run the rounds over the constants, with the sliding window of schedule words. -/
def shaRounds : List Word64 → List Word64 → ShaSt → ShaSt
  | [], _, s => s
  | k :: ks, w, s => shaRounds ks (w.tail ++ [shaNext w]) (shaRound s (k + w.getD 0 0))

/-- One 128-byte block, as sixteen words. -/
def shaBlock (h : ShaSt) (w : List Word64) : ShaSt :=
  let r := shaRounds shaK w h
  ⟨h.a + r.a, h.b + r.b, h.c + r.c, h.d + r.d, h.e + r.e, h.f + r.f, h.g + r.g, h.h + r.h⟩

/-- The first `n` 128-byte blocks of a message. -/
def shaBlocks : Nat → List Byte → ShaSt → ShaSt
  | 0, _, h => h
  | n + 1, bs, h =>
    let w := (List.range 16).map (fun i => BitVec.ofNat 64 (beNat ((bs.drop (8 * i)).take 8)))
    shaBlocks n (bs.drop 128) (shaBlock h w)

/-- The padded message: 0x80, zeros, and the length in bits in 16 bytes. -/
def shaPad (m : List Byte) : List Byte :=
  let z := (2 * 128 - (m.length + 17) % 128) % 128
  m ++ [0x80#8] ++ List.replicate z 0#8 ++ beBytes 16 (8 * m.length)

/-- SHA-384 of a message: 48 bytes. -/
def sha384 (m : List Byte) : List Byte :=
  let p := shaPad m
  let i := shaInit
  let s := shaBlocks (p.length / 128) p
    ⟨i.getD 0 0, i.getD 1 0, i.getD 2 0, i.getD 3 0, i.getD 4 0, i.getD 5 0, i.getD 6 0, i.getD 7 0⟩
  ([s.a, s.b, s.c, s.d, s.e, s.f].map (fun w => beBytes 8 w.toNat)).flatten

/-- HMAC-SHA-384 (FIPS 198-1). -/
def hmac384 (key msg : List Byte) : List Byte :=
  let k0 := if key.length ≤ 128 then key else sha384 key
  let k := k0 ++ List.replicate (128 - k0.length) 0#8
  sha384 (k.map (· ^^^ 0x5C#8) ++ sha384 (k.map (· ^^^ 0x36#8) ++ msg))

/-! ## AES-256-GCM -/

/-- Multiplication by x in GF(2^8). -/
def gfX (b : Byte) : Byte := if b.getLsbD 7 then (b <<< 1) ^^^ 0x1B#8 else b <<< 1

/-- Product in GF(2^8), over the bits of `b` from the top. -/
def gfMul (a b : Byte) : Byte :=
  (List.range 8).foldl (fun acc i => if b.getLsbD (7 - i) then gfX acc ^^^ a else gfX acc) 0#8

/-- Inverse in GF(2^8), as the 254th power. -/
def gfInv (a : Byte) : Byte :=
  let a2 := gfMul a a
  let a4 := gfMul a2 a2
  let a8 := gfMul a4 a4
  let a16 := gfMul a8 a8
  let a32 := gfMul a16 a16
  let a64 := gfMul a32 a32
  let a128 := gfMul a64 a64
  gfMul a128 (gfMul a64 (gfMul a32 (gfMul a16 (gfMul a8 (gfMul a4 a2)))))

/-- The substitution of one byte. -/
def aesSub (a : Byte) : Byte :=
  let i := gfInv a
  i ^^^ i.rotateLeft 1 ^^^ i.rotateLeft 2 ^^^ i.rotateLeft 3 ^^^ i.rotateLeft 4 ^^^ 0x63#8

/-- The 256-entry substitution table. -/
def aesBox : List Byte := (List.range 256).map (fun i => aesSub (BitVec.ofNat 8 i))

/-- Substitution through a table. -/
def aesLook (box : List Byte) (b : Byte) : Byte := box.getD b.toNat 0

def xorBytes (a b : List Byte) : List Byte := List.zipWith (· ^^^ ·) a b

/-- Key expansion: words from the eighth on, `n` of them, newest first in `acc`. -/
def aesExpand (box : List Byte) : Nat → Nat → Byte → List (List Byte) → List (List Byte)
  | 0, _, _, acc => acc
  | n + 1, i, rcon, acc =>
    let prev := acc.getD 0 []
    let t := if i % 8 = 0 then
        (match prev with
          | [a, b, c, d] => [aesLook box b ^^^ rcon, aesLook box c, aesLook box d, aesLook box a]
          | x => x)
      else if i % 8 = 4 then prev.map (aesLook box) else prev
    aesExpand box n (i + 1) (if i % 8 = 0 then gfX rcon else rcon) (xorBytes (acc.getD 7 []) t :: acc)

/-- The fifteen round keys of AES-256. -/
def aesKeys (box key : List Byte) : List (List Byte) :=
  let w0 := (List.range 8).map (fun i => (key.drop (4 * i)).take 4)
  let w := (aesExpand box 52 8 0x01#8 w0.reverse).reverse
  (List.range 15).map (fun r => ((w.drop (4 * r)).take 4).flatten)

/-- Row shift of a column-major state. -/
def aesShift (s : List Byte) : List Byte := (List.range 16).map (fun i => s.getD ((i + 4 * (i % 4)) % 16) 0)

/-- Column mix of one column. -/
def aesMixCol (c : List Byte) : List Byte :=
  match c with
  | [a, b, c, d] =>
    [gfX a ^^^ gfX b ^^^ b ^^^ c ^^^ d, a ^^^ gfX b ^^^ gfX c ^^^ c ^^^ d,
     a ^^^ b ^^^ gfX c ^^^ gfX d ^^^ d, gfX a ^^^ a ^^^ b ^^^ c ^^^ gfX d]
  | x => x

/-- Encrypt one 16-byte block. -/
def aesBlock (box : List Byte) (keys : List (List Byte)) (blk : List Byte) : List Byte :=
  let s0 := xorBytes blk (keys.getD 0 [])
  let mid := (List.range 13).foldl (fun s r =>
    let t := aesShift (s.map (aesLook box))
    let m := ((List.range 4).map (fun c => aesMixCol ((t.drop (4 * c)).take 4))).flatten
    xorBytes m (keys.getD (r + 1) [])) s0
  xorBytes (aesShift (mid.map (aesLook box))) (keys.getD 14 [])

/-- Product in GF(2^128) of GCM: 128-bit numbers, bit 127 the coefficient of 1. -/
def ghashMul (x y : Nat) : Nat :=
  ((List.range 128).foldl (fun (zv : Nat × Nat) i =>
    let z := if x.testBit (127 - i) then Nat.xor zv.1 zv.2 else zv.1
    let v := if zv.2.testBit 0 then Nat.xor (zv.2 / 2) (0xE1 * 2 ^ 120) else zv.2 / 2
    (z, v)) (0, y)).1

/-- GHASH over `n` 16-byte blocks. -/
def ghash (h : Nat) : Nat → List Byte → Nat → Nat
  | 0, _, y => y
  | n + 1, bs, y => ghash h n (bs.drop 16) (ghashMul (Nat.xor y (beNat (bs.take 16))) h)

def padBlock (bs : List Byte) : List Byte := bs ++ List.replicate ((16 - bs.length % 16) % 16) 0#8

/-- Counter-mode key stream, `n` blocks from a counter. -/
def gcmStream (box : List Byte) (keys : List (List Byte)) (iv : List Byte) : Nat → Nat → List Byte
  | 0, _ => []
  | n + 1, c => aesBlock box keys (iv ++ beBytes 4 c) ++ gcmStream box keys iv n (c + 1)

/-- The authentication tag of GCM. -/
def gcmTag (box : List Byte) (keys : List (List Byte)) (iv aad ct : List Byte) : List Byte :=
  let h := beNat (aesBlock box keys (List.replicate 16 0#8))
  let bs := padBlock aad ++ padBlock ct ++ beBytes 8 (8 * aad.length) ++ beBytes 8 (8 * ct.length)
  let s := ghash h (bs.length / 16) bs 0
  xorBytes (beBytes 16 s) (aesBlock box keys (iv ++ beBytes 4 1))

/-- AES-256-GCM decryption (SP 800-38D): the plaintext when the tag holds. -/
def gcmOpen (key iv aad ct tag : List Byte) : Option (List Byte) :=
  let box := aesBox
  let keys := aesKeys box key
  if gcmTag box keys iv aad ct = tag then
    some (xorBytes ct (gcmStream box keys iv (ceilDiv ct.length 16) 2))
  else none

/-- AES-256-GCM encryption: ciphertext and tag. -/
def gcmSeal (key iv aad pt : List Byte) : List Byte × List Byte :=
  let box := aesBox
  let keys := aesKeys box key
  let ct := xorBytes pt (gcmStream box keys iv (ceilDiv pt.length 16) 2)
  (ct, gcmTag box keys iv aad ct)

/-! ## P-384 -/

def p384P : Nat := 2 ^ 384 - 2 ^ 128 - 2 ^ 96 + 2 ^ 32 - 1
def p384N : Nat := 0xffffffffffffffffffffffffffffffffffffffffffffffffc7634d81f4372ddf581a0db248b0a77aecec196accc52973
def p384B : Nat := 0xb3312fa7e23ee7e4988e056be3f82d19181d9c6efe8141120314088f5013875ac656398d8a2ed19d2a85c8edd3ec2aef
def p384Gx : Nat := 0xaa87ca22be8b05378eb1c71ef320ad746e1d3b628ba79b9859f741e082542a385502f25dbf55296c3a545e3872760ab7
def p384Gy : Nat := 0x3617de4a96262c6f5d9e98bf9292dc29f8f41dbd289a147ce9da3113b5f0b8c00a60b1ce1d7e819d7a431d7c90ea0e5f

/-- A power modulo `m`, over the lowest `n` bits of the exponent. -/
def powMod (m : Nat) : Nat → Nat → Nat → Nat
  | 0, _, _ => 1 % m
  | n + 1, b, e => let r := powMod m n (b * b % m) (e / 2); if e % 2 = 1 then b * r % m else r

/-- Inverse modulo a 384-bit prime. -/
def invMod (m a : Nat) : Nat := powMod m 384 (a % m) (m - 2)

/-- A point in Jacobian coordinates; infinity has z = 0. -/
structure JPoint where
  x : Nat
  y : Nat
  z : Nat
deriving DecidableEq, Repr, Inhabited

def subMod (a b : Nat) : Nat := (a + (p384P - b % p384P)) % p384P

/-- Point doubling (a = −3). -/
def jDouble (p : JPoint) : JPoint :=
  let m := p384P
  if p.z = 0 then p
  else
    let d := p.z * p.z % m
    let g := p.y * p.y % m
    let b := p.x * g % m
    let al := 3 * (subMod p.x d * (p.x + d) % m) % m
    let x3 := subMod (al * al % m) (8 * b)
    let z3 := subMod (subMod ((p.y + p.z) * (p.y + p.z) % m) g) d
    ⟨x3, subMod (al * subMod (4 * b) x3 % m) (8 * (g * g % m)), z3⟩

/-- Point addition. -/
def jAdd (p q : JPoint) : JPoint :=
  let m := p384P
  if p.z = 0 then q else if q.z = 0 then p
  else
    let z1 := p.z * p.z % m
    let z2 := q.z * q.z % m
    let u1 := p.x * z2 % m
    let u2 := q.x * z1 % m
    let s1 := p.y * q.z % m * z2 % m
    let s2 := q.y * p.z % m * z1 % m
    if u1 = u2 then (if s1 = s2 then jDouble p else ⟨1, 1, 0⟩)
    else
      let h := subMod u2 u1
      let r := subMod s2 s1
      let h2 := h * h % m
      let h3 := h * h2 % m
      let v := u1 * h2 % m
      let x3 := subMod (subMod (r * r % m) h3) (2 * v)
      ⟨x3, subMod (r * subMod v x3 % m) (s1 * h3), h * p.z % m * q.z % m⟩

/-- Scalar multiple, over the lowest `n` bits. -/
def jMul : Nat → Nat → JPoint → JPoint
  | 0, _, _ => ⟨1, 1, 0⟩
  | n + 1, k, p => let r := jMul n (k / 2) (jDouble p); if k % 2 = 1 then jAdd p r else r

/-- Affine coordinates of a point; none at infinity. -/
def jAffine (p : JPoint) : Option (Nat × Nat) :=
  if p.z = 0 then none
  else
    let i := invMod p384P p.z
    let i2 := i * i % p384P
    some (p.x * i2 % p384P, p.y * (i2 * i % p384P) % p384P)

/-- Whether a point lies on P-384 (R382). -/
def onP384 (x y : Nat) : Bool :=
  decide (x < p384P) && decide (y < p384P) && y * y % p384P == (x * x % p384P * x + (p384P - 3) * x + p384B) % p384P

/-- ECDSA verification (FIPS 186-5): public point, digest, r and s. -/
def ecdsaVerify (x y : Nat) (digest : List Byte) (r s : Nat) : Bool :=
  if r = 0 ∨ p384N ≤ r ∨ s = 0 ∨ p384N ≤ s then false
  else
    let e := beNat digest % p384N
    let w := invMod p384N s
    let pt := jAdd (jMul 384 (e * w % p384N) ⟨p384Gx, p384Gy, 1⟩) (jMul 384 (r * w % p384N) ⟨x, y, 1⟩)
    match jAffine pt with
    | none => false
    | some (vx, _) => vx % p384N == r

/-- ECDSA signature with a private key `d` and a nonce `k`: r and s. -/
def ecdsaSign (d k : Nat) (digest : List Byte) : Nat × Nat :=
  match jAffine (jMul 384 k ⟨p384Gx, p384Gy, 1⟩) with
  | none => (0, 0)
  | some (x, _) =>
    let r := x % p384N
    (r, invMod p384N k * ((beNat digest + r * d) % p384N) % p384N)

/-- The public key of a private key, x then y, 48 bytes big-endian each. -/
def p384Public (d : Nat) : List Byte :=
  match jAffine (jMul 384 d ⟨p384Gx, p384Gy, 1⟩) with
  | none => List.replicate 96 0#8
  | some (x, y) => beBytes 48 x ++ beBytes 48 y

end Sys2Proof.Machine
end

