-- ==== Sys2Proof/Machine/Drbg.lean ====
section
/-! DEFINITION. The Tollhouse's random bit generator and its entropy source's continuous tests (R385, R386). The algorithms are those
of SP 800-90A and SP 800-90B, which R385 names (PRESUMED from the standards, log entry 15); the full entropy that a seeding takes and the samples
of the noise source are free values (log entry 13). -/

namespace Sys2Proof.Machine

/-! ## CTR_DRBG with AES-256 and the derivation function -/

/-- `n` blocks of AES-256 under a key, over the counter after `v`. -/
def counterBlocks (box : List Byte) (keys : List (List Byte)) : Nat → Nat → List Byte
  | 0, _ => []
  | n + 1, v => aesBlock box keys (beBytes 16 ((v + 1) % 2 ^ 128)) ++ counterBlocks box keys n (v + 1)

/-- CTR_DRBG_Update: 48 bytes of provided data. -/
def drbgUpdate (data : List Byte) (d : Drbg) : Drbg :=
  let box := aesBox
  let t := xorBytes (counterBlocks box (aesKeys box d.key) 3 (beNat d.v)) data
  { d with key := t.take 32, v := t.drop 32 }

/-- BCC: the chaining over `n` blocks of the data. -/
def drbgChain (box : List Byte) (keys : List (List Byte)) : Nat → List Byte → List Byte → List Byte
  | 0, _, acc => acc
  | n + 1, bs, acc => drbgChain box keys n (bs.drop 16) (aesBlock box keys (xorBytes acc (bs.take 16)))

/-- Block_Cipher_df: 48 bytes from an input string. -/
def drbgDerive (input : List Byte) : List Byte :=
  let box := aesBox
  let s := padBlock (beBytes 4 input.length ++ beBytes 4 48 ++ input ++ [0x80#8])
  let keys := aesKeys box ((List.range 32).map (BitVec.ofNat 8))
  let t := ((List.range 3).map (fun i =>
    let m := beBytes 4 i ++ List.replicate 12 0#8 ++ s
    drbgChain box keys (m.length / 16) m (List.replicate 16 0#8))).flatten
  let keys2 := aesKeys box (t.take 32)
  let x1 := aesBlock box keys2 ((t.drop 32).take 16)
  let x2 := aesBlock box keys2 x1
  x1 ++ x2 ++ aesBlock box keys2 x2

/-- One generate request of `n` bytes, with no additional input: the bytes, and the state after it. -/
def drbgGenerate (n : Nat) (d : Drbg) : List Byte × Drbg :=
  let box := aesBox
  let k := ceilDiv n 16
  let d1 := { d with v := beBytes 16 ((beNat d.v + k) % 2 ^ 128), count := d.count + 1 }
  ((counterBlocks box (aesKeys box d.key) k (beNat d.v)).take n, drbgUpdate (List.replicate 48 0#8) d1)

/-! ## The continuous tests -/

/-- The repetition count cutoff of R385, and the adaptive proportion window and cutoff: SP 800-90B's 1 + CRITBINOM(1024, 2^−0.5, 1 − 2^−20)
(PRESUMED, log entry 149: R385 names the standard's value and does not print it). -/
def rctCutoff : Nat := 41
def aptWindow : Nat := 1024
def aptCutoff : Nat := 793

/-- One sample of the noise source through both tests. -/
def healthStep (h : Health) (x : Bool) : Health :=
  let run := if 0 < h.run ∧ h.last = x then h.run + 1 else 1
  let fresh := h.seen = 0 ∨ aptWindow ≤ h.seen
  let same := if fresh then 1 else if h.first = x then h.same + 1 else h.same
  { last := x, run := run, first := if fresh then x else h.first, seen := if fresh then 1 else h.seen + 1, same := same,
    failed := h.failed || decide (rctCutoff ≤ run) || decide (aptCutoff ≤ same) }

/-! ## Seeding and requests -/

/-- Whether a certificate is armed, capturing or being signed. -/
def certLive (c : CertUnit) : Bool := c.state == 1 || c.state == 2 || c.state == 3

/-- Whether a certificate's write has left for job memory: signed, and no longer among the writes that wait for a tag. -/
def certSent (s : State) : Bool := s.toll.cert.state == 3 && !(s.rtv.posts.any (fun p => p.1.isCert))

/-- A certificate ends without CERTIFICATE_WRITTEN: the write that still waits for a tag is dropped, and one that has left counts in
the serial as written (R392, log entry 150). -/
def endCert (st cause : Nat) (s : State) : State :=
  { s with
      toll := { s.toll with cert := { s.toll.cert with
        state := st, cause := cause, serial := s.toll.cert.serial + bit (certSent s) } }
      rtv := { s.rtv with posts := s.rtv.posts.filter (fun p => !p.1.isCert) } }

/-- R386: the Tollhouse enters the error state and an armed certificate fails. -/
def tollError (s : State) : State :=
  let s1 := if certLive s.toll.cert then endCert 5 5 s else s
  { s1 with toll := { s1.toll with errorState := true } }

/-- A seeding (R385): the samples it takes pass the continuous tests, whose failure is a self-test failure (R386, bit 8 of
TOLL_SELFTEST), and 384 bits conditioned from them seed the generator, afresh or over its state. -/
def seedDrbg (fresh : Bool) (s : State) : State :=
  let d := s.toll.drbg
  let h := (Config.noise d.seeds).foldl healthStep s.toll.health
  let d0 := if fresh then { d with key := List.replicate 32 0#8, v := List.replicate 16 0#8 } else d
  let seed := drbgDerive ((List.range 48).map (Config.entropy d.seeds))
  let s1 := { s with toll := { s.toll with
    drbg := { drbgUpdate seed d0 with count := 0, seeds := d.seeds + 1 }, health := h } }
  if h.failed then tollError { s1 with toll := { s1.toll with selftest := s1.toll.selftest &&& 0xFF#9 } } else s1

/-- The reseeding of R385, before each GENKEY and at each manifest verification. -/
def reseedDrbg (s : State) : State := seedDrbg false s

/-- A request that finds 2^20 served since the last seeding reseeds first (R385). -/
def drbgDue (s : State) : State := if 2 ^ 20 ≤ s.toll.drbg.count then reseedDrbg s else s

/-- `n` fresh bytes of the generator. -/
def drbgBytes (s : State) (n : Nat) : List Byte := (drbgGenerate n s.toll.drbg).1

/-- The state after a request of `n` bytes. -/
def drbgNext (n : Nat) (s : State) : State := { s with toll := { s.toll with drbg := (drbgGenerate n s.toll.drbg).2 } }

/-- A scalar in [1, n − 1] by rejection of candidates (FIPS 186-5, A.2.2), with the state after it. After `k` rejected candidates,
each of a probability below 2^−189, the next one counts modulo n − 1. -/
def drbgScalarFrom : Nat → Drbg → Nat × Drbg
  | 0, d => let g := drbgGenerate 48 d; (beNat g.1 % (p384N - 1) + 1, g.2)
  | k + 1, d => let g := drbgGenerate 48 d; if beNat g.1 + 1 < p384N then (beNat g.1 + 1, g.2) else drbgScalarFrom k g.2

/-- The scalar that GENKEY and a signature draw, and the state after it. -/
def drbgScalar (s : State) : Nat := (drbgScalarFrom 64 s.toll.drbg).1

def scalarNext (s : State) : State := { s with toll := { s.toll with drbg := (drbgScalarFrom 64 s.toll.drbg).2 } }

end Sys2Proof.Machine
end

