-- ==== Sys2Proof/Machine/Tables.lean ====
section
/-! DEFINITION. Shape tables and recipes: the table image and its checks (R162, R163), interpolation (R164 to R166),
comparisons (R119, R187), and the micro-operations of recipes (R177 to R180). -/

namespace Sys2Proof.Machine

/-- Bytes of a table image (R162). -/
def imageBytes : Nat := 4128

/-- Little-endian number at an offset of an image. -/
def imgNat (img : Nat → Byte) (off n : Nat) : Nat := leNat ((List.range n).map fun i => img (off + i))

def imgV (img : Nat → Byte) (i : Nat) : Word32 := BitVec.ofNat 32 (imgNat img (32 + 8 * i) 4)
def imgS (img : Nat → Byte) (i : Nat) : Word32 := BitVec.ofNat 32 (imgNat img (36 + 8 * i) 4)
def imgLo (img : Nat → Byte) : Nat := (img 2).toNat
def imgHi (img : Nat → Byte) : Nat := (img 3).toNat
def imgSym (img : Nat → Byte) : Nat := (img 4).toNat
def imgWexp (img : Nat → Byte) : Int := (img 5).toInt
def imgXlo (img : Nat → Byte) : Word32 := BitVec.ofNat 32 (imgNat img 8 4)
def imgShapeId (img : Nat → Byte) : Nat := imgNat img 16 8
def imgCheck (img : Nat → Byte) : Nat := imgNat img 28 4

/-- The value of an FP32 encoding that is finite. -/
def finite32 (w : Word32) : Option Rat :=
  match readFp32 false w with
  | .fin n m => some (finValue n m)
  | _ => none

/-- CHECK of an image (Table 7-1): over bytes 0 to 27 and 32 to 4,127. -/
def imgCheckOk (img : Nat → Byte) : Bool :=
  crc32 ((List.range 28).map img ++ (List.range 4096).map fun i => img (32 + i)) == imgCheck img

/-- The other conditions of R163. -/
def imgFormatOk (img : Nat → Byte) : Bool :=
  imgNat img 0 2 == 1 && decide (imgLo img ≤ 1) && decide (imgHi img ≤ 1) && decide (imgSym img ≤ 2)
  && (imgSym img == 0 || imgXlo img == 0#32)
  && decide (-40 ≤ imgWexp img) && decide (imgWexp img ≤ 20)
  && (match finite32 (imgXlo img) with
      | none => false
      | some x =>
        let hi := x + 512 * pow2 (imgWexp img)
        decide (hi ≤ layoutMax layoutFp32) && decide (-(layoutMax layoutFp32) ≤ hi))
  && (List.range 512).all (fun i => (finite32 (imgV img i)).isSome && (finite32 (imgS img i)).isSome)
  && imgNat img 6 2 == 0 && imgNat img 12 4 == 0 && imgNat img 24 4 == 0

/-- The check of a COMMIT or LOAD in the order of R170: 0 valid, 1 CHECK, 2 FORMAT (Table 7-6). -/
def imgResult (img : Nat → Byte) : Nat :=
  if !imgCheckOk img then 1 else if !imgFormatOk img then 2 else 0

/-- The segment that a value falls into (R164, R165): none for a NaN. -/
def tableSegment (ftz : Bool) (img : Nat → Byte) (v : Val) : Option Nat :=
  let sym := imgSym img
  match (asFloat ftz v).1 with
  | .nan _ => none
  | .inf neg => some (if sym != 0 || !neg then 511 else 0)
  | .fin neg mag =>
    let x := if sym != 0 then mag else finValue neg mag
    let q := (x - (finite32 (imgXlo img)).getD 0) / pow2 (imgWexp img)
    some (if q < 0 then 0 else if q < 512 then q.floor.toNat else 511)

/-- The 64-bit words of an image that a result is read from (R167): the two words of its format and its segment's. -/
def tableReads (ftz : Bool) (img : Nat → Byte) (v : Val) : List Nat :=
  match tableSegment ftz img v with
  | none => []
  | some i => [0, 1, 4 + i]

/-- Interpolation of R164 to R166 at one value: the FP32 result and the flags. -/
def tableEval (ftz : Bool) (img : Nat → Byte) (v : Val) : Val × Flags :=
  let a := asFloat ftz v
  let sym := imgSym img
  let negate (n : Bool) (w : Word32) : Word32 := if n then w ^^^ 0x80000000#32 else w
  match a.1 with
  | .nan s => (.fp canonNan32, a.2 ||| flagIf s flagInvalid)
  | .inf neg0 =>
    let neg := sym == 2 && neg0
    let high := sym != 0 || !neg0
    let i := if high then 511 else 0
    let mode := if high then imgHi img else imgLo img
    let s := readFp32 false (imgS img i)
    let y : Word32 × Flags :=
      if mode == 0 then
        if high then fusedMulAdd ftz s (.fin false 1) (some (readFp32 false (imgV img i)))
        else fusedMulAdd ftz s (.fin false 0) (some (readFp32 false (imgV img i)))
      else
        match s with
        | .fin sn sm =>
          if sm = 0 then (imgV img i, flagNone) else (inf32 (if high then sn else !sn), flagNone)
        | _ => (imgV img i, flagNone)
    (.fp (negate neg y.1), a.2 ||| y.2 ||| flagTableClamp)
  | .fin neg0 mag =>
    let neg := sym == 2 && neg0
    let x := if sym != 0 then mag else finValue neg0 mag
    let q := (x - (finite32 (imgXlo img)).getD 0) / pow2 (imgWexp img)
    let inside := decide (0 ≤ q) && decide (q < 512)
    let low := decide (q < 0)
    let i := (tableSegment ftz img v).getD 0
    let mode := if low then imgLo img else imgHi img
    let f : Rat :=
      if inside || mode == 1 then
        (((q - i) * ((2 ^ 24 : Nat) : Rat)).floor : Rat) / ((2 ^ 24 : Nat) : Rat)
      else if low then 0 else 1
    let y := fusedMulAdd ftz (readFp32 false (imgS img i)) (.fin (signedMag f).1 (signedMag f).2)
      (some (readFp32 false (imgV img i)))
    (.fp (negate neg y.1), a.2 ||| y.2 ||| flagIf (!inside) flagTableClamp)

/-! ### Comparisons (R119, R187) -/

/-- The order of two readings that are not NaN, the zeros equal: -1, 0 or 1. -/
def cmpNum (a b : FVal) : Int :=
  let rank : FVal → Int := fun v => match v with | .inf true => -1 | .inf false => 1 | _ => 0
  if rank a < rank b then -1 else if rank b < rank a then 1
  else match a, b with
    | .fin na ma, .fin nb mb =>
      let x := finValue na ma
      let y := finValue nb mb
      if x < y then -1 else if y < x then 1 else 0
    | _, _ => 0

def isNanF : FVal → Bool
  | .nan _ => true
  | _ => false

def isSnanF : FVal → Bool
  | .nan s => s
  | _ => false

/-- A predicate of Table 5-3 on two values: as integers when both are of integer class, otherwise as FP32. -/
def evalPred (ftz : Bool) (pred : Nat) (a b : Val) : Bool × Flags :=
  let byOrder (c : Int) : Bool :=
    match pred with
    | 0 => c == 0 | 1 => c != 0 | 2 => c < 0 | 3 => c ≤ 0 | 4 => 0 < c | 5 => 0 ≤ c | 6 => false | _ => true
  match a, b with
  | .int i, .int j => (byOrder (if i < j then -1 else if j < i then 1 else 0), flagNone)
  | _, _ =>
    let x := (asFloat ftz a).1
    let y := (asFloat ftz b).1
    if isNanF x || isNanF y then
      (pred == 1 || pred == 6, flagIf (isSnanF x || isSnanF y) flagInvalid)
    else (byOrder (cmpNum x y), flagNone)

/-- The larger (`wantMax`) or smaller of two values in the order of R187, where −0 lies below +0. A NaN operand gives
the canonical NaN. -/
def pickMinMax (ftz : Bool) (wantMax : Bool) (a b : Val) : Val × Flags :=
  match a, b with
  | .int i, .int j => (.int (if wantMax then max i j else min i j), flagNone)
  | _, _ =>
    let x := (asFloat ftz a).1
    let y := (asFloat ftz b).1
    if isNanF x || isNanF y then (.fp canonNan32, flagIf (isSnanF x || isSnanF y) flagInvalid)
    else
      let signOf : FVal → Bool := fun v => match v with | .fin n _ => n | .inf n => n | _ => false
      let c := cmpNum x y
      let bGreater := decide (c < 0) || (c == 0 && signOf x && !signOf y)
      let takeB := if wantMax then bGreater else (decide (0 < c) || (c == 0 && !signOf x && signOf y))
      (.fp (encodeFp32 ftz (if takeB then y else x)).1, flagNone)

/-! ### Recipes -/

/-- What a recipe reads and writes: V, S and the eight temporaries (R177). -/
structure RecipeRegs where
  v : PVal
  s : PVal
  t : List PVal
deriving DecidableEq, Repr

def uopOp (w : Word64) : Nat := bitsOf w.toNat 63 60
def uopDst (w : Word64) : Nat := bitsOf w.toNat 59 56
def uopSrcA (w : Word64) : Nat := bitsOf w.toNat 55 52
def uopSrcB (w : Word64) : Nat := bitsOf w.toNat 51 48
def uopSrcC (w : Word64) : Nat := bitsOf w.toNat 47 44
def uopCtl (w : Word64) : Nat := bitsOf w.toNat 43 32
def uopImm (w : Word64) : Nat := bitsOf w.toNat 31 0

def pzero : PVal := ⟨plusZero, false⟩

/-- A source of Table 7-9. ZERO in a role other than FMA's addend is +0. -/
def uopSource (bank : Nat → Word32) (r : RecipeRegs) (imm code : Nat) : PVal :=
  if code < 8 then r.t.getD code pzero
  else match code with
    | 8 => r.v
    | 9 => r.s
    | 0xA => ⟨.fp (BitVec.ofNat 32 imm), false⟩
    | 0xB => ⟨.fp (bank (imm % 16)), false⟩
    | 0xC => ⟨fpOne, false⟩
    | _ => pzero

def uopWrite (r : RecipeRegs) (code : Nat) (x : PVal) : RecipeRegs :=
  if code < 8 then { r with t := r.t.set code x }
  else if code == 8 then { r with v := x } else { r with s := x }

/-- A value as the 32-bit integer it converts to by RNE (RECON, GATHER; Table 4-4). -/
def asInt32 (ftz : Bool) : Val → Int × Flags
  | .int i => (i, flagNone)
  | .fp w => floatToInt .int32 .rne 0 (readFp32 ftz w)

/-- One micro-operation (Table 7-10). `img` is the bound bank's table image of a slot, and `bad` says which of its words
are uncorrectable (R167). -/
def uopStep (ftz : Bool) (bank : Nat → Word32) (img : Nat → Nat → Byte) (bad : Nat → Nat → Bool) (w : Word64) (r : RecipeRegs) :
    RecipeRegs × Flags :=
  let a := uopSource bank r (uopImm w) (uopSrcA w)
  let b := uopSource bank r (uopImm w) (uopSrcB w)
  let c := uopSource bank r (uopImm w) (uopSrcC w)
  let d := uopSource bank r (uopImm w) (uopDst w)
  let ctl := uopCtl w
  let fa := asFloat ftz a.val
  let fb := asFloat ftz b.val
  let fc := asFloat ftz c.val
  match uopOp w with
  | 0x1 =>
    if ctl % 2 == 0 then
      let res : Val × Int × Flags := match fa.1 with
        | .fin n m =>
          if m = 0 then (.fp (encodeFp32 ftz fa.1).1, 0, flagNone)
          else
            let e := floorLog2 m
            (.fp (rneFp32 false n (m / pow2 e)).1, e, flagNone)
        | v => let x := encodeFp32 ftz v; (.fp x.1, 0, x.2)
      (uopWrite (uopWrite r (uopDst w) ⟨res.1, a.poison⟩) (uopDst w + 1) ⟨.int res.2.1, a.poison⟩,
        fa.2 ||| res.2.2)
    else
      let res : Val × Int × Flags := match fa.1 with
        | .nan _ => (.fp canonNan32, 0, flagInvalid)
        | .inf n => (plusZero, (if n then (intRange .int32).1 else (intRange .int32).2),
            flagInvalid ||| flagInexact)
        | .fin n m =>
          let q := finValue n m
          let sat := saturate (intRange .int32).1 (intRange .int32).2 q.floor
          let fr := rneSigned ftz (q - q.floor)
          (.fp fr.1, sat.1, fr.2 ||| flagIf sat.2 (flagInvalid ||| flagInexact))
      (uopWrite (uopWrite r (uopDst w) ⟨res.1, a.poison⟩) (uopDst w + 1) ⟨.int res.2.1, a.poison⟩,
        fa.2 ||| res.2.2)
  | 0x2 =>
    let y := tableEval ftz (img (ctl % 16)) a.val
    let p := (tableReads ftz (img (ctl % 16)) a.val).any (bad (ctl % 16))
    (uopWrite r (uopDst w) ⟨y.1, a.poison || p⟩, y.2)
  | 0x3 =>
    let fd := asFloat ftz d.val
    let y := fusedMulAdd ftz fd.1 fa.1 (some (readFp32 ftz (BitVec.ofNat 32 (uopImm w))))
    (uopWrite r (uopDst w) ⟨.fp y.1, a.poison || d.poison⟩, fd.2 ||| fa.2 ||| y.2)
  | 0x4 =>
    let absA : FVal := match fa.1 with
      | .fin _ m => .fin false m | .inf _ => .inf false | v => v
    let x := if ctl / 4 % 2 == 1 then absA else fa.1
    let x := if ctl % 2 == 1 then negF x else x
    let noAdd := uopSrcC w == 0xD
    let y := fusedMulAdd ftz x fb.1 (if noAdd then none else some (if ctl / 2 % 2 == 1 then negF fc.1 else fc.1))
    (uopWrite r (uopDst w) ⟨.fp y.1, a.poison || b.poison || (!noAdd && c.poison)⟩,
      fa.2 ||| fb.2 ||| (if noAdd then flagNone else fc.2) ||| y.2)
  | 0x5 =>
    let p := evalPred ftz (ctl % 8) a.val b.val
    (uopWrite r (uopDst w)
      (if p.1 then ⟨flushVal ftz c.val, a.poison || b.poison || c.poison⟩
        else ⟨d.val, a.poison || b.poison || c.poison || d.poison⟩), p.2)
  | 0x6 =>
    let n := asInt32 ftz b.val
    let sh : Int := max (-2000) (min 2000 n.1)
    let y := match fa.1 with
      | .fin s m => rneFp32 ftz s (m * pow2 sh)
      | v => encodeFp32 ftz v
    (uopWrite r (uopDst w) ⟨.fp y.1, a.poison || b.poison⟩, fa.2 ||| n.2 ||| y.2)
  | _ => (r, flagNone)

/-- An integer-class value left in V or S by a recipe is held as FP32 (R188: a RECIPE gives V FP32). -/
def toFpClass (ftz : Bool) (p : PVal) : PVal × Flags :=
  match p.val with
  | .fp _ => (p, flagNone)
  | .int i => let r := rneSigned ftz i; (⟨.fp r.1, p.poison⟩, r.2)

/-- A RECIPE stage on one element (R177): the words in order, temporaries set to +0 on entry. -/
def recipeRun (ftz : Bool) (bank : Nat → Word32) (img : Nat → Nat → Byte) (bad : Nat → Nat → Bool) (words : List Word64) (v s : PVal) :
    PVal × PVal × Flags :=
  let r0 : RecipeRegs := ⟨v, s, List.replicate 8 pzero⟩
  let r := words.foldl (fun acc w => let x := uopStep ftz bank img bad w acc.1; (x.1, acc.2 ||| x.2)) (r0, flagNone)
  let vv := toFpClass ftz r.1.v
  let wroteS := words.any fun w => uopDst w == 9
  let ss := if wroteS then toFpClass ftz r.1.s else (r.1.s, flagNone)
  (vv.1, ss.1, r.2 ||| vv.2 ||| ss.2)

/-- The source codes an operation reads. -/
def uopReads (w : Word64) : List Nat :=
  match uopOp w with
  | 0x1 | 0x2 | 0x3 => [uopSrcA w]
  | 0x4 | 0x5 => [uopSrcA w, uopSrcB w, uopSrcC w]
  | 0x6 => [uopSrcA w, uopSrcB w]
  | _ => []

/-- One word of a valid recipe (R180, Tables 7-8 to 7-10). -/
def uopValid (w : Word64) : Bool :=
  let op := uopOp w
  let reads := uopReads w
  let useImm := reads.contains 0xA
  let useBank := reads.contains 0xB
  let usePoly := op == 3
  let purposes := (if useImm then 1 else 0) + (if useBank then 1 else 0) + (if usePoly then 1 else 0)
  let ctl := uopCtl w
  decide (1 ≤ op) && decide (op ≤ 6)
  && (if op == 1 then decide (uopDst w ≤ 6) else decide (uopDst w ≤ 9))
  && reads.all (fun c => decide (c ≤ 0xD))
  && (decide (4 ≤ op) || uopSrcB w == 0) && (op == 4 || op == 5 || uopSrcC w == 0)
  && (match op with
      | 1 => decide (ctl ≤ 1) | 2 => decide (ctl ≤ 15) | 4 => decide (ctl ≤ 7) | 5 => decide (ctl ≤ 7)
      | _ => ctl == 0)
  && decide (purposes ≤ 1)
  && (!useBank || decide (uopImm w < 16))
  && (decide (0 < purposes) || uopImm w == 0)

/-- A valid recipe program of `n` words followed by zeros (R180). -/
def recipeValid (n : Nat) (words : List Word64) : Bool :=
  decide (1 ≤ n) && decide (n ≤ 32) && (words.take n).all uopValid && (words.drop n).all (· == 0#64)

/-- The table slots a recipe looks up (R180). -/
def recipeLookups (words : List Word64) : List Nat :=
  (words.filter fun w => uopOp w == 2).map fun w => uopCtl w % 16

end Sys2Proof.Machine
end

