-- ==== Sys2Proof/Machine/Manifest.lean ====
section
/-! DEFINITION. The manifest: its container, its verification, and staging (chapter 3). Applications at landings stand
in Landing.lean. -/

namespace Sys2Proof.Machine

/-! ## The container (R64–R68) -/

/-- A section as stored: its header, its body (ciphertext when encrypted), and where its authentication tag is. -/
structure Section where
  tag : List Byte
  version : Nat
  flags : Nat
  res0 : Bool
  bodyLen : Nat
  iv : List Byte
  header : List Byte
  body : List Byte
  auth : List Byte
  start : Nat
deriving DecidableEq, Repr, Inhabited

/-- Whether ENCRYPTED is set (Table 3-2). -/
def Section.enc (x : Section) : Bool := x.flags.testBit 0

/-- The section that begins at an offset of a manifest (Table 3-2). -/
def sectionAt (bs : List Byte) (off : Nat) : Section :=
  let h := (bs.drop off).take 32
  let len := bytesAt h 8 4
  let flags := bytesAt h 6 1
  { tag := h.take 4, version := bytesAt h 4 2, flags := flags, res0 := bytesAt h 7 1 != 0 || bytesAt h 24 8 != 0,
    bodyLen := len, iv := (h.drop 12).take 12, header := h, body := (bs.drop (off + 32)).take len,
    auth := if flags.testBit 0 then (bs.drop (off + 32 + len)).take 16 else [], start := off }

/-- Bytes a section occupies (R65). -/
def Section.span (x : Section) : Nat := 32 + x.bodyLen + (if x.enc then 16 else 0)

/-- The first `n` sections from an offset. -/
def sectionsFrom (bs : List Byte) : Nat → Nat → List Section
  | 0, _ => []
  | n + 1, off => let x := sectionAt bs off; x :: sectionsFrom bs n (off + x.span)

def asciiBytes (s : String) : List Byte := s.toList.map (fun c => BitVec.ofNat 8 c.toNat)

/-- The section tags in the order of Table 3-1. -/
def sectionTags : List (List Byte) :=
  ["HEAD", "TOPO", "FMTS", "SHAP", "RCPE", "TIME", "RETV", "TOWL", "DETM", "DGST", "SIGN"].map asciiBytes

/-- The body length that Table 3-1 gives section `i`: from the region count of the engine, which JQ_ID.REGIONS reports (DEDUCED, log
entry 40), the engines on the package, and the counts in its body. -/
def bodyLength (i : Nat) (b : List Byte) : Nat :=
  match i with
  | 0 => 64
  | 1 => 16 + Config.engines * 8 * Config.regions
  | 2 => 16
  | 3 => 16 + 4144 * bytesAt b 0 2
  | 4 => 16 + 272 * bytesAt b 0 2
  | 5 => 16 + 16 * bytesAt b 0 2
  | 6 => 16
  | 7 => 16 + 16 * Config.engines + 16 * bytesAt b 1 1
  | 8 => 16
  | 9 => (48 + 8 * bytesAt b 33 1 + 15) / 16 * 16
  | _ => 96

/-- Whether a body has the length of Table 3-1. -/
def lengthOk (i : Nat) (b : List Byte) : Bool := b.length == bodyLength i b

/-- The sections whose length needs no count of their body. -/
def fixedLength (i : Nat) : Bool := [0, 1, 2, 6, 8, 10].contains i

/-- 8 MiB (R64). -/
def storeBytes : Nat := 8388608

/-- Check 1 of Table 3-6, on the whole staged manifest and its eleven sections. The length of an encrypted body that depends
on its own counts is checked once it is decrypted, at check 7 (log entry 40). -/
def check1 (total : Nat) (xs : List Section) : Bool :=
  let head := (xs.getD 0 default).body
  let ivs : List (List Byte) := (xs.filter (·.enc)).map (·.iv)
  decide (total ≤ storeBytes) && xs.map (·.tag) == sectionTags && bytesAt head 0 2 == 1 &&
    xs.all (fun x => x.version == 1 && x.bodyLen % 16 == 0 && x.body.length == x.bodyLen) &&
    (xs.zipIdx).all (fun x => (x.1.enc && !fixedLength x.2) || lengthOk x.2 x.1.body) &&
    !(xs.getD 0 default).enc && !(xs.getD 10 default).enc &&
    (xs.map (·.span)).sum == total && decide ivs.Nodup

/-- Check 6 (R66): the plain bodies, when every authentication tag holds. -/
def plainBodies (key : List Byte) (xs : List Section) : Option (List (List Byte)) :=
  xs.mapM (fun x => if x.enc then gcmOpen key x.iv x.header x.body x.auth else some x.body)

/-! ## Checks on the plain bodies -/

def allZero (bs : List Byte) : Bool := bs.all (· == 0#8)

/-- Bytes `[lo, hi)`. -/
def slice (bs : List Byte) (lo hi : Nat) : List Byte := (bs.drop lo).take (hi - lo)

/-- Check 7: RES0 fields and padding zero, and the permission rule of R71. -/
def check7 (xs : List Section) (b : List (List Byte)) : Bool :=
  let at' := fun i => b.getD i []
  let zero := fun i lo hi => allZero (slice (at' i) lo hi)
  let n := Config.regions
  let e := Config.engines
  let ph := bytesAt (at' 0) 20 4
  let pm := bytesAt (at' 0) 24 4
  xs.all (fun x => x.flags < 2 && !x.res0 && (x.enc || allZero x.iv)) &&
    (b.zipIdx).all (fun x => lengthOk x.2 x.1) &&
    zero 0 18 20 && zero 0 28 64 && zero 1 5 16 &&
    (List.range (e * n)).all (fun k => zero 1 (16 + 8 * k + 5) (16 + 8 * k + 8)) &&
    zero 2 2 4 && zero 2 8 16 && zero 3 2 16 &&
    (List.range (bytesAt (at' 3) 0 2)).all (fun k => zero 3 (16 + 4144 * k + 5) (16 + 4144 * k + 16)) &&
    zero 4 2 16 &&
    (List.range (bytesAt (at' 4) 0 2)).all (fun k => zero 4 (16 + 272 * k + 6) (16 + 272 * k + 16)) &&
    decide (bytesAt (at' 5) 2 1 < 2) && zero 5 3 16 && zero 6 1 2 && zero 6 8 16 && zero 7 2 16 &&
    (List.range e).all (fun k => zero 7 (16 + 16 * k + 6) (32 + 16 * k)) &&
    (List.range (bytesAt (at' 7) 1 1)).all (fun k =>
      let o := 16 + 16 * (e + k)
      zero 7 (o + 10) (o + 16)) &&
    zero 8 2 8 && zero 9 34 48 && allZero ((at' 9).drop (48 + 8 * bytesAt (at' 9) 33 1)) &&
    decide (ph < 512) && decide (pm < 512) && (ph.testBit 1 || pm.testBit 1)

/-- A map record is a permutation of 0 to 4 (R72). -/
def mapRecord (b : List Byte) (off : Nat) : List Nat := (slice b off (off + 5)).map BitVec.toNat

def isPerm (n : Nat) (xs : List Nat) : Bool := xs.length == n && (List.range n).all (fun i => xs.contains i)

/-- Check 8, second half (R72, R371): G values, ROW_SPAN, E, every record, and no logical position on a RETIRED cluster
in this engine's own row. -/
def check8 (b : List Byte) (position : Nat) (retired : List Nat) : Bool :=
  let g := [4, 8, 16]
  let span := bytesAt b 2 1
  let n := Config.regions
  g.contains (bytesAt b 0 1) && g.contains (bytesAt b 1 1) && [1, 2, 4, 8, 16, 32].contains span &&
    4 * n % span == 0 && bytesAt b 3 1 == Config.engines &&
    (List.range (Config.engines * n)).all (fun k => isPerm 5 (mapRecord b (16 + 8 * k))) &&
    (List.range n).all (fun r =>
      ((mapRecord b (16 + 8 * (position * n + r))).take 4).all (fun p => !retired.contains (5 * r + p)))

/-- SHAP records (Table 3-5). -/
def shapRecs (b : List Byte) : List ShapRec :=
  (List.range (bytesAt b 0 2)).map (fun k =>
    let o := 16 + 4144 * k
    ⟨bytesAt b o 4, bytesAt b (o + 4) 1, slice b (o + 16) (o + 4144)⟩)

/-- RCPE records with all 32 words (Table 3-5). -/
def rcpeRaw (b : List Byte) : List (Nat × Nat × Nat × List Word64) :=
  (List.range (bytesAt b 0 2)).map (fun k =>
    let o := 16 + 272 * k
    (bytesAt b o 4, bytesAt b (o + 4) 1, bytesAt b (o + 5) 1,
      (List.range 32).map (fun i => BitVec.ofNat 64 (bytesAt b (o + 16 + 8 * i) 8))))

/-- The (cluster, slot) pairs that records name. -/
def namedSlots (ms : List (Nat × Nat)) : List (Nat × Nat) :=
  (ms.map (fun m => ((List.range 32).filter (fun c => m.1.testBit c)).map (fun c => (c, m.2)))).flatten

/-- R16, R357: no bit at 4N or above, and at level 2 the members of every pair alike. -/
def maskOk (prot mask : Nat) : Bool :=
  decide (mask < 2 ^ Config.clusters) && (prot != 2 || mask % 2 ^ 16 == mask / 2 ^ 16)

/-- Whether a program is valid: its words, the rest zero (R180). -/
def programOk (count : Nat) (ws : List Word64) : Bool :=
  recipeValid count ws

/-- Check 9: SHAP and RCPE (Table 3-5, R163, R180, R357). -/
def check9 (shap rcpe : List Byte) (prot : Nat) : Bool :=
  let ss := shapRecs shap
  let rs := rcpeRaw rcpe
  decide (ss.length ≤ 512) && decide (rs.length ≤ 1024) &&
    ss.all (fun x => maskOk prot x.mask && decide (x.slot < 16) &&
      imgResult (fun i => x.image.getD i 0) == 0) &&
    decide (namedSlots (ss.map (fun x => (x.mask, x.slot)))).Nodup &&
    rs.all (fun x => maskOk prot x.1 && decide (x.2.1 < 32) && programOk x.2.2.1 x.2.2.2) &&
    decide (namedSlots (rs.map (fun x => (x.1, x.2.1)))).Nodup

/-- The timetable (Table 2-4). -/
def timeEntries (b : List Byte) : List TimeEntry :=
  (List.range (bytesAt b 0 2)).map (fun k =>
    let w0 := bytesAt b (16 + 16 * k) 8
    let w1 := bytesAt b (24 + 16 * k) 8
    ⟨bitsOf w0 63 16, bitsOf w0 15 0, bitsOf w1 63 56, w1.testBit 49, w1.testBit 48, bitsOf w1 47 0⟩)

/-- Whether an entry matches a landing (R52). -/
def TimeEntry.matches (t : TimeEntry) (c l : Nat) : Bool :=
  (t.everyCrossing || t.crossing == c) && (t.everyLanding || t.landing == l)

/-- Whether PARAM's RES0 bits are zero (Table 2-5), and the action code listed. -/
def TimeEntry.codeOk (t : TimeEntry) : Bool :=
  match t.action with
  | 1 => true
  | 2 => t.param < 2 ^ 32
  | 3 => t.param < 2 ^ 6
  | 4 => t.param < 2 ^ 5
  | 5 => t.param == 0
  | 6 => t.param < 2 ^ 16
  | 7 => t.param < 2 ^ 32
  | _ => false

/-- Check 10 (R54), the RES0 bits of an entry included: a non-zero one gives 0x06 TIMETABLE and not 0x03 STRUCTURE (DESIGN CHOICE, log entry
148: Table 3-6 names RES0 fields at check 7 and R54 at check 10). Every pair of an entry's crossing with an entry's landing is tried: the
greatest number of entries that one landing can match is reached at such a pair. -/
def check10 (b : List Byte) (prot : Nat) : Bool :=
  let ts := timeEntries b
  let apps : List (Nat × Nat) := (ts.filter (fun t => t.action == 1)).map (fun t => (t.crossing, t.landing))
  decide (ts.length ≤ 1024) && ts.all TimeEntry.codeOk &&
    (List.range ts.length).all (fun k => bitsOf (bytesAt b (24 + 16 * k) 8) 55 50 == 0) &&
    ts.all (fun t => t.action != 1 || (!t.everyCrossing && !t.everyLanding)) && decide apps.Nodup &&
    ts.all (fun t => ts.all (fun u => decide ((ts.filter (fun v => v.matches t.crossing u.landing)).length ≤ 16))) &&
    ((prot != 1 && prot != 2) || ts.any (fun t => t.action == 5 && t.everyCrossing && t.everyLanding))

/-- Check 11 (Table 3-5). -/
def check11 (b : List Byte) : Bool :=
  let la := bytesAt b 0 1
  let r := bytesAt b 2 2
  let w := bytesAt b 4 2
  decide (1 ≤ la) && decide (la ≤ 8) && decide (2048 ≤ r) && decide (r ≤ 2304) && decide (512 ≤ w) &&
    decide (w ≤ 768) && r + w == 2816 && bytesAt b 6 2 == 512

/-- The engine records of TOWL. -/
def towEngines (b : List Byte) : List TowEngine :=
  (List.range Config.engines).map (fun p =>
    let o := 16 + 16 * p
    ⟨bytesAt b o 1, bytesAt b (o + 1) 1, bytesAt b (o + 2) 1, bytesAt b (o + 3) 1, bytesAt b (o + 4) 2⟩)

/-- The group records of TOWL (Table 14-1). -/
def towGroups (b : List Byte) : List TowGroupRec :=
  (List.range (bytesAt b 1 1)).map (fun q =>
    let o := 16 + 16 * (Config.engines + q)
    ⟨bytesAt b o 4, bytesAt b (o + 4) 4, bytesAt b (o + 8) 2⟩)

/-- Members per package of group `q` (0-based), m of R319. -/
def groupM (es : List TowEngine) (q : Nat) : Nat := (es.filter (fun e => e.groups.testBit q)).length

/-- Check 12 (R24, R320, TOW_SELF below E). -/
def check12 (b : List Byte) (position : Nat) : Bool :=
  let es := towEngines b
  let gs := towGroups b
  let n := es.length
  let ring := fun p => (es.getD p default).ring
  bytesAt b 0 1 == Config.engines && decide (gs.length ≤ 16) && decide (position < n) && isPerm n (es.map (·.ring)) &&
    (es.zipIdx).all (fun x =>
      decide (x.1.pred < n) && decide (x.1.succ < n) && decide (x.1.partner < n) &&
        ring x.1.succ == (x.1.ring + 1) % n && ring x.1.pred == (x.1.ring + n - 1) % n &&
        x.1.partner != x.2 && (es.getD x.1.partner default).partner == x.2 &&
        decide (x.1.groups < 2 ^ gs.length)) &&
    (gs.zipIdx).all (fun x =>
      decide (1 ≤ x.1.count) && decide (x.1.first + x.1.count ≤ 131072) && decide (x.1.first ≤ 131071) &&
        x.1.engines == groupM es x.2 * x.1.count && decide (1 ≤ x.1.engines) && decide (x.1.engines ≤ 4096))

/-- Check 13: FMTS, DETM and DGST (Table 3-5). -/
def check13 (fmts detm dgst : List Byte) : Bool :=
  decide (bytesAt fmts 0 1 ≤ 4) && decide (bytesAt fmts 1 1 ≤ 1) && decide (bytesAt detm 0 1 ≤ 2) &&
    decide (bytesAt detm 1 1 ≤ 1) && decide (bytesAt dgst 32 1 ≤ 1) && decide (bytesAt dgst 33 1 ≤ 64)

/-- P1 of R81. -/
def phase1Length (ss : List (Nat × Nat)) (rs : List (Nat × Nat)) : Nat :=
  let count := fun (ms : List (Nat × Nat)) (c : Nat) => (ms.filter (fun m => m.1.testBit c)).length
  let b := fun x => 1024 + ((List.range 4).map (fun i => 512 + 4128 * count ss (4 * x + i) + 256 * count rs (4 * x + i))).sum
  48 + ceilDiv (((List.range Config.regions).map b).foldl max 0) 64

/-- The rounding modes of Table 4-2 by code. -/
def rmodeOfCode : Nat → RMode
  | 0 => .rne | 1 => .rtz | 2 => .rup | 3 => .rdn | _ => .sr

/-- The manifest that eleven plain bodies describe, for the engine at a package position. -/
def manifestOf (digest : List Byte) (total position : Nat) (b : List (List Byte)) : Manifest :=
  let at' := fun i => b.getD i []
  let ss := shapRecs (at' 3)
  let rs := rcpeRaw (at' 4)
  { tag := beNat (digest.take 8), digest := digest, length := total,
    p1 := phase1Length (ss.map (fun x => (x.mask, x.slot))) (rs.map (fun x => (x.1, x.2.1))),
    jobId := bytesAt (at' 0) 8 8, permHost := bytesAt (at' 0) 20 4, permMgr := bytesAt (at' 0) 24 4,
    gReduce := bytesAt (at' 1) 0 1, gMac := bytesAt (at' 1) 1 1, rowSpan := bytesAt (at' 1) 2 1,
    topo := (List.range Config.regions).map (fun r => mapRecord (at' 1) (16 + 8 * (position * Config.regions + r))),
    num := ⟨rmodeOfCode (bytesAt (at' 2) 0 1), bytesAt (at' 2) 1 1 == 1, BitVec.ofNat 32 (bytesAt (at' 2) 4 4)⟩,
    shap := ss, rcpe := rs.map (fun x => ⟨x.1, x.2.1, x.2.2.2.take x.2.2.1⟩),
    timed := bytesAt (at' 5) 2 1 == 1, times := timeEntries (at' 5),
    lookahead := bytesAt (at' 6) 0 1, readTags := bytesAt (at' 6) 2 2, writeTags := bytesAt (at' 6) 4 2,
    engines := towEngines (at' 7), groups := towGroups (at' 7),
    protection := bytesAt (at' 8) 0 1, fastStats := bytesAt (at' 8) 1 1 == 1, srSeed := bytesAt (at' 8) 8 8,
    dgstSeed := (at' 9).take 32, certHmac := bytesAt (at' 9) 32 1 == 1,
    slots := (List.range (bytesAt (at' 9) 33 1)).map (fun k => bytesAt (at' 9) (48 + 8 * k) 8) }

/-! ## Verification (R77, R384, R386) -/

/-- R389: a SELFTEST that waits for the running service runs when that service ends. -/
def startWaiting (s : State) : State :=
  match s.toll.waitSelftest with
  | some p => { s with toll := { s.toll with busy := .selftest p, waitSelftest := none } }
  | none => s

/-- A valid key slot (R381). -/
def keyOf (s : State) (slot : Nat) : Option (List Byte) :=
  let k := sget default s.toll.slots slot
  if k.key.isEmpty then none else some k.key

/-- Check 4 (R384): the slots named, the decryption key if a section needs one, and the closer's session. -/
def check4 (s : State) (sign dec : Nat) (enc : Bool) : Bool :=
  decide (sign < 8) && (keyOf s sign).isSome &&
    (dec == 0xFF || (decide (8 ≤ dec) && decide (dec ≤ 11) && (keyOf s dec).isSome)) &&
    (!enc || (dec != 0xFF && s.man.closeAuth))

/-- TOTAL_LENGTH of the staged manifest (R69). -/
def stagedLength (s : State) : Nat := bytesAt (sdense 0 s.man.staged 0 96) 36 4

/-- The staged manifest's bytes, and its eleven sections. -/
def stagedBytes (s : State) : List Byte := sdense 0 s.man.staged 0 (stagedLength s)

def stagedSections (s : State) : List Section := sectionsFrom (stagedBytes s) 11 0

/-- HEAD's body, SIGN_KEY_SLOT and DECRYPT_KEY_SLOT. -/
def stagedHead (s : State) : List Byte := ((stagedSections s).getD 0 default).body

def signSlot (s : State) : Nat := bytesAt (stagedHead s) 16 1

def decryptSlot (s : State) : Nat := bytesAt (stagedHead s) 17 1

/-- The error state (R386) and the checks 1 to 4 of Table 3-6, which use no key: the reason of the first that fails. The
stepping of a part and MIN_STEP compare as letter and digit (R70). -/
def earlyReason (s : State) : Option Nat :=
  if s.toll.errorState then some 0x12
  else if (sdense 0 s.man.staged 0 96).take 4 ≠ asciiBytes "HEAD" ∨ storeBytes < stagedLength s then some 0x03
  else if !check1 (stagedLength s) (stagedSections s) then some 0x03
  else if bytesAt (stagedHead s) 2 1 ≠ Config.regions then some 0x04
  else if s.stepping.1 * 16 + s.stepping.2 < bytesAt (stagedHead s) 3 1 then some 0x0A
  else if !check4 s (signSlot s) (decryptSlot s) ((stagedSections s).any (·.enc)) then some 0x10
  else none

/-- The manifest digest of what is staged (R67). -/
def stagedDigest (s : State) : List Byte := sha384 ((stagedBytes s).take ((stagedSections s).getD 10 default).start)

/-- Check 5: the signature of R68. -/
def signatureOk (s : State) : Bool :=
  let sig := ((stagedSections s).getD 10 default).body
  let pk := (keyOf s (signSlot s)).getD []
  ecdsaVerify (beNat (pk.take 48)) (beNat (pk.drop 48)) (stagedDigest s) (beNat (sig.take 48)) (beNat (sig.drop 48))

/-- R77: the checks of Table 3-6 in order, stopping at the first that fails: the manifest, or the reason. -/
def verifyStaged (s : State) : Except Nat Manifest :=
  match earlyReason s with
  | some r => .error r
  | none =>
    let xs := stagedSections s
    if !signatureOk s then .error 0x01
    else
      match plainBodies ((keyOf s (decryptSlot s)).getD []) xs with
      | none => .error 0x02
      | some b =>
        let at' := fun i => b.getD i []
        let prot := bytesAt (at' 8) 0 1
        if !check7 xs b then .error 0x03
        else if bytesAt (at' 1) 4 1 ≠ Config.regions then .error 0x04
        else if !check8 (at' 1) s.tow.position s.keep.repair.retired then .error 0x05
        else if !check9 (at' 3) (at' 4) prot then .error 0x08
        else if !check10 (at' 5) prot then .error 0x06
        else if !check11 (at' 6) then .error 0x09
        else if !check12 (at' 7) s.tow.position then .error 0x07
        else if !check13 (at' 2) (at' 8) (at' 9) then .error 0x03
        else .ok (manifestOf (stagedDigest s) (stagedLength s) s.tow.position b)

/-- The uses of the keys that a verification counts (R381): the verifying key, and the decryption key where a section is
encrypted. -/
def countUse (slot : Nat) (s : State) : State :=
  let k := sget default s.toll.slots slot
  if k.key.isEmpty then s
  else { s with toll := { s.toll with
    slots := sset default s.toll.slots slot { k with uses := satInc (2 ^ 32 - 1) k.uses } } }

/-- The key uses that the verification of what is staged counts, whatever it answers (R381): the verifying key once check
5 runs, the decryption key once check 6 does and a section is encrypted. -/
def countVerification (s : State) : State :=
  if (earlyReason s).isSome then s
  else
    let s1 := countUse (signSlot s) s
    if signatureOk s && (stagedSections s).any (·.enc) then countUse (decryptSlot s) s1 else s1

/-- MANIFEST_VERIFICATION_END (R77): verified, with the tag and the information filled, or refused with a reason. The
Tollhouse runs one service at a time (R389): a verification that waits for a running service does not end before it. The
DRBG is reseeded at each verification (R385), and a continuous test that fails there refuses it with TOLL_ERROR (R386). -/
def execManifestVerificationEnd (s : State) : Host.Outcome State Fault Refusal :=
  .next (if ¬mainStopped s ∧ s.man.stage = .verifying ∧ s.toll.busy = .none then
      let s0 := reseedDrbg s
      let s1 := countVerification s0
      startWaiting (match verifyStaged s0 with
      | .error r => refuseManifest r { s1 with man := { s1.man with stage := .refused, stagedConf := none } }
      | .ok m => { s1 with man := { s1.man with stage := .verified, stagedConf := some m } })
    else s)

/-! ## Staging (R75, R76) -/

/-- R76: empty the staged store, abandoning a verification without a report; ignored while applying or while a decided
application locks the store (R80). -/
def emptyStage (st : StageState) (s : State) : State :=
  if s.man.apply = .applying then s
  else
    let s1 := { s with man := { s.man with stage := st, staged := [], stagedConf := none } }
    if s.man.stage = .verifying then startWaiting s1 else s1

/-- OPEN: MAN_CTL.OPEN (R75, R76); needs permission bit 1. -/
def execManOpen (port : Port) (s : State) : Host.Outcome State Fault Refusal :=
  .next (onMain port 1 (emptyStage .opened) s)

/-- DISCARD: MAN_CTL.DISCARD (R76). -/
def execManDiscard (port : Port) (s : State) : Host.Outcome State Fault Refusal :=
  .next (onMain port 1 (emptyStage .empty) s)

/-- R75 step 3: staging ends and verification starts. Written while staging is not open, CLOSE is ignored (DESIGN CHOICE, log
entry 141: R75 gives it no effect then). What R384 takes at CLOSE is recorded. In the error state the
verification refuses (R386). -/
def closeStage (p : Port) (s : State) : State :=
  if s.man.stage = .opened then
    let auth := match p with | .host => s.toll.host.auth | .mgr => s.toll.mgr.auth
    { s with man := { s.man with stage := .verifying, closeAuth := auth } }
  else s

/-- CLOSE: MAN_CTL.CLOSE (R75). -/
def execManClose (port : Port) (s : State) : Host.Outcome State Fault Refusal :=
  .next (onMain port 1 (closeStage port) s)

/-- STAGING_APERTURE_WRITE (R75): while staging is open, bytes land in the page that MAN_STAGE_PAGE selects. -/
def stageWrite (off : Nat) (bytes : List Byte) (s : State) : State :=
  if s.man.stage = .opened then
    { s with man := { s.man with
        staged := sblit 0 s.man.staged (s.man.page * 1048576 + off) (bytes.take (1048576 - off)) } }
  else s

/-- STAGING_APERTURE_WRITE; needs permission bit 1 (R421). -/
def execStagingApertureWrite (port : Port) (off : Nat) (bytes : List Byte) (s : State) :
    Host.Outcome State Fault Refusal :=
  .next (onWindow port 1 (oneBlock 0x100000 off bytes.length) (stageWrite off bytes) s)

/-! ## Requests (R79, R87) -/

/-- R79: drop an armed request with REASON EXPIRED. -/
def expireRequest (s : State) : State := refuseManifest 0x0D { s with man := { s.man with apply := .none } }

/-- Whether a landing has been reached or its crossing has closed (R79). Before the first opening nothing has. -/
def landingPast (s : State) (c l : Nat) : Bool :=
  !s.crs.firstOpen && (decide (c < s.crs.crossing) || (c == s.crs.crossing && decide (l ≤ s.crs.landing)))

/-- R79: a write to MAN_APPLY_AT arms a request; one that names a landing already reached or a closed crossing is
dropped. While an application is in progress the register takes the value and nothing is armed (DESIGN CHOICE, log entry
142: R79 lets a write arm, and Table 3-10 has one APPLY_STATE, then applying). -/
def armApply (c l : Nat) (s : State) : State :=
  if s.man.apply = .applying then { s with man := { s.man with applyAt := (c, l) } }
  else
    let s1 := { s with man := { s.man with applyAt := (c, l), apply := .armed } }
    if landingPast s c l then expireRequest s1 else s1

/-- MAN_APPLY_AT; needs permission bit 1. -/
def execManApplyAt (port : Port) (crossing : BitVec 48) (landing : BitVec 16) (s : State) :
    Host.Outcome State Fault Refusal :=
  .next (onMain port 1 (armApply crossing.toNat landing.toNat) s)

/-- R79: withdraw an armed request. -/
def disarmOp (s : State) : State :=
  if s.man.apply = .armed then { s with man := { s.man with apply := .none } } else s

/-- DISARM: MAN_CTL.DISARM. -/
def execManDisarm (port : Port) (s : State) : Host.Outcome State Fault Refusal := .next (onMain port 1 disarmOp s)

/-- R87: accepted only while no manifest is active: MAN_KEPT_TAG is cleared, and the replay point of the ledger is void: that
changes no register (DESIGN CHOICE, log entry 145: LDG_COMMITTED and the crossing copy stay, and RESUME's conditions read
them as they stand). -/
def forgetOp (s : State) : State :=
  if s.man.active.isNone then journal [.tag] { s.keep with keptTag := none, keptPermMgr := 0 } s else s

/-- FORGET: MAN_CTL.FORGET. -/
def execManForget (port : Port) (s : State) : Host.Outcome State Fault Refusal := .next (onMain port 1 forgetOp s)

end Sys2Proof.Machine
end

