-- ==== Sys2Proof/Machine/Digest.lean ====
section
/-! DEFINITION. Wake digests: keys, contributions, closing, posts, and the comparison of partners (chapter 15). -/

namespace Sys2Proof.Machine

/-- The field modulus p of R348. -/
def digP : Nat := 2 ^ 127 - 1

/-- Key `j` of a digest seed (R348). -/
def wakeKey (seed : List Byte) (j : Nat) : Nat :=
  leNat ((hmac384 seed (asciiBytes "JQ8WAKE" ++ leBytes 2 j)).take 16) % 2 ^ 127 % digP

/-- A value that is replaced by 1 when it is 0 (R349, R352). -/
def nonzero (v : Nat) : Nat := if v = 0 then 1 else v

/-- τ of R349 for a position. -/
def wakeTau (seed : List Byte) (pos : Nat) : Nat := nonzero ((wakeKey seed 1056 * pos + wakeKey seed 1057) % digP)

/-- POS of R349. -/
def wakePos (tensor : Nat) (c : Coord) : Nat :=
  tensor * 2 ^ 62 + c.i3 * 2 ^ 50 + c.i2 * 2 ^ 38 + c.i1 / 16 * 2 ^ 18 + c.i0 / 64

/-- The element word m of Table 15-4. -/
def wakeWord (bits fmt : Nat) (poison : Bool) : Nat := bits % 2 ^ 32 + (fmt + 1) * 2 ^ 32 + bit poison * 2 ^ 36

/-- The contribution of one element (R349). -/
def wakeElement (seed : List Byte) (tensor fmt : Nat) (c : Coord) (bits : Nat) (poison : Bool) : Nat :=
  wakeTau seed (wakePos tensor c) * wakeKey seed (64 * (c.i1 % 16) + c.i0 % 64) % digP * wakeWord bits fmt poison % digP

/-- The contribution of the scale of an MX block at the block's first element (R349). -/
def wakeScale (seed : List Byte) (tensor : Nat) (c : Coord) (scale : Nat) (poison : Bool) : Nat :=
  wakeTau seed (wakePos tensor c) * wakeKey seed (1024 + 2 * (c.i1 % 16) + c.i0 % 64 / 32) % digP *
    (scale + 2 ^ 8 + 2 ^ 9 * bit poison) % digP

/-- Add contributions to a segment's open digests: lane and store sums and element counts (R350, R351). -/
def addDigest (landing lane store lanes stores : Nat) (s : State) : State :=
  let g := sget .zero s.dgst.segs landing
  { s with dgst := { s.dgst with
      segs := sset .zero s.dgst.segs landing
        { g with lane := (g.lane + lane) % digP, store := (g.store + store) % digP,
                 laneCount := satAdd (2 ^ 40 - 1) g.laneCount lanes,
                 storeCount := satAdd (2 ^ 40 - 1) g.storeCount stores } } }

/-- λ(k) of R352. -/
def wakeLambda (seed : List Byte) (k : Nat) : Nat := nonzero ((wakeKey seed 1058 + k) % digP)

/-- The seed in force; none with no manifest. -/
def wakeSeed (s : State) : List Byte := match s.man.active with | some m => m.dgstSeed | none => []

/-- DIFFER of Table 15-5. -/
def SegDig.differ (g : SegDig) : Bool := g.lane != g.store || g.laneCount != g.storeCount

/-- The digest record of closed digests. -/
def digRecord (c l : Nat) (g : SegDig) (tide : Nat) : DigRec :=
  ⟨c, l, g.lane, g.store, g.laneCount, g.invalid, g.differ, tide⟩

/-- R352: fold a closed segment `k` into the crossing digests, under a seed. -/
def foldCross (seed : List Byte) (k : Nat) (g x : SegDig) : SegDig :=
  let lam := wakeLambda seed k
  { lane := (x.lane + lam * g.lane) % digP, store := (x.store + lam * g.store) % digP,
    laneCount := satAdd (2 ^ 40 - 1) x.laneCount g.laneCount,
    storeCount := satAdd (2 ^ 40 - 1) x.storeCount g.storeCount, invalid := x.invalid || g.invalid }

/-- The crossing digests over the closed segments of a crossing, formed at its end under the seed then in force (R348, R352). -/
def crossDig (seed : List Byte) (xs : List (Nat × SegDig)) : SegDig := xs.foldl (fun a x => foldCross seed x.1 x.2 a) .zero

/-- Set or replace the cleanness of a landing's records. -/
def setRec (c l : Nat) (clean : Bool) (xs : List (Nat × Nat × Bool)) : List (Nat × Nat × Bool) :=
  xs.filter (fun x => !(x.1 == c && x.2.1 == l)) ++ [(c, l, clean)]

/-- Whether a landing's records are known and clean. -/
def recClean (c l : Nat) (xs : List (Nat × Nat × Bool)) : Bool := xs.contains (c, l, true)

/-- MISMATCH with source DIGEST (Table 19-7): DETAIL1 names the record's landing and whose it is. -/
def mismatchDigest (c l : Nat) (partner : Bool) (s : State) : State :=
  raise evMismatch none (3 + c * 2 ^ 16) (l + bit partner * 2 ^ 16) s

/-- Close the digests of segment `k` at landing `l` (R351, R352, R354). The registers show the segment (Tables 15-7, 15-8; log entry 41). The
own record's part of the comparison fails at once where it has DIFFER set or is INVALID; what the landing's comparison reads is noted. Under
the unprotected level only the crossing records of the crossing end are compared. -/
def closeDigest (k l : Nat) (s : State) : State :=
  let c := s.crs.crossing
  let g := sget .zero s.dgst.segs k
  let all := s.dgst.closed ++ [(k, g)]
  let x := crossDig (wakeSeed s) all
  let atEnd := l = 0xFFFF
  let prot := protection s
  let crossFails := decide atEnd && (x.differ || x.invalid)
  let failed := if prot = 0 then crossFails else g.differ || g.invalid || crossFails
  let clean := if prot = 0 then !(x.differ || x.invalid) else !failed
  let s1 := { s with
    dgst := { s.dgst with
      segs := sput s.dgst.segs k none, closed := all, closedCrossing := c, closedLanding := k, closedLane := g.lane, closedStore := g.store,
      closedInvalid := g.invalid, ownDiffer := s.dgst.ownDiffer || failed,
      trace := if s.dgst.trace = 2 ∧ s.dgst.traceCrossing = c ∧ s.dgst.traceLanding = k then 3 else s.dgst.trace }
    tow := { s.tow with ownRecs := setRec c l clean s.tow.ownRecs } }
  if failed then mismatchDigest c (if prot = 0 then 0xFFFF else k) false s1 else s1

/-- The 64 bytes of a digest record (Table 15-5). -/
def digBytes (r : DigRec) : List Byte :=
  leBytes 8 (r.crossing % 2 ^ 48 + r.landing % 2 ^ 16 * 2 ^ 48) ++ leBytes 16 r.lane ++ leBytes 16 r.store ++
    leBytes 8 r.elements ++ leBytes 8 (bit r.invalid + 2 * bit r.differ) ++ leBytes 8 r.tide

/-- A whole write of bytes to job memory, in the blocks it touches. The engine's own records lie within one block. -/
def recordBlock (addr : Nat) (bytes : List Byte) : WBlock :=
  ⟨addr / 512 * 512, (bytes.zipIdx).map (fun x => (addr % 512 + x.2, x.1)), [], 0, [], []⟩

/-- DIGEST_POST with record slot `slot` (R353): one write over one WRITE tag, or POST_SKIPPED. -/
def postDigest (slot : Nat) (r : DigRec) (s : State) : State :=
  let slots := match s.man.active with | some m => m.slots | none => []
  if slot < slots.length then
    { s with rtv := { s.rtv with
        posts := s.rtv.posts ++ [(.post, recordBlock ((slots.getD slot 0 + 64 * s.tow.position) % 2 ^ 64) (digBytes r))] } }
  else { s with dgst := { s.dgst with postSkipped := true } }

/-! ## Traces (R355) -/

/-- R355: arm a trace of a segment; 0xFFFF arms nothing; a segment of which a command has been taken since the last
reset is missed. -/
def armTrace (c l : Nat) (s : State) : State :=
  let d := { s.dgst with traceCrossing := c, traceLanding := l }
  if l = 0xFFFF then s
  else if d.taken.contains (c, l) then { s with dgst := { d with trace := 0, missed := true } }
  else { s with dgst := { d with trace := 1, records := 0 } }

/-- TRACE_ARM: a write to JQ_DGST_TRACE_CTL; needs permission bit 6. -/
def execTraceArm (port : Port) (crossing : BitVec 48) (landing : BitVec 16) (s : State) :
    Host.Outcome State Fault Refusal :=
  .next (onMain port 6 (armTrace crossing.toNat landing.toNat) s)

/-- The first command taken of a segment starts an armed trace of it (R355). -/
def noteTaken (c l : Nat) (s : State) : State :=
  let d := s.dgst
  { s with dgst := { d with
      taken := if d.taken.contains (c, l) then d.taken else d.taken ++ [(c, l)]
      trace := if d.trace = 1 ∧ d.traceCrossing = c ∧ d.traceLanding = l then 2 else d.trace } }

/-- One trace record (Table 15-6), over a WRITE tag, while there is room; OVERFLOW is set once JQ_DGST_TRACE_LEN is reached. -/
def traceRecord (b seq cluster lane store pos elements : Nat) (s : State) : State :=
  let d := s.dgst
  if d.trace ≠ 2 then s
  else if d.traceLen ≤ d.records then { s with dgst := { d with overflow := true } }
  else
    let bytes := leBytes 16 lane ++ leBytes 16 store ++ leBytes 16 pos ++
      leBytes 8 (seq + b * 2 ^ 48 + cluster * 2 ^ 53) ++ leBytes 8 elements
    { s with
      dgst := { d with records := d.records + 1, overflow := d.overflow || decide (d.traceLen ≤ d.records + 1) }
      rtv := { s.rtv with
        posts := s.rtv.posts ++ [(.trace b seq, recordBlock ((d.traceAddr + 64 * d.records) % 2 ^ 64) bytes)] } }

end Sys2Proof.Machine
end

