-- ==== Sys2Proof/Machine/Scratchpad.lean ====
section
/-! DEFINITION. The scratchpad: address decode (R306), what reads meet (R311, R312), row failures, copies to spare rows
and banks (R314 to R318), and reads of result windows (R284). -/

namespace Sys2Proof.Machine

/-! ## Address decode (Table 13-1) -/

def spRegion (a : Nat) : Nat := bitsOf a 11 9
def spBank (a : Nat) : Nat := Nat.xor (bitsOf a 14 12 * 8 + bitsOf a 8 6) (bitsOf a 20 15)
def spRow (a : Nat) : Nat := bitsOf a 26 19

/-- The key of a row: region, logical bank, row. -/
def rowKey (region bank row : Nat) : Nat := (region * 64 + bank) * 256 + row

/-- The row an address lies in. -/
def rowOf (a : Nat) : Nat := rowKey (spRegion a) (spBank a) (spRow a)

/-- The physical bank that serves a logical one: 64 and 65 are the spare banks (R316, R318). -/
def physBank (s : State) (region bank : Nat) : Nat :=
  let on := fun (sb : Nat) => s.keep.repair.spares.contains (region, sb, bank)
  if on 1 then 65 else if on 0 then 64 else bank

/-- Remaps of a row of a physical bank, abandoned spares counted (R315). -/
def remapsOf (s : State) (region phys row : Nat) : Nat :=
  (s.keep.repair.rows.filter (fun m => m.region == region && m.bank == phys && m.row == row)).length

/-- Spare rows of a physical bank in use, abandoned, or being copied into. -/
def sparesUsed (s : State) (region phys : Nat) : Nat :=
  (s.keep.repair.rows.filter (fun m => m.region == region && m.bank == phys)).length +
    (s.sp.copies.filter (fun c => c.region == region && c.row.isSome && physBank s region c.bank == phys)).length

/-- KEN_SP_LOG (Table 13-6): the latest failure. -/
def logRow (kind region bank row remaps : Nat) (s : State) : State :=
  { s with sp := { s.sp with log := ⟨true, kind, region, bank, row, remaps % 4, s.crs.tide % 2 ^ 32⟩ } }

/-- Add a mapping, in force or abandoned, to the repair table. -/
def addRow (region phys row spare : Nat) (s : State) : State :=
  let rep := s.keep.repair
  journal [.repair] { s.keep with repair := { rep with rows := rep.rows ++ [⟨region, phys, row, spare⟩] } } s

/-- The spare banks of a region that serve, have served, or are being copied into. -/
def spareBanks (s : State) (region : Nat) : List Nat :=
  (s.keep.repair.spares.filter (fun x => x.1 == region)).map (fun x => x.2.1) ++
    (s.keep.repair.worn.filter (fun x => x.1 == region)).map (·.2) ++
    (s.sp.copies.filter (fun c => c.region == region && c.row.isNone)).map (·.spare)

/-- R316, R317: replace a bank by the first free spare bank of its region, or SHARD_MIGRATE, once for the bank. -/
def replaceBank (region bank row remaps : Nat) (s : State) : State :=
  let used := spareBanks s region
  let start := fun (sb : Nat) =>
    logRow 2 region bank row remaps { s with sp := { s.sp with copies := s.sp.copies ++ [⟨region, bank, none, sb⟩] } }
  if !used.contains 0 then start 0
  else if !used.contains 1 then start 1
  else
    let s1 := logRow 3 region bank row remaps s
    if s.sp.noSpare.contains (region, bank) then s1
    else raise evShardMigrate none (1 + 4 * region + 32 * bank) 0
      { s1 with sp := { s1.sp with noSpare := s1.sp.noSpare ++ [(region, bank)] } }

/-- A row of a bank fails (R314 to R317). A failure during the row's copy abandons that spare, which stays used and counts
as a remap; where it was the bank's 16th, SPARE_EXHAUSTED is raised (R316, Table 19-7). In a bank that found no spare, a row that fails again
is not remapped. -/
def rowFail (region bank row : Nat) (s : State) : State :=
  let phys := physBank s region bank
  let mine := fun (c : Copy) => c.region == region && c.bank == bank && c.row == some row
  let s1 := match s.sp.copies.find? mine with
    | some c => addRow region phys row c.spare { s with sp := { s.sp with copies := s.sp.copies.filter (fun x => !mine x) } }
    | none => s
  let n := remapsOf s1 region phys row
  let used := sparesUsed s1 region phys
  let s2 :=
    if s1.sp.copies.any (fun c => c.region == region && c.bank == bank && c.row.isNone) then logRow 1 region bank row n s1
    else if s1.sp.noSpare.contains (region, bank) ∧ (0 < n ∨ 16 ≤ used) then logRow 1 region bank row n s1
    else if 3 ≤ n ∨ 16 ≤ used then replaceBank region bank row n s1
    else
      logRow 1 region bank row n { s1 with sp := { s1.sp with copies := s1.sp.copies ++ [⟨region, bank, some row, used⟩] } }
  match s.sp.copies.find? mine with
  | some c => if c.spare = 15 then raise evSpareExhausted none (region + 8 * 2 + 32 * bank) 0 s2 else s2
  | none => s2

/-- A corrected word counts (R311). -/
def countCorrected (a : Nat) (s : State) : State :=
  let r := spRegion a
  { s with sp := { s.sp with ce := sset 0 s.sp.ce r (satInc 0xFFFF (sget 0 s.sp.ce r)) } }

/-- A read corrects a word (R311, R314): a second word of the row makes the row fail, once for its mapping. -/
def correctWord (a : Nat) (s : State) : State :=
  let s1 := countCorrected a s
  match s.sp.corrected.find? (fun x => x.1 == rowOf a) with
  | none => { s1 with sp := { s1.sp with corrected := sput s1.sp.corrected (rowOf a) (some (a / 8)) } }
  | some (_, x) =>
    if x = a / 8 ∨ s.sp.failedRows.contains (rowOf a) then s1
    else rowFail (spRegion a) (spBank a) (spRow a) { s1 with sp := { s1.sp with failedRows := s1.sp.failedRows ++ [rowOf a] } }

/-- A read finds a line uncorrectable (R312, R314): its mark is set and its row fails. -/
def loseLine (a : Nat) (s : State) : State :=
  rowFail (spRegion a) (spBank a) (spRow a) (setMark (a / 64) true s)

/-- What reads meet, before their elements are delivered. -/
def readMeets (err : ReadErr) (s : State) : State :=
  err.lost.foldl (fun t a => loseLine a t) (err.corrected.foldl (fun t a => correctWord a t) s)

/-- A read in the result windows (R284, R426): reads consume nothing; the host port holds the answer. The scratchpad reads of a window that
answers with data correct and find errors as others do (R311, R312). -/
def readWindow (off len : Nat) (err : ReadErr) (s : State) : State :=
  let w := sget default s.cq.wins (off / 2 ^ 20 % 128)
  let b := off % 2 ^ 16
  let reads := fun (a : Nat) => decide (w.base + b < a / 64 * 64 + 64) && decide (a / 64 * 64 < w.base + min w.span (b + len))
  let s1 := if (windowAnswer s off len).2.1 = 0 then readMeets (err.within reads) s else s
  let a := windowAnswer s1 off len
  { s1 with hostp := { s1.hostp with data := a.1, code := a.2.1, poison := a.2.2 } }

/-- A read that no register, window or area takes returns zero (R421). -/
def readZero (len : Nat) (s : State) : State :=
  { s with hostp := { s.hostp with data := List.replicate len 0, code := 0, poison := false } }

/-- RESULT_WINDOW_READ (R284), within one 64-byte block (R421). -/
def execResultWindowRead (off : BitVec 27) (len : Nat) (s : State) (err : ReadErr := .none) : Host.Outcome State Fault Refusal :=
  .next (if mainStopped s then s
    else if oneBlock (2 ^ 27) off.toNat len then readWindow off.toNat len err s else readZero len s)

/-! ## The end of a copy (R315, R316) -/

/-- What the reads of a copy meet (R315): a corrected word counts, and a line read with an uncorrectable error is written marked. The row
has failed already, and its new mapping takes effect as they end (log entry 124). -/
def copyMeets (err : ReadErr) (s : State) : State :=
  err.lost.foldl (fun t a => setMark (a / 64) true t) (err.corrected.foldl (fun t a => countCorrected a t) s)

/-- The reads of a copy that is running. -/
def copyReads (mine : Copy → Bool) (err : ReadErr) (s : State) : State :=
  if !(mainStopped s) && s.sp.copies.any mine then copyMeets err s else s

/-- ROW_COPY_END: the spare row serves. SPARE_EXHAUSTED is raised for the bank's 16th spare row (R316, Table 19-7), and then REPAIR_DONE
(ascending code order, R430). -/
def execRowCopyEnd (region bank row : Nat) (s0 : State) (err : ReadErr := .none) : Host.Outcome State Fault Refusal :=
  let mine := fun (c : Copy) => c.region == region && c.bank == bank && c.row == some row
  let s := copyReads mine (err.within (fun a => rowOf a == rowKey region bank row)) s0
  .next (if mainStopped s then s else match s.sp.copies.find? mine with
    | none => s
    | some c =>
      let phys := physBank s region bank
      let s1 := addRow region phys row c.spare { s with sp := { s.sp with
        copies := s.sp.copies.filter (fun x => !mine x)
        corrected := sput s.sp.corrected (rowKey region bank row) none
        failedRows := s.sp.failedRows.filter (· != rowKey region bank row) } }
      let s2 := if c.spare = 15 then raise evSpareExhausted none (region + 8 * 2 + 32 * bank) 0 s1 else s1
      raise evRepairDone none (region + 8 * bank + 512 * row + 2 ^ 18 * remapsOf s1 region phys row) 0 s2)

/-- Whether an address line lies in a bank; `line` is the address divided by 64. -/
def inBank (region bank line : Nat) : Bool := spRegion (64 * line) == region && spBank (64 * line) == bank

/-- The lines that a copy still running at a crossing end has not reached are marked (R316). How many it has copied is
timing that the spec leaves free: a free value. -/
def markUncopied (region bank : Nat) (s : State) : State :=
  let n := Config.copiedLines s.free % 4097
  let s1 := { s with free := s.free + 1 }
  { s1 with sp := { s1.sp with clean := s1.sp.clean.filter (fun x =>
      !(inBank region bank x.1 && decide (n ≤ bitsOf (64 * x.1) 26 15))) } }

/-- BANK_COPY_END: the spare bank serves the logical bank. SPARE_EXHAUSTED is raised for the second spare bank of a
region and then REPAIR_DONE (ascending code order, R430). At a crossing end the copy ends where it stands. A spare bank that is
replaced is in service no longer (Table 13-5). -/
def execBankCopyEnd (region bank : Nat) (s0 : State) (err : ReadErr := .none) : Host.Outcome State Fault Refusal :=
  let mine := fun (c : Copy) => c.region == region && c.bank == bank && c.row.isNone
  let s := copyReads mine (err.within (fun a => spRegion a == region && spBank a == bank)) s0
  .next (if mainStopped s then s else match s.sp.copies.find? mine with
    | none => s
    | some c =>
      let cut := match s.crs.run with | some r => decide (r.landing = 0xFFFF) | none => false
      let s1 := if cut then markUncopied region bank s else s
      let rep := s1.keep.repair
      let s2 := journal [.repair] { s1.keep with repair := { rep with
          spares := rep.spares.filter (fun x => !(x.1 == region && x.2.2 == bank)) ++ [(region, c.spare, bank)]
          worn := rep.worn ++ (rep.spares.filter (fun x => x.1 == region && x.2.2 == bank)).map (fun x => (x.1, x.2.1)) } } { s1 with
        sp := { s1.sp with
          copies := s1.sp.copies.filter (fun x => !(x.region == region && x.bank == bank))
          corrected := s1.sp.corrected.filter (fun x => x.1 / 256 != region * 64 + bank)
          failedRows := s1.sp.failedRows.filter (fun x => x / 256 != region * 64 + bank)
          noSpare := s1.sp.noSpare.filter (fun x => !(x.1 == region && x.2 == bank)) } }
      let s3 := if c.spare = 1 then raise evSpareExhausted none (region + 8 + 32 * bank) 0 s2 else s2
      raise evRepairDone none (region + 8 * bank + 2 ^ 17) 0 s3)

end Sys2Proof.Machine
end

