-- ==== Sys2Proof/Machine/Operands.lean ====
section
/-! DEFINITION. Reading operands: the bytes of a slot in the scratchpad or in the granules received (R286, R300, R312),
elements of every format (R89 to R94, R263), and the operand select of stages (Table 5-2). -/

namespace Sys2Proof.Machine

/-! ## What reading leaves behind -/

/-- Flags raised and the lowest marked job-memory sector read (R109, R301). -/
structure Notes where
  flags : Flags
  consumed : Option Nat
deriving DecidableEq, Repr, Inhabited

/-- Nothing to note. -/
def Notes.none : Notes := ⟨flagNone, Option.none⟩

/-- Flags alone. -/
def Notes.of (f : Flags) : Notes := ⟨f, Option.none⟩

/-- The lower of two addresses, where there are any. -/
def minOpt (a b : Option Nat) : Option Nat :=
  match a, b with
  | some x, some y => some (min x y)
  | some x, none => some x
  | none, y => y

/-- Both notes. -/
def Notes.join (a b : Notes) : Notes := ⟨a.flags ||| b.flags, minOpt a.consumed b.consumed⟩

/-- All notes. -/
def Notes.all (ns : List Notes) : Notes := ns.foldl Notes.join .none

/-- Map with notes over a list. -/
def mapNotes {α β : Type} (f : α → β × Notes) (xs : List α) : List β × Notes :=
  let ys := xs.map f
  (ys.map (·.1), Notes.all (ys.map (·.2)))

/-- The settings of FMTS that reach arithmetic; the defaults with no manifest (no command runs then, R86). -/
def numCfg (s : State) : NumCfg := match s.man.active with | some m => m.num | none => ⟨.rne, false, 0xF1800000#32⟩

/-- G_REDUCE, G_MAC, ROW_SPAN in force. -/
def gReduce (s : State) : Nat := match s.man.active with | some m => m.gReduce | none => 16
def gMac (s : State) : Nat := match s.man.active with | some m => m.gMac | none => 16
def rowSpan (s : State) : Nat := match s.man.active with | some m => m.rowSpan | none => 1

/-- The logical cluster that performs the writes of one (R357): at full redundancy the primary of its pair. -/
def writerOf (s : State) (cluster : Nat) : Nat := if protection s = 2 then cluster % 16 else cluster

/-- The clusters that issue on their own: at full redundancy the pairs, each named by its primary (R357). -/
def execClusters (s : State) : List Nat := List.range (if protection s = 2 then 16 else Config.clusters)

/-! ## Bytes -/

/-- The key of a received sector: the copy's number, 0 for an element-wise input and 1 + a region for what came through its cache, and the
sector of job memory. -/
def gotKey (copy a : Nat) : Nat := copy * 2 ^ 58 + a / 64

/-- The sector of a copy that holds an address. -/
def gotSector (e : Entry) (copy a : Nat) : Option Sector := (e.got.find? (fun x => x.1 == gotKey copy a)).map (·.2)

/-- A byte of an input, from the granules received or from the scratchpad (R286). -/
def srcByte (s : State) (e : Entry) (job : Bool) (copy a : Nat) : Byte :=
  if job then (match gotSector e copy a with | some x => x.bytes.getD (a % 64) 0 | none => 0) else spByte s a

/-- Whether the sector received for an address is marked poisoned (R300). -/
def sectorMarked (e : Entry) (copy a : Nat) : Bool := match gotSector e copy a with | some x => x.poison | none => false

/-- Whether what an address holds is poisoned: its storage unit is marked (R300, R312), or its word in the operand buffer is uncorrectable
(R363). -/
def srcMarked (s : State) (e : Entry) (job : Bool) (copy a : Nat) : Bool :=
  if job then sectorMarked e copy a || e.bad.contains (a / 8) else lineMarked s (a / 64)

/-- Bits of an input slot at a bit offset from BASE (R91), whether a storage unit they lie in is marked, and the lowest
marked job-memory sector. -/
def srcBits (s : State) (e : Entry) (x : Slot) (copy off w : Nat) : Nat × Bool × Option Nat :=
  let a0 := x.base + off / 8
  let n := (off % 8 + w + 7) / 8
  let addrs := (List.range n).map (· + a0)
  let v := leNat (addrs.map (srcByte s e x.job copy))
  let bad := addrs.filter (srcMarked s e x.job copy)
  (v >>> (off % 8) % 2 ^ w, !bad.isEmpty, if x.job then (bad.find? (sectorMarked e copy)).map (fun a => a / 64 * 64) else none)

/-! ## Roles and elements -/

/-- How a slot is read: at the coordinates of a shape, or as a vector of contiguous elements (R134, R263). -/
inductive Role where
  | elem (h : Shape)
  | vec (n : Nat)
deriving DecidableEq, Repr, Inhabited

/-- The greatest element offset an operand has in a role. -/
def roleLast (x : Slot) : Role → Nat
  | .elem h => lastOffset x h x.stride0
  | .vec n => n - 1

/-- A raw element: its bits, its scale byte where the format is an MX one, and its poison. -/
structure RawEl where
  bits : Nat
  scale : Nat
  poison : Bool
deriving DecidableEq, Repr, Inhabited

/-- The element of an input at an element offset, undecoded, with what reading it notes: POISON_SEEN and the marked
sector (R107, R300, R301). -/
def rawElement (s : State) (e : Entry) (x : Slot) (r : Role) (off copy : Nat) : RawEl × Notes :=
  let w := codeBits x.fmt
  let b := srcBits s e x copy (off * w) w
  let sc := if codeIsMx x.fmt then srcBits s e { x with base := scaleBase x (roleLast x r) } copy (off / 32 * 8) 8
    else (0, false, none)
  let p := b.2.1 || sc.2.1
  (⟨b.1, sc.1, p⟩, ⟨flagIf p flagPoisonSeen, minOpt b.2.2 sc.2.2⟩)

/-- The value that a lane reads from a raw element (R94, R113, R441). -/
def rawValue (s : State) (fmt : Nat) (x : RawEl) : Val × Flags :=
  match fmtOfCode fmt with
  | some f => if codeIsMx fmt then mxDecode f x.scale x.bits else (readElement (numCfg s).ftz f x.bits, flagNone)
  | none => (plusZero, flagNone)

/-- An element read into a lane. -/
def element (s : State) (e : Entry) (x : Slot) (r : Role) (off copy : Nat) : PVal × Notes :=
  let a := rawElement s e x r off copy
  let v := rawValue s x.fmt a.1
  (⟨v.1, a.1.poison⟩, a.2.join (.of v.2))

/-- The element of an element-wise input at a coordinate (R263). -/
def elementAt (s : State) (e : Entry) (x : Slot) (h : Shape) (c : Coord) : PVal × Notes :=
  element s e x (.elem h) (elemOffset x h x.stride0 c) 0

/-- The element of a vector input at an index (R134), from the copy of a region's cache (R296). -/
def vectorAt (s : State) (e : Entry) (x : Slot) (n i copy : Nat) : PVal × Notes := element s e x (.vec n) i copy

/-! ## Operand select (Table 5-2) -/

/-- What the stages of a command read in a cluster: the state, the command, the shape on which operands lie, and the copy in which vectors
come: 1 + the region of the cluster (R296). -/
structure Reader where
  s : State
  e : Entry
  d : Desc
  h : Shape
  copy : Nat

/-- The reader of a command's stages in a cluster. -/
def readerIn (s : State) (e : Entry) (h : Shape) (cluster : Nat) : Reader := ⟨s, e, e.desc, h, 1 + cluster / 4⟩

/-- One element position in a chain (R113): `kp` is the poison that a mask carries (R119). -/
structure Lane where
  active : Bool
  c : Coord
  v : PVal
  st : PVal
  k : Bool
  kp : Bool
deriving DecidableEq, Repr, Inhabited

/-- The entry of the scalar bank (R133). -/
def bankEntry (e : Entry) (i : Nat) : Word32 := e.bank.getD i 0

/-- Number of elements that a row vector and a column vector need (R134). -/
def Shape.rowLen (h : Shape) : Nat := h.n0
def Shape.colLen (h : Shape) : Nat := h.n3 * h.n2 * h.n1

/-- The operand that a select names, at a lane. The neutral constant is given by its role. `ints`: an integer
comparison, in which a scalar is read as INT32 (R133). A scalar, the fill value, S and V are read under flush (R103). -/
def opOperand (r : Reader) (sel : Nat) (neutral : Val) (ints : Bool) (l : Lane) : PVal × Notes :=
  if sel = 0 then (⟨neutral, false⟩, .none)
  else if sel ≤ 4 then elementAt r.s r.e (r.d.input (sel - 1)) r.h l.c
  else if sel ≤ 8 then vectorAt r.s r.e (r.d.input (sel - 5)) r.h.rowLen l.c.i0 r.copy
  else if sel ≤ 0xC then
    vectorAt r.s r.e (r.d.input (sel - 9)) r.h.colLen ((l.c.i3 * r.h.n2 + l.c.i2) * r.h.n1 + l.c.i1) r.copy
  else if sel = 0xD then ({ l.st with val := flushVal (numCfg r.s).ftz l.st.val }, .none)
  else if sel = 0xE then ({ l.v with val := flushVal (numCfg r.s).ftz l.v.val }, .none)
  else if sel = 0xF then (⟨flushVal (numCfg r.s).ftz (.fp (numCfg r.s).fill), false⟩, .none)
  else
    let w := bankEntry r.e (sel - 0x10)
    (⟨if ints then .int w.toInt else flushVal (numCfg r.s).ftz (.fp w), false⟩, .none)

end Sys2Proof.Machine
end

