-- ==== Sys2Proof/Machine/Store.lean ====
section
/-! DEFINITION. Writing outputs: conversion into the output's format (R96, R97, R108, R128), the bytes and marks of the
scratchpad (R312), the blocks of the store areas (R297, R300), the wake digests and traces (R349, R355). -/

namespace Sys2Proof.Machine

/-- One output element: the value to convert (none: the position is written as zero, R131), its poison, a raw record word
that is written unrounded (R199), whether it is a mask K (Table 4-4), and an exact value in place of a lane value (R196). -/
structure OutVal where
  val : Option Val
  poison : Bool
  raw : Option Nat
  isMask : Bool
  exact : Option FVal
deriving DecidableEq, Repr, Inhabited

/-- A position written as zero. -/
def OutVal.zero : OutVal := ⟨none, false, none, false, none⟩

/-- A lane value. -/
def OutVal.of (x : PVal) : OutVal := ⟨some x.val, x.poison, none, false, none⟩

/-- An exact value. -/
def OutVal.ofExact (x : FVal) (poison : Bool) : OutVal := ⟨none, poison, none, false, some x⟩

/-- Consecutive elements along dimension 0 that one write carries: the first coordinate, the cluster that writes them, the
position of the converting stage (R101), and the elements. -/
structure OutSlice where
  c : Coord
  cluster : Nat
  stage : Nat
  els : List OutVal
deriving DecidableEq, Repr, Inhabited

/-- What a command writes to one output: operand slot 4 or 5, logical shape, slices in order. -/
structure Emit where
  slot : Nat
  shape : Shape
  slices : List OutSlice
deriving DecidableEq, Repr, Inhabited

/-- A slice converted: element bits and scale bytes, each with its poison. -/
structure Stored where
  c : Coord
  cluster : Nat
  els : List (Nat × Bool)
  scales : List (Nat × Bool)
deriving DecidableEq, Repr, Inhabited

/-- The rounding mode of an output slot or a CONVERT stage (Table 4-2): code 7 is the manifest's default. -/
def modeOf (s : State) (code : Nat) : RMode := if code = 7 then (numCfg s).defaultMode else rmodeOfCode code

/-- The bits of a poisoned element (R108): the canonical NaN, or zero in an integer or mask format. -/
def poisonBits (fmt : Nat) : Nat :=
  match fmtOfCode fmt with
  | some f => if fmtIsInt f then 0 else match fmtLayout f with | some l => layoutNan l | none => 0
  | none => 0

/-- The SR seed of DETM (R101). -/
def srSeed (s : State) : Word64 := match s.man.active with | some m => BitVec.ofNat 64 m.srSeed | none => 0

/-- The draw of one conversion (R101). -/
def drawAt (s : State) (mode : RMode) (crossing tensor stage : Nat) (h : Shape) (c : Coord) : Nat :=
  if mode = .sr then srDraw (srSeed s) crossing tensor stage (linearIndex h.n2 h.n1 h.n0 c.i3 c.i2 c.i1 c.i0) else 0

/-- One element stored in a format that is not MX. -/
def storeElement (s : State) (x : Slot) (f : Fmt) (mode : RMode) (draw : Nat) (v : OutVal) : (Nat × Bool) × Flags :=
  let put := fun (r : Nat × Flags) => ((if v.poison then poisonBits x.fmt else r.1, v.poison), r.2)
  match v.raw, v.exact, v.val with
  | some w, _, _ => ((w, v.poison), flagNone)
  | none, some q, _ => put (convertExact (numCfg s).ftz f mode draw q)
  | none, none, some y => put (convertBits (numCfg s).ftz f mode draw y)
  | none, none, none => ((0, false), flagNone)

/-- Split a list into runs of at most `n`, the first of `first`. -/
def chunksFrom {α : Type} (n : Nat) : Nat → Nat → List α → List (List α)
  | 0, _, _ => []
  | _, _, [] => []
  | fuel + 1, first, xs => xs.take first :: chunksFrom n fuel n (xs.drop first)

/-- One MX block (R93, R108): element bits, scale, flags. A block of masks has X = 0 (Table 4-4). -/
def storeBlock (ftz : Bool) (f : Fmt) (mode : RMode) (els : List (OutVal × Nat)) : List (Nat × Bool) × (Nat × Bool) × Flags :=
  let p := els.any (·.1.poison)
  let r : Nat × List Nat × Flags :=
    if els.any (·.1.isMask) then
      (127, els.map (fun e => match e.1.val with
        | some (.fp w) => if w = 0#32 then 0 else (mxElementBits f .rne 0 false 1).1
        | _ => 0), flagNone)
    else mxConvertReads f mode (els.map (fun e => (match e.1.exact with
        | some q => some q
        | none => e.1.val.map (mxRead ftz), e.2)))
  if p then (els.map (fun _ => (0, true)), (0xFF, true), r.2.2)
  else (r.2.1.map (fun b => (b, false)), (r.1, false), r.2.2)

/-- A slice converted into its output's format, with its flags. -/
def convertSlice (s : State) (e : Entry) (x : Slot) (h : Shape) (sl : OutSlice) : Stored × Flags :=
  let cl := writerOf s sl.cluster
  let mode := modeOf s x.rmode
  let idx := fun (i : Nat) => drawAt s mode e.crossing x.stride0 sl.stage h { sl.c with i0 := sl.c.i0 + i }
  let els := sl.els.zipIdx.map (fun v => (v.1, idx v.2))
  match fmtOfCode x.fmt with
  | none => (⟨sl.c, cl, [], []⟩, flagNone)
  | some f =>
    if codeIsMx x.fmt then
      let bs := (chunksFrom 32 (els.length + 1) (32 - sl.c.i0 % 32) els).map (storeBlock (numCfg s).ftz f mode)
      (⟨sl.c, cl, (bs.map (·.1)).flatten, bs.map (·.2.1)⟩, flagsAll (bs.map (·.2.2)))
    else
      let ys := els.map (fun v => storeElement s x f mode v.2 v.1)
      (⟨sl.c, cl, ys.map (·.1), []⟩, flagsAll (ys.map (·.2)))

/-! ## Bytes -/

/-- A run of bytes written at an address, with the storage units (address / 64) that receive a poisoned element. `low` is
how many low bits of the first byte belong to what lies before the run: a row that R91 would have begun on a byte boundary
(DEDUCED, log entry 72). -/
structure Run where
  addr : Nat
  low : Nat
  bytes : List Byte
  bad : List Nat
deriving DecidableEq, Repr, Inhabited

/-- Bits packed from the least significant end (R91). -/
def packBits (w : Nat) (xs : List Nat) : Nat := xs.foldr (fun x acc => x % 2 ^ w + acc * 2 ^ w) 0

/-- Bytes that a slice of `n` elements fills; the last one of a row fills its last byte or 3-byte group (R91). -/
def sliceBytes (fmt n : Nat) (rowEnd : Bool) : Nat :=
  let b := ceilDiv (n * codeBits fmt) 8
  if codeBits fmt = 6 ∧ rowEnd then ceilDiv b 3 * 3 else b

/-- The runs of a stored slice: its elements, and one byte per scale. -/
def runsOf (x : Slot) (h : Shape) (t : Stored) : List Run :=
  let w := codeBits x.fmt
  let off := elemOffset x h 1 t.c
  let a := x.base + off * w / 8
  let k := off * w % 8
  let n := if k = 0 then sliceBytes x.fmt t.els.length (t.c.i0 + t.els.length == h.n0) else ceilDiv (k + t.els.length * w) 8
  let bad := (t.els.zipIdx.filter (fun v => v.1.2)).flatMap (fun v =>
    [(a + (k + v.2 * w) / 8) / 64, (a + (k + v.2 * w + w - 1) / 8) / 64])
  let sc := scaleBase x (lastOffset x h 1) + off / 32
  ⟨a, k, leBytes n (packBits w (t.els.map (·.1)) * 2 ^ k), bad.eraseDups⟩ ::
    t.scales.zipIdx.map (fun v => ⟨sc + v.2, 0, [BitVec.ofNat 8 v.1.1], if v.1.2 then [(sc + v.2) / 64] else []⟩)

/-- The bytes of a run, its first one completed by what stands before it. -/
def Run.joined (r : Run) (old : Byte) : List Byte :=
  match r.bytes with
  | b :: bs => (if r.low = 0 then b else BitVec.ofNat 8 (old.toNat % 2 ^ r.low) ||| b) :: bs
  | [] => []

/-- One write to the scratchpad (R312): a whole line sets or clears its mark; a part of a line can only set it. -/
def writeRun (r : Run) (s : State) : State :=
  let s1 := { s with sp := { s.sp with mem := sblit 0 s.sp.mem r.addr (r.joined (sget 0 s.sp.mem r.addr)) } }
  (unitsOf r.addr r.bytes.length).foldl (fun t u =>
    if r.bad.contains u then setMark u true t
    else if r.addr ≤ 64 * u ∧ 64 * u + 64 ≤ r.addr + r.bytes.length then setMark u false t
    else t) s1

/-! ## Store areas (R297) -/

/-- A run of bytes laid over a block's bytes. -/
def spliceBytes (off : Nat) (bs : List Byte) (m : List (Nat × Byte)) : List (Nat × Byte) :=
  m.filter (fun p => decide (p.1 < off)) ++ (bs.zipIdx off).map (fun x => (x.2, x.1)) ++
    m.filter (fun p => decide (off + bs.length ≤ p.1))

/-- Bytes from an offset enter a block from a cluster's store area, with the sectors that received a poisoned element (R300). A block
that several tiles write waits for the comparison of each (R358). -/
def WBlock.put (held : Option Nat) (cluster off : Nat) (bs : List Byte) (bad : List Nat) (b : WBlock) : WBlock :=
  { b with
      bytes := spliceBytes off bs b.bytes
      poison := (List.range 8).filter (fun k => b.poison.contains k || bad.contains k)
      held := (b.held ++ held.toList).eraseDups
      areas := sset 0 b.areas cluster (sget 0 b.areas cluster + bs.length) }

/-- The block of a command's store areas at an address: both outputs write into it (R297). -/
def blockOf (ws : List WBlock) (slot addr : Nat) : WBlock :=
  (ws.find? (fun b => b.addr == addr)).getD ⟨addr, [], [], slot, [], []⟩

/-- Put a block back among the others. -/
def setBlock (b : WBlock) (ws : List WBlock) : List WBlock :=
  if ws.any (fun x => x.addr == b.addr) then ws.map (fun x => if x.addr == b.addr then b else x) else ws ++ [b]

/-- A run enters the store areas, block by block. -/
def addRun (slot : Nat) (held : Option Nat) (cluster : Nat) (r : Run) (ws : List WBlock) : List WBlock :=
  let old := sget 0 (blockOf ws slot (r.addr / 512 * 512)).bytes (r.addr % 512)
  let bs := r.joined old
  (List.range ((r.addr + bs.length + 511) / 512 - r.addr / 512)).foldl (fun acc k =>
    let b := r.addr / 512 + k
    let lo := max r.addr (512 * b)
    let part := (bs.drop (lo - r.addr)).take (512 * (b + 1) - lo)
    let bad := (r.bad.filter (fun u => u / 8 == b)).map (· % 8)
    setBlock ((blockOf acc slot (512 * b)).put held cluster (lo % 512) part bad) acc) ws

/-- Whether rows of an output share bytes, so that a later row completes a byte of an earlier one (log entry 72). -/
def Slot.shares (x : Slot) : Bool :=
  codeBits x.fmt % 8 != 0 && (x.stride1 * codeBits x.fmt % 8 != 0 || 64 * x.stride2 * codeBits x.fmt % 8 != 0)

/-- Whether a block of the store areas can be requested (R297): the command covers it in full and has written every byte of it, or the
command has formed all of its outputs; and no comparison is open (R358). -/
def blockReady (e : Entry) (b : WBlock) : Bool :=
  b.held.isEmpty && (e.life == .ran || (b.bytes.length == 512 && !([4, 5].any (fun i => (e.desc.slot i).present && (e.desc.slot i).job && (e.desc.slot i).shares))))

/-! ## Digests -/

/-- The contribution of a stored slice to a digest (R349). -/
def sliceDigest (seed : List Byte) (tensor fmt : Nat) (t : Stored) : Nat :=
  let els := t.els.zipIdx.map (fun v => wakeElement seed tensor fmt { t.c with i0 := t.c.i0 + v.2 } v.1.1 v.1.2)
  let scs := t.scales.zipIdx.map (fun v => wakeScale seed tensor { t.c with i0 := (t.c.i0 / 32 + v.2) * 32 } v.1.1 v.1.2)
  (els.sum + scs.sum) % digP

/-- A part of a piece joins what there is of the piece already. -/
def joinPiece (acc : List Piece) (q : Piece) : List Piece :=
  if acc.any (fun p => p.pos == q.pos && p.cluster == q.cluster) then
    acc.map (fun p => if p.pos == q.pos && p.cluster == q.cluster then
      { p with lane := (p.lane + q.lane) % digP, store := (p.store + q.store) % digP, elements := p.elements + q.elements } else p)
  else acc ++ [q]

/-- The pieces of output tiles that a list of slices makes. -/
def piecesOf (seed : List Byte) (tensor fmt : Nat) (ts : List Stored) : List Piece :=
  ts.foldl (fun acc t =>
    let g := sliceDigest seed tensor fmt t
    joinPiece acc ⟨wakePos tensor t.c, t.cluster, g, g, t.els.length⟩) []

/-- A fault between PACK/STORE and storage changes what the store digest takes of the first piece written (Table 16-3, R355). -/
def faultPiece (delta : Nat) : List Piece → List Piece
  | [] => []
  | p :: ps => { p with store := (p.store + delta) % digP } :: ps

/-- Add the pieces of an output to the open digests. -/
def digestPieces (e : Entry) (ps : List Piece) (s : State) : State :=
  ps.foldl (fun t p => addDigest e.desc.landing p.lane p.store p.elements p.elements t) s

/-- Whether a command's segment is being traced. -/
def tracing (s : State) (e : Entry) : Bool :=
  s.dgst.trace == 2 && s.dgst.traceCrossing == e.crossing && s.dgst.traceLanding == e.desc.landing

/-- Pieces are finished: each has its trace record (R355). -/
def tracePieces (e : Entry) (ps : List Piece) (s : State) : State :=
  if tracing s e then ps.foldl (fun t p => traceRecord e.berth e.seq p.cluster p.lane p.store p.pos p.elements t) s else s

/-- Whether one step of a cluster writes only a part of its piece of an output tile: the counts of COMPRESS, one for each tile, and the rows of
ATTN (log entry 173). -/
def partialPieces (d : Desc) (slot : Nat) : Bool := d.kind == .attn || (slot == 5 && d.countsOut)

/-- Pieces that a command had begun are finished. -/
def finishPieces (done : Piece → Bool) (e : Entry) (s : State) : Entry × State :=
  ({ e with pieces := e.pieces.filter (fun p => !done p) }, tracePieces e (e.pieces.filter done) s)

/-! ## Outputs -/

/-- The stored slices of an output. -/
def emitStored (s : State) (e : Entry) (m : Emit) : List Stored :=
  m.slices.map (fun sl => (convertSlice s e (e.desc.slot m.slot) m.shape sl).1)

/-- The runs of bytes that an output writes. -/
def emitRuns (s : State) (e : Entry) (m : Emit) : List Run :=
  (emitStored s e m).flatMap (runsOf (e.desc.slot m.slot) m.shape)

/-- The sum of the lane contributions of what outputs write (R349, R358). -/
def emitSum (s : State) (e : Entry) (ms : List Emit) : Nat :=
  ms.foldl (fun acc m =>
    let x := e.desc.slot m.slot
    (emitStored s e m).foldl (fun a t => (a + sliceDigest (wakeSeed s) x.stride0 x.fmt t) % digP) acc) 0

/-- The bytes and marks of a part of an output go to the scratchpad, or into the blocks of the store areas. -/
def storeEmit (held : Option Nat) (m : Emit) (ts : List Stored) (acc : Entry × State) : Entry × State :=
  let x := acc.1.desc.slot m.slot
  if x.job then
    ({ acc.1 with writes := ts.foldl (fun ws t => (runsOf x m.shape t).foldl (fun ws r => addRun m.slot held t.cluster r ws) ws) acc.1.writes },
      acc.2)
  else (acc.1, (ts.flatMap (runsOf x m.shape)).foldl (fun t r => writeRun r t) acc.2)

/-- What had been written is written again as poisoned (R108, R335). The digests took it as it was (log entry 174). -/
def rewriteOne (m : Emit) (acc : Entry × State) : Entry × State :=
  let x := storeEmit none m (emitStored acc.2 acc.1 m) acc
  ({ x.1 with res := { x.1.res with poisonOut := true } }, x.2)

/-- Write a part of an output: its bytes and marks or blocks, its digest contributions, its flags, and whether it was poisoned. `held`: the
tile whose comparison its blocks wait for; `delta`: what a fault on the way to storage adds to the store digest. -/
def emitOne (held : Option Nat) (delta : Nat) (m : Emit) (acc : Entry × State) : Entry × State :=
  let e := acc.1
  let s := acc.2
  let x := e.desc.slot m.slot
  let cs := m.slices.map (convertSlice s e x m.shape)
  let ts := cs.map (·.1)
  let bad := ts.any (fun t => t.els.any (·.2) || t.scales.any (·.2))
  let ps := faultPiece delta (piecesOf (wakeSeed s) x.stride0 x.fmt ts)
  let later := partialPieces e.desc m.slot
  let s1 := tracePieces e (if later then [] else ps) (digestPieces e ps s)
  storeEmit held m ts ({ e with
    pieces := if later && tracing s e then ps.foldl joinPiece e.pieces else e.pieces
    res := { e.res with flags := e.res.flags ||| flagsAll (cs.map (·.2)), poisonOut := e.res.poisonOut || bad } }, s1)

/-- Write parts of outputs, in order; the fault falls on the first. -/
def emitAll (held : Option Nat) (delta : Nat) (ms : List Emit) (e : Entry) (s : State) : Entry × State :=
  (ms.foldl (fun (acc : Nat × (Entry × State)) m => (0, emitOne held acc.1 m acc.2)) (delta, (e, s))).2

/-- Add notes to what a command reports. -/
def addNotes (n : Notes) (e : Entry) : Entry :=
  { e with res := { e.res with flags := e.res.flags ||| n.flags, consumed := minOpt e.res.consumed n.consumed } }

end Sys2Proof.Machine
end

