-- ==== Sys2Proof/Machine/Reduce.lean ====
section
/-! DEFINITION. Reductions and exact statistics (chapter 8): the tree and the row chainer, winners, logical reductions,
the exact accumulators with their raw records, and the variance finisher. -/

namespace Sys2Proof.Machine

/-- A value with poison and flags: what a reduction gives. -/
structure RedRes where
  val : Val
  poison : Bool
  flags : Flags
deriving DecidableEq, Repr, Inhabited

/-! ## Sums (R182 to R185) -/

/-- Values grouped by runs of equal keys, in order. -/
def groupRuns {α : Type} (key : α → Nat) (xs : List α) : List (List α) := xs.splitBy (fun a b => key a == key b)

/-- An operand of a sum: FP32, squared exactly for SUMSQ (R182 step 1, R183). -/
def sumOperand (ftz square : Bool) (v : Val) : FVal × Flags :=
  let a := asFloat ftz v
  if square then let p := exactMul a.1 a.1; (p.1, a.2 ||| p.2) else a

/-- Whether both infinities are present (R183). -/
def bothInf (xs : List FVal) : Bool :=
  xs.any (fun x => match x with | .inf n => n | _ => false) && xs.any (fun x => match x with | .inf n => !n | _ => false)

/-- One group sum: exact, rounded once (R182 step 3). -/
def groupSum (ftz : Bool) (xs : List FVal) : Word32 × Flags :=
  let t := exactSumF xs
  let r := encodeFp32 ftz t.1
  (r.1, t.2 ||| r.2 ||| flagIf (bothInf xs) flagInvalid)

/-- Add values one at a time, each addition rounded once; the first is taken as it is (R182 step 4, R185). -/
def chainSum (ftz : Bool) (xs : List Word32) : Option Word32 × Flags :=
  xs.foldl (fun acc x => match acc.1 with
    | none => (some x, acc.2)
    | some y =>
      let r := fusedMulAdd ftz (readFp32 ftz y) (.fin false 1) (some (readFp32 ftz x))
      (some r.1, acc.2 ||| r.2)) (none, flagNone)

/-- The sum of one row in FP32 (R182, R184): groups of G along i0, in ascending i0. None: no contributing element. -/
def rowSum (ftz square : Bool) (g : Nat) (xs : List RedEl) : Option Word32 × Bool × Flags :=
  let sorted := sortByKey (fun x => x.c.i0) xs
  let ops := sorted.map (fun x => (x.c.i0 / g, sumOperand ftz square x.v.val))
  let sums := (groupRuns (·.1) ops).map (fun grp => groupSum ftz (grp.map (·.2.1)))
  let t := chainSum ftz (sums.map (·.1))
  (t.1, xs.any (·.v.poison), flagsAll (ops.map (·.2.2)) ||| flagsAll (sums.map (·.2)) ||| t.2)

/-- The result of a row with nothing in it is +0 (R182). -/
def rowSumRes (ftz square : Bool) (g : Nat) (xs : List RedEl) : RedRes :=
  let r := rowSum ftz square g xs
  ⟨.fp (r.1.getD 0#32), r.2.1, r.2.2⟩

/-- The index of a row in ascending (i3, i2, i1). -/
def rowIndex (h : Shape) (c : Coord) : Nat := (c.i3 * h.n2 + c.i2) * h.n1 + c.i1

/-- The sum over a command (R185). -/
def commandSum (ftz square : Bool) (g : Nat) (h : Shape) (xs : List RedEl) : RedRes :=
  let rows := (groupRuns (fun x => rowIndex h x.c) (sortByKey (fun x => rowIndex h x.c) xs)).map (rowSum ftz square g)
  let t := chainSum ftz (rows.filterMap (·.1))
  ⟨.fp (t.1.getD 0#32), rows.any (·.2.1), flagsAll (rows.map (·.2.2)) ||| t.2⟩

/-! ## Winners (R187, R188) -/

/-- The candidate that beats the running winner, in the order of R187. -/
def beats (ftz wantMax : Bool) (x y : Val) : Bool :=
  let r := pickMinMax ftz wantMax y x
  decide (r.1 ≠ (pickMinMax ftz wantMax y y).1)

/-- MAXI and MINI over contributing elements in ascending index: value, index, poison, flags. -/
def winner (ftz wantMax intClass : Bool) (index : Coord → Nat) (xs : List RedEl) : RedRes × Nat :=
  let sorted := sortByKey (fun x => index x.c) xs
  let allInt := sorted.all (fun x => match x.v.val with | .int _ => true | _ => false)
  let vals := sorted.map (fun x => (index x.c, if allInt then x.v.val else Val.fp (encodeFp32 ftz (asFloat ftz x.v.val).1).1,
    asFloat ftz x.v.val))
  let p := xs.any (·.v.poison)
  let fl := flagsAll (vals.map (fun v => flagIf (isSnanF v.2.2.1) flagInvalid))
  match vals with
  | [] => (⟨if intClass then .int (if wantMax then -(2 ^ 31 : Nat) else (2 ^ 31 : Nat) - 1)
            else .fp (inf32 wantMax), false, flagNone⟩, 0xFFFFFFFF)
  | v0 :: rest =>
    match vals.find? (fun v => !allInt && isNanF v.2.2.1) with
    | some v => (⟨.fp canonNan32, p, fl⟩, v.1)
    | none =>
      let w := rest.foldl (fun best v => if beats ftz wantMax v.2.1 best.2 then (v.1, v.2.1) else best) (v0.1, v0.2.1)
      (⟨w.2, p, fl⟩, w.1)

/-! ## Logical reductions (R189, Table 8-1) -/

/-- The 32-bit pattern of V. -/
def patternOf : Val → Nat
  | .fp w => w.toNat
  | .int i => (BitVec.ofInt 32 i).toNat

/-- Whether V, as a number, is not zero, read under flush (R103); a NaN is not. -/
def nonZeroVal (ftz : Bool) : Val → Bool
  | .fp w => match readFp32 ftz w with | .fin _ m => decide (m ≠ 0) | _ => true
  | .int i => decide (i ≠ 0)

/-- The number of set bits. -/
def popCount (n : Nat) : Nat := ((List.range 32).filter n.testBit).length

/-- OP 4 to 9, over V or K. -/
def logicalReduce (ftz : Bool) (op : Nat) (useK : Bool) (xs : List RedEl) : RedRes :=
  let ps := xs.map (fun x => if useK then bit x.k else patternOf x.v.val)
  let nz := fun (x : RedEl) => if useK then x.k else nonZeroVal ftz x.v.val
  let asWord := fun (n : Nat) => Val.int (BitVec.ofNat 32 n).toInt
  let v : Val := match op with
    | 4 => if useK then .int ((ps.foldl (fun a b => a &&& b) 1 : Nat) : Int) else asWord (ps.foldl (fun a b => a &&& b) 0xFFFFFFFF)
    | 5 => asWord (ps.foldl (fun a b => a ||| b) 0)
    | 6 => asWord (ps.foldl (fun a b => Nat.xor a b) 0)
    | 7 => .int ((ps.map popCount).sum % 2 ^ 64)
    | 8 => .int (bit (xs.any nz))
    | _ => .int (bit (xs.all nz))
  ⟨v, xs.any (·.v.poison), flagNone⟩

/-! ## Exact accumulators (R191 to R199) -/

def accPoison : BitVec 5 := 1
def accNan : BitVec 5 := 2
def accPinf : BitVec 5 := 4
def accNinf : BitVec 5 := 8
def accLost : BitVec 5 := 16

/-- A cleared entry (R195). -/
def accZero : AccRec := ⟨0, 0, 0, 0⟩

/-- A as a 640-bit two's-complement integer (R191; overflow is not detected). -/
def wrap640 (i : Int) : Int := (BitVec.ofInt 640 i).toInt

/-- Add to an entry a value given exactly, aligned against ρ, with the floor and LOST of R198. -/
def accAdd (q : Rat) (a : AccRec) : AccRec :=
  let x := q * pow2 (320 - a.rho)
  { a with a := wrap640 (a.a + x.floor), st := if x.floor = x then a.st else a.st ||| accLost }

/-- The exact addend of XSUM, XSUMSQ and XPROD with the flags of its formation (R193). -/
def exactAddend (ftz : Bool) (op : Nat) (v st : Val) : FVal × Flags :=
  let a := asFloat ftz v
  match op with
  | 11 => let p := exactMul a.1 a.1; (p.1, a.2 ||| p.2)
  | 12 =>
    let b := asFloat ftz st
    let p := exactMul a.1 b.1
    (p.1, a.2 ||| b.2 ||| p.2)
  | _ => (a.1, a.2 ||| flagIf (isSnanF a.1) flagInvalid)

/-- One addend into an entry (R193): special and poisoned operands set state bits and leave A unchanged. -/
def accIntake (x : FVal) (poison : Bool) (a : AccRec) : AccRec :=
  let b := { a with count := satInc (2 ^ 40 - 1) a.count, st := if poison then a.st ||| accPoison else a.st }
  match x with
  | .nan _ => { b with st := b.st ||| accNan }
  | .inf n => { b with st := b.st ||| (if n then accNinf else accPinf) }
  | .fin n m => if poison then b else accAdd (finValue n m) b

/-- Rebase to a reference that is not lower (R198). -/
def accRebase (rho : Int) (a : AccRec) : AccRec :=
  if rho ≤ a.rho then a
  else
    let sh := (rho - a.rho).toNat
    let q := a.a >>> sh
    { a with a := q, rho := rho, st := if q * 2 ^ sh = a.a then a.st else a.st ||| accLost }

/-- R197: two entries combined. -/
def accMerge (a b : AccRec) : AccRec :=
  let x := accRebase b.rho a
  let y := accRebase a.rho b
  ⟨x.a + y.a, x.rho, satAdd (2 ^ 40 - 1) x.count y.count, x.st ||| y.st⟩

/-- The value of an entry (R191). -/
def accValue (a : AccRec) : Rat := a.a * pow2 (a.rho - 320)

/-- Whether a state bit is set. -/
def accHas (a : AccRec) (b : BitVec 5) : Bool := (a.st &&& b) != 0

/-- The exact reading of an entry for a rounded readout (R196): the value and INVALID where both infinities were seen. An
exact zero reads as +0 in every mode (DESIGN CHOICE, log entry 138: R98's −0 under RDN speaks of a sum of two operands,
and R196 is silent). -/
def accRead (a : AccRec) : FVal × Flags :=
  let both := accHas a accPinf && accHas a accNinf
  if accHas a accNan || both then (.nan false, flagIf both flagInvalid)
  else if accHas a accPinf then (.inf false, flagNone)
  else if accHas a accNinf then (.inf true, flagNone)
  else
    let q := accValue a
    (.fin (signedMag q).1 (signedMag q).2, flagNone)

/-- The raw record of an entry (Table 8-2), 96 bytes. -/
def accBytes (a : AccRec) : List Byte :=
  leBytes 80 (BitVec.ofInt 640 a.a).toNat ++ leBytes 8 (a.count % 2 ^ 40) ++
    leBytes 4 (BitVec.ofInt 32 a.rho).toNat ++ leBytes 4 a.st.toNat

/-- An entry from its raw record. -/
def accOfBytes (bs : List Byte) : AccRec :=
  ⟨(BitVec.ofNat 640 (bytesAt bs 0 80)).toInt, (BitVec.ofNat 32 (bytesAt bs 88 4)).toInt, bytesAt bs 80 8 % 2 ^ 40,
    BitVec.ofNat 5 (bytesAt bs 92 4)⟩

/-- The 24 words of a raw record as output elements (R199). -/
def accWords (a : AccRec) : List OutVal :=
  (List.range 24).map (fun i => { OutVal.zero with poison := accHas a accPoison, raw := some (bytesAt (accBytes a) (4 * i) 4) })

/-- The key of an entry: cluster × 256 + entry (R192). -/
def accKey (cluster block j : Nat) : Nat := cluster * 256 + 16 * block + j % 16

def accAt (s : State) (k : Nat) : AccRec := sget accZero s.arr.accs k

/-- Write entries. -/
def putAccs (xs : List (Nat × AccRec)) (s : State) : State :=
  { s with arr := { s.arr with accs := xs.foldl (fun m x => sset accZero m x.1 x.2) s.arr.accs } }

/-! ## The variance finisher (R200 to R204) -/

/-- The outputs of the finisher for one row, with the flags and whether the row counts as clamped. -/
structure FinRes where
  mean : Word32
  var : Word32
  rstd : Word32
  poison : Bool
  flags : Flags
  clamped : Bool
deriving DecidableEq, Repr, Inhabited

/-- Three canonical NaNs. -/
def FinRes.nans (p : Bool) (f : Flags) : FinRes := ⟨canonNan32, canonNan32, canonNan32, p, f, false⟩

/-- rstd of an exact `D / n² + ε`: infinite with DIVZERO at zero (R201), within one ulp otherwise (R200). -/
def rstdExact (ftz : Bool) (q : Rat) : Word32 × Flags := if q = 0 then (inf32 false, flagDivZero) else rstdOf ftz q

/-- The finite value of an FP32 word, 0 where it has none. -/
def wordRat (ftz : Bool) (w : Word32) : Rat := match readFp32 ftz w with | .fin n m => finValue n m | _ => 0

/-- R200, R201: the exact finisher on S1, S2 and ε. -/
def finishExact (ftz : Bool) (s1 s2 : AccRec) (eps : Rat) : FinRes :=
  let p := accHas s1 accPoison || accHas s2 accPoison
  let both := fun a => accHas a accPinf && accHas a accNinf
  let inf := accHas s1 accPinf || accHas s1 accNinf || accHas s2 accPinf || accHas s2 accNinf
  if s1.rho ≠ 0 ∨ s2.rho ≠ 0 ∨ s1.count ≠ s2.count then .nans p flagInvalid
  else if accHas s1 accNan || accHas s2 accNan || both s1 || both s2 then .nans p (flagIf inf flagInvalid)
  else if inf then { FinRes.nans p flagInvalid with mean := inf32 (accHas s1 accNinf) }
  else
    let n : Rat := s1.count
    let d := n * accValue s2 - accValue s1 * accValue s1
    let ratio := if n = 0 then 0 else d / (n * n)
    let mean := if n = 0 then (0#32, flagNone) else rneSigned ftz (accValue s1 / n)
    let var := rneSigned ftz (ratio)
    let rs := rstdExact ftz (ratio + eps)
    ⟨mean.1, var.1, rs.1, p, mean.2 ||| var.2 ||| rs.2, false⟩

/-- A quotient rounded once: an FP32 value over a count (R204). -/
def divCount (ftz : Bool) (w : Word32) (n : Nat) : Word32 × Flags :=
  match readFp32 ftz w with
  | .fin neg m => rneFp32 ftz neg (m / n)
  | v => encodeFp32 ftz v

/-- R204: the fast finisher on the shifted sums, the shift `c`, the count and ε. -/
def finishFast (ftz : Bool) (s1 s2 c : Word32) (n : Nat) (eps : Rat) (poison : Bool) : FinRes :=
  if n = 0 then
    let rs := rstdExact ftz eps
    ⟨0, 0, rs.1, poison, rs.2, false⟩
  else
    let bad := isNanF (readFp32 ftz s1) || isNanF (readFp32 ftz s2)
    if bad then .nans poison flagNone
    else
      let m := divCount ftz s1 n
      let q := divCount ftz s2 n
      let fm := readFp32 ftz m.1
      let v0 := fusedMulAdd ftz (negF fm) fm (some (readFp32 ftz q.1))
      let neg := decide (wordRat false v0.1 < 0) || v0.1 == inf32 true
      let v := if neg || v0.1 == 0x80000000#32 then 0#32 else v0.1
      let mean := fusedMulAdd ftz (readFp32 ftz c) (.fin false 1) (some fm)
      let rs : Word32 × Flags := match readFp32 ftz v with
        | .nan _ => (canonNan32, flagNone)
        | .inf _ => (0#32, flagNone)
        | .fin _ x => rstdExact ftz (x + eps)
      ⟨mean.1, v, rs.1, poison, m.2 ||| q.2 ||| v0.2 ||| mean.2 ||| rs.2, neg⟩

/-- RMS_FWD, exact (R214): S1 is an exact zero of the XSUMSQ entry's count; the mean is written as +0. -/
def finishRmsExact (ftz : Bool) (s2 : AccRec) (eps : Rat) : FinRes :=
  { finishExact ftz ⟨0, 0, s2.count, 0⟩ s2 eps with mean := 0#32 }

/-- RMS_FWD, fast (R214): from the unshifted SUMSQ. -/
def finishRmsFast (ftz : Bool) (s2 : Word32) (n : Nat) (eps : Rat) (poison : Bool) : FinRes :=
  if n = 0 then
    let rs := rstdExact ftz eps
    ⟨0, 0, rs.1, poison, rs.2, false⟩
  else
    let q := divCount ftz s2 n
    let rs : Word32 × Flags := match readFp32 ftz q.1 with
      | .nan _ => (canonNan32, flagNone)
      | .inf _ => (0#32, flagNone)
      | .fin _ x => rstdExact ftz (x + eps)
    ⟨0, q.1, rs.1, poison, q.2 ||| rs.2, false⟩

end Sys2Proof.Machine
end

