-- ==== Sys2Proof/Machine/TableBanks.lean ====
section
/-! DEFINITION. The two table banks of a cluster: the shadow window, COMMIT, CLEAR, LOAD and SWAP_IDLE, swaps, and the
bank a command is bound to (R168 to R176). A physical cluster is named by where it stands: its logical cluster, or 32 + region
for the kennel. -/

namespace Sys2Proof.Machine

/-- The banks of a logical cluster, or of the kennel of region `x` under the name 32 + x (R168). -/
def tblOf (s : State) (c : Nat) : TblCluster := sget .zero s.tbl.clusters c

/-- The valid bits of a physical bank of a cluster. -/
def TblCluster.valid (t : TblCluster) (bank : Bool) : BitVec 16 := if bank then t.valid1 else t.valid0

/-- Replace the valid bits of a physical bank. -/
def TblCluster.setValid (t : TblCluster) (bank : Bool) (v : BitVec 16) : TblCluster :=
  if bank then { t with valid1 := v } else { t with valid0 := v }

/-- Replace the banks of a cluster. -/
def setTbl (c : Nat) (t : TblCluster) (s : State) : State :=
  { s with tbl := { s.tbl with clusters := sset .zero s.tbl.clusters c t } }

/-- The key of an image in `TblUnit.images`. -/
def imageKey (c : Nat) (bank : Bool) (slot : Nat) : Nat := (2 * c + bit bank) * 16 + slot

/-- A byte of an image; nothing written reads as 0. -/
def imageAt (s : State) (c : Nat) (bank : Bool) (slot i : Nat) : Byte :=
  (sget [] s.tbl.images (imageKey c bank slot)).getD i 0

/-- One bit of a valid word. -/
def slotBit (slot : Nat) : BitVec 16 := BitVec.ofNat 16 (2 ^ slot)

/-- The logical clusters of a mask, in ascending order (R16). -/
def maskClusters (mask : Nat) : List Nat := (List.range Config.clusters).filter (fun c => mask.testBit c)

/-- R357: under full redundancy an access to either member of a pair applies to both. -/
def pairMask (s : State) (mask : Nat) : Nat :=
  if protection s = 2 then mask ||| ((mask % 2 ^ 16) <<< 16) ||| (mask >>> 16) else mask

/-- How often the timetable swaps the banks of a cluster at a landing of the current crossing, modulo 2 (R173). -/
def swapsAt (s : State) (landing c : Nat) : Bool :=
  match s.man.active with
  | none => false
  | some m =>
    ((m.times.filter (fun t => t.action == 2 && t.matches s.crs.crossing landing && t.param.testBit c)).length) % 2 == 1

/-- R171: the bank a command taken for issue is bound to in a cluster: the active one after every swap at landings up to
its own; none while the outcome of an application at such a landing is not known. -/
def boundBank (s : State) (e : Entry) (c : Nat) : Option Bool :=
  let ahead := s.crs.decided.filter (fun d => decide (d.landing ≤ e.desc.landing))
  if ahead.any (·.applies) then none
  else some (ahead.foldl (fun b d => xor b (swapsAt s d.landing c)) (tblOf s c).phys)

/-- The bank that a command reads in a cluster: the one it was bound to, or before that the one it will be bound to. -/
def entryBank (s : State) (e : Entry) (c : Nat) : Option Bool := match e.banks[c]? with | some b => some b | none => boundBank s e c

/-- R171: after an application the commands that were taken and held are bound under the new manifest; no SWAP_IDLE after it moves them. -/
def rebindBanks (s : State) : State :=
  { s with cq := { s.cq with entries := s.cq.entries.map (fun e =>
      if e.taken && !e.started then { e with banks := (List.range Config.clusters).filterMap (boundBank s e) } else e) } }

/-- R172: whether a cluster's shadow bank refuses writes: under a static copy, or while a command that has been taken for
issue and has not completed is bound to it. `copying` lists the logical clusters under a static copy. -/
def refusing (s : State) (c : Nat) : Bool :=
  s.ken.copying.contains c || s.cq.entries.any (fun e => e.taken && entryBank s e c == some (!(tblOf s c).phys))

/-- End an operation with the results of its clusters, in ascending order: the first failure is reported. -/
def endOp (rs : List (Nat × Nat)) (s : State) : State :=
  let s1 := { s with tbl := { s.tbl with busy := false, load := none, lockedSlots := [], result := 0, failCluster := 0xFF } }
  match rs.find? (fun r => r.2 != 0) with
  | none => s1
  | some (c, r) => { s1 with tbl := { s1.tbl with result := r, failCluster := c } }

/-- R172: a running LOAD whose bank begins to refuse is abandoned in that cluster; abandoned in all of them it has ended, with LOCKED. -/
def lockLoads (s : State) : State :=
  match s.tbl.load with
  | none => s
  | some l =>
    let cs := maskClusters l.mask
    let locked := s.tbl.lockedSlots ++ cs.filter (fun c => refusing s c && !s.tbl.lockedSlots.contains c)
    if cs.all (fun c => locked.contains c) then endOp (cs.map (fun c => (c, 3))) s
    else { s with tbl := { s.tbl with lockedSlots := locked } }

/-! ## The shadow window (R169) -/

/-- Write bytes at an offset of an image. -/
def imageWrite (img : List Byte) (off : Nat) (bs : List Byte) : List Byte :=
  let base := if img.isEmpty then List.replicate imageBytes 0 else img
  base.take off ++ bs ++ base.drop (off + bs.length)

/-- A write to one cluster's slot. A word written is good again. -/
def slotWrite (c slot off : Nat) (bs : List Byte) (s : State) : State :=
  if refusing s c then { s with tbl := { s.tbl with writeLocked := true } }
  else
    let t := tblOf s c
    let sh := !t.phys
    let key := imageKey c sh slot
    let s1 := { s with tbl := { s.tbl with
      images := sset [] s.tbl.images key (imageWrite (sget [] s.tbl.images key) off bs)
      badWords := s.tbl.badWords.filter (fun w => !(w / 516 == key && decide (off / 8 ≤ w % 516) && decide (w % 516 * 8 < off + bs.length))) } }
    setTbl c (t.setValid sh (t.valid sh &&& ~~~ slotBit slot)) s1

/-- A write to the shadow table window (Table 7-3). Bytes of the reserved ranges are ignored. -/
def windowWrite (off : Nat) (bytes : List Byte) (s : State) : State :=
  let c := off / 0x20000
  let b := off % 0x2000
  let bs := bytes.take (imageBytes - b)
  if bs.isEmpty ∨ Config.clusters ≤ c then s
  else (maskClusters (pairMask s (2 ^ c))).foldl (fun t x => slotWrite x (off / 0x2000 % 16) b bs t) s

/-- SHADOW_WINDOW_WRITE (R169, R172): needs permission bit 7; held during an application. -/
def shadowWrite (off : Nat) (bytes : List Byte) (s : State) : State :=
  if installing s then { s with man := { s.man with held := s.man.held ++ [.window off bytes] } }
  else windowWrite off bytes s

/-- Whether an offset of the shadow window holds a byte of an image; the rest is reserved (Table 7-3). -/
def inImage (off : Nat) : Bool := decide (off / 0x20000 < Config.clusters) && decide (off % 0x2000 < imageBytes)

/-- SHADOW_WINDOW_WRITE. -/
def execShadowWindowWrite (port : Port) (off : Nat) (bytes : List Byte) (s : State) : Host.Outcome State Fault Refusal :=
  .next (onWindow port 7 (oneBlock 0x1000000 off bytes.length && inImage off) (shadowWrite off bytes) s)

/-! ## Operations (R170, R174) -/

/-- Set or clear the valid bit of a cluster's shadow slot. -/
def shadowValid (slot : Nat) (v : Bool) (c : Nat) (s : State) : State :=
  let t := tblOf s c
  let sh := !t.phys
  setTbl c (t.setValid sh (if v then t.valid sh ||| slotBit slot else t.valid sh &&& ~~~ slotBit slot)) s

/-- The check of the image in a cluster's shadow slot (R163, R170). -/
def shadowCheck (s : State) (slot c : Nat) : Nat := imgResult (fun i => imageAt s c (!(tblOf s c).phys) slot i)

/-- COMMIT on the masked slots. -/
def commitOp (mask slot : Nat) (s : State) : State :=
  let cs := maskClusters mask
  let rs := cs.map (fun c => (c, if refusing s c then 3 else shadowCheck s slot c))
  endOp rs (rs.foldl (fun t r => if r.2 = 3 then t else shadowValid slot (r.2 == 0) r.1 t) s)

/-- CLEAR on the masked slots. -/
def clearOp (mask slot : Nat) (s : State) : State :=
  let rs := (maskClusters mask).map (fun c => (c, if refusing s c then 3 else 0))
  endOp rs (rs.foldl (fun t r => if r.2 = 0 then shadowValid slot false r.1 t else t) s)

/-- Blocks of 512 bytes that hold an image (R170). -/
def imageBlocks : Nat := 9

/-- The sectors of a block that a region's cache holds, if it holds them all. -/
def cachedBlock (s : State) (region block : Nat) : Option (List Sector) :=
  match s.rtv.cache.find? (fun x => x.region == region && x.block == block) with
  | some x =>
    let ys := (List.range 8).filterMap (fun i => (x.sectors.find? (fun y => y.1 == i)).map (·.2))
    if ys.length = 8 then some ys else none
  | none => none

/-- The regions of a mask's clusters. -/
def maskRegions (mask : Nat) : List Nat := ((maskClusters mask).map (· / 4)).eraseDups

/-- What a LOAD finds in the region caches (R296). -/
def loadHits (s : State) (l : TblLoad) : TblLoad :=
  { l with got := l.got ++ (maskRegions l.mask).flatMap (fun x => (List.range imageBlocks).filterMap (fun i =>
      if l.got.any (fun g => g.1 == x && g.2.1 == i) then none
      else (cachedBlock s x (l.addr / 512 + i)).map (fun ys => (x, i, ys)))) }

/-- The blocks, by region, that a LOAD still waits for, in ascending (region, block): those of the regions in which it is not abandoned. -/
def loadWants (s : State) (l : TblLoad) : List (Nat × Nat) :=
  (((maskClusters l.mask).filter (fun c => !s.tbl.lockedSlots.contains c)).map (· / 4)).eraseDups.flatMap (fun x => (List.range imageBlocks).filterMap (fun i =>
    if l.failed.contains x || l.got.any (fun g => g.1 == x && g.2.1 == i) then none else some (x, i)))

/-- LOAD: the masked slots become empty; an unaligned address ends it before any fetch. What the region caches hold is
taken from them; the rest is requested by the Retriever (R289 step 4). -/
def loadOp (mask slot : Nat) (s : State) : State :=
  let cs := maskClusters mask
  let locked := cs.filter (fun c => refusing s c)
  let s1 := (cs.filter (fun c => !locked.contains c)).foldl (fun t c => shadowValid slot false c t) s
  if s.tbl.addr % 512 ≠ 0 ∨ cs.all (fun c => locked.contains c) then
    endOp (cs.map (fun c => (c, if locked.contains c then 3 else 2))) s1
  else { s1 with tbl := { s1.tbl with load := some (loadHits s1 ⟨mask, slot, s.tbl.addr, [], []⟩), lockedSlots := locked } }

/-- R173: exchange the roles of a cluster's banks. The valid bits stay with their banks. -/
def swapCluster (c : Nat) (s : State) : State :=
  let t := tblOf s c
  setTbl c { t with phys := !t.phys, gen := (t.gen + 1) % 2 ^ 16 } s

/-- R170: a LOAD that is running when a cluster's banks are exchanged fills the slot of the bank that is now the shadow, which it therefore
sets empty (DESIGN CHOICE, log entry 170: the spec names no bank for it). -/
def emptyLoading (c : Nat) (s : State) : State :=
  match s.tbl.load with
  | some l => if (maskClusters l.mask).contains c ∧ ¬s.tbl.lockedSlots.contains c then shadowValid l.slot false c s else s
  | none => s

/-- SWAP_TABLES on the clusters of a mask; the caches of their regions are invalidated (R173). -/
def swapTables (mask : Nat) (s : State) : State :=
  dropCachesOf mask ((maskClusters mask).foldl (fun t c => emptyLoading c (swapCluster c t)) s)

/-- SWAP_IDLE (R174): accepted with an active manifest and no command taken since the last reset or application. -/
def swapIdleOp (mask : Nat) (s : State) : State :=
  if s.man.active.isSome ∧ ¬s.cq.takenSinceApply then swapTables mask (endOp [] s)
  else { endOp [] s with tbl := { (endOp [] s).tbl with result := 6 } }

/-- One operation of JQ_TBL_CTL, performed. -/
def performOp (code mask slot : Nat) (s : State) : State :=
  match code with
  | 1 => commitOp mask slot s
  | 2 => clearOp mask slot s
  | 3 => loadOp mask slot s
  | _ => swapIdleOp mask s

/-- A write to JQ_TBL_CTL: ignored while BUSY; held during an application (R170, R172). -/
def startOp (code mask slot : Nat) (s : State) : State :=
  if s.tbl.busy then s
  else
    let m := pairMask s mask
    let s1 := { s with tbl := { s.tbl with busy := true, lastOp := code, result := 0, failCluster := 0xFF } }
    if installing s then { s1 with man := { s1.man with held := s1.man.held ++ [.op code m slot] } }
    else performOp code m slot s1

/-- TBL_COMMIT. -/
def execTblCommit (port : Port) (mask : BitVec 32) (slot : BitVec 4) (s : State) : Host.Outcome State Fault Refusal :=
  .next (onMain port 7 (startOp 1 mask.toNat slot.toNat) s)

/-- TBL_CLEAR. -/
def execTblClear (port : Port) (mask : BitVec 32) (slot : BitVec 4) (s : State) : Host.Outcome State Fault Refusal :=
  .next (onMain port 7 (startOp 2 mask.toNat slot.toNat) s)

/-- TBL_LOAD. -/
def execTblLoad (port : Port) (mask : BitVec 32) (slot : BitVec 4) (s : State) : Host.Outcome State Fault Refusal :=
  .next (onMain port 7 (startOp 3 mask.toNat slot.toNat) s)

/-- SWAP_IDLE. -/
def execSwapIdle (port : Port) (mask : BitVec 32) (s : State) : Host.Outcome State Fault Refusal :=
  .next (onMain port 7 (startOp 4 mask.toNat 0) s)

/-- What one cluster's fetch brought (R170): the image bytes, whether a burst met a translation fault, and whether a
sector of the image was poisoned. -/
structure LoadData where
  bytes : List Byte
  fault : Bool
  poison : Bool
deriving DecidableEq, Repr, Inhabited

/-- The copy that a cluster's region fetched. -/
def loadData (l : TblLoad) (c : Nat) : LoadData :=
  let secs := (List.range imageBlocks).flatMap (fun i =>
    ((l.got.find? (fun g => g.1 == c / 4 && g.2.1 == i)).map (·.2.2)).getD [])
  ⟨(secs.flatMap (fun x => (List.range 64).map (fun i => x.bytes.getD i 0))).take imageBytes, l.failed.contains (c / 4),
    (secs.take (ceilDiv imageBytes 64)).any (·.poison)⟩

/-- The result of one cluster's fetch, with its image stored (R170). -/
def fetchOne (l : TblLoad) (acc : State × List (Nat × Nat)) (c : Nat) : State × List (Nat × Nat) :=
  let s := acc.1
  let d := loadData l c
  let slot := l.slot
  if s.tbl.lockedSlots.contains c || refusing s c then (s, acc.2 ++ [(c, 3)])
  else if d.fault then (s, acc.2 ++ [(c, 4)])
  else if d.poison then (s, acc.2 ++ [(c, 5)])
  else
    let key := imageKey c (!(tblOf s c).phys) slot
    let s1 := { s with tbl := { s.tbl with
      images := sset [] s.tbl.images key d.bytes, badWords := s.tbl.badWords.filter (fun w => w / 516 != key) } }
    let r := shadowCheck s1 slot c
    (if r = 0 then shadowValid slot true c s1 else s1, acc.2 ++ [(c, r)])

/-- R167: the words `lost` (cluster, word) of the copies that the operation put into the shadow banks are uncorrectable. -/
def spoilWords (l : TblLoad) (lost : List (Nat × Nat)) (s : State) : State :=
  let found := (lost.filter (fun p => (maskClusters l.mask).contains p.1 && decide (p.2 < 516))).map (fun p =>
    imageKey p.1 (!(tblOf s p.1).phys) l.slot * 516 + p.2)
  { s with tbl := { s.tbl with badWords := (s.tbl.badWords ++ found).eraseDups } }

/-- TBL_LOAD_FETCH_END (R170): every masked cluster has fetched its copy: no burst is awaited. During an application the
row waits to be offered again (R172). `lost`: words of the copies found uncorrectable (R167). -/
def execTblLoadFetchEnd (lost : List (Nat × Nat)) (s : State) : Host.Outcome State Fault Refusal :=
  .next (if mainStopped s then s else match s.tbl.load with
    | none => s
    | some l =>
      if installing s ∨ ¬(loadWants s l).isEmpty then s
      else
        let r := (maskClusters l.mask).foldl (fetchOne l) (s, [])
        endOp r.2 (spoilWords l lost r.1))

/-! ## Applications (R81–R84) -/

/-- Where the physical cluster at position `p` of a region stands: its logical cluster, or 32 + region for the kennel. -/
def standing (s : State) (x p : Nat) : Nat :=
  let q := (s.ken.map.getD x KenUnit.startRow).idxOf p
  if q < 4 then 4 * x + q else 32 + x

/-- Where the physical cluster stands that a manifest's map makes logical cluster `c` (R81, R83). -/
def arrivingAt (s : State) (m : Manifest) (c : Nat) : Nat :=
  standing s (c / 4) ((m.topo.getD (c / 4) KenUnit.startRow).getD (c % 4) 0)

/-- The logical clusters for which phase 1 writes tables. -/
def tabledClusters (m : Manifest) : List Nat := maskClusters (m.shap.foldl (fun a r => a ||| r.mask) 0)

/-- Mark the shadow banks of clusters empty (R82, R84). -/
def emptyShadows (cs : List Nat) (s : State) : State :=
  cs.foldl (fun t c => let x := tblOf t c; setTbl c (x.setValid (!x.phys) 0) t) s

/-- Phase 1: the manifest's images are written to the shadow banks of the clusters that its map brings into service, which
then hold nothing else (R81, R84). A cluster with no image is not written. -/
def phase1Tables (m : Manifest) (s : State) : State :=
  m.shap.foldl (fun t r => (maskClusters r.mask).foldl (fun u c0 =>
      let c := arrivingAt s m c0
      let key := imageKey c (!(tblOf u c).phys) r.slot
      shadowValid r.slot true c { u with tbl := { u.tbl with
        images := sset [] u.tbl.images key r.image, badWords := u.tbl.badWords.filter (fun w => w / 516 != key) } }) t)
    (emptyShadows ((tabledClusters m).map (arrivingAt s m)) s)

/-- R82: the shadow banks that phase 1 wrote are marked empty. -/
def abortTables (m : Manifest) (s : State) : State := emptyShadows ((tabledClusters m).map (arrivingAt s m)) s

/-- Phase 2 (R83, R84): the shadow banks become active, those that phase 1 did not write holding nothing (what the window
loaded into them is lost), and what was active is marked empty. The map has not changed yet. -/
def switchTables (m : Manifest) (s : State) : State :=
  let written := (tabledClusters m).map (arrivingAt s m)
  let all := List.range 40
  let s1 := emptyShadows (all.filter (fun c => !written.contains c)) s
  dropCaches (emptyShadows all (all.foldl (fun t c => swapCluster c t) s1))

/-- One write or operation held during an application (R84, R172). -/
def performHeld (h : HeldTable) (s : State) : State :=
  match h with
  | .window off bytes => windowWrite off bytes s
  | .op code mask slot => performOp code mask slot s

/-- Everything held, in order of arrival, after phase 2 or an abort. -/
def releaseHeld (s : State) : State :=
  s.man.held.foldl (fun t h => performHeld h t) { s with man := { s.man with held := [] } }

/-- Whether a slot is valid in a cluster's active bank. -/
def slotValid (s : State) (c slot : Nat) : Bool := ((tblOf s c).valid (tblOf s c).phys) &&& slotBit slot != 0

end Sys2Proof.Machine
end

