-- ==== Sys2Proof/Machine/Tiles.lean ====
section
/-! DEFINITION. Tiles, slices and the deal to clusters (R16, R111, R112, R239, R245). -/

namespace Sys2Proof.Machine

/-- A tile: row block, column tile, tile number, the coordinates of its first element, and the logical cluster it is dealt
to. -/
structure Tile where
  rb : Nat
  ct : Nat
  t : Nat
  c : Coord
  cluster : Nat
deriving DecidableEq, Repr, Inhabited

/-- Row blocks of a shape (R112). -/
def Shape.rowBlocks (h : Shape) : Nat := ceilDiv h.n1 16 * h.n2 * h.n3

/-- Column tiles of a shape. -/
def Shape.colTiles (h : Shape) : Nat := ceilDiv h.n0 64

/-- The first row of a row block, numbered in ascending (i3, i2, i1 div 16). -/
def Shape.blockRow (h : Shape) (rb : Nat) : Coord :=
  let q := ceilDiv h.n1 16
  ⟨rb / q / h.n2, rb / q % h.n2, rb % q * 16, 0⟩

/-- The rows of a row block. -/
def Shape.blockRows (h : Shape) (rb : Nat) : List Coord :=
  let c := h.blockRow rb
  (List.range (min 16 (h.n1 - c.i1))).map (fun j => { c with i1 := c.i1 + j })

/-- All rows of a shape, in ascending (i3, i2, i1). -/
def Shape.rows (h : Shape) : List Coord := (List.range h.rowBlocks).flatMap h.blockRows

/-- The deal of R112: with a row-axis REDUCE stage, or in a FUSED_ROW command, by ROW_SPAN; otherwise tile by tile. -/
def dealTile (span : Option Nat) (rb ct t : Nat) : Nat :=
  match span with
  | some r => r * (rb % (Config.clusters / r)) + ct % r
  | none => t % Config.clusters

/-- The tiles of a shape in ascending number. -/
def Shape.tileList (h : Shape) (span : Option Nat) : List Tile :=
  (List.range h.rowBlocks).flatMap (fun rb => (List.range h.colTiles).map (fun ct =>
    let t := rb * h.colTiles + ct
    ⟨rb, ct, t, { h.blockRow rb with i0 := 64 * ct }, dealTile span rb ct t⟩))

/-- The home cluster of a row block (R184). -/
def homeOf (span rb : Nat) : Nat := dealTile (some span) rb 0 0

/-- The tiles of each cluster in order: position `p` of every cluster's sequence, in ascending logical cluster (R289). -/
def atPosition (ts : List Tile) (p : Nat) : List Tile :=
  (List.range Config.clusters).filterMap (fun c => (ts.filter (fun t => t.cluster == c))[p]?)

/-- The longest sequence that a cluster runs. -/
def dealDepth (ts : List Tile) : Nat :=
  (List.range Config.clusters).foldl (fun m c => max m (ts.filter (fun t => t.cluster == c)).length) 0

/-- The rows of a tile within a shape. -/
def Tile.rows (h : Shape) (t : Tile) : List Coord := (h.blockRows t.rb).map (fun c => { c with i0 := t.c.i0 })

/-- The coordinates of a slice's existing positions. -/
def sliceCoords (h : Shape) (row : Coord) : List Coord :=
  (List.range (min 64 (h.n0 - row.i0))).map (fun j => { row with i0 := row.i0 + j })

/-- Active length along dimension 0 (R131). -/
def activeLen (e : Entry) (n0 : Nat) : Nat := min e.vlen n0

end Sys2Proof.Machine
end

