-- ==== Sys2Proof/Machine/Chain.lean ====
section
/-! DEFINITION. Stage chains (chapter 5): what each stage does to a slice, compress and expand, pack and store, and what a
CHAIN command writes. -/

namespace Sys2Proof.Machine

/-! ## Stages on a slice -/

/-- Change the active lanes of a slice. -/
def onLanes (f : Lane → Lane × Notes) (sl : List Lane) : List Lane × Notes :=
  mapNotes (fun l => if l.active then f l else (l, .none)) sl

/-- A value canonicalised by an operation that is not a move (R441). -/
def canonVal : Val → Val
  | .fp w => if isNanF (readFp32 false w) then .fp canonNan32 else .fp w
  | v => v

/-- The tensor number of a conversion that writes no output: OUT0's, or OUT1's when OUT0 is absent (R101). -/
def Desc.tensor (d : Desc) : Nat := if d.out0.present then d.out0.stride0 else d.out1.stride0

/-- The draw of a CONVERT stage at a lane (R101). -/
def laneDraw (r : Reader) (mode : RMode) (pos : Nat) (l : Lane) : Nat :=
  drawAt r.s mode r.e.crossing r.d.tensor pos r.h l.c

/-- CONVERT to an MX format in the lanes: blocks of 32 lanes (R92, R93, R96); the poison of an element reaches every
element of its block, since it contributes to the shared scale (R107). -/
def convertBlocks (r : Reader) (f : Fmt) (mode : RMode) (pos : Nat) (sl : List Lane) : List Lane × Notes :=
  let parts := (chunksFrom 32 (sl.length + 1) 32 sl).map (fun b =>
    let els := b.map (fun l => (if l.active then some l.v.val else none, laneDraw r mode pos l))
    let x := mxConvertReads f mode (els.map (fun v => (v.1.map (mxRead (numCfg r.s).ftz), v.2)))
    let p := b.any (fun l => l.active && l.v.poison)
    let ys := (b.zip x.2.1).map (fun y =>
      let v := mxDecode f x.1 y.2
      if y.1.active then ({ y.1 with v := ⟨v.1, p⟩ }, v.2) else (y.1, flagNone))
    (ys.map (·.1), (if b.any (·.active) then x.2.2 else flagNone) ||| flagsAll (ys.map (·.2))))
  ((parts.map (·.1)).flatten, .of (flagsAll (parts.map (·.2))))

/-- CONVERT (Table 5-3). -/
def stageConvert (r : Reader) (pos w : Nat) (sl : List Lane) : List Lane × Notes :=
  let inp := bitsOf w 9 8
  match bitsOf w 11 10 with
  | 0 => onLanes (fun l => let x := opOperand r (inp + 1) plusZero false l; ({ l with v := x.1 }, x.2)) sl
  | 1 =>
    let code := bitsOf w 7 4
    let mode := modeOf r.s (bitsOf w 3 1)
    (match fmtOfCode code with
      | none => (sl, .none)
      | some f =>
        if codeIsMx code then convertBlocks r f mode pos sl
        else onLanes (fun l =>
          let x := convertInLane (numCfg r.s).ftz f mode (laneDraw r mode pos l) l.v.val
          ({ l with v := ⟨x.1, l.v.poison⟩ }, .of x.2)) sl)
  | 2 => onLanes (fun l => let x := opOperand r (inp + 1) plusZero false l; ({ l with st := x.1 }, x.2)) sl
  | _ => onLanes (fun l => ({ l with v := l.st, st := l.v }, .none)) sl

/-- AFFINE (R118): one fused multiply-add, or a product alone. FORM 1 sets S to V first, so an operand S is that V (Table 5-3). -/
def stageAffine (r : Reader) (w : Nat) (sl : List Lane) : List Lane × Notes :=
  let ftz := (numCfg r.s).ftz
  let form := bitsOf w 1 0
  let bSel := bitsOf w 6 2
  onLanes (fun l0 =>
    let l := if form = 1 then { l0 with st := ⟨canonVal l0.v.val, l0.v.poison⟩ } else l0
    let a := opOperand r (bitsOf w 11 7) fpOne false l
    let b := opOperand r bSel (if form = 2 then fpOne else plusZero) false l
    let fv := asFloat ftz l.v.val
    let fa := asFloat ftz a.1.val
    let fb := asFloat ftz b.1.val
    let y : Word32 × Flags :=
      if form = 2 then fusedMulAdd ftz fa.1 fb.1 (some fv.1)
      else
        let add := if bSel = 0 then none else some fb.1
        fusedMulAdd ftz (if form = 3 then negF fv.1 else fv.1) fa.1 add
    let p := l.v.poison || a.1.poison || b.1.poison
    let fl := fv.2 ||| fa.2 ||| (if form ≠ 2 ∧ bSel = 0 then flagNone else fb.2) ||| y.2
    ({ l with v := ⟨.fp y.1, p⟩ },
      (a.2.join b.2).join (.of fl))) sl

/-- Give an element FP32 class where its operand has another class (R188). -/
def toClass (ftz : Bool) (v other : Val) : Val × Flags :=
  match v, other with
  | .int _, .fp _ => let x := encodeFp32 ftz (asFloat ftz v).1; (.fp x.1, (asFloat ftz v).2)
  | _, _ => (v, flagNone)

/-- COMPARE (R119). -/
def stageCompare (r : Reader) (w : Nat) (sl : List Lane) : List Lane × Notes :=
  let ftz := (numCfg r.s).ftz
  let op := bitsOf w 11 9
  let kor := w.testBit 0
  let setK := fun (l : Lane) (k p : Bool) =>
    if kor then { l with k := l.k || k, kp := l.kp || p } else { l with k := k, kp := p }
  onLanes (fun l =>
    if op = 5 then ({ l with k := !l.k }, .none)
    else
      let ints := op != 1 && op != 2 && (match l.v.val with | .int _ => true | _ => false)
      let x := opOperand r (bitsOf w 8 4) plusZero ints l
      match op with
      | 0 =>
        let p := evalPred ftz (bitsOf w 3 1) l.v.val x.1.val
        (setK l p.1 (l.v.poison || x.1.poison), x.2.join (.of p.2))
      | 1 =>
        let y := if l.k then toClass ftz l.v.val x.1.val else toClass ftz x.1.val l.v.val
        ({ l with v := ⟨y.1, (if l.k then l.v.poison else x.1.poison) || l.kp⟩ }, x.2.join (.of y.2))
      | 2 => (setK l (nonZeroVal ftz x.1.val) x.1.poison, x.2)
      | _ =>
        let m := pickMinMax ftz (op == 3) l.v.val x.1.val
        ({ l with v := ⟨m.1, l.v.poison || x.1.poison⟩ }, x.2.join (.of m.2))) sl

/-- BUILTIN (R120). -/
def stageBuiltin (r : Reader) (w : Nat) (sl : List Lane) : List Lane × Notes :=
  onLanes (fun l =>
    let x := builtinEval (numCfg r.s).ftz (bitsOf w 11 8) (w.testBit 7) (bitsOf w 6 5) l.v.val
    ({ l with v := ⟨x.1, l.v.poison⟩ }, .of x.2)) sl

/-- The physical bank from which a command reads tables in a cluster (R171). -/
def bankOf (s : State) (e : Entry) (cluster : Nat) : Bool := (entryBank s e cluster).getD (tblOf s cluster).phys

/-- The image that a slot of a command's bank holds (R121, R171). -/
def boundImage (s : State) (e : Entry) (cluster slot i : Nat) : Byte := imageAt s cluster (bankOf s e cluster) slot i

/-- Whether a word of such an image is uncorrectable (R167). -/
def badWord (s : State) (e : Entry) (cluster slot word : Nat) : Bool :=
  s.tbl.badWords.contains (imageKey cluster (bankOf s e cluster) slot * 516 + word)

/-- SHAPE (R121, R164, R167). -/
def stageShape (r : Reader) (cluster w : Nat) (sl : List Lane) : List Lane × Notes :=
  onLanes (fun l =>
    let x := tableEval (numCfg r.s).ftz (boundImage r.s r.e cluster (bitsOf w 11 8)) l.v.val
    let p := (tableReads (numCfg r.s).ftz (boundImage r.s r.e cluster (bitsOf w 11 8)) l.v.val).any (badWord r.s r.e cluster (bitsOf w 11 8))
    ({ l with v := ⟨x.1, l.v.poison || p⟩ }, .of x.2)) sl

/-- The program of a recipe slot in a cluster (R180). It is read from the active manifest at once, without a fetch through the region cache
(DESIGN CHOICE, log entry 155: R21 and R296 name recipes, and no rule gives a program an address in job memory). -/
def recipeOf (s : State) (cluster slot : Nat) : List Word64 :=
  match s.man.active with
  | some m => ((m.rcpe.find? (fun p => p.mask.testBit cluster && p.slot == slot)).map (·.program)).getD []
  | none => []

/-- RECIPE (R121, R177). -/
def stageRecipe (r : Reader) (cluster w : Nat) (sl : List Lane) : List Lane × Notes :=
  let words := recipeOf r.s cluster (bitsOf w 11 7)
  onLanes (fun l =>
    let x := recipeRun (numCfg r.s).ftz (bankEntry r.e) (boundImage r.s r.e cluster) (badWord r.s r.e cluster) words l.v l.st
    ({ l with v := x.1, st := x.2.1 }, .of x.2.2)) sl

/-- The zero that a lane without a source receives, in the class of the register (R123). -/
def zeroLike (v : PVal) : PVal := ⟨match v.val with | .int _ => .int 0 | _ => plusZero, false⟩

/-- The source lane of a permutation, from the index of a GATHER (Table 5-4). -/
def permuteSource (op k i idx : Nat) : Option Nat :=
  match op with
  | 0 => some ((i + k) % 64)
  | 1 => some (63 - i)
  | 2 => some (Nat.xor i k)
  | 3 => some k
  | 4 => some (idx % 64)
  | 5 => if i < k then none else some (i - k)
  | _ => if 63 < i + k then none else some (i + k)

/-- PERMUTE (R123). A poisoned index of a GATHER poisons what it selects, V, S and K (R107), also where the source lane is a tail, which itself
brings no poison (DESIGN CHOICE, log entry 185: R123 says both). -/
def stagePermute (r : Reader) (w : Nat) (sl : List Lane) : List Lane × Notes :=
  let op := bitsOf w 11 9
  mapNotes (fun (x : Lane × Nat) =>
    let l := x.1
    if !l.active then (l, Notes.none)
    else
      let idx : PVal × Notes := if op = 4 then opOperand r (bitsOf w 7 3) plusZero false l else (⟨plusZero, false⟩, .none)
      let j := asInt32 (numCfg r.s).ftz idx.1.val
      let src := (permuteSource op (bitsOf w 8 3) x.2 (BitVec.ofInt 32 j.1).toNat).bind (fun i => sl[i]?)
      let moved := match src with
        | some y => if y.active then { l with v := y.v, st := y.st, k := y.k, kp := y.kp }
            else { l with v := zeroLike l.v, st := zeroLike l.st, k := false, kp := false }
        | none => { l with v := zeroLike l.v, st := zeroLike l.st, k := false, kp := false }
      let p := op == 4 && idx.1.poison
      ({ moved with
          v := { moved.v with poison := moved.v.poison || p }, st := { moved.st with poison := moved.st.poison || p },
          kp := moved.kp || p },
        idx.2.join (.of (if op = 4 then j.2 else flagNone)))) (sl.zipIdx)

/-- One lane stage on a slice: every kind but REDUCE, COMPRESS, EXPAND and PACK/STORE. -/
def laneStage (r : Reader) (cluster pos w : Nat) (sl : List Lane) : List Lane × Notes :=
  match stageKind w with
  | 1 => stageConvert r pos w sl
  | 2 => stageAffine r w sl
  | 3 => stageCompare r w sl
  | 4 => stageBuiltin r w sl
  | 5 => stageShape r cluster w sl
  | 6 => stageRecipe r cluster w sl
  | 8 => stagePermute r w sl
  | _ => (sl, .none)

/-! ## Tiles through a chain -/

/-- What a tile gathers on its way: the slices in flight, those that COMPRESS took, its count, stores as (output, slice)
and contributions as (stage, element). -/
structure Flight where
  cur : List (List Lane)
  saved : List (List Lane)
  count : Nat
  stores : List (Nat × OutSlice)
  reds : List (Nat × RedEl)
  notes : Notes

/-- A lane that takes no part. -/
def Lane.idle (c : Coord) : Lane := ⟨false, c, ⟨plusZero, false⟩, ⟨plusZero, false⟩, false, false⟩

/-- The slices of a tile at entry to stage 0 (R113): V from IN0, or +0 where IN0 is absent. -/
def enterTile (r : Reader) (t : Tile) : List (List Lane) × Notes :=
  let lim := activeLen r.e r.h.n0
  mapNotes (fun (row : Coord) => mapNotes (fun (i : Nat) =>
      let c := { row with i0 := row.i0 + i }
      if c.i0 < lim then
        let x : PVal × Notes := if r.d.in0.present then elementAt r.s r.e r.d.in0 r.h c else (⟨plusZero, false⟩, .none)
        (⟨true, c, x.1, ⟨plusZero, false⟩, true, false⟩, x.2)
      else (Lane.idle c, Notes.none)) (List.range 64)) (t.rows r.h)

/-- The source of a PACK/STORE: V, S or K as a MASK1 value (R128). -/
def packSource (w : Nat) (l : Lane) : OutVal :=
  match bitsOf w 10 9 with
  | 0 => .of l.v
  | 1 => .of l.st
  | _ => { OutVal.of ⟨if l.k then fpOne else plusZero, l.kp⟩ with isMask := true }

/-- The slice of outputs that stands at a row of a tile, given the value at each existing coordinate. -/
def outRow (h : Shape) (t : Tile) (pos : Nat) (row : Coord) (f : Coord → OutVal) : OutSlice :=
  ⟨row, t.cluster, pos, (sliceCoords h row).map f⟩

/-- The lane at a coordinate. -/
def laneAt (ls : List Lane) (c : Coord) : Option Lane := ls.find? (fun l => l.active && l.c == c)

/-- The writes of a PACK/STORE (R127, R128, R131, R442). `sect`: 0 outside a compressed section, 1 inside one that an
EXPAND closes, 2 inside one that runs to the end: there packed elements fill the tile's positions in order up to n0, tail positions of R131
among them (DESIGN CHOICE, log entry 187). -/
def packTile (h : Shape) (t : Tile) (sect pos w : Nat) (fl : Flight) : List (Nat × OutSlice) :=
  let ls := fl.cur.flatten.filter (·.active)
  let rows := t.rows h
  let at' := fun (c : Coord) => match laneAt ls c with | some l => packSource w l | none => .zero
  let packed := ls.map (packSource w)
  let width := min 64 (h.n0 - t.c.i0)
  rows.zipIdx.map (fun x => (bit (w.testBit 11),
    if sect = 2 then
      ⟨x.1, t.cluster, pos, (List.range width).map (fun i => packed.getD (x.2 * width + i) .zero)⟩
    else outRow h t pos x.1 at'))

/-- The element that a REDUCE stage receives (R122, R189): K in place of V where SRCK asks for it. -/
def redOf (cluster w : Nat) (l : Lane) : Option RedEl :=
  let masked := w.testBit 2
  if masked && !l.k then none
  else if w.testBit 0 then some ⟨l.c, cluster, ⟨.int (bit l.k), l.kp⟩, l.st, l.k⟩
  else
    let mp := masked && l.kp
    some ⟨l.c, cluster, { l.v with poison := l.v.poison || mp }, l.st, l.k⟩

/-- One stage of a tile. An element that COMPRESS selects under a poisoned K keeps that poison in its K alone, V and S as they were (DESIGN
CHOICE, log entry 186: R125 speaks of its own poison, R107 of the element that a mask selects). -/
def tileStage (r : Reader) (t : Tile) (closed packed : Bool) (fl : Flight) (x : Nat × Nat) : Flight :=
  let w := x.1
  let pos := x.2
  match stageKind w with
  | 7 => { fl with reds := fl.reds ++ (fl.cur.flatten.filter (·.active)).filterMap (fun l => (redOf t.cluster w l).map (fun e => (pos, e))) }
  | 9 =>
    let keep := fl.cur.flatten.filter (fun l => l.active && l.k)
    let pad := fun (s : List Lane) => s ++ List.replicate (64 - s.length) (Lane.idle t.c)
    { fl with saved := fl.cur, count := keep.length, cur := (chunksFrom 64 (keep.length + 1) 64 keep).map pad }
  | 10 =>
    let done := fl.cur.flatten.filter (·.active)
    { fl with cur := fl.saved.map (fun sl => sl.map (fun l =>
        if l.active && l.k then (laneAt done l.c).getD l else l)) }
  | 11 =>
    let sec := if packed then 2 else if closed then 1 else 0
    { fl with stores := fl.stores ++ packTile r.h t sec pos w fl }
  | _ =>
    let y := mapNotes (laneStage r t.cluster pos w) fl.cur
    { fl with cur := y.1, notes := fl.notes.join y.2 }

/-- Run the stage words on a tile. `comp` and `expd` are the positions of COMPRESS and EXPAND. -/
def runTile (r : Reader) (words : List Nat) (t : Tile) : Flight :=
  let comp := words.findIdx? (fun w => stageKind w == 9)
  let expd := words.findIdx? (fun w => stageKind w == 10)
  let inside := fun (pos : Nat) => match comp with | some c => decide (c < pos) | none => false
  let a := enterTile r t
  words.zipIdx.foldl (fun fl x =>
    let packed := inside x.2 && expd.isNone
    let closed := inside x.2 && (match expd with | some e => decide (x.2 < e) | none => false)
    tileStage r t closed packed fl x) ⟨a.1, [], 0, [], [], a.2⟩

/-! ## REDUCE results (R188 to R197) -/

/-- The class, integer or not, of V and S before a stage position as the chain fixes it (R188). -/
def classesAt (s : State) (d : Desc) (pos : Nat) : Bool × Bool :=
  let intFmt := fun (x : Slot) => x.present && (x.fmt == 11 || x.fmt == 12 || x.fmt == 14)
  ((d.chainStages.take pos).foldl (fun (vs : Bool × Bool) w =>
    let sub := bitsOf w 11 10
    match stageKind w with
    | 1 => match sub with
      | 0 => (intFmt (d.input (bitsOf w 9 8)), vs.2)
      | 1 => (bitsOf w 7 4 == 11 || bitsOf w 7 4 == 12 || bitsOf w 7 4 == 14, vs.2)
      | 2 => (vs.1, intFmt (d.input (bitsOf w 9 8)))
      | _ => (vs.2, vs.1)
    | 2 => (false, if bitsOf w 1 0 = 1 then vs.1 else vs.2)
    | 3 =>
      let op := bitsOf w 11 9
      let sel := bitsOf w 8 4
      let xInt := if 1 ≤ sel ∧ sel ≤ 0xC then intFmt (d.input ((sel - 1) % 4))
        else if sel = 0xD then vs.2 else if sel = 0xE then vs.1 else decide (0x10 ≤ sel) && op != 1 && vs.1
      if op = 1 ∨ op = 3 ∨ op = 4 then (vs.1 && xInt, vs.2) else vs
    | 4 => (false, vs.2)
    | 5 => (false, vs.2)
    | 6 =>
      let writesS := (List.range Config.clusters).any (fun c => (recipeOf s c (bitsOf w 11 7)).any (fun u => uopDst u == 9))
      (false, vs.2 && !writesS)
    | _ => vs) (intFmt d.in0, false))

/-- Whether any chain stage is a row-axis REDUCE (R112). -/
def Desc.rowReduce (d : Desc) : Bool := d.chainStages.any (fun w => stageKind w == 7 && !w.testBit 3)

/-- The span by which a CHAIN command is dealt. -/
def chainSpan (s : State) (d : Desc) : Option Nat := if d.rowReduce then some (rowSpan s) else none

/-- Whether a REDUCE stage is one of the exact accumulators. -/
def isExact (w : Nat) : Bool := decide (10 ≤ bitsOf w 11 8)

/-- The output of a REDUCE stage's value. -/
def sinkOut (w : Nat) : Nat := bit (w.testBit 1)

/-- The block base XBASE of an exact stage. -/
def sinkBlock (w : Nat) : Nat := bitsOf w 7 4

/-- Whether OUT takes the raw record (R196). -/
def sinkRaw (d : Desc) (w : Nat) : Bool := isExact w && (d.slot (4 + sinkOut w)).fmt == 12

/-- The elements that a merged entry gives: the rounded readout or the raw record (R196). -/
def entryOut (raw : Bool) (a : AccRec) : List OutVal × Flags :=
  if raw then (accWords a, flagNone)
  else let r := accRead a; ([.ofExact r.1 (accHas a accPoison)], r.2)

/-- Entries as they stand, by key. -/
abbrev Accs := List (Nat × AccRec)

/-- Contributing elements enter their entries in order (R193, R194), with the flags they raise. -/
def intakeEls (ftz : Bool) (op block : Nat) (xs : List RedEl) (acc : Accs × Flags) : Accs × Flags :=
  xs.foldl (fun a x =>
    let z := exactAddend ftz op x.v.val x.st.val
    let key := accKey x.cluster block x.c.i1
    (sset accZero a.1 key (accIntake z.1 (x.v.poison || (op == 12 && x.st.poison)) (sget accZero a.1 key)), a.2 ||| z.2)) acc

/-- R195: entries of rows are cleared in a cluster. -/
def clearEntries (cluster block : Nat) (rows : List Coord) (m : Accs) : Accs :=
  rows.foldl (fun a c => sset accZero a (accKey cluster block c.i1) accZero) m

/-- The REDUCE stages of a chain with their positions. -/
def Desc.sinks (d : Desc) : List (Nat × Nat) := d.chainStages.zipIdx.filter (fun w => stageKind w.1 == 7)

/-- The keys of a block's entries in every cluster. -/
def blockKeys (block : Nat) : List Nat :=
  (List.range Config.clusters).flatMap (fun c => (List.range 16).map (fun j => accKey c block j))

/-- The result of a row or of the command by OP 0 to 9, with its index for MAXI and MINI: the winner's i0 under AXIS 0, and under AXIS 1 its
linear INDEX (DESIGN CHOICE, log entry 184: R122 says i0, the limit of R188 speaks of INDEX). -/
def plainResult (s : State) (d : Desc) (w : Nat × Nat) (whole : Bool) (xs : List RedEl) : RedRes × Option Nat :=
  let ftz := (numCfg s).ftz
  let op := bitsOf w.1 11 8
  let h := d.shape
  if op ≤ 1 then
    (if whole then commandSum ftz (op == 1) (gReduce s) h xs else rowSumRes ftz (op == 1) (gReduce s) xs, none)
  else if op ≤ 3 then
    let index := fun (c : Coord) => if whole then linearIndex h.n2 h.n1 h.n0 c.i3 c.i2 c.i1 c.i0 else c.i0
    let r := winner ftz (op == 2) (classesAt s d w.2).1 index xs
    (r.1, some r.2)
  else (logicalReduce ftz op (w.1.testBit 0) xs, none)

/-- The output slices of a result at a row: the value, and the index on the other output. -/
def resultSlices (w : Nat × Nat) (row : Coord) (cluster : Nat) (r : RedRes × Option Nat) : List (Nat × OutSlice) :=
  (sinkOut w.1, ⟨row, cluster, w.2, [.of ⟨r.1.val, r.1.poison⟩]⟩) ::
    (match r.2 with
      | some i => [(1 - sinkOut w.1, ⟨row, cluster, w.2, [.of ⟨.int i, r.1.poison⟩]⟩)]
      | none => [])

/-- Slices grouped by output. -/
def emitsOf (d : Desc) (xs : List (Nat × OutSlice)) : List Emit :=
  ([0, 1].filter (fun i => xs.any (fun x => x.1 == i))).map (fun i =>
    ⟨4 + i, outShape d i, (xs.filter (fun x => x.1 == i)).map (·.2)⟩)

/-- What a tile of a chain writes as it passes: the stores of its PACK/STORE stages, and the count of COMPRESS (R127, R128). -/
def chainEmits (d : Desc) (t : Tile) (fl : Flight) : List Emit :=
  let comp := (d.chainStages.findIdx? (fun w => stageKind w == 9)).getD 0
  let counts : List (Nat × OutSlice) :=
    if d.countsOut then [(1, ⟨⟨0, 0, 0, t.t⟩, t.cluster, comp, [.of ⟨.int fl.count, false⟩]⟩)] else []
  emitsOf d (fl.stores ++ counts)

/-! ## Tiles of a command (R274, R358) -/

/-- The value that a lane sends, as an FP32 element (R358). -/
def sentWord (v : PVal) : Nat := match v.val with | .fp w => w.toNat | .int i => (BitVec.ofInt 32 i).toNat

/-- The signature of a tile (R358): what it writes, what it sends to the reductions or the towline at the elements' coordinates, and its
flag bits as one element word at its first coordinate (log entry 153). -/
def tileSum (s : State) (e : Entry) (c : Coord) (ms : List Emit) (sent : List (Coord × PVal)) (fl : Flags) : Nat :=
  let seed := wakeSeed s
  let t := e.desc.tensor
  let writes := emitSum s e ms
  (sent.foldl (fun a x => a + wakeElement seed t 0 x.1 (sentWord x.2) x.2.poison) writes + wakeElement seed t 0 c fl.toNat false) % digP

/-- The flags of converting what is written. -/
def emitFlags (s : State) (e : Entry) (ms : List Emit) : Flags :=
  flagsAll (ms.flatMap (fun m => m.slices.map (fun sl => (convertSlice s e (e.desc.slot m.slot) m.shape sl).2)))

/-- A tile of a command is over: what it writes leaves the lanes, what it notes is kept, and at full redundancy its signature waits for the
comparison, which for an output in job memory shows a fault on the way to storage too (R358, R361). -/
def closeTile (delta : Nat) (rb cluster : Nat) (c : Coord) (ms : List Emit) (n : Notes) (sent : List (Coord × PVal)) (e : Entry)
    (s : State) : Entry × State :=
  let e1 := addNotes n e
  if protection s ≠ 2 then emitAll none delta ms e1 s
  else
    let x := emitAll (some e.tiles) delta ms e1 s
    let job := ms.any (fun m => (e.desc.slot m.slot).job)
    let sum := (tileSum s e c ms sent (n.flags ||| emitFlags s e ms) + if job then delta else 0) % digP
    ({ x.1 with tiles := e.tiles + 1, sigs := x.1.sigs ++ [⟨e.tiles, rb, writerOf s cluster, sum⟩] }, x.2)

/-- The cluster that writes an output's first slice. -/
def emitCluster (ms : List Emit) : Nat := ((ms.flatMap (·.slices)).head?.map (·.cluster)).getD 0

/-- Write results that follow the last tile of a row block or of the command: at full redundancy they are compared as a tile of their own,
under a signature over what is written (R358, log entry 153). -/
def emitLate (rb delta : Nat) (ms : List Emit) (fl : Flags) (e : Entry) (s : State) : Entry × State :=
  let e1 := { e with res := { e.res with flags := e.res.flags ||| fl } }
  if ms.all (fun m => m.slices.isEmpty) then (e1, s)
  else closeTile delta rb (emitCluster ms) (((ms.flatMap (·.slices)).head?.map (·.c)).getD default) ms (.of fl) [] e1 s

/-! ## A CHAIN command, step by step (R188 to R197) -/

/-- The first lane issue (R195): the entries of an AXIS 1 stage are cleared, or kept with ACC. -/
def chainStart (e : Entry) (s : State) : State :=
  let d := e.desc
  if d.acc then s
  else
    let keys := (d.sinks.filter (fun w => isExact w.1 && w.1.testBit 3)).flatMap (fun w => blockKeys (sinkBlock w.1))
    putAccs (keys.map (fun k => (k, accZero))) s

/-- The key of a member's record: row block and entry. -/
def sentKey (rb key : Nat) : Nat := rb * 8192 + key

/-- Whether a tile is the last of its row block in its cluster, under a ROW_SPAN deal. -/
def lastInBlock (s : State) (h : Shape) (t : Tile) : Bool := decide (h.colTiles ≤ t.ct + rowSpan s)

/-- A tile with row results: its cluster's entries are those of its row block from the first tile on; at the last tile the records of the
block's rows are sent to the home cluster (R195, R197). -/
def sendRecords (s : State) (h : Shape) (t : Tile) (blocks : List Nat) (m : List (Nat × AccRec)) (e : Entry) : Entry :=
  let keys := blocks.flatMap (fun b => (h.blockRows t.rb).map (fun c => accKey t.cluster b c.i1))
  { e with
      rowIn := if t.ct < rowSpan s then sput e.rowIn t.cluster (some t.rb) else e.rowIn
      sent := if lastInBlock s h t then keys.foldl (fun a k => sput a (sentKey t.rb k) (some (sget accZero m k))) e.sent else e.sent }

/-- The records of a row block have been merged. -/
def dropSent (rb : Nat) (e : Entry) : Entry := { e with sent := e.sent.filter (fun x => x.1 / 8192 != rb) }

/-- One tile of a CHAIN command: its stores and its count, its contributions to plain reductions, and its exact entries, which an AXIS 0
stage clears when the first slice of a row reaches it in the cluster (R195). -/
def chainTile (delta : Nat) (t : Tile) (e : Entry) (s : State) : Entry × State :=
  let d := e.desc
  let words := d.chainStages
  let fl := runTile (readerIn s e d.shape t.cluster) words t
  let exact := d.sinks.filter (fun w => isExact w.1)
  let rows := t.rows d.shape
  let acc := exact.foldl (fun (a : Accs × Flags) w =>
    let m := if w.1.testBit 3 ∨ rowSpan s ≤ t.ct then a.1 else clearEntries t.cluster (sinkBlock w.1) rows a.1
    intakeEls (numCfg s).ftz (bitsOf w.1 11 8) (sinkBlock w.1) ((fl.reds.filter (fun x => x.1 == w.2)).map (·.2)) (m, a.2))
    (s.arr.accs, flagNone)
  let plain := fl.reds.filter (fun x => !(exact.any (fun w => w.2 == x.1)))
  let sent := fl.reds.flatMap (fun x => (x.2.c, x.2.v) :: (if exact.any (fun w => w.2 == x.1 && bitsOf w.1 11 8 == 12) then [(x.2.c, x.2.st)] else []))
  let own := (exact.filter (fun w => !w.1.testBit 3)).map (fun w => sinkBlock w.1)
  closeTile delta t.rb t.cluster t.c (chainEmits d t fl) (fl.notes.join (.of acc.2)) sent
    (sendRecords s d.shape t own acc.1 { e with reds := e.reds ++ plain }) { s with arr := { s.arr with accs := acc.1 } }

/-- Whether two coordinates lie in one row. -/
def sameRow (a b : Coord) : Bool := a.i3 == b.i3 && a.i2 == b.i2 && a.i1 == b.i1

/-- The clusters that run tiles of a row block, in the order of its tiles. -/
def blockClusters (h : Shape) (span : Option Nat) (rb : Nat) : List Nat :=
  ((List.range h.colTiles).map (fun ct => dealTile span rb ct (rb * h.colTiles + ct))).eraseDups

/-- The records of a row that the members have sent, merged (R196, R197). The home's entry keeps the result, unless it is in use for a later
row block already. -/
def mergeRow (e : Entry) (home block rb : Nat) (clusters : List Nat) (row : Coord) (m : Accs) : AccRec × Accs :=
  let a := (clusters.map (fun c => sget accZero e.sent (sentKey rb (accKey c block row.i1)))).foldl accMerge accZero
  (a, if sget rb e.rowIn home = rb then sset accZero m (accKey home block row.i1) a else m)

/-- AXIS 0: the results of the rows of a block after its last tile (R190, R196). -/
def chainBlock (delta rb : Nat) (e : Entry) (s : State) : Entry × State :=
  let d := e.desc
  let h := d.shape
  let home := homeOf (rowSpan s) rb
  let ks := d.sinks.filter (fun w => !w.1.testBit 3)
  let rows := h.blockRows rb
  let cs := blockClusters h (chainSpan s d) rb
  let r := (ks.flatMap (fun w => rows.map (fun c => (w, c)))).foldl
    (fun (a : List (Nat × OutSlice) × Accs × Flags) x =>
      if isExact x.1.1 then
        let m := mergeRow e home (sinkBlock x.1.1) rb cs x.2 a.2.1
        let o := entryOut (sinkRaw d x.1.1) m.1
        (a.1 ++ [(sinkOut x.1.1, ⟨x.2, home, x.1.2, o.1⟩)], m.2, a.2.2 ||| o.2)
      else
        let res := plainResult s d x.1 false ((e.reds.filter (fun y => y.1 == x.1.2 && sameRow y.2.c x.2)).map (·.2))
        (a.1 ++ resultSlices x.1 x.2 home res, a.2.1, a.2.2 ||| res.1.flags)) ([], s.arr.accs, flagNone)
  let done := fun (y : Nat × RedEl) => ks.any (fun w => w.2 == y.1) && rows.any (sameRow y.2.c)
  emitLate rb delta (emitsOf d r.1) r.2.2 (dropSent rb { e with reds := e.reds.filter (fun y => !done y) }) { s with arr := { s.arr with accs := r.2.1 } }

/-- An AXIS 1 result: an exact stage leaves the entries as they stand and reads out their merge (R196). -/
def wholeResult (s : State) (e : Entry) (w : Nat × Nat) : List (Nat × OutSlice) × Flags :=
  let d := e.desc
  let origin : Coord := ⟨0, 0, 0, 0⟩
  if isExact w.1 then
    let o := entryOut (sinkRaw d w.1) (((blockKeys (sinkBlock w.1)).map (accAt s)).foldl accMerge accZero)
    ([(sinkOut w.1, ⟨origin, 0, w.2, o.1⟩)], o.2)
  else
    let res := plainResult s d w true ((e.reds.filter (fun y => y.1 == w.2)).map (·.2))
    (resultSlices w origin 0 res, res.1.flags)

/-- The end of a CHAIN command: its AXIS 1 results, which wait for the group under one (R330). A shape without columns has no tile, and its
rows have their results here. -/
def chainEnd (delta : Nat) (e : Entry) (s : State) : Entry × State :=
  let d := e.desc
  let x := if d.shape.colTiles = 0 ∧ d.rowReduce then
      (List.range d.shape.rowBlocks).foldl (fun (a : Entry × State) rb => chainBlock delta rb a.1 a.2) (e, s)
    else (e, s)
  let y := finishPieces (fun _ => true) x.1 x.2
  if e.coll.isSome then y
  else
    let ys := (d.sinks.filter (fun w => w.1.testBit 3)).map (wholeResult y.2 y.1)
    emitLate 0 delta (emitsOf d (ys.flatMap (·.1))) (flagsAll (ys.map (·.2))) y.1 y.2

end Sys2Proof.Machine
end

