-- ==== Sys2Proof/Machine/Ladder.lean ====
section
/-! DEFINITION. The exact online soft maximum (R220 to R228): base-2 arguments, terms, the ladder of three accumulator
entries, its combination, and what the finisher forms from it. -/

namespace Sys2Proof.Machine

/-! ## Arguments -/

/-- The base-2 argument of a score (R220 step 3). -/
def baseTwo (base2 : Bool) (z : FVal) : FVal :=
  match z with
  | .fin n m => if base2 then .fin n m else .fin n (m * constL)
  | v => v

/-- Rounding up to an integer. -/
def ceilRat (q : Rat) : Int := -((-q).floor)

/-- One contributing position of a row: its argument, its mask bit, its poison, and whether it took a signalling fill. -/
structure Score where
  t : FVal
  k : Bool
  poison : Bool
  snan : Bool
deriving DecidableEq, Repr, Inhabited

/-- The finite argument of a score. -/
def Score.fin? (x : Score) : Option Rat := match x.t with | .fin n m => some (finValue n m) | _ => none

/-- The largest finite argument of a slice, rounded up (R223). -/
def topOf (xs : List Score) : Option Int :=
  (xs.filterMap Score.fin?).foldl (fun acc q => some (match acc with | some m => max m (ceilRat q) | none => ceilRat q)) none

/-! ## The ladder (R225 to R227) -/

/-- The cut of a reference (R225). -/
def cutOf (m : Int) : Int := -((280 - m) / 24)

/-- The base block of entry `k` under a reference (R226). -/
def baseBlock (k : Nat) (m : Int) : Int := cutOf m + ((k : Int) - cutOf m) % 3

/-- A ladder with nothing in it. -/
def Ladder.zero : Ladder := ⟨none, accZero, accZero, accZero, false, false, false, false, false⟩

def Ladder.entry (l : Ladder) (k : Nat) : AccRec := match k with | 0 => l.l0 | 1 => l.l1 | _ => l.l2
def Ladder.setEntry (l : Ladder) (k : Nat) (a : AccRec) : Ladder :=
  match k with | 0 => { l with l0 := a } | 1 => { l with l1 := a } | _ => { l with l2 := a }

/-- RHO of an entry (R226). -/
def ladderRho (k : Nat) (m : Int) : Int := 24 * baseBlock k m + 297 - 24 * (m / 24)

/-- An entry moved from one reference's base block to another's: whole fields leave, and LOST marks them. A holds 640 bits,
so a longer way leaves what 1024 bits leave. -/
def entryRebase (k : Nat) (m m' : Int) (a : AccRec) : AccRec :=
  let sh := min 1024 (24 * (baseBlock k m' - baseBlock k m)).toNat
  let q := a.a >>> sh
  { a with a := q, rho := ladderRho k m', st := if q * 2 ^ sh = a.a then a.st else a.st ||| accLost }

/-- Raise a ladder's reference (R226 steps 1 and 2). -/
def Ladder.raise (m' : Int) (l : Ladder) : Ladder :=
  match l.m with
  | none => { l with m := some m', l0 := { l.l0 with rho := ladderRho 0 m' }, l1 := { l.l1 with rho := ladderRho 1 m' },
                     l2 := { l.l2 with rho := ladderRho 2 m' } }
  | some m => if m' ≤ m then l
    else { l with m := some m', l0 := entryRebase 0 m m' l.l0, l1 := entryRebase 1 m m' l.l1, l2 := entryRebase 2 m m' l.l2 }

/-- Add a term, or discard it below the cut (R226 step 3). `w` is in units of 2^−23. -/
def Ladder.add (w : Nat) (n : Int) (l : Ladder) : Ladder :=
  match l.m with
  | none => l
  | some m =>
    let b := n / 24
    let k := (b % 3).toNat
    let a := l.entry k
    if b < cutOf m then l.setEntry k { a with st := a.st ||| accLost }
    else l.setEntry k { a with a := wrap640 (a.a + w * 2 ^ (n - 24 * baseBlock k m).toNat) }

/-- One slice of a row (R226). -/
def Ladder.slice (l : Ladder) (xs : List Score) : Ladder :=
  let l1 := match topOf xs with | some m => l.raise m | none => l
  let l2 := { l1 with
    l0 := { l1.l0 with count := satAdd (2 ^ 40 - 1) l1.l0.count xs.length }
    anyKeep := l1.anyKeep || xs.any (·.k)
    poison := l1.poison || xs.any (·.poison)
    nan := l1.nan || xs.any (fun x => isNanF x.t)
    pinf := l1.pinf || xs.any (fun x => x.t == .inf false)
    snan := l1.snan || xs.any (·.snan) }
  (xs.filterMap Score.fin?).foldl (fun a q => let w := smaxTerm q; a.add w.1 w.2) l2

/-- R227: two ladder states of one row. -/
def Ladder.merge (x y : Ladder) : Ladder :=
  let m : Option Int := match x.m, y.m with | some a, some b => some (max a b) | some a, none => some a | none, b => b
  let up := fun (l : Ladder) => match m with | some v => l.raise v | none => l
  let a := up x
  let b := up y
  let sum := fun (p q : AccRec) => (⟨p.a + q.a, p.rho, satAdd (2 ^ 40 - 1) p.count q.count, p.st ||| q.st⟩ : AccRec)
  ⟨m, sum a.l0 b.l0, sum a.l1 b.l1, sum a.l2 b.l2, x.anyKeep || y.anyKeep, x.pinf || y.pinf, x.nan || y.nan,
    x.poison || y.poison, x.snan || y.snan⟩

/-- Dx of R228: the exact sum of the entries relative to 2^M. -/
def Ladder.dx (l : Ladder) (m : Int) : Rat :=
  let part := fun (k : Nat) (a : AccRec) => (a.a : Rat) * pow2 (24 * baseBlock k m - 23 - m)
  part 0 l.l0 + part 1 l.l1 + part 2 l.l2

/-! ## Records (R231) -/

/-- The 32-byte header of a ladder record: M in 17 bytes of two's complement, whether there is a reference, and the row
bits. The spec gives its size and content and not its layout (log entry 60). -/
def ladderHeader (l : Ladder) : List Byte :=
  leBytes 17 (BitVec.ofInt 136 (l.m.getD 0)).toNat ++
    leBytes 1 (bit l.m.isSome + 2 * bit l.anyKeep + 4 * bit l.pinf + 8 * bit l.nan + 16 * bit l.poison + 32 * bit l.snan) ++ leBytes 14 0

/-- A ladder record, 320 bytes. -/
def ladderBytes (l : Ladder) : List Byte := ladderHeader l ++ accBytes l.l0 ++ accBytes l.l1 ++ accBytes l.l2

/-- A ladder from its record. -/
def ladderOfBytes (bs : List Byte) : Ladder :=
  let f := bytesAt bs 17 1
  ⟨if f.testBit 0 then some (BitVec.ofNat 136 (bytesAt bs 0 17)).toInt else none,
    accOfBytes (slice bs 32 128), accOfBytes (slice bs 128 224), accOfBytes (slice bs 224 320),
    f.testBit 1, f.testBit 2, f.testBit 3, f.testBit 4, f.testBit 5⟩

/-! ## The finisher (R221, R228) -/

/-- The case of a row (R221). -/
def rowCase (masked : Bool) (l : Ladder) : RowCase :=
  if masked && decide (0 < l.l0.count) && !l.anyKeep then .fullMask
  else if l.nan then .nan
  else if l.pinf then .pinf
  else if l.m.isNone then .ninf
  else if 2 ^ 24 ≤ l.l0.count then .count
  else .normal

/-- R228: D, RD and the log-sum-exp, each with its one rounding. A row of the second case raises INVALID for a signalling NaN: that of a
fill is raised here, since a fully masked row raises no flag (Table 9-4). -/
def finishLadder (ftz base2 masked : Bool) (l : Ladder) : SmaxRes :=
  let base := fun (c : RowCase) (lse : Word32) (f : Flags) => (⟨c, l.m.getD 0, 0, lse, l.poison, f⟩ : SmaxRes)
  match rowCase masked l with
  | .fullMask => base .fullMask (inf32 true) flagNone
  | .nan => base .nan canonNan32 (flagIf l.snan flagInvalid)
  | .pinf => base .pinf (inf32 false) flagInvalid
  | .ninf => base .ninf (inf32 true) flagNone
  | .count => base .count canonNan32 flagInvalid
  | .normal =>
    let m := l.m.getD 0
    let d := rneFp32 ftz false (l.dx m)
    let dr := wordRat false d.1
    let rd := rneFp32 ftz false (1 / dr)
    let lse := logSumExp ftz base2 m dr
    ⟨.normal, m, rd.1, lse.1, l.poison, d.2 ||| rd.2 ||| lse.2⟩

/-- p of a position (R228, Table 9-4), from its argument. -/
def smaxP (ftz : Bool) (r : SmaxRes) (t : FVal) : Word32 × Flags :=
  match r.case with
  | .fullMask => (0, flagNone)
  | .ninf => (0, flagNone)
  | .normal =>
    (match t with
      | .fin n m =>
        let w := smaxTerm (finValue n m)
        if w.2 / 24 < cutOf r.m then (0, flagNone)
        else rneFp32 ftz false ((w.1 : Rat) * pow2 (max (-40000) (w.2 - 23 - r.m)) * wordRat false r.rd)
      | _ => (0, flagNone))
  | _ => (canonNan32, flagNone)

end Sys2Proof.Machine
end

