-- ==== Sys2Proof/Machine/Fused.lean ====
section
/-! DEFINITION. The fused row commands: parameter, the record that the first pass leaves of a row, the finisher's results,
the second pass, the epilogue and the outputs (R207 to R221, R228, R230). -/

namespace Sys2Proof.Machine

/-! ## The parameter (Table 9-1) -/

/-- The fused parameter. -/
structure FParam where
  op : Nat
  gamma : Bool
  beta : Bool
  stats : Bool
  masked : Bool
  maskrow : Bool
  base2 : Bool
  scaleEn : Bool
  scale : Nat
  eps : Nat
  group : Nat
  res0 : Nat
deriving DecidableEq, Repr, Inhabited

/-- The fused parameter of a descriptor. -/
def fparam (d : Desc) : FParam :=
  let p := d.param
  { op := bitsOf p 3 0, gamma := p.testBit 4, beta := p.testBit 5, stats := p.testBit 6, masked := p.testBit 7,
    maskrow := p.testBit 8, base2 := p.testBit 9, scaleEn := p.testBit 10, scale := bitsOf p 14 11, eps := bitsOf p 18 15,
    group := bitsOf p 23 19, res0 := bitsOf p 63 24 }

/-- The epilogue of stage words 4 to 7 (R209, R243), with positions. -/
def epilogueOf (d : Desc) : List (Nat × Nat) :=
  ((d.stages.drop 4).takeWhile (fun w => stageKind w != 0)).zipIdx 4

/-- DETM byte 1: fast statistics (R203). -/
def fastStats (s : State) : Bool := match s.man.active with | some m => m.fastStats | none => false

/-! ## Numbers -/

/-- A number read with its poison. -/
structure PNum where
  v : FVal
  p : Bool
deriving DecidableEq, Repr, Inhabited

/-- A lane value as a number (Table 4-4). -/
def numOf (ftz : Bool) (a : PVal × Notes) : PNum × Notes :=
  let x := asFloat ftz a.1.val
  (⟨x.1, a.1.poison⟩, a.2.join (.of x.2))

def fOne : FVal := .fin false 1
def fMul (ftz : Bool) (a b : FVal) : Word32 × Flags := fusedMulAdd ftz a b none
def fAdd (ftz : Bool) (a b : FVal) : Word32 × Flags := fusedMulAdd ftz a fOne (some b)
def fSub (ftz : Bool) (a b : FVal) : Word32 × Flags := fAdd ftz a (negF b)

/-- The scalar bank entry as a number. -/
def bankNum (ftz : Bool) (e : Entry) (i : Nat) : FVal := readFp32 ftz (bankEntry e i)

/-- The element of IN0 at a coordinate. -/
def fusedX (r : Reader) (c : Coord) : PNum × Notes :=
  numOf (numCfg r.s).ftz (elementAt r.s r.e r.d.in0 r.h c)

/-- γ, or 1.0 (R215). -/
def fusedGamma (r : Reader) (f : FParam) (c : Coord) : PNum × Notes :=
  if f.gamma then numOf (numCfg r.s).ftz (vectorAt r.s r.e r.d.in1 r.h.n0 c.i0 r.copy) else (⟨fOne, false⟩, .none)

/-- An element of the statistics tile of a row: 0 mean, 1 rstd (R208). -/
def fusedStat (r : Reader) (w : Nat) (c : Coord) : PNum × Notes :=
  numOf (numCfg r.s).ftz (elementAt r.s r.e r.d.in3 { r.h with n0 := 2 } { c with i0 := w })

/-- What R217 forms at an element: x̂, g and dy. -/
structure Grad where
  xhat : FVal
  xp : Bool
  g : FVal
  gp : Bool
  dy : FVal
  dyp : Bool
  rstd : FVal
  rp : Bool
deriving DecidableEq, Repr, Inhabited

/-- R217, recomputed bit-identically by pass 2 (R218). -/
def gradAt (r : Reader) (f : FParam) (c : Coord) : Grad × Notes :=
  let ftz := (numCfg r.s).ftz
  let x := fusedX r c
  let mean := if f.op = 3 then fusedStat r 0 c else (⟨.fin false 0, false⟩, .none)
  let rstd := fusedStat r 1 c
  let dy := numOf ftz (elementAt r.s r.e r.d.in2 r.h c)
  let ga := fusedGamma r f c
  let d : FVal × Flags := if f.op = 3 then let y := fSub ftz x.1.v mean.1.v; (readFp32 ftz y.1, y.2) else (x.1.v, flagNone)
  let xh := fMul ftz d.1 rstd.1.v
  let g : FVal × Flags := if f.gamma then let y := fMul ftz dy.1.v ga.1.v; (readFp32 ftz y.1, y.2) else (dy.1.v, flagNone)
  (⟨readFp32 ftz xh.1, x.1.p || mean.1.p || rstd.1.p, g.1, dy.1.p || ga.1.p, dy.1.v, dy.1.p, rstd.1.v, rstd.1.p⟩,
    .all [x.2, mean.2, rstd.2, dy.2, ga.2, .of (d.2 ||| xh.2 ||| g.2)])

/-- The mask bit of a position, with its poison (R220 step 2). -/
def fusedMask (r : Reader) (masked row : Bool) (c : Coord) : (Bool × Bool) × Notes :=
  if masked then
    let m := if row then vectorAt r.s r.e r.d.in1 r.h.n0 c.i0 r.copy else elementAt r.s r.e r.d.in1 r.h c
    ((nonZeroVal (numCfg r.s).ftz m.1.val, m.1.poison), m.2)
  else ((true, false), .none)

/-- The score of a position (R220). Where the mask puts the fill in place of the score, the score's poison does not count in SMAX_FWD (R107, R221:
log entry 151) and does in ATTN, whose active, non-causal positions all count (R250); and a signalling fill is noted for the row's case (R221). -/
def scoreAt (r : Reader) (masked row base2 scaleEn : Bool) (scale : Nat) (c : Coord) : Score × Notes :=
  let ftz := (numCfg r.s).ftz
  let x := fusedX r c
  let m := fusedMask r masked row c
  let z : FVal × Flags :=
    if scaleEn then let y := fMul ftz (bankNum ftz r.e scale) x.1.v; (readFp32 ftz y.1, y.2) else (x.1.v, flagNone)
  let zf := if m.1.1 then z.1 else readFp32 ftz (numCfg r.s).fill
  let t := baseTwo base2 zf
  (⟨t, m.1.1, ((m.1.1 || r.d.kind == .attn) && x.1.p) || m.1.2, !m.1.1 && isSnanF zf⟩,
    .all [x.2, m.2, .of (z.2 ||| flagIf (m.1.1 && isSnanF zf) flagInvalid)])

/-! ## The first pass -/

/-- A row of which nothing is known. -/
def RowRec.zero : RowRec := ⟨accZero, accZero, .zero, 0, 0, 0, 0, false⟩

/-- The number of a row among those of its command: 16 × row block + its place in the block. -/
def rowNo (rb : Nat) (c : Coord) : Nat := 16 * rb + c.i1 % 16

/-- A lane value that reads back as a given number; a signalling NaN stays signalling (R104). -/
def numVal (ftz : Bool) (v : FVal) : Val := if isSnanF v then .fp 0x7F800001#32 else .fp (encodeFp32 ftz v).1

/-- A contribution of a row. -/
def redEl (r : Reader) (cluster : Nat) (c : Coord) (v w : PNum) : RedEl :=
  let ftz := (numCfg r.s).ftz
  ⟨c, cluster, ⟨numVal ftz v.v, v.p⟩, ⟨numVal ftz w.v, w.p⟩, true⟩

/-- What one position gives to the first pass: x, or g with x̂, or p with dp (R203, R214, R217, R230). -/
def passOneEl (r : Reader) (f : FParam) (cluster : Nat) (c : Coord) : RedEl × Notes :=
  let zero : PNum := ⟨.fin false 0, false⟩
  match f.op with
  | 1 | 2 => let x := fusedX r c; (redEl r cluster c x.1 zero, x.2)
  | 3 | 4 => let g := gradAt r f c; (redEl r cluster c ⟨g.1.g, g.1.gp⟩ ⟨g.1.xhat, g.1.xp⟩, g.2)
  | _ =>
    let x := fusedX r c
    let y := numOf (numCfg r.s).ftz (elementAt r.s r.e r.d.in1 r.h c)
    (redEl r cluster c x.1 y.1, x.2.join y.2)

/-- The exact accumulators that a first pass uses: operation and block of each (R203, R211, R217, R230; the order of the blocks: log
entry 98). -/
def passOneOps (op : Nat) : List (Nat × Nat) :=
  match op with
  | 1 => [(10, 13), (11, 14)]
  | 2 => [(11, 14)]
  | 3 => [(10, 13), (12, 14)]
  | 4 => [(12, 14)]
  | _ => [(12, 13)]

/-- The blocks of a ladder's entries (R226). -/
def ladderAccs (cluster j : Nat) (l : Ladder) (m : Accs) : Accs :=
  ([(13, l.l0), (14, l.l1), (15, l.l2)]).foldl (fun a x => sset accZero a (accKey cluster x.1 j) x.2) m

/-- The active positions of a tile's row. -/
def activeSlice (e : Entry) (h : Shape) (row : Coord) : List Coord :=
  (sliceCoords h row).filter (fun c => decide (c.i0 < activeLen e h.n0))

/-- One tile of the first pass of SMAX_FWD: each row's slice enters its cluster's ladder (R220, R226). -/
def ladderTile (delta : Nat) (t : Tile) (e : Entry) (s : State) : Entry × State :=
  let d := e.desc
  let r := readerIn s e d.shape t.cluster
  let f := fparam d
  let x := (t.rows d.shape).foldl (fun (a : List (Nat × Ladder) × Accs × Notes × List (Coord × PVal)) row =>
    let sc := (activeSlice e d.shape row).map (fun c => (c, scoreAt r f.masked f.maskrow f.base2 f.scaleEn f.scale c))
    let key := 32 * rowNo t.rb row + t.cluster
    let l := (if t.ct < rowSpan s then Ladder.zero else sget Ladder.zero a.1 key).slice (sc.map (fun y => y.2.1))
    (sput a.1 key (some l), ladderAccs t.cluster row.i1 l a.2.1, a.2.2.1.join (.all (sc.map (fun y => y.2.2))),
      a.2.2.2 ++ sc.map (fun y => (y.1, ⟨numVal false y.2.1.t, y.2.1.poison⟩)))) (e.lads, s.arr.accs, .none, [])
  closeTile delta t.rb t.cluster t.c [] x.2.2.1 x.2.2.2 (sendRecords s d.shape t [] s.arr.accs { e with lads := x.1 }) { s with arr := { s.arr with accs := x.2.1 } }

/-- One tile of the first pass of the other operations: exact entries, cleared when the first slice of a row reaches them in the cluster
(R195), or the contributions to fast sums. -/
def statsTile (delta : Nat) (t : Tile) (e : Entry) (s : State) : Entry × State :=
  let d := e.desc
  let r := readerIn s e d.shape t.cluster
  let f := fparam d
  let rows := t.rows d.shape
  let xs := (rows.flatMap (activeSlice e d.shape)).map (passOneEl r f t.cluster)
  let els := xs.map (·.1)
  let notes := Notes.all (xs.map (·.2))
  let sent := els.flatMap (fun x => (x.c, x.v) :: (if (passOneOps f.op).any (fun o => o.1 == 12) then [(x.c, x.st)] else []))
  if fastStats s && decide (f.op ≤ 4) then
    closeTile delta t.rb t.cluster t.c [] notes sent { e with reds := e.reds ++ els.map (fun x => (0, x)) } s
  else
    let acc := (passOneOps f.op).foldl (fun (a : Accs × Flags) o =>
      intakeEls (numCfg s).ftz o.1 o.2 els
        (if t.ct < rowSpan s then clearEntries t.cluster o.2 rows a.1 else a.1, a.2)) (s.arr.accs, flagNone)
    closeTile delta t.rb t.cluster t.c [] (notes.join (.of acc.2)) sent
      (sendRecords s d.shape t ((passOneOps f.op).map (·.2)) acc.1 e) { s with arr := { s.arr with accs := acc.1 } }

/-- One tile of the first pass. -/
def passOneTile (delta : Nat) (t : Tile) (e : Entry) (s : State) : Entry × State :=
  if (fparam e.desc).op = 5 then ladderTile delta t e s else statsTile delta t e s

/-- The fast sums of a row from its contributions, with flags (R203, R217). NORM_FWD shifts by the row's first active element; the count
is that of the active positions. -/
def fastRec (s : State) (op : Nat) (xs : List RedEl) : RowRec × Flags :=
  let ftz := (numCfg s).ftz
  let num := fun (v : Val) => (asFloat ftz v).1
  let sorted := sortByKey (fun (x : RedEl) => x.c.i0) xs
  match op with
  | 1 =>
    let c0 : FVal × Bool := match sorted.head? with
      | some x => (match num x.v.val with | .fin n m => (.fin n m, x.v.poison) | _ => (.fin false 0, false))
      | none => (.fin false 0, false)
    let ys := sorted.map (fun x => (x, fSub ftz (num x.v.val) c0.1))
    let sh := ys.map (fun y => { y.1 with v := ⟨.fp y.2.1, y.1.v.poison⟩ })
    let a := rowSumRes ftz false (gReduce s) sh
    let b := rowSumRes ftz true (gReduce s) sh
    let w := fun (v : Val) => match v with | .fp u => u | _ => 0#32
    ({ RowRec.zero with s1 := w a.val, s2 := w b.val, shift := (encodeFp32 ftz c0.1).1, n := xs.length,
                        poison := a.poison || b.poison || c0.2 },
      flagsAll (ys.map (·.2.2)) ||| a.flags ||| b.flags)
  | 2 =>
    let b := rowSum ftz true (gReduce s) xs
    ({ RowRec.zero with s2 := b.1.getD 0#32, n := xs.length, poison := b.2.1 }, b.2.2)
  | _ =>
    let a := if op = 3 then rowSum ftz false (gReduce s) xs else (none, false, flagNone)
    let ps := sorted.map (fun x => (x, fMul ftz (num x.v.val) (num x.st.val)))
    let b := rowSum ftz false (gReduce s) (ps.map (fun y => { y.1 with v := ⟨.fp y.2.1, y.1.v.poison || y.1.st.poison⟩ }))
    ({ RowRec.zero with s1 := a.1.getD 0#32, s2 := b.1.getD 0#32, n := xs.length, poison := a.2.1 || b.2.1 },
      a.2.2 ||| flagsAll (ps.map (·.2.2)) ||| b.2.2)

/-- The record of a row at its home once its block's first pass is over (R197, R202, R213, R227): the merged entries or ladder, which the
home's entries then hold, or the fast sums. -/
def rowRecord (s : State) (e : Entry) (rb : Nat) (row : Coord) (m : Accs) : RowRec × Accs × Flags :=
  let d := e.desc
  let op := (fparam d).op
  let home := homeOf (rowSpan s) rb
  let cs := blockClusters d.shape (some (rowSpan s)) rb
  let n := activeLen e d.n0
  if op = 5 then
    let l := (cs.map (fun c => sget Ladder.zero e.lads (32 * rowNo rb row + c))).foldl Ladder.merge .zero
    ({ RowRec.zero with lad := l, n := n }, if sget rb e.rowIn home = rb then ladderAccs home row.i1 l m else m, flagNone)
  else if fastStats s && decide (op ≤ 4) then
    let x := fastRec s op ((e.reds.filter (fun y => sameRow y.2.c row)).map (·.2))
    (x.1, m, x.2)
  else
    let x := (passOneOps op).foldl (fun (a : List (Nat × AccRec) × Accs) o =>
      let y := mergeRow e home o.2 rb cs row a.2
      (a.1 ++ [(o.2, y.1)], y.2)) ([], m)
    ({ RowRec.zero with e1 := sget accZero x.1 13, e2 := sget accZero x.1 14, n := n }, x.2, flagNone)

/-- A row block's first pass is over: the records of its rows. -/
def formRows (rb : Nat) (e : Entry) (s : State) : Entry × State :=
  let rows := e.desc.shape.blockRows rb
  let x := rows.foldl (fun (a : List (Nat × RowRec) × Accs × Flags) c =>
    let y := rowRecord s e rb c a.2.1
    (sput a.1 (rowNo rb c) (some y.1), y.2.1, a.2.2 ||| y.2.2)) (e.recs, s.arr.accs, flagNone)
  (addNotes (.of x.2.2) { dropSent rb e with
      recs := x.1, reds := e.reds.filter (fun y => !(rows.any (sameRow y.2.c)))
      lads := e.lads.filter (fun y => y.1 / 512 != rb) },
    { s with arr := { s.arr with accs := x.2.1 } })

/-- The towline record of a row (R231): two raw records, or the ladder record. -/
def rowRecBytes (op : Nat) (x : RowRec) : List Byte :=
  if op = 5 then ladderBytes x.lad else accBytes x.e1 ++ accBytes x.e2

/-- Bytes of a row's record. -/
def rowRecSize (op : Nat) : Nat := if op = 5 then 320 else 192

/-- A row record from a final towline record. -/
def rowRecOf (op : Nat) (bs : List Byte) : RowRec :=
  if op = 5 then { RowRec.zero with lad := ladderOfBytes bs }
  else { RowRec.zero with e1 := accOfBytes (bs.take 96), e2 := accOfBytes (bs.drop 96) }

/-! ## The finisher -/

/-- An entry's sum over a count, rounded once (R217, R230). -/
def accOver (ftz : Bool) (a : AccRec) (n : Nat) : Word32 × Flags :=
  let v := accRead a
  match v.1 with
  | .fin neg m => if n = 0 then (0#32, v.2) else let y := rneFp32 ftz neg (m / n); (y.1, v.2 ||| y.2)
  | w => let y := encodeFp32 ftz w; (y.1, v.2 ||| y.2)

/-- The finisher on a row's record. `ε` is the EPS entry, −0 standing for +0. -/
def finishRow (s : State) (e : Entry) (x : RowRec) : RowStat :=
  let ftz := (numCfg s).ftz
  let f := fparam e.desc
  let eps := wordRat ftz (bankEntry e f.eps)
  let fast := fastStats s
  let norm := fun (y : FinRes) => (⟨y.mean, y.rstd, default, y.poison, y.flags, y.clamped⟩ : RowStat)
  match f.op with
  | 1 => norm (if fast then finishFast ftz x.s1 x.s2 x.shift x.n eps x.poison else finishExact ftz x.e1 x.e2 eps)
  | 2 => norm (if fast then finishRmsFast ftz x.s2 x.n eps x.poison else finishRmsExact ftz x.e2 eps)
  | 3 | 4 =>
    let a := if f.op = 4 then (0#32, flagNone) else if fast then divCount ftz x.s1 (max 1 x.n) else accOver ftz x.e1 x.e2.count
    let b := if fast then divCount ftz x.s2 (max 1 x.n) else accOver ftz x.e2 x.e2.count
    ⟨a.1, b.1, default, x.poison || accHas x.e1 accPoison || accHas x.e2 accPoison, a.2 ||| b.2, false⟩
  | 5 =>
    let y := finishLadder ftz f.base2 f.masked x.lad
    ⟨0, 0, y, y.poison, y.flags, false⟩
  | _ =>
    let y := accOver ftz x.e1 1
    ⟨y.1, 0, default, accHas x.e1 accPoison, y.2, false⟩

/-! ## The second pass -/

/-- One element of the second pass: its value, poison and notes (R215, R218, R228, R230). -/
def passTwo (r : Reader) (f : FParam) (t : RowStat) (c : Coord) : PVal × Notes :=
  let ftz := (numCfg r.s).ftz
  let a := readFp32 ftz t.a
  let b := readFp32 ftz t.b
  match f.op with
  | 1 | 2 =>
    let x := fusedX r c
    let d : FVal × Flags := if f.op = 1 then let y := fSub ftz x.1.v a; (readFp32 ftz y.1, y.2) else (x.1.v, flagNone)
    let u := fMul ftz d.1 b
    let ga := fusedGamma r f c
    let be : PNum × Notes :=
      if f.beta then numOf ftz (vectorAt r.s r.e r.d.in2 r.h.n0 c.i0 r.copy) else (⟨.fin false 0, false⟩, .none)
    let y := fusedMulAdd ftz (readFp32 ftz u.1) ga.1.v (if f.beta then some be.1.v else none)
    (⟨.fp y.1, t.poison || x.1.p || ga.1.p || be.1.p⟩, .all [x.2, ga.2, be.2, .of (d.2 ||| u.2 ||| y.2)])
  | 3 | 4 =>
    let g := gradAt r f c
    let t1 : FVal × Flags := if f.op = 3 then let y := fSub ftz g.1.g a; (readFp32 ftz y.1, y.2) else (g.1.g, flagNone)
    let t2 := fusedMulAdd ftz (negF g.1.xhat) b (some t1.1)
    let dx := fMul ftz (readFp32 ftz t2.1) g.1.rstd
    (⟨.fp dx.1, t.poison || g.1.xp || g.1.gp || g.1.rp⟩, g.2.join (.of (t1.2 ||| t2.2 ||| dx.2)))
  | 5 =>
    let z := scoreAt r f.masked f.maskrow f.base2 f.scaleEn f.scale c
    let p := smaxP ftz t.sm z.1.t
    (⟨.fp p.1, t.poison⟩, z.2.join (.of p.2))
  | _ =>
    let x := fusedX r c
    let y := numOf ftz (elementAt r.s r.e r.d.in1 r.h c)
    let u := fSub ftz y.1.v a
    let g := fMul ftz x.1.v (readFp32 ftz u.1)
    let dx := if f.scaleEn then fMul ftz (readFp32 ftz g.1) (bankNum ftz r.e f.scale) else (g.1, flagNone)
    (⟨.fp dx.1, t.poison || x.1.p || y.1.p⟩, .all [x.2, y.2, .of (u.2 ||| g.2 ||| dx.2)])

/-- An epilogue on one slice (R209, R243). -/
def runEpilogue (r : Reader) (cluster : Nat) (words : List (Nat × Nat)) (sl : List Lane) : List Lane × Notes :=
  words.foldl (fun acc w => let y := laneStage r cluster w.2 w.1 acc.1; (y.1, acc.2.join y.2)) (sl, .none)

/-- One slice of the second pass, through the epilogue, as it is stored (R209, R131). -/
def passTwoSlice (r : Reader) (f : FParam) (t : RowStat) (cluster : Nat) (row : Coord) : OutSlice × Notes :=
  let lim := activeLen r.e r.h.n0
  let ls := mapNotes (fun (i : Nat) =>
      let c := { row with i0 := row.i0 + i }
      if c.i0 < lim then
        let y := passTwo r f t c
        let x := elementAt r.s r.e r.d.in0 r.h c
        ((⟨true, c, y.1, x.1, true, false⟩ : Lane), y.2)
      else (Lane.idle c, Notes.none)) (List.range 64)
  let z := runEpilogue r cluster (epilogueOf r.d) ls.1
  (⟨row, cluster, 0, (sliceCoords r.h row).map (fun c => match laneAt z.1 c with | some l => .of l.v | none => .zero)⟩,
    ls.2.join z.2)

/-- A slice of poisoned elements (R335). -/
def voidSlice (cluster : Nat) (row : Coord) (n : Nat) : OutSlice :=
  ⟨row, cluster, 0, List.replicate n { OutVal.of ⟨plusZero, true⟩ with val := some plusZero }⟩

/-! ## Outputs -/

/-- Whether a row block of a grouped command is voided (R335). -/
def voided (e : Entry) (rb : Nat) : Bool := e.tow.any (fun t => t.rowBlock == rb && t.isVoid)

/-- What the finisher delivered for a row; none where its block is voided. -/
def rowStatOf (e : Entry) (rb : Nat) (c : Coord) : Option RowStat :=
  if voided e rb then none else (e.outs.find? (fun x => x.1 == rowNo rb c)).map (·.2)

/-- The record from which the finisher forms a row: the engine's own, or under a GROUP that of the final record (R213, R231). -/
def rowRecNow (e : Entry) (rb : Nat) (c : Coord) : RowRec :=
  let op := (fparam e.desc).op
  let j := c.i1 % 16
  match (e.tow.find? (fun t => t.rowBlock == rb)).bind (·.final) with
  | some bs => rowRecOf op (slice bs (j * rowRecSize op) ((j + 1) * rowRecSize op))
  | none => sget .zero e.recs (rowNo rb c)

/-- OUT1 of a row of a forward command or of SMAX_FWD (R208). -/
def statSlice (s : State) (f : FParam) (rb : Nat) (x : Coord × Option RowStat) : OutSlice :=
  let home := homeOf (rowSpan s) rb
  match x.2 with
  | none => voidSlice home x.1 (if f.op = 5 then 1 else 2)
  | some t =>
    if f.op = 5 then ⟨x.1, home, 0, [.of ⟨.fp t.sm.lse, t.poison⟩]⟩
    else ⟨x.1, home, 0, [.of ⟨.fp t.a, t.poison⟩, .of ⟨.fp t.b, t.poison⟩]⟩

/-- One column partial (R219): the exact sum over the rows of a block, rounded once. -/
def columnPartial (r : Reader) (f : FParam) (rows : List Coord) (withX : Bool) (i0 : Nat) : OutVal × Notes :=
  let ftz := (numCfg r.s).ftz
  let ys := rows.map (fun c => gradAt r f { c with i0 := i0 })
  let ps := ys.map (fun y => if withX then exactMul y.1.dy y.1.xhat else (y.1.dy, flagNone))
  let g := groupSum ftz (ps.map (·.1))
  (.of ⟨.fp g.1, ys.any (fun y => y.1.dyp || (withX && y.1.xp))⟩,
    (Notes.all (ys.map (·.2))).join (.of (flagsAll (ps.map (·.2)) ||| g.2)))

/-- The column partials of a tile: OUT1 rows 0 and 1 of its row block (R219). RMS_BWD writes +0 in row 1, and a voided
block is poisoned. -/
def partialSlices (r : Reader) (f : FParam) (t : Tile) (voided : Bool) : List (OutSlice × Notes) :=
  let lim := activeLen r.e r.h.n0
  let rows := r.h.blockRows t.rb
  let cols := (List.range (min 64 (r.h.n0 - t.c.i0))).map (· + t.c.i0)
  [0, 1].map (fun w =>
    let at' : Coord := ⟨0, t.rb, w, t.c.i0⟩
    if voided then (voidSlice t.cluster at' cols.length, Notes.none)
    else
      let ys := mapNotes (fun i =>
        if lim ≤ i ∨ (w = 1 ∧ f.op = 4) then (OutVal.zero, Notes.none) else columnPartial r f rows (w == 0) i) cols
      (⟨at', t.cluster, 0, ys.1⟩, ys.2))

/-- What a tile of the second pass writes (R212, R218, R219): OUT0, and the column partials of a backward command. -/
def passTwoEmits (t : Tile) (e : Entry) (s : State) : List Emit × Notes :=
  let d := e.desc
  let r := readerIn s e d.shape t.cluster
  let f := fparam d
  let ys := (t.rows d.shape).map (fun row => match rowStatOf e t.rb row with
    | some st => passTwoSlice r f st t.cluster row
    | none => (voidSlice t.cluster row (min 64 (d.n0 - t.c.i0)), Notes.none))
  let side := if f.stats && (f.op == 3 || f.op == 4) then partialSlices r f t (voided e t.rb) else []
  let ms : List Emit := ⟨4, d.shape, ys.map (·.1)⟩ :: (if side.isEmpty then [] else [⟨5, outShape d 1, side.map (·.1)⟩])
  (ms, .all (ys.map (·.2) ++ side.map (·.2)))

/-- One tile of the second pass. -/
def passTwoTile (delta : Nat) (t : Tile) (e : Entry) (s : State) : Entry × State :=
  closeTile delta t.rb t.cluster t.c (passTwoEmits t e s).1 (passTwoEmits t e s).2 [] e s

/-- OUT1 of the rows of a block: of a forward command or of SMAX_FWD, with STATS (R208). -/
def statEmits (rb : Nat) (e : Entry) (s : State) : List Emit :=
  let d := e.desc
  let f := fparam d
  if !f.stats || f.op == 3 || f.op == 4 || f.op == 6 then []
  else [⟨5, outShape d 1, (d.shape.blockRows rb).map (fun c => statSlice s f rb (c, rowStatOf e rb c))⟩]

/-- The rows of a block have all been delivered, or passed as voided: OUT1, once. -/
def emitStats (delta rb : Nat) (e : Entry) (s : State) : Entry × State :=
  if e.emitted.contains rb then (e, s)
  else emitLate rb delta (statEmits rb e s) flagNone { e with emitted := e.emitted ++ [rb] } s

/-! ## Rows through the finisher -/

/-- The place of a row in Table 19-7: i1, i2 and i3. -/
def rowPlace (c : Coord) : Nat := c.i1 % 2 ^ 24 + c.i2 % 2 ^ 12 * 2 ^ 24 + c.i3 % 2 ^ 12 * 2 ^ 36

/-- Count a row in an event's number and keep the first in logical order (R205, R222). -/
def countRow (count at' : Nat) (c : Coord) : Nat × Nat :=
  (satInc 0xFFFF count, if count = 0 then rowPlace c else min at' (rowPlace c))

/-- What a delivered row adds to what its command reports: flags, clamped rows, fully masked rows. -/
def noteRow (c : Coord) (flags : Flags) (clamped full : Bool) (e : Entry) : Entry :=
  let v := if clamped then countRow e.res.vneg e.res.vnegAt c else (e.res.vneg, e.res.vnegAt)
  let m := if full then countRow e.res.masked e.res.maskedAt c else (e.res.masked, e.res.maskedAt)
  { e with res := { e.res with flags := e.res.flags ||| flags, vneg := v.1, vnegAt := v.2, masked := m.1, maskedAt := m.2 } }

/-- A fused command's row delivered by the finisher. -/
def deliverFused (s : State) (rb : Nat) (c : Coord) (e : Entry) : Entry :=
  let t := finishRow s e (rowRecNow e rb c)
  noteRow c t.flags t.clamped (decide (t.sm.case = .fullMask) && decide ((fparam e.desc).op = 5))
    { e with outs := sput e.outs (rowNo rb c) (some t), recs := sput e.recs (rowNo rb c) none }

/-! ## The order of the passes (R213) -/

/-- One item of a cluster's sequence: second pass or not, and its tile. -/
structure PassItem where
  second : Bool
  tile : Tile
deriving DecidableEq, Repr, Inhabited

/-- The sequence of a cluster that holds row blocks with the given tiles. -/
def passSequence (blocks : List (List Tile)) : List PassItem :=
  (List.range (blocks.length + 1)).flatMap (fun i =>
    (blocks.getD i []).map (fun t => (⟨false, t⟩ : PassItem)) ++
      (if i = 0 then [] else (blocks.getD (i - 1) []).map (fun t => (⟨true, t⟩ : PassItem))))

/-- The items of a cluster in order, and at full redundancy of a pair (R357). -/
def fusedItems (s : State) (d : Desc) (cluster : Nat) : List PassItem :=
  let ts := (d.shape.tileList (some (rowSpan s))).filter (fun t => writerOf s t.cluster == cluster)
  passSequence (groupRuns (·.rb) ts)

end Sys2Proof.Machine
end

