-- ==== Sys2Proof/Machine/Mac.lean ====
section
/-! DEFINITION. The MAC array: products, MATMUL, LOAD, STORE and their slipways and holds, and the attention epilogue
(R232 to R252). -/

namespace Sys2Proof.Machine

/-! ## The parameter (Table 10-2) -/

/-- The MAC parameter. -/
structure MParam where
  op : Nat
  drain : Bool
  init : Bool
  masked : Bool
  causal : Bool
  base2 : Bool
  scaleEn : Bool
  scale : Nat
  offset : Nat
  group : Nat
  stats : Bool
  res0 : Nat
deriving DecidableEq, Repr, Inhabited

/-- The MAC parameter of a descriptor. -/
def mparam (d : Desc) : MParam :=
  let p := d.param
  { op := bitsOf p 3 0, drain := p.testBit 4, init := p.testBit 5, masked := p.testBit 6, causal := p.testBit 7,
    base2 := p.testBit 8, scaleEn := p.testBit 9, scale := bitsOf p 13 10, offset := bitsOf p 17 14,
    group := bitsOf p 22 18, stats := p.testBit 23, res0 := bitsOf p 63 24 }

/-- The shape of IN1 of a MATMUL (R238). -/
def Desc.shapeB (d : Desc) : Shape := ⟨d.n0, d.nx, d.n2, d.n3⟩

/-- The shape of a MATMUL's output (R238). -/
def Desc.shapeC (d : Desc) : Shape := ⟨d.nx, d.n1, d.n2, d.n3⟩

/-- The shape of the values of an ATTN (R238). -/
def Desc.shapeV (d : Desc) : Shape := ⟨d.nx, d.n0, d.n2, d.n3⟩

/-- The shape of LOAD's input and of STORE's output (R242). -/
def slipShape : Shape := ⟨64 * Config.clusters, 16, 1, 1⟩

/-! ## Products (R234, R235) -/

/-- A number times a power of two. -/
def scaleF (x : Int) : FVal → FVal
  | .fin n m => .fin n (m * pow2 x)
  | v => v

/-- A product operand, exactly: an MX element times its block's scale (R234). -/
def productOperand (s : State) (e : Entry) (x : Slot) (h : Shape) (c : Coord) : PNum × Notes :=
  let a := rawElement s e x (.elem h) (elemOffset x h x.stride0 c) 0
  let v : FVal × Flags := match fmtOfCode x.fmt with
    | none => (.fin false 0, flagNone)
    | some f =>
      if codeIsMx x.fmt then
        (if a.1.scale = 0xFF then (.nan false, flagNone)
         else (scaleF ((a.1.scale : Int) - 127) (mxElementValue f a.1.bits), flagNone))
      else asFloat (numCfg s).ftz (readElement (numCfg s).ftz f a.1.bits)
  (⟨v.1, a.1.poison⟩, a.2.join (.of v.2))

/-- A group sum: the exact sum of the products, rounded once to FP32 (R235). -/
def groupProduct (ftz : Bool) (xs : List (FVal × FVal)) : Word32 × Flags :=
  let ps := xs.map (fun x => exactMul x.1 x.2)
  let g := groupSum ftz (ps.map (·.1))
  (g.1, flagsAll (ps.map (·.2)) ||| g.2)

/-- Accumulate group sums onto a value that may be absent (R235). -/
def accumulate (ftz : Bool) (o : Option Word32) (gs : List Word32) : Option Word32 × Flags :=
  gs.foldl (fun acc g => match acc.1 with
    | none => (some g, acc.2)
    | some y => let r := fAdd ftz (readFp32 ftz y) (readFp32 ftz g); (some r.1, acc.2 ||| r.2)) (o, flagNone)

/-- One output element (R235): its initial value with poison, and the contributing operands in ascending k. -/
def cellValue (ftz : Bool) (g : Nat) (init : Option (Word32 × Bool)) (a b : List PNum) : (Word32 × Bool) × Flags :=
  let ks := a.zip b
  let gs := (chunksFrom g (ks.length + 1) g ks).map (fun x => groupProduct ftz (x.map (fun k => (k.1.v, k.2.v))))
  let o := accumulate ftz (init.map (·.1)) (gs.map (·.1))
  let p := (match init with | some i => i.2 | none => false) || ks.any (fun k => k.1.p || k.2.p)
  ((o.1.getD 0#32, p), flagsAll (gs.map (·.2)) ||| o.2)

/-! ## Slipways (R240, R241) -/

/-- A cell of a slipway tile; nothing written holds +0. -/
def slipCell (t : SlipTile) (i : Nat) : Word32 × Bool := t.getD i (0, false)

/-- The key of a slipway of a cluster: 0 A, 1 B. -/
def slipKey (cluster which : Nat) : Nat := 2 * cluster + which

/-- A tile of +0 is not listed. -/
def slipNorm (t : SlipTile) : SlipTile := if t.all (fun x => x.1 == 0#32 && !x.2) then [] else t

/-- Write cells of a slipway; the others keep their values. -/
def slipWrite (cells : List (Nat × (Word32 × Bool))) (t : SlipTile) : SlipTile :=
  slipNorm ((List.range 1024).map (fun i => match cells.find? (fun x => x.1 == i) with | some x => x.2 | none => slipCell t i))

/-- Which slipway the `n`-th tile of a cluster uses (R240). -/
def slipOf (sel n : Nat) : Nat := if sel = 2 then n % 2 else sel % 2

def holdOf (s : State) (which : Nat) : Option Nat := if which = 0 then s.arr.holdA else s.arr.holdB

/-- Set the hold of a slipway. -/
def setHold (which : Nat) (h : Option Nat) (s : State) : State :=
  if which = 0 then { s with arr := { s.arr with holdA := h } } else { s with arr := { s.arr with holdB := h } }

/-- A hold of the berth ends (R241). -/
def endHold (berth which : Nat) (s : State) : State := if holdOf s which = some berth then setHold which none s else s

/-- Drain one row of a slipway tile through the epilogue (R243): 64 lanes at the output's coordinates. -/
def drainRow (r : Reader) (cluster : Nat) (row : Coord) (t : SlipTile) : OutSlice × Notes :=
  let ls := (List.range 64).map (fun i =>
    let c := { row with i0 := row.i0 + i }
    let x := slipCell t (64 * (row.i1 % 16) + i)
    if c.i0 < r.h.n0 then (⟨true, c, ⟨.fp x.1, x.2⟩, ⟨plusZero, false⟩, true, false⟩ : Lane) else Lane.idle c)
  let z := runEpilogue r cluster (epilogueOf r.d) ls
  (⟨row, cluster, 0, (sliceCoords r.h row).map (fun c => match laneAt z.1 c with | some l => .of l.v | none => .zero)⟩, z.2)

/-- A slipway tile drained into OUT0 (R243). -/
def drainEmits (t : Tile) (tile : SlipTile) (h : Shape) (e : Entry) (s : State) : List Emit × Notes :=
  let outs := (t.rows h).map (fun c => drainRow (readerIn s e h t.cluster) t.cluster c tile)
  ([⟨4, h, outs.map (·.1)⟩], .all (outs.map (·.2)))

/-! ## MATMUL (R235 to R241) -/

/-- The number of contributing k of a MATMUL, and of keys of an ATTN (R235, R246). -/
def contributing (e : Entry) (d : Desc) : Nat := min e.vlen d.n0

/-- A value converted to FP32 (Table 4-4). What the format's reader flushes is zero already, and the decoded value of an MX element is not
flushed (R94). -/
def toFp32 (a : PVal × Notes) : (Word32 × Bool) × Notes :=
  let x := numOf false a
  let w := encodeFp32 false x.1.v
  ((w.1, x.1.p), x.2.join (.of w.2))

/-- The initial value of a cell (R240). -/
def initialCell (s : State) (e : Entry) (d : Desc) (old : SlipTile) (c : Coord) : Option (Word32 × Bool) × Notes :=
  if !d.acc then (none, .none)
  else if (mparam d).init then let x := toFp32 (elementAt s e d.in2 d.shapeC c); (some x.1, x.2)
  else (some (slipCell old (64 * (c.i1 % 16) + c.i0 % 64)), .none)

/-- The cells of one tile of a MATMUL by place in the slipway, and what forming them notes. `old` is what the slipway held. -/
def matmulCells (s : State) (e : Entry) (t : Tile) (old : SlipTile) : List (Nat × (Word32 × Bool)) × Notes :=
  let d := e.desc
  let ks := List.range (contributing e d)
  let rows := t.rows d.shapeC
  let cols := (List.range (min 64 (d.nx - t.c.i0))).map (· + t.c.i0)
  let as := rows.map (fun c => mapNotes (fun k => productOperand s e d.in0 d.shape { c with i0 := k }) ks)
  let bs := cols.map (fun j => mapNotes (fun k => productOperand s e d.in1 d.shapeB { t.c with i1 := j, i0 := k }) ks)
  let cells := (rows.zip as).flatMap (fun x => (cols.zip bs).map (fun y =>
    let c := { x.1 with i0 := y.1 }
    let i := initialCell s e d old c
    let v := cellValue (numCfg s).ftz (gMac s) i.1 x.2.1 y.2.1
    ((64 * (c.i1 % 16) + c.i0 % 64, v.1), i.2.join (.of v.2))))
  (cells.map (·.1), .all (as.map (·.2) ++ bs.map (·.2) ++ cells.map (·.2)))

/-- Put a slipway tile in its place. -/
def setSlip (key : Nat) (t : SlipTile) (s : State) : State := { s with arr := { s.arr with slips := sset [] s.arr.slips key t } }

/-- One tile of a MATMUL (R235, R243). `nth` counts the tiles of its cluster. -/
def matmulTile (delta : Nat) (t : Tile) (nth : Nat) (e : Entry) (s : State) : Entry × State :=
  let d := e.desc
  let key := slipKey t.cluster (slipOf d.slip nth)
  let old := sget [] s.arr.slips key
  let x := matmulCells s e t old
  let tile := slipWrite x.1 old
  let outs := if (mparam d).drain then drainEmits t tile d.shapeC e s else ([], .none)
  closeTile delta t.rb t.cluster t.c outs.1 (x.2.join outs.2) [] e (setSlip key tile s)

/-- The tiles of a MATMUL, each with its place in its cluster's sequence (R239). -/
def matmulTiles (d : Desc) : List (Tile × Nat) :=
  (d.shapeC.tileList none).map (fun t => (t, t.t / Config.clusters))

/-- Whether a slipway is selected by a command, alone or by alternation (R240). -/
def selects (d : Desc) (which : Nat) : Bool := d.slip == 2 || d.slip == which

/-- Whether a tile of a MATMUL goes to a slipway (R240). -/
def usesSlipway (d : Desc) (which : Nat) : Bool :=
  (matmulTiles d).any (fun t => d.slip == which || (d.slip == 2 && t.2 % 2 == which))

/-- The holds after a MATMUL (R241): one without tiles drains and leaves nothing. -/
def matmulHolds (e : Entry) (d : Desc) (s : State) : State :=
  [0, 1].foldl (fun t w => if !usesSlipway d w then t else if (mparam d).drain then endHold e.berth w t
    else setHold w (some e.berth) t) s

/-! ## LOAD and STORE (R242) -/

/-- The tile of a LOAD or STORE in a cluster. -/
def slipTileOf (cluster : Nat) : Tile := ⟨0, cluster, cluster, ⟨0, 0, 0, 64 * cluster⟩, cluster⟩

/-- The part of a LOAD in a cluster: column tile `l` of IN0 into the selected slipway. -/
def loadCluster (delta l : Nat) (e : Entry) (s : State) : Entry × State :=
  let d := e.desc
  let cells := mapNotes (fun i => toFp32 (elementAt s e d.in0 slipShape ⟨0, 0, i / 64, 64 * l + i % 64⟩)) (List.range 1024)
  closeTile delta 0 l (slipTileOf l).c [] cells.2 [] e (setSlip (slipKey l (slipOf d.slip 0)) (slipNorm cells.1) s)

/-- The part of a STORE in a cluster: the selected slipway into column tile `l` of OUT0, through the drain. -/
def storeCluster (delta l : Nat) (e : Entry) (s : State) : Entry × State :=
  let d := e.desc
  let outs := drainEmits (slipTileOf l) (sget [] s.arr.slips (slipKey l (slipOf d.slip 0))) slipShape e s
  closeTile delta 0 l (slipTileOf l).c outs.1 outs.2 [] e s

/-- The holds that a MAC command leaves when it has issued its last tile (R241). -/
def macHolds (e : Entry) (s : State) : State :=
  let d := e.desc
  match d.kind with
  | .matmul => matmulHolds e d s
  | .load => setHold (slipOf d.slip 0) (some e.berth) s
  | .store => endHold e.berth (slipOf d.slip 0) s
  | _ => s

/-! ## ATTN (R245 to R250) -/

/-- A row before its first key tile. -/
def AttnRow.start (dv : Nat) : AttnRow := ⟨.zero, List.replicate dv (none, false)⟩

/-- OFFSET, read as INT32; 0 when CAUSAL is clear. -/
def causalOffset (e : Entry) (f : MParam) : Int := if f.causal then (bankEntry e f.offset).toInt else 0

/-- Whether a key is causal for a query row (R246). -/
def causalKey (e : Entry) (f : MParam) (key : Nat) (row : Coord) : Bool :=
  f.causal && decide ((row.i1 : Int) < key + causalOffset e f)

/-- p̃ in the P format (R247): FP16 when V is FP16, otherwise BF16. No flag. -/
def pTilde (s : State) (vfmt : Nat) (m : Int) (q : Rat) : FVal :=
  let w := smaxTerm q
  let f : Fmt := if vfmt = 2 then .fp16 else .bf16
  match fmtLayout f with
  | none => .fin false 0
  | some l =>
    let b := roundFinite l (flushFor (numCfg s).ftz f) .rne 0 false ((w.1 : Rat) * pow2 (max (-40000) (w.2 - 23 - m)))
    decodeFloat l b.1

/-- A rescale distance as a factor; beyond 40,000 binades every rounding is the same. -/
def rescale (delta : Int) : FVal := .fin false (pow2 (-(min 40000 delta)))

/-- One output column of a row over one key tile (R248): its value and poison, the groups' (p̃, v) pairs, and Δ. -/
def attnColumn (ftz : Bool) (delta : Int) (gs : List (List (FVal × PNum))) (o : Option Word32 × Bool) :
    (Option Word32 × Bool) × Flags :=
  let sums := gs.map (fun g => groupProduct ftz (g.map (fun x => (x.1, x.2.v))))
  let r : Option Word32 × Bool × Flags := sums.foldl (fun acc g => match acc.1, acc.2.1 with
      | none, _ => (some g.1, false, acc.2.2 ||| g.2)
      | some y, true =>
        let z := fusedMulAdd ftz (readFp32 ftz y) (rescale delta) (some (readFp32 ftz g.1))
        (some z.1, false, acc.2.2 ||| g.2 ||| z.2)
      | some y, false =>
        let z := fAdd ftz (readFp32 ftz y) (readFp32 ftz g.1)
        (some z.1, false, acc.2.2 ||| g.2 ||| z.2)) (o.1, true, flagNone)
  let v := match r.1, r.2.1 && decide (0 < delta) with
    | some y, true => some (fMul ftz (readFp32 ftz y) (rescale delta)).1
    | y, _ => y
  ((v, o.2 || gs.any (fun g => g.any (fun x => x.2.p))), r.2.2)

/-- One key tile of one row (R246 to R248): the row, the scores it took, and what reading notes. -/
def attnTile (r : Reader) (f : MParam) (row : Coord) (kt : Nat) (a : AttnRow) : AttnRow × List (Coord × PVal) × Notes :=
  let s := r.s
  let e := r.e
  let d := r.d
  let ftz := (numCfg s).ftz
  let hi := min (64 * kt + 64) (contributing e d)
  let keys := ((List.range (hi - 64 * kt)).map (· + 64 * kt)).filter (fun k => !causalKey e f k row)
  let sc := keys.map (fun k => (k, scoreAt r f.masked false f.base2 f.scaleEn f.scale { row with i0 := k }))
  let lad := a.lad.slice (sc.map (fun x => x.2.1))
  let delta : Int := match a.lad.m, lad.m with | some x, some y => y - x | _, _ => 0
  let ps := sc.filterMap (fun x => match x.2.1.k, x.2.1.fin? with
    | true, some q => some (x.1, pTilde s d.in2.fmt (lad.m.getD 0) q)
    | _, _ => none)
  let groups := groupRuns (fun (x : Nat × FVal) => (x.1 - 64 * kt) / gMac s) ps
  let cols := mapNotes (fun (x : (Option Word32 × Bool) × Nat) =>
    let vs := groups.map (fun g => mapNotes (fun (y : Nat × FVal) =>
      let v := numOf ftz (elementAt s e d.in2 d.shapeV { row with i1 := y.1, i0 := x.2 })
      ((y.2, v.1), v.2)) g)
    let c := attnColumn ftz delta (vs.map (·.1)) x.1
    (c.1, (Notes.all (vs.map (·.2))).join (.of c.2))) a.o.zipIdx
  (⟨lad, cols.1⟩, sc.map (fun x => ({ row with i0 := x.1 }, ⟨numVal false x.2.1.t, x.2.1.poison⟩)),
    .all [.all (sc.map (fun x => x.2.2)), cols.2])

/-- The rows of a row block as they stand. -/
def attnBlock (e : Entry) (rb : Nat) : List (Coord × AttnRow) :=
  (e.desc.shape.blockRows rb).map (fun c => (c, sget (AttnRow.start e.desc.nx) e.rows (rowNo rb c)))

/-- The slipways that a row block forms its O tile in (R249): each with the half of the columns that it holds. -/
def attnHalves (d : Desc) (rb : Nat) : List (Nat × Nat) :=
  if 64 < d.nx then [(0, 0), (1, 1)] else [(rb / Config.clusters % 2, 0)]

/-- O of a row block in its slipways (R241): a column that is still absent leaves its cell as it was. -/
def attnSlips (d : Desc) (rb : Nat) (rows : List (Coord × AttnRow)) (s : State) : State :=
  (attnHalves d rb).foldl (fun t h =>
    let cells := rows.flatMap (fun x => (x.2.o.zipIdx.filter (fun o => o.2 / 64 == h.2)).filterMap (fun o =>
      o.1.1.map (fun w => (64 * (x.1.i1 % 16) + o.2 % 64, (w, o.1.2)))))
    let key := slipKey (rb % Config.clusters) h.1
    setSlip key (slipWrite cells (sget [] t.arr.slips key)) t) s

/-- One key tile of a row block (R245 to R249): its rows, their ladders' entries, and O in its slipways. -/
def attnStep (delta rb kt : Nat) (e : Entry) (s : State) : Entry × State :=
  let d := e.desc
  let cl := rb % Config.clusters
  let r := readerIn s e d.shape cl
  let xs := (attnBlock e rb).map (fun x => (x.1, attnTile r (mparam d) x.1 kt x.2))
  let rows := xs.map (fun x => (x.1, x.2.1))
  let accs := rows.foldl (fun m x => ladderAccs cl x.1.i1 x.2.lad m) s.arr.accs
  closeTile delta rb cl { d.shape.blockRow rb with i0 := 64 * kt } [] (.all (xs.map (fun x => x.2.2.2))) (xs.flatMap (fun x => x.2.2.1))
    { e with rows := rows.foldl (fun m x => sput m (rowNo rb x.1) (some x.2)) e.rows }
    (attnSlips d rb rows { s with arr := { s.arr with accs := accs } })

/-- The towline record of a row (R252): its ladder, and O against the engine's own reference; an absent or poisoned O is
carried by the record's own bits (log entry 62). -/
def attnBytes (a : AttnRow) : List Byte :=
  ladderBytes a.lad ++ a.o.flatMap (fun x => leBytes 4 (match x.1, x.2 with
    | some w, false => w.toNat | some _, true => 0x7FC00001 | none, false => 0x7FC00002 | none, true => 0x7FC00003))

/-- A row from a towline record. -/
def attnOfBytes (bs : List Byte) (dv : Nat) : AttnRow :=
  ⟨ladderOfBytes bs, (List.range dv).map (fun c =>
    let w := bytesAt bs (320 + 4 * c) 4
    if w = 0x7FC00001 then (some canonNan32, true) else if w = 0x7FC00002 then (none, false)
    else if w = 0x7FC00003 then (none, true) else (some (BitVec.ofNat 32 w), false))⟩

/-- R252: two rows combined in chain order, with the flags of rounding each sum (R99); a rescale rounded on its own raises none (R248). -/
def attnMerge (ftz : Bool) (a b : AttnRow) : AttnRow × Flags :=
  let lad := a.lad.merge b.lad
  let m := lad.m.getD 0
  let sc := fun (l : Ladder) => rescale (m - l.m.getD m)
  let ys := (a.o.zip b.o).map (fun x =>
    let p := x.1.2 || x.2.2
    match x.1.1, x.2.1 with
    | some y, some z =>
      let l := exactMul (readFp32 ftz y) (sc a.lad)
      let q := exactMul (readFp32 ftz z) (sc b.lad)
      let t := exactAdd l.1 q.1
      let v := encodeFp32 ftz t.1
      ((some v.1, p), l.2 ||| q.2 ||| t.2 ||| v.2)
    | some y, none => ((some (fMul ftz (readFp32 ftz y) (sc a.lad)).1, p), flagNone)
    | none, some z => ((some (fMul ftz (readFp32 ftz z) (sc b.lad)).1, p), flagNone)
    | none, none => ((none, p), flagNone))
  (⟨lad, ys.map (·.1)⟩, flagsAll (ys.map (·.2)))

/-- The row that the drain scaler takes: the engine's own, or the combined record's under a GROUP (R252). -/
def attnRowNow (e : Entry) (rb : Nat) (c : Coord) : AttnRow :=
  let d := e.desc
  let size := 320 + 4 * d.nx
  let j := c.i1 % 16
  match (e.tow.find? (fun t => t.rowBlock == rb)).bind (·.final) with
  | some bs => attnOfBytes (slice bs (j * size) ((j + 1) * size)) d.nx
  | none => sget (AttnRow.start d.nx) e.rows (rowNo rb c)

/-- What the finisher forms of a row (R249 step 3). -/
def attnFinish (s : State) (f : MParam) (a : AttnRow) : SmaxRes := finishLadder (numCfg s).ftz f.base2 f.masked a.lad

/-- An element of an output row (R249 step 4, R250). -/
def attnOut (ftz : Bool) (r : SmaxRes) (o : Option Word32 × Bool) : OutVal × Flags :=
  let p := r.poison || o.2
  match r.case with
  | .fullMask | .ninf => (.of ⟨plusZero, p⟩, flagNone)
  | .normal =>
    (match o.1 with
      | none => (.of ⟨plusZero, p⟩, flagNone)
      | some w => let q := exactMul (readFp32 ftz w) (readFp32 ftz r.rd); (.ofExact q.1 p, q.2))
  | _ => (.of ⟨.fp canonNan32, p⟩, flagNone)

/-- The outputs of one row, each as a slice, with flags: poisoned where its block is voided (R335). -/
def attnRowOut (s : State) (e : Entry) (rb : Nat) (c : Coord) : OutSlice × OutSlice × Flags :=
  let d := e.desc
  let cl := rb % Config.clusters
  if voided e rb then (voidSlice cl c d.nx, voidSlice cl c 1, flagNone)
  else
    let a := attnRowNow e rb c
    let t := attnFinish s (mparam d) a
    let ys := a.o.map (attnOut (numCfg s).ftz t)
    (⟨c, cl, 0, ys.map (·.1)⟩, ⟨c, cl, 0, [.of ⟨.fp t.lse, t.poison⟩]⟩, flagsAll (ys.map (·.2)))

/-- The positions of a row block's output tiles (R349). -/
def blockPos (d : Desc) (rb : Nat) : List Nat :=
  [4, 5].flatMap (fun i => [0, 64].map (fun c => wakePos (d.slot i).stride0 { d.shape.blockRow rb with i0 := c }))

/-- What a row writes: OUT0 in half-rows, and OUT1 with STATS (R249), with flags. -/
def attnEmits (rb : Nat) (c : Coord) (e : Entry) (s : State) : List Emit × Flags :=
  let d := e.desc
  let x := attnRowOut s e rb c
  let halves := (chunksFrom 64 (x.1.els.length + 1) 64 x.1.els).zipIdx.map (fun y =>
    ({ x.1 with c := { x.1.c with i0 := 64 * y.2 }, els := y.1 } : OutSlice))
  (⟨4, outShape d 0, halves⟩ :: (if (mparam d).stats then [⟨5, outShape d 1, [x.2.1]⟩] else []), x.2.2)

/-- A row leaves the drain scaler, once. -/
def emitAttnRow (delta rb : Nat) (c : Coord) (e : Entry) (s : State) : Entry × State :=
  let d := e.desc
  let n := rowNo rb c
  if e.emitted.contains n then (e, s)
  else
    let x := attnEmits rb c e s
    let y := emitLate rb delta x.1 x.2 { e with emitted := e.emitted ++ [n] } s
    if (d.shape.blockRows rb).all (fun c => y.1.emitted.contains (rowNo rb c)) then finishPieces (fun p => (blockPos d rb).contains p.pos) y.1 y.2 else y

/-- An ATTN row delivered by the finisher (R222, R249). -/
def deliverAttn (delta : Nat) (rb : Nat) (c : Coord) (e : Entry) (s : State) : Entry × State :=
  let t := attnFinish s (mparam e.desc) (attnRowNow e rb c)
  let x := emitAttnRow delta rb c (noteRow c t.flags false (decide (t.case = .fullMask)) e) s
  ({ x.1 with rows := sput x.1.rows (rowNo rb c) none }, x.2)

/-! ## The order of the key tiles (R245, R246) -/

/-- Whether a key tile of a row block is visited: some position is within VLEN and not causal. -/
def keyTileUsed (e : Entry) (d : Desc) (rb kt : Nat) : Bool :=
  decide (64 * kt < contributing e d) && (d.shape.blockRows rb).any (fun c => !causalKey e (mparam d) (64 * kt) c)

/-- The key tiles of a cluster in order, and at full redundancy of a pair (R357): row block and key tile. -/
def attnItems (s : State) (e : Entry) (cluster : Nat) : List (Nat × Nat) :=
  let d := e.desc
  ((List.range d.shape.rowBlocks).filter (fun rb => writerOf s (rb % Config.clusters) == cluster)).flatMap (fun rb =>
    ((List.range (ceilDiv d.n0 64)).filter (keyTileUsed e d rb)).map (fun kt => (rb, kt)))

end Sys2Proof.Machine
end

