-- ==== Sys2Proof/Machine/Checks.lean ====
section
/-! DEFINITION. What a command is checked for at its issue (R135, Table 5-6, R209, R210, Table 10-9, R262 to R264, R283,
R306) and the lowest reason (R277, R278). -/

namespace Sys2Proof.Machine

/-! ## Groups (R319 to R321) -/

/-- Chain position and size of the engine in a group, when it is a member. -/
def memberOf (s : State) (g : Nat) : Option (Nat × Nat) :=
  match s.man.active with
  | none => none
  | some m =>
    if g = 0 then none
    else match m.engines[s.tow.position]?, m.groups[g - 1]? with
      | some me, some r =>
        let bit' := fun (x : TowEngine) => x.groups.testBit (g - 1)
        let k := (m.engines.filter bit').length
        if bit' me ∧ r.first ≤ s.tow.package ∧ s.tow.package < r.first + r.count then
          some ((s.tow.package - r.first) * k + (m.engines.filter (fun x => bit' x && decide (x.ring < me.ring))).length,
            k * r.count)
        else none
      | _, _ => none

/-- The group of a command: its berth's for a CHAIN, otherwise its parameter's (R330, Tables 9-1, 10-2). 0: none. -/
def groupOf (s : State) (e : Entry) : Nat :=
  let d := e.desc
  match d.kind with
  | .chain | .fore => sget 0 s.tow.berthGroup e.berth
  | .attn => (mparam d).group
  | .matmul | .load | .store | .marker => 0
  | _ => (fparam d).group

/-! ## Stage words (Table 5-3) -/

/-- A reserved code or a RES0 bit of a stage word, formats apart. -/
def wordBad (w : Nat) : Bool :=
  match stageKind w with
  | 1 => (match bitsOf w 11 10 with
      | 0 | 2 => bitsOf w 7 0 != 0
      | 1 => bitsOf w 9 8 != 0 || w.testBit 0
      | _ => bitsOf w 9 0 != 0)
  | 2 => false
  | 3 => (match bitsOf w 11 9 with
      | 0 => false
      | 1 | 3 | 4 => bitsOf w 3 0 != 0
      | 2 => bitsOf w 3 1 != 0
      | 5 => bitsOf w 8 0 != 0
      | _ => true)
  | 4 => decide (8 < bitsOf w 11 8) || bitsOf w 6 5 == 3 || bitsOf w 4 0 != 0
  | 5 => bitsOf w 7 0 != 0
  | 6 => bitsOf w 6 0 != 0
  | 7 =>
    let op := bitsOf w 11 8
    decide (12 < op) || (decide (op < 10) && bitsOf w 7 4 != 0) || (w.testBit 0 && !(decide (4 ≤ op) && decide (op ≤ 9)))
  | 8 => bitsOf w 11 9 == 7 || bitsOf w 2 0 != 0 || (bitsOf w 11 9 == 4 && w.testBit 8)
  | 9 | 10 => bitsOf w 11 0 != 0
  | 11 => bitsOf w 10 9 == 3 || bitsOf w 8 0 != 0
  | _ => true

/-- A reserved format or rounding mode in a CONVERT stage (R90, R95). -/
def wordFormatBad (w : Nat) : Bool :=
  stageKind w == 1 && bitsOf w 11 10 == 1 && (bitsOf w 7 4 == 15 || bitsOf w 3 1 == 5 || bitsOf w 3 1 == 6)

/-- The OPSELs that a stage word names, inputs of UNPACK and LOADS as elements. -/
def wordSelects (w : Nat) : List Nat :=
  match stageKind w with
  | 1 => if bitsOf w 11 10 = 0 ∨ bitsOf w 11 10 = 2 then [bitsOf w 9 8 + 1] else []
  | 2 => [bitsOf w 11 7, bitsOf w 6 2]
  | 3 => if bitsOf w 11 9 = 5 then [] else [bitsOf w 8 4]
  | 8 => if bitsOf w 11 9 = 4 then [bitsOf w 7 3] else []
  | _ => []

/-- A GATHER index outside R123. -/
def gatherBad (w : Nat) : Bool :=
  stageKind w == 8 && bitsOf w 11 9 == 4 && !(decide (1 ≤ bitsOf w 7 3) && decide (bitsOf w 7 3 ≤ 4) || bitsOf w 7 3 == 13)

/-- A non-NONE word after a NONE. -/
def gapBad (ws : List Nat) : Bool := (ws.dropWhile (fun w => stageKind w != 0)).any (fun w => stageKind w != 0)

/-- Words of a chain up to its first NONE. -/
def liveWords (ws : List Nat) : List Nat := ws.takeWhile (fun w => stageKind w != 0)

/-- Number of BUILTIN stages (R160). -/
def builtins (ws : List Nat) : Nat := (ws.filter (fun w => stageKind w == 4)).length

/-! ## Operands in use -/

/-- An input in use: slot and role. -/
structure Use where
  slot : Nat
  role : Role
deriving DecidableEq, Repr, Inhabited

/-- The operand that an OPSEL names on a shape (Table 5-2). -/
def selUse (h : Shape) (sel : Nat) : Option Use :=
  if sel = 0 ∨ 0xC < sel then none
  else some ⟨(sel - 1) % 4, if sel ≤ 4 then .elem h else if sel ≤ 8 then .vec h.rowLen else .vec h.colLen⟩

/-- Operands of an epilogue. -/
def epilogueUses (d : Desc) (h : Shape) : List Use :=
  ((epilogueOf d).flatMap (fun w => wordSelects w.1)).filterMap (selUse h)

/-- The inputs that one pass of a fused command reads apart from its epilogue (Table 9-2). -/
def passUses (d : Desc) (second : Bool) : List Use :=
  let f := fparam d
  let h := d.shape
  let x : Use := ⟨0, .elem h⟩
  let gam : List Use := if f.gamma then [⟨1, .vec h.n0⟩] else []
  match f.op with
  | 1 | 2 => if second then [x] ++ gam ++ (if f.beta then [⟨2, .vec h.n0⟩] else []) else [x]
  | 3 | 4 => [x] ++ gam ++ [⟨2, .elem h⟩, ⟨3, .elem { h with n0 := 2 }⟩]
  | 5 => [x] ++ (if f.masked then [⟨1, if f.maskrow then .vec h.n0 else .elem h⟩] else [])
  | 6 => [x, ⟨1, .elem h⟩]
  | _ => [x]

/-- Every input that a command reads, with its role. -/
def usesOf (d : Desc) : List Use :=
  match d.kind with
  | .chain | .fore =>
    (if d.in0.present then [⟨0, .elem d.shape⟩] else []) ++ (d.chainStages.flatMap wordSelects).filterMap (selUse d.shape)
  | .matmul =>
    [⟨0, .elem d.shape⟩, ⟨1, .elem d.shapeB⟩] ++ (if d.acc && (mparam d).init then [⟨2, .elem d.shapeC⟩] else []) ++
      (if (mparam d).drain then epilogueUses d d.shapeC else [])
  | .load => [⟨0, .elem slipShape⟩]
  | .store => epilogueUses d slipShape
  | .attn => [⟨0, .elem d.shape⟩] ++ (if (mparam d).masked then [⟨1, .elem d.shape⟩] else []) ++ [⟨2, .elem d.shapeV⟩]
  | .marker => []
  | _ => passUses d false ++ passUses d true ++ epilogueUses d d.shape

/-- An input in use that the descriptor does not supply. -/
def missingInput (d : Desc) (us : List Use) : Bool := us.any (fun u => !(d.input u.slot).present)

/-- Elements of a role. -/
def Role.count : Role → Nat
  | .elem h => h.size
  | .vec n => n

/-- The span of an input in use: job memory or not, first byte, length. -/
def useSpan (d : Desc) (u : Use) : Bool × Nat × Nat :=
  let x := d.input u.slot
  (x.job, x.base, if u.role.count = 0 ∨ !x.present then 0 else spanBytes x (roleLast x u.role))

/-- The span of an output. -/
def outRange (d : Desc) (i : Nat) : Bool × Nat × Nat := ((d.slot (4 + i)).job, outSpan d i)

/-- Two spans share a byte. -/
def overlaps (a b : Bool × Nat × Nat) : Bool :=
  a.1 == b.1 && decide (0 < a.2.2) && decide (0 < b.2.2) && decide (a.2.1 < b.2.1 + b.2.2) && decide (b.2.1 < a.2.1 + a.2.2)

/-- The clusters that a tile is dealt to. -/
def usedClusters (ts : List Tile) : List Nat := (ts.map (·.cluster)).eraseDups

/-- Loaded content (Table 5-6, R180): an empty table slot in a bound bank, or an empty recipe slot, in a cluster that
receives a tile. -/
def contentBad (s : State) (e : Entry) (clusters words : List Nat) : Bool :=
  let empty := fun (c slot : Nat) =>
    let t := tblOf s c
    (t.valid ((boundBank s e c).getD t.phys) &&& slotBit slot) == 0
  words.any (fun w => match stageKind w with
    | 5 => clusters.any (fun c => empty c (bitsOf w 11 8))
    | 6 => clusters.any (fun c =>
        let p := recipeOf s c (bitsOf w 11 7)
        p.isEmpty || (recipeLookups p).any (empty c))
    | _ => false)

/-- A slot's format is none of those listed; the reserved code is judged apart (R278). -/
def Slot.fmtOther (x : Slot) (ok : List Nat) : Bool := x.fmt != 15 && !ok.contains x.fmt

/-! ## CHAIN (Table 5-6) -/

/-- The kinds of the forerunner class (R139). -/
def foreKindBad (w : Nat) : Bool :=
  match stageKind w with
  | 1 | 2 | 3 | 4 | 11 => false
  | 7 => decide (3 < bitsOf w 11 8)
  | 8 => decide (1 < bitsOf w 11 9)
  | _ => true

/-- COMPRESS and EXPAND (R124, R127). -/
def compressBad (d : Desc) (ws : List Nat) : Bool :=
  let comps := (ws.filter (fun w => stageKind w == 9)).length
  let exps := (ws.filter (fun w => stageKind w == 10)).length
  let c := ws.findIdx (fun w => stageKind w == 9)
  let x := ws.findIdx (fun w => stageKind w == 10)
  let mid := (ws.take x).drop (c + 1)
  decide (1 < comps) || decide (1 < exps) || (decide (0 < exps) && (comps == 0 || decide (x < c))) ||
    (decide (0 < comps) && decide (0 < exps) && mid.any (fun w => stageKind w == 7 || stageKind w == 8)) ||
    (decide (0 < comps) && exps == 0 && (!d.out1.present || d.out1.fmtOther [14] ||
      ws.any (fun w => (stageKind w == 11 && w.testBit 11) ||
        (stageKind w == 7 && (w.testBit 1 || bitsOf w 11 8 == 2 || bitsOf w 11 8 == 3)))))

/-- The outputs that one stage writes. -/
def writersOf (w : Nat) : List Nat :=
  match stageKind w with
  | 11 => [bit (w.testBit 11)]
  | 7 => if bitsOf w 11 8 = 2 ∨ bitsOf w 11 8 = 3 then [0, 1] else [bit (w.testBit 1)]
  | _ => []

/-- Outputs of a chain (Table 5-6). -/
def outputsBad (d : Desc) (ws : List Nat) : Bool :=
  let outs := ws.flatMap writersOf
  outs.isEmpty || decide (1 < outs.count 0) || decide (1 < outs.count 1) ||
    (outs.contains 0 && !d.out0.present) || (outs.contains 1 && !d.out1.present)

/-- REDUCE stages (R188, R190, R192, R196, R211). -/
def reduceBad (d : Desc) (ws : List Nat) : Bool :=
  let rs := ws.filter (fun w => stageKind w == 7)
  let bases := (rs.filter (fun w => decide (10 ≤ bitsOf w 11 8))).map (fun w => bitsOf w 7 4)
  decide (bases.eraseDups.length < bases.length) || bases.any (fun b => decide (13 ≤ b)) ||
    rs.any (fun w => decide (10 ≤ bitsOf w 11 8) && (d.slot (4 + bit (w.testBit 1))).fmtOther (12 :: List.range 11)) ||
    rs.any (fun w => (bitsOf w 11 8 == 2 || bitsOf w 11 8 == 3) &&
      ((d.slot (5 - bit (w.testBit 1))).fmtOther [14] || (w.testBit 3 && decide (2 ^ 32 < d.shape.size))))

/-- The chain check that no setting of the engine changes. -/
def chainBad (d : Desc) : Bool :=
  let ws := liveWords d.stages
  ws.isEmpty || gapBad d.stages || ws.any wordBad || ws.any gatherBad || (d.fore && ws.any foreKindBad) ||
    decide (2 < builtins ws) || compressBad d ws || outputsBad d ws || reduceBad d ws || missingInput d (usesOf d)

/-! ## FUSED_ROW (R209, R210) -/

/-- An epilogue word outside R209. -/
def epilogueKindBad (w : Nat) : Bool :=
  match stageKind w with
  | 1 => bitsOf w 11 10 == 0 || bitsOf w 11 10 == 2
  | 2 | 3 | 4 | 5 | 6 => false
  | _ => true

/-- An epilogue that breaks R209, or R160 with the pass's own evaluator stages. -/
def epilogueBad (d : Desc) (own : Nat) : Bool :=
  let ws := liveWords (d.stages.drop 4)
  gapBad (d.stages.drop 4) || ws.any epilogueKindBad || ws.any wordBad || decide (2 < builtins ws + own)

/-- Bits that Table 9-1 ties to other OPs: BETA, MASKED, BASE2 and EPS are the fields whose row names OPs. -/
def fusedTiedBad (f : FParam) : Bool :=
  let fwd := f.op == 1 || f.op == 2
  (f.beta && !fwd) || ((f.masked || f.base2) && f.op != 5) || (f.eps != 0 && !fwd)

/-- ε less than zero, infinite or a NaN. -/
def epsBad (e : Entry) (f : FParam) : Bool :=
  (f.op == 1 || f.op == 2) && (match readFp32 false (bankEntry e f.eps) with
    | .fin n m => n && decide (m ≠ 0)
    | _ => true)

/-- The least STRIDE1 of OUT1 with STATS. -/
def fusedStatsWidth (d : Desc) (f : FParam) : Nat :=
  match f.op with | 1 | 2 => 2 | 3 | 4 => d.n0 | _ => 1

/-- The fused row check that no setting of the engine changes. -/
def fusedBad (e : Entry) (d : Desc) (vlen : Nat) : Bool :=
  let f := fparam d
  f.op == 0 || decide (6 < f.op) || f.res0 != 0 || fusedTiedBad f || !d.out0.present || missingInput d (usesOf d) ||
    (f.stats && f.op != 6 && (!d.out1.present || d.out1.fmtOther [0] || decide (d.out1.stride1 < fusedStatsWidth d f))) ||
    epilogueBad d (if f.op = 5 then 1 else 0) || epsBad e f || (f.op == 5 && decide (2 ^ 24 ≤ min vlen d.n0))

/-! ## MAC (Table 10-9) -/

/-- The pairs of product formats of R233. -/
def pairOk (a b : Nat) : Bool :=
  let wide := fun (x : Nat) => x == 1 || x == 2
  let byte := fun (x : Nat) => decide (3 ≤ x) && decide (x ≤ 10)
  (wide a && wide b) || (byte a && byte b) || (wide a && (b == 3 || b == 4)) || (wide b && (a == 3 || a == 4))

/-- Whether a pair is outside R233; a reserved code is judged apart (R278). -/
def pairBad (a b : Nat) : Bool := a != 15 && b != 15 && !pairOk a b

/-- Parameter bits of Table 10-2 tied to another OP. -/
def macTiedBad (f : MParam) : Bool :=
  ((f.drain || f.init) && f.op != 1) ||
    ((f.masked || f.causal || f.base2 || f.scaleEn || f.scale != 0 || f.offset != 0 || f.group != 0 || f.stats) && f.op != 4)

/-- MATMUL's own checks. INIT asks for IN2 in overwrite mode too (Table 10-9, Operands). -/
def matmulBad (d : Desc) (f : MParam) : Bool :=
  (f.init && !d.in2.present) || epilogueBad d 0 || pairBad d.in0.fmt d.in1.fmt || d.n0 == 0 || (f.drain && !d.out0.present) ||
    (!f.drain && (d.slip == 2 || decide (Config.clusters < d.shapeC.rowBlocks * d.shapeC.colTiles)))

/-- LOAD's and STORE's own checks (R242). -/
def slipBad (d : Desc) : Bool :=
  d.slip == 2 || d.n3 != 1 || d.n2 != 1 || d.n1 != 16 || d.n0 != 64 * Config.clusters || d.nx != 0

/-- ATTN's own checks. -/
def attnBad (d : Desc) (f : MParam) (vlen : Nat) : Bool :=
  (d.stages.drop 4).any (fun w => stageKind w != 0) || d.in0.fmtOther (List.range 11) || d.in2.fmtOther [1, 2, 3, 4] ||
    (f.masked && d.in1.fmtOther [13]) || (f.stats && (!d.out1.present || d.out1.fmtOther [0])) || !d.out0.present || d.n0 == 0 ||
    d.nx == 0 || decide (128 < d.nx) || decide (2 ^ 24 ≤ min vlen d.n0)

/-- The MAC-class check that no setting of the engine changes. -/
def macBad (d : Desc) (vlen : Nat) : Bool :=
  let f := mparam d
  f.op == 0 || decide (4 < f.op) || f.res0 != 0 || macTiedBad f || d.slip == 3 || missingInput d (usesOf d) ||
    (match f.op with
      | 1 => matmulBad d f
      | 2 => slipBad d || (d.stages.drop 4).any (fun w => stageKind w != 0)
      | 3 => slipBad d || epilogueBad d 0 || !d.out0.present
      | _ => attnBad d f vlen)

/-- Holds (R241) and the conditions of full redundancy (R357). The three cases of R241 stand while a slipway is held. -/
def holdsBad (s : State) (e : Entry) (d : Desc) : Bool :=
  let f := mparam d
  let other := fun (w : Nat) => (holdOf s w).isSome && holdOf s w != some e.berth
  let two := protection s == 2
  let held := (holdOf s 0).isSome || (holdOf s 1).isSome
  match d.kind with
  | .attn => held
  | .matmul =>
    [0, 1].any (fun w => selects d w && (other w || (held && d.acc && !f.init && holdOf s w != some e.berth))) || (two && !f.drain)
  | .load | .store => [0, 1].any (fun w => selects d w && other w) || two
  | _ => false

/-! ## Slots, addresses, overlap, windows -/

/-- A reserved format or rounding mode anywhere (R278). -/
def formatBad (d : Desc) : Bool :=
  let ws := match d.kind with
    | .chain | .fore => liveWords d.stages
    | _ => liveWords (d.stages.drop 4)
  ws.any wordFormatBad || (List.range 6).any (fun i => (d.slot i).present && (d.slot i).fmt == 15) ||
    [4, 5].any (fun i => (d.slot i).present && ((d.slot i).rmode == 5 || (d.slot i).rmode == 6))

/-- A span that scratchpad addresses do not reach (R306). -/
def addressBad (x : Slot) (len : Nat) : Bool := !x.job && x.present && (bitsOf x.base 39 27 != 0 || decide (2 ^ 27 < x.base + len))

/-- Whether an input is read as a vector only: its strides are ignored (R263). -/
def Desc.vectorOnly (d : Desc) (i : Nat) : Bool :=
  let us := (usesOf d).filter (fun u => u.slot == i)
  !us.isEmpty && us.all (fun u => match u.role with | .vec _ => true | .elem _ => false)

/-- A present slot that breaks R262 or R263, an address that R306 refuses, a size outside Table 11-2. -/
def slotBad (d : Desc) : Bool :=
  (List.range 4).any (fun i => let x := d.slot i
    x.present && (x.rmode != 0 || addressBad x 0 ||
      (!d.vectorOnly i && (x.stride0 == 0 || (codeIsMx x.fmt && (x.stride0 != 1 || x.stride1 % 32 != 0)))))) ||
  [0, 1].any (fun i => let x := d.slot (4 + i)
    x.present && ((codeIsMx x.fmt && x.stride1 % 32 != 0) || decide (x.stride1 < (outShape d i).n0) || addressBad x (outSpan d i).2)) ||
  (usesOf d).any (fun u => addressBad (d.input u.slot) (useSpan d u).2.2) ||
  d.n2 == 0 || d.n3 == 0 || (d.cls != 3 && d.nx != 0)

/-- R129: identical descriptors run in place. -/
def sameOperand (d : Desc) (u : Use) (i : Nat) : Bool :=
  let x := d.input u.slot
  let y := d.slot (4 + i)
  u.role == .elem (outShape d i) && x.base == y.base && x.stride0 == 1 && x.stride1 == y.stride1 && x.stride2 == y.stride2 &&
    x.fmt == y.fmt

/-- R129: an output overlaps an input that it does not match, or the other output. -/
def overlapBad (d : Desc) : Bool :=
  overlaps (outRange d 0) (outRange d 1) ||
    [0, 1].any (fun i => (usesOf d).any (fun u => overlaps (useSpan d u) (outRange d i) && !sameOperand d u i))

/-- R102: an output beyond 2^61 elements. -/
def sizeBad (d : Desc) : Bool := [0, 1].any (fun i => d.writesOut i && decide (2 ^ 61 < (outShape d i).size))

/-- R283; a reserved WINDOW value is refused with it (log entry 61). -/
def windowBad (s : State) (d : Desc) : Bool :=
  (decide (128 ≤ d.window) && d.window != 0xFF) || (decide (d.window < 128) && d.out0.present && d.out0.job) ||
    s.cq.wins.any (fun w => w.2.st != 0 && w.1 != d.window &&
      [0, 1].any (fun i => overlaps (false, w.2.base, min w.2.span 65536) (outRange d i)))

/-- The SCALAR field by the path of the submission (R258), reserved classes, RES0 bits and a reserved SLIP (R277). -/
def headerBad (e : Entry) (d : Desc) : Bool :=
  d.scalar == 13 || d.scalar == 14 || (!e.core && decide (d.scalar ≤ 12)) || d.res0 || d.cls == 0 || decide (5 ≤ d.cls) ||
    (d.slip == 3 && d.cls != 3)

/-- The conditions of a landing marker (R265). -/
def markerBad (d : Desc) : Bool :=
  d.stages.any (fun w => stageKind w != 0) || (List.range 6).any (fun i => (d.slot i).present) || d.n0 != 0 || d.n1 != 0 ||
    d.n2 != 0 || d.n3 != 0 || d.nx != 0 || d.window != 0 || d.acc || d.slip != 0 || d.vlen != 0 || d.deadline != 0

/-! ## Reasons (R277, R278) -/

/-- The reasons of the checks that depend on the descriptor alone. `vlen` is the length the command would latch. -/
def fixedReasons (e : Entry) (d : Desc) (vlen : Nat) : List Nat :=
  if d.cls = 4 then (if markerBad d || headerBad e d then [0x0A] else [])
  else if d.cls = 0 ∨ 5 ≤ d.cls then [0x0A]
  else
    (if d.cls = 1 ∧ chainBad d then [0x03] else []) ++ (if d.cls = 2 ∧ fusedBad e d vlen then [0x04] else []) ++
      (if d.cls = 3 ∧ macBad d vlen then [0x05] else []) ++ (if formatBad d then [0x06] else []) ++
      (if slotBad d then [0x07] else []) ++ (if overlapBad d then [0x08] else []) ++
      (if headerBad e d then [0x0A] else []) ++ (if sizeBad d then [0x0B] else [])

/-- Clusters that receive tiles, for the check of loaded content. -/
def contentClusters (s : State) (d : Desc) : List Nat :=
  match d.kind with
  | .chain | .fore => usedClusters (d.shape.tileList (chainSpan s d))
  | .matmul => usedClusters (d.shapeC.tileList none)
  | .load | .store => List.range Config.clusters
  | .attn | .marker => []
  | _ => usedClusters (d.shape.tileList (some (rowSpan s)))

/-- The descriptor of a command that has not been bound: grouped as its berth or its parameter says. -/
def groupedDesc (s : State) (e : Entry) : Desc := { e.desc with grouped := groupOf s e != 0 }

/-- The reasons of the checks that depend on settings, tables, holds and windows. -/
def liveReasons (s : State) (e : Entry) (d : Desc) : List Nat :=
  let words := match d.kind with
    | .chain | .fore => liveWords d.stages
    | _ => liveWords (d.stages.drop 4)
  let g := groupOf s e
  let stranger := g != 0 && (memberOf s g).isNone
  let f := fparam d
  let fast := d.cls == 2 && f.group != 0 && decide (f.op ≤ 4) && fastStats s
  let bad := contentBad s e (contentClusters s d) words || stranger || fast || holdsBad s e d
  if d.cls = 4 ∨ d.cls = 0 ∨ 5 ≤ d.cls then []
  else (if bad then [d.cls + 2] else []) ++ (if windowBad s d then [0x09] else [])

/-- The lowest reason of a list (R278). -/
def lowest (xs : List Nat) : Option Nat := xs.foldl (fun m x => some (match m with | some y => min x y | none => x)) none

end Sys2Proof.Machine
end

