-- ==== Sys2Proof/Machine/Granules.lean ====
section
/-! DEFINITION. Granules (Table 12-1): the sectors of job memory that each step of a command needs, what a cluster does once they
are there, the order of its steps, Λ, and the fetch front (R287 to R290, R296). -/

namespace Sys2Proof.Machine

/-- What a granule needs: keys of sectors, each with the operand slot. The key of a sector of an element-wise input is its job address / 64;
a sector of a vector comes through the cache of a region (R296), which its key names. -/
abbrev Granule := List (Nat × Nat)

/-- The key of a sector that comes through the cache of a region. -/
def cacheKey (region sector : Nat) : Nat := (region + 1) * 2 ^ 58 + sector

/-- The region through whose cache a key's sector comes. -/
def keyRegion (key : Nat) : Option Nat := if key < 2 ^ 58 then none else some (key / 2 ^ 58 - 1)

/-- The sector of a key: job address / 64. -/
def keySector (key : Nat) : Nat := key % 2 ^ 58

/-- The regions whose caches serve a cluster, and at full redundancy its pair (R357). -/
def cacheRegions (s : State) (cluster : Nat) : List Nat :=
  if protection s = 2 then [cluster / 4, cluster / 4 + Config.regions / 2] else [cluster / 4]

/-- The part of an input that one tile uses: its 16 × 64 elements, its 64 row-vector or 16 column-vector elements, or the
two statistics of its rows. -/
inductive Part where
  | tile | row | col | pair
deriving DecidableEq, Repr, Inhabited

/-- An input that a tile needs. -/
structure Want where
  slot : Nat
  part : Part
deriving DecidableEq, Repr, Inhabited

/-- The want of an OPSEL (Table 5-2). -/
def selWant (sel : Nat) : Option Want :=
  if sel = 0 ∨ 0xC < sel then none
  else some ⟨(sel - 1) % 4, if sel ≤ 4 then .tile else if sel ≤ 8 then .row else .col⟩

/-- The wants of stage words. -/
def wordWants (ws : List Nat) : List Want := (ws.flatMap wordSelects).filterMap selWant

/-- The wants of a chain's tile. -/
def chainWants (d : Desc) : List Want :=
  ((if d.in0.present then [(⟨0, .tile⟩ : Want)] else []) ++ wordWants d.chainStages).eraseDups

/-- The wants of an epilogue. -/
def epilogueWants (d : Desc) : List Want := wordWants ((epilogueOf d).map (·.1))

/-- The wants of a tile in one pass of a fused row command. -/
def passWants (d : Desc) (second : Bool) : List Want :=
  ((passUses d second).map (fun u => (⟨u.slot, match u.role with
    | .elem h => if h = d.shape then .tile else .pair
    | .vec _ => .row⟩ : Want)) ++ (if second then epilogueWants d else [])).eraseDups

/-- The shape on which a want lies. -/
def Want.shape (h : Shape) (w : Want) : Shape := if w.part = .pair then { h with n0 := 2 } else h

/-- The role of a want. -/
def Want.role (h : Shape) (w : Want) : Role :=
  match w.part with
  | .row => .vec h.rowLen
  | .col => .vec h.colLen
  | _ => .elem (w.shape h)

/-! ## Sectors -/

/-- The sectors of one element and its scale. -/
def elementSectors (x : Slot) (r : Role) (off : Nat) : List Nat :=
  let w := codeBits x.fmt
  unitsOf (x.base + off * w / 8) (ceilDiv (off * w % 8 + w) 8) ++
    (if codeIsMx x.fmt then [(scaleBase x (roleLast x r) + off / 32) / 64] else [])

/-- The sectors of elements of an input; an input in the scratchpad needs none (R286). -/
def pieceSectors (d : Desc) (slot : Nat) (r : Role) (offs : List Nat) : Granule :=
  let x := d.input slot
  if x.present && x.job then ((offs.flatMap (elementSectors x r)).eraseDups).map (fun q => (q, slot)) else []

/-- Element offsets of columns `[c0, c0 + n)` of rows. -/
def blockOffs (x : Slot) (h : Shape) (rows : List Coord) (c0 n : Nat) : List Nat :=
  rows.flatMap (fun c => (List.range n).map (fun i => elemOffset x h x.stride0 { c with i0 := c0 + i }))

/-- What a want needs at a tile of a shape; vectors come through the caches of the given regions. -/
def wantSectors (d : Desc) (h : Shape) (regions : List Nat) (t : Tile) (w : Want) : Granule :=
  let x := d.input w.slot
  let rows := h.blockRows t.rb
  let width := min 64 (h.n0 - t.c.i0)
  let vector := fun (offs : List Nat) =>
    regions.flatMap (fun g => (pieceSectors d w.slot (w.role h) offs).map (fun y => (cacheKey g y.1, y.2)))
  match w.part with
  | .tile => pieceSectors d w.slot (w.role h) (blockOffs x h rows t.c.i0 width)
  | .pair => pieceSectors d w.slot (w.role h) (blockOffs x (w.shape h) rows 0 2)
  | .row => vector ((List.range width).map (· + t.c.i0))
  | .col => vector (rows.map (rowIndex h))

/-- A granule of several wants. -/
def wantsGranule (d : Desc) (h : Shape) (regions : List Nat) (ws : List Want) (t : Tile) : Granule :=
  (ws.flatMap (wantSectors d h regions t)).eraseDups

/-! ## Sequences (Table 12-1) -/

/-- k per slab: 256 in the 8-bit class, 128 in the 16-bit class. -/
def slabK (d : Desc) : Nat :=
  let byte := fun (x : Nat) => decide (3 ≤ x) && decide (x ≤ 10)
  if byte d.in0.fmt && byte d.in1.fmt then 256 else 128

/-- The wants that make further granules before the first k-slab of a tile: the IN2 tile, the drain's inputs. -/
def matmulExtras (d : Desc) : List (List Want) :=
  [if d.acc && (mparam d).init then [(⟨2, .tile⟩ : Want)] else [], if (mparam d).drain then epilogueWants d else []].filter
    (fun ws => ws.any (fun w => (d.input w.slot).job))

/-- What a cluster does at a step of its sequence: nothing but take in a slab, whose elements it names, or a tile of its command. `nth` counts
the tiles of a MATMUL in their cluster. -/
inductive Work where
  | slab (g : Granule)
  | chain (t : Tile)
  | product (t : Tile) (nth : Nat)
  | load (l : Nat)
  | store (l : Nat)
  | pass (second : Bool) (t : Tile)
  | key (rb kt : Nat)
deriving DecidableEq, Repr, Inhabited

/-- The granules of one MATMUL tile, at least one. -/
def matmulGranules (e : Entry) (d : Desc) (regions : List Nat) (t : Tile) : List Granule :=
  let ka := contributing e d
  let rows := d.shapeC.blockRows t.rb
  let cols := (List.range (min 64 (d.nx - t.c.i0))).map (fun j => { t.c with i1 := t.c.i0 + j })
  let gs := (matmulExtras d).map (fun ws => wantsGranule d d.shapeC regions ws t) ++
    (List.range (ceilDiv ka (slabK d))).map (fun j =>
      let k0 := j * slabK d
      let n := min (slabK d) (ka - k0)
      pieceSectors d 0 (.elem d.shape) (blockOffs d.in0 d.shape rows k0 n) ++
        pieceSectors d 1 (.elem d.shapeB) (blockOffs d.in1 d.shapeB cols k0 n))
  if gs.isEmpty then [[]] else gs

/-- Steps of one tile of a command: a tile boundary comes after the last (R274). -/
def stepsPerTile (e : Entry) : Nat :=
  let d := e.desc
  if d.kind = .matmul then max 1 ((matmulExtras d).length + ceilDiv (contributing e d) (slabK d)) else 1

/-- The granule of one key tile. -/
def attnGranule (d : Desc) (x : Nat × Nat) : Granule :=
  let rows := d.shape.blockRows x.1
  let n := min 64 (d.n0 - 64 * x.2)
  let keys := (List.range n).map (fun j => { d.shape.blockRow x.1 with i1 := 64 * x.2 + j })
  pieceSectors d 0 (.elem d.shape) (blockOffs d.in0 d.shape rows (64 * x.2) n) ++
    (if (mparam d).masked then pieceSectors d 1 (.elem d.shape) (blockOffs d.in1 d.shape rows (64 * x.2) n) else []) ++
    pieceSectors d 2 (.elem d.shapeV) (blockOffs d.in2 d.shapeV keys 0 d.nx)

/-- The steps of a cluster, or at full redundancy of the pair that it is the primary of (R357), in order: the granule of each and what is done
with it. -/
def stepsOf (s : State) (e : Entry) (cluster : Nat) : List (Granule × Work) :=
  let d := e.desc
  let g := cacheRegions s cluster
  let mine := fun (ts : List Tile) => ts.filter (fun t => writerOf s t.cluster == cluster)
  match d.kind with
  | .chain | .fore =>
    (mine (d.shape.tileList (chainSpan s d))).map (fun t => (wantsGranule d d.shape g (chainWants d) t, .chain t))
  | .matmul => (mine (d.shapeC.tileList none)).flatMap (fun t =>
      let gs := matmulGranules e d g t
      gs.zipIdx.map (fun x => (x.1, if x.2 + 1 = gs.length then .product t (t.t / Config.clusters)
        else .slab (if x.2 < (matmulExtras d).length then [] else x.1))))
  | .load => [(pieceSectors d 0 (.elem slipShape)
      (blockOffs d.in0 slipShape ((List.range 16).map (fun j => ⟨0, 0, j, 0⟩)) (64 * cluster) 64), .load cluster)]
  | .store => [(wantsGranule d slipShape g (epilogueWants d) (slipTileOf cluster), .store cluster)]
  | .attn => (attnItems s e cluster).map (fun x => (attnGranule d x, .key x.1 x.2))
  | .marker => []
  | _ => (fusedItems s d cluster).map (fun x => (wantsGranule d d.shape g (passWants d x.second) x.tile, .pass x.second x.tile))

/-- The granules of a cluster in the order in which it issues them. -/
def granulesOf (s : State) (e : Entry) (cluster : Nat) : List Granule := (stepsOf s e cluster).map (·.1)

/-- Whether any input that the command reads lies in job memory. -/
def readsJob (d : Desc) : Bool := (usesOf d).any (fun u => (d.input u.slot).present && (d.input u.slot).job)

/-! ## Λ (R288) -/

/-- Bytes of `n` elements in each of `rows` rows of an input in job memory; the scales of an MX input are not counted, as in
Table 12-1. -/
def inputBytes (x : Slot) (rows n : Nat) : Nat := if x.present && x.job then rows * ceilDiv (n * codeBits x.fmt) 8 else 0

/-- Bytes of a want in the largest tile of a shape. -/
def Want.bytes (d : Desc) (h : Shape) (w : Want) : Nat :=
  let x := d.input w.slot
  let rows := min 16 h.n1
  match w.part with
  | .tile => inputBytes x rows (min 64 h.n0)
  | .pair => inputBytes x rows 2
  | .row => inputBytes x 1 (min 64 h.n0)
  | .col => inputBytes x 1 rows

/-- Bytes of a granule of wants. -/
def wantsBytes (d : Desc) (h : Shape) (ws : List Want) : Nat := (ws.map (Want.bytes d h)).sum

/-- B_g: the bytes of the command's largest granule. -/
def largestGranule (d : Desc) : Nat :=
  match d.kind with
  | .chain | .fore => wantsBytes d d.shape (chainWants d)
  | .matmul =>
    let slab := inputBytes d.in0 (min 16 d.n1) (min (slabK d) d.n0) + inputBytes d.in1 (min 64 d.nx) (min (slabK d) d.n0)
    (matmulExtras d).foldl (fun m ws => max m (wantsBytes d d.shapeC ws)) slab
  | .load => inputBytes d.in0 16 64
  | .attn =>
    inputBytes d.in0 (min 16 d.n1) (min 64 d.n0) +
      (if (mparam d).masked then inputBytes d.in1 (min 16 d.n1) (min 64 d.n0) else 0) + inputBytes d.in2 (min 64 d.n0) d.nx
  | .store => wantsBytes d slipShape (epilogueWants d)
  | .marker => 0
  | _ => max (wantsBytes d d.shape (passWants d false)) (wantsBytes d d.shape (passWants d true))

/-- Λ of R288. A command without granules keeps LOOKAHEAD. -/
def lambdaOf (s : State) (d : Desc) : Nat :=
  let b := largestGranule d
  if b = 0 then max 1 s.rtv.lookahead else max 1 (min s.rtv.lookahead (163840 / b - 1))

/-! ## The front (R289, R290) -/

/-- Whether the clusters of a command run on their own (R213, R245). -/
def runsApart (d : Desc) : Bool :=
  match d.kind with
  | .chain | .fore | .matmul | .load | .store | .marker => false
  | _ => true

/-- The granule that a cluster issues next. -/
def nextOf (e : Entry) (cluster : Nat) : Nat := if runsApart e.desc then sget 0 e.front cluster else e.pos

/-- A granule is complete: every sector it needs is in operand buffers. -/
def granuleDone (e : Entry) (g : Granule) : Bool := g.all (fun x => e.held.contains x.1)

/-- The granules that each cluster issues next. -/
def nextGranules (s : State) (e : Entry) : List Granule :=
  (execClusters s).filterMap (fun c => (granulesOf s e c)[nextOf e c]?)

/-- The first `depth` granules of each cluster still to be issued, in ascending (position in its sequence, logical cluster), each with its
cluster and how far it stands from the next (R289). -/
def frontOf (s : State) (e : Entry) (depth : Nat) : List (Nat × Nat × Granule) :=
  let cs := (execClusters s).flatMap (fun c =>
    (((granulesOf s e c).drop (nextOf e c)).take depth).zipIdx.map (fun x => (c, x.2, x.1)))
  sortByKey (fun x => 64 * (nextOf e x.1 + x.2.1) + x.1) cs

/-- How deep the front of a command is: Λ for the issuing command, otherwise its first granules (R289). -/
def frontDepth (s : State) (e : Entry) : Nat :=
  if e.started && s.cq.issuing == some e.berth then max 1 e.lookahead else 1

/-- What the front needs. -/
def frontNeeds (s : State) (e : Entry) : Granule := ((frontOf s e (frontDepth s e)).flatMap (·.2.2)).eraseDups

/-- Keep in operand buffers what the front still needs. -/
def trimHeld (s : State) (e : Entry) : Entry :=
  let ns := (frontNeeds s e).map (·.1)
  { e with held := e.held.filter (fun q => ns.contains q) }

/-! ## Region caches (R21, R296) -/

/-- The sector that a region's cache holds. -/
def cachedSector (s : State) (region sector : Nat) : Option Sector :=
  (s.rtv.cache.find? (fun x => x.region == region && x.block == sector / 8)).bind (fun x =>
    (x.sectors.find? (fun y => y.1 == sector % 8)).map (·.2))

/-- A sector enters the operand buffers under its key, which says through which region's cache it came (R300); a word of it that was
uncorrectable is gone. -/
def Entry.take (e : Entry) (key : Nat) (x : Sector) : Entry :=
  { e with got := sput e.got key (some x), held := if e.held.contains key then e.held else e.held ++ [key]
           bad := e.bad.filter (fun w => w / 8 != keySector key) }

/-- What the front needs of the region caches and finds there (R296). -/
def takeHits (s : State) (e : Entry) : Entry :=
  ((frontNeeds s e).filter (fun x => !e.held.contains x.1)).foldl (fun y x =>
    match (keyRegion x.1).bind (fun g => cachedSector s g (keySector x.1)) with
    | some v => y.take x.1 v
    | none => y) e

/-- Lines of 512 bytes in a region cache of 1 MiB (R21; the line's size and what a full cache drops: log entry 155). -/
def cacheLines : Nat := 2048

/-- The sectors of a line of a region's cache. -/
def lineSectors (s : State) (region block : Nat) : List (Nat × Sector) :=
  ((s.rtv.cache.find? (fun x => x.region == region && x.block == block)).map (·.sectors)).getD []

/-- A fill enters a region's cache, over what its line held; a full cache drops its oldest line. -/
def fillCache (region block : Nat) (ys : List (Nat × Sector)) (s : State) : State :=
  let xs := (lineSectors s region block).filter (fun x => !(ys.any (fun y => y.1 == x.1))) ++ ys
  let others := s.rtv.cache.filter (fun x => !(x.region == region && x.block == block))
  let own := others.filter (fun x => x.region == region)
  let kept := if own.length < cacheLines then others else
    match own.head? with
    | some y => others.erase y
    | none => others
  { s with rtv := { s.rtv with cache := kept ++ [⟨region, block, xs⟩] } }

end Sys2Proof.Machine
end

