-- ==== Sys2Proof/Machine/Kennel.lean ====
section
/-! DEFINITION. Kennel rotations and in-field tests (R366 to R372). What a physical cluster holds (table banks, exact
accumulators, slipways) is kept under the name of the place where the cluster stands, so a change of the map carries the
contents from place to place. -/

namespace Sys2Proof.Machine

/-- A cluster's record, by index 5 × region + position. -/
def clusterOf (s : State) (i : Nat) : ClusterRec := s.ken.clusters.getD i default

/-- Replace a cluster's record. -/
def setCluster (i : Nat) (c : ClusterRec) (s : State) : State :=
  { s with ken := { s.ken with clusters := s.ken.clusters.set i c } }

/-- The map row of a region. -/
def mapRow (s : State) (x : Nat) : List Nat := s.ken.map.getD x KenUnit.startRow

/-- The cluster index of a region's kennel. -/
def kennelIndex (s : State) (x : Nat) : Nat := 5 * x + (mapRow s x).getD 4 4

/-- The cluster index that serves logical position `q` of region `x`. -/
def servingIndex (s : State) (x q : Nat) : Nat := 5 * x + (mapRow s x).getD q 0

/-- A rotation: region, logical position, and whether it is a return (R367, R368). -/
structure Rotation where
  region : Nat
  position : Nat
  back : Bool
deriving DecidableEq, Repr, Inhabited

/-- The rotation that a parameter names: [2:0] region, [4:3] position, [5] return (Table 2-5, Table 16-11). -/
def rotationOf (param : Nat) : Rotation := ⟨bitsOf param 2 0, bitsOf param 4 3, param.testBit 5⟩

/-- Whether a rotation can proceed: the kennel is READY, and for a return it is the position that the active TOPO row
gives (R367, R368). -/
def canRotate (s : State) (r : Rotation) : Bool :=
  decide ((clusterOf s (kennelIndex s r.region)).st = .ready) &&
    (!r.back || (match s.man.active with
      | some m => (m.topo.getD r.region []).getD r.position 5 == (mapRow s r.region).getD 4 4
      | none => (KenUnit.startRow.getD r.position 5) == (mapRow s r.region).getD 4 4))

/-- A map by place × `per` + index with the contents of some places taken from others. -/
def gatherPlaces {α : Type} (per : Nat) (places : List Nat) (f : Nat → Nat) (xs : List (Nat × α)) : List (Nat × α) :=
  (xs.filter (fun p => !places.contains (p.1 / per)) ++
    places.flatMap (fun x => (xs.filter (fun p => p.1 / per == f x)).map (fun p => (x * per + p.1 % per, p.2)))).foldl
      (fun m p => sput m p.1 (some p.2)) []

/-- The contents of places rearranged: the place `x` takes what stood at `f x`, for the places of a list. -/
def movePlaces (places : List Nat) (f : Nat → Nat) (s : State) : State :=
  let words := s.tbl.badWords.filter (fun w => !places.contains (w / (32 * 516))) ++
    places.flatMap (fun x => (s.tbl.badWords.filter (fun w => w / (32 * 516) == f x)).map (fun w => x * (32 * 516) + w % (32 * 516)))
  { s with
    tbl := { s.tbl with clusters := gatherPlaces 1 places f s.tbl.clusters, images := gatherPlaces 32 places f s.tbl.images,
                        badWords := words }
    arr := { s.arr with accs := gatherPlaces 256 places f s.arr.accs, slips := gatherPlaces 2 places f s.arr.slips } }

/-- R175, R367: the kennel of a region receives a copy of what logical cluster `c` holds: both table banks in the static
copy, the accumulator entries and slipways in the dynamic one. -/
def copyToKennel (c : Nat) (s : State) : State :=
  movePlaces [32 + c / 4] (fun _ => c) s

/-- The switch of R367 step 3: the kennel, which has received its copies, serves the position, and the departing cluster is
the kennel under test. -/
def switchMap (r : Rotation) (s : State) : State :=
  let row := mapRow s r.region
  let arriving := row.getD 4 4
  let leaving := row.getD r.position 0
  let c := 4 * r.region + r.position
  let s0 := copyToKennel c s
  let s1 := { s0 with ken := { s.ken with map := s.ken.map.set r.region ((row.set r.position arriving).set 4 leaving) } }
  let a := 5 * r.region + arriving
  let b := 5 * r.region + leaving
  setCluster b { clusterOf s1 b with st := .testing } (setCluster a { clusterOf s1 a with st := .inService } s1)

/-- A skip (R368). -/
def skipRotation (x : Nat) (s : State) : State :=
  { s with ken := { s.ken with rotSkipped := true, skipRegion := x } }

/-- Run a rotation at a landing, or skip it; `done` lists the regions already rotated there. -/
def rotate (r : Rotation) (acc : State × List Nat) : State × List Nat :=
  if acc.2.contains r.region || !canRotate acc.1 r then (skipRotation r.region acc.1, acc.2)
  else (switchMap r acc.1, acc.2 ++ [r.region])

/-- R370: whether the deadline of the cluster serving a position is met. -/
def testSatisfied (s : State) (x q : Nat) : Bool :=
  let p := (clusterOf s (servingIndex s x q)).lastPass
  p == s.crs.crossing || p + 1 == s.crs.crossing

/-- The timetable entries of the active manifest that match a landing of the current crossing, in order (R52). -/
def matching (s : State) (l : Nat) : List TimeEntry :=
  match s.man.active with
  | some m => m.times.filter (fun t => t.matches s.crs.crossing l)
  | none => []

/-- The test deadlines of a landing that are not met: forced swap-outs where the kennel is READY, one per region, and
in-line tests otherwise (R370). -/
def forcedTests (s : State) (l : Nat) : List Rotation × List (Nat × Nat) :=
  ((matching s l).filter (fun t => t.action == 4)).foldl (fun acc t =>
    let r : Rotation := { rotationOf t.param with back := false }
    if testSatisfied s r.region r.position then acc
    else if canRotate s r && !acc.1.any (fun f => f.region == r.region) then (acc.1 ++ [r], acc.2)
    else (acc.1, acc.2 ++ [(r.region, r.position)])) ([], [])

/-- A host request for a rotation (Table 16-11): the value of KEN_REQ with VALID set. -/
def hostRotation (req : Option Nat) : List Rotation :=
  match req with
  | some v => if v.testBit 6 then [rotationOf v] else []
  | none => []

/-- The rotations that would proceed at a landing: the forced ones, the timetable's, and a latched host request (R367,
R370, R372). -/
def plannedRotations (s : State) (l : Nat) (req : Option Nat) : List Rotation :=
  let forced := (forcedTests s l).1
  let timed := ((matching s l).filter (fun t => t.action == 3)).map (fun t => rotationOf t.param)
  let all := forced ++ (timed ++ hostRotation req).filter (fun r => canRotate s r && !forced.any (fun f => f.region == r.region))
  (all.foldl (fun acc r => if acc.any (fun x => x.region == r.region) then acc else acc ++ [r]) [])

/-- R367 step 1: the static copies of the rotations of a landing begin, where they have not begun or ended. The shadow
bank of a cluster under copy refuses writes (R172). -/
def startCopies (l : Nat) (req : Option Nat) (s : State) : State :=
  let cs := (plannedRotations s l req).map (fun r => 4 * r.region + r.position)
  let fresh := cs.filter (fun c => !s.ken.copying.contains c && !s.ken.copied.contains c)
  lockLoads { s with ken := { s.ken with copying := s.ken.copying ++ fresh } }

/-- KENNEL_STATIC_COPY_END (R367): the copies of a region have ended. -/
def execKennelStaticCopyEnd (region : Nat) (s : State) : Host.Outcome State Fault Refusal :=
  let ended := s.ken.copying.filter (fun c => c / 4 == region)
  .next (if mainStopped s then s
    else { s with ken := { s.ken with copying := s.ken.copying.filter (fun c => c / 4 != region), copied := s.ken.copied ++ ended } })

/-- The physical clusters in in-line test at the landing under way, after one has ended. -/
def testDone (c : Nat) (s : State) : State :=
  match s.crs.run with
  | some r => { s with crs := { s.crs with run := some { r with tests := r.tests.filter (· != c) } } }
  | none => s

/-- INLINE_TEST_END (R370): on a pass LAST_PASS takes the current crossing; on a failure TEST_FAIL and SHARD_MIGRATE are
raised, in ascending code order, and the cluster stays in service. -/
def execInlineTestEnd (cluster : Nat) (pass : Bool) (s : State) : Host.Outcome State Fault Refusal :=
  let x := cluster / 5
  let p := cluster % 5
  let under := match s.crs.run with | some r => r.tests.contains cluster && r.stage == .closing | none => false
  .next (if mainStopped s || !under then s
    else
      let c := clusterOf s cluster
      let s1 := testDone cluster { s with ken := { s.ken with inlineRan := true } }
      if pass then setCluster cluster { c with lastPass := s.crs.crossing, inline := true } s1
      else raise evTestFail none (x + 8 * p + 64) 0
        (raise evShardMigrate none (2 + 4 * x + 32 * p) 0 (setCluster cluster { c with inline := true } s1)))

/-- OUT_OF_LINE_TEST_END (R369): READY, or RETIRED with TEST_FAIL and SPARE_EXHAUSTED. -/
def execOutOfLineTestEnd (cluster : Nat) (pass : Bool) (s : State) : Host.Outcome State Fault Refusal :=
  let x := cluster / 5
  let p := cluster % 5
  let c := clusterOf s cluster
  .next (if mainStopped s ∨ c.st ≠ .testing then s
    else if pass then setCluster cluster { st := .ready, lastPass := s.crs.crossing, inline := false } s
    else
      let s1 := setCluster cluster { c with st := .retired, inline := false } s
      let rep := s1.keep.repair
      let s2 := journal [.repair] { s1.keep with repair := { rep with retired := rep.retired ++ [cluster] } } s1
      raise evSpareExhausted none (x + 8 * 3) 0 (raise evTestFail none (x + 8 * p) 0 s2))

/-- The places that a new map rearranges in a region, and where the contents of each come from. -/
def topoPlaces (s : State) (m : Manifest) : State :=
  let all := (List.range 8).flatMap (fun x => (List.range 4).map (fun q => 4 * x + q) ++ [32 + x])
  let src := fun (p : Nat) =>
    let x := if p < 32 then p / 4 else p - 32
    let q := if p < 32 then p % 4 else 4
    standing s x ((m.topo.getD x KenUnit.startRow).getD q 0)
  movePlaces (all.filter (fun p => src p != p)) src s

/-- R371: an application resets the map to the new TOPO row. A cluster that the row places in service enters service
with its earlier LAST_PASS; one that leaves service is the region's kennel, untested since (Table 16-5). -/
def applyTopo (m : Manifest) (s : State) : State :=
  let cs := s.ken.clusters.zipIdx.map (fun x =>
    let row := m.topo.getD (x.2 / 5) KenUnit.startRow
    let serves := (row.take 4).contains (x.2 % 5)
    match x.1.st with
    | .retired => x.1
    | .inService => if serves then x.1 else { x.1 with st := .untested }
    | _ => if serves then { x.1 with st := .inService } else x.1)
  let s1 := topoPlaces s m
  { s1 with ken := { s1.ken with map := m.topo, clusters := cs } }

/-- The start-up test counts as having ended in the first crossing the engine opens (R366). -/
def startupPasses (c : Nat) (s : State) : State :=
  if s.ken.startupPass then
    { s with ken := { s.ken with startupPass := false,
                                 clusters := s.ken.clusters.map (fun x => if x.st = .retired then x else { x with lastPass := c }) } }
  else s

end Sys2Proof.Machine
end

