-- ==== Sys2Proof/Machine/Power.lean ====
section
/-! DEFINITION. Supplies, throttle steps, clock gating and resets (chapter 18, Tables 3-8, 7-4 and 16-7). -/

namespace Sys2Proof.Machine

/-! ## Throttle steps (R404–R407) -/

/-- The effective step: the lowest frequency, so the highest code, among the target and the two caps (R404). -/
def effectiveStep (p : PwrUnit) : Nat := max p.target (max p.capTherm p.capVolt)

/-- A change of the target or of a cap (R404): a new effective step becomes pending with its cause, replacing a pending
one; none is pending when the step in force is the effective one. Causes: 0 TARGET, 1 thermal, 2 voltage. -/
def retarget (cause : Nat) (p : PwrUnit) : PwrUnit :=
  let e := effectiveStep p
  match p.pending with
  | some (n, _) => if e = n then p else if e = p.step then { p with pending := none } else { p with pending := some (e, cause) }
  | none => if e = p.step then p else { p with pending := some (e, cause) }

/-- A write to PWR_CTL.TARGET. -/
def setTarget (t : Nat) (s : State) : State := { s with pwr := retarget 0 { s.pwr with target := t } }

/-- PWR_CTL_TARGET (Table 18-12); needs permission bit 5. -/
def execPwrCtlTarget (port : Port) (step : BitVec 2) (s : State) : Host.Outcome State Fault Refusal :=
  .next (onKeep port 5 (setTarget step.toNat) s)

/-- A write to PWR_CTL.GATE. -/
def setGate (g : Bool) (s : State) : State := { s with pwr := { s.pwr with gate := g } }

/-- PWR_CTL_GATE (R408); needs permission bit 5. -/
def execPwrCtlGate (port : Port) (gate : Bool) (s : State) : Host.Outcome State Fault Refusal :=
  .next (onKeep port 5 (setGate gate) s)

/-- THROTTLE_SWITCH (R404): the pending step comes into force and THROTTLE is raised. A CLK_CORE that a thermal trip has stopped
does not switch (R406). -/
def execThrottleSwitch (s : State) : Host.Outcome State Fault Refusal :=
  .next (if s.pwr.thermTrip then s else match s.pwr.pending with
    | none => s
    | some (n, cause) =>
      raise evThrottle none (s.pwr.step + 4 * n + 16 * cause) 0 { s with pwr := { s.pwr with step := n, pending := none } })

/-- The lowest VDD_CORE that a step allows, in mV (Table 18-4). -/
def minVcore (step : Nat) : Nat :=
  match step with
  | 0 => 740
  | 1 => 720
  | _ => 700

/-- VDD_CORE_BELOW_MIN (R407): below the minimum of the step in force, the voltage cap moves down one step. -/
def execVddCoreBelowMin (s : State) (mv : Nat := 0) : Host.Outcome State Fault Refusal :=
  .next (if mv < minVcore s.pwr.step then { s with pwr := retarget 2 { s.pwr with capVolt := min 3 (s.pwr.capVolt + 1) } } else s)

/-- VDD_CORE_ABOVE_NEXT (R407): at least 10 mV above the minimum of the step above the cap's, the voltage cap moves up one step (the step
above the cap's and not the one above the step in force: DEDUCED, log entry 158). -/
def execVddCoreAboveNext (s : State) (mv : Nat := 1000) : Host.Outcome State Fault Refusal :=
  .next (if minVcore (s.pwr.capVolt - 1) + 10 ≤ mv then { s with pwr := retarget 2 { s.pwr with capVolt := s.pwr.capVolt - 1 } } else s)

/-- R406: what a sample does to the thermal cap. `hot` counts samples since the cap last moved down, `cool` consecutive
samples below 95 °C. -/
def thermalCap (temp : Int) (p : PwrUnit) : PwrUnit :=
  let cool := if temp < 95 * 16 then p.cool + 1 else 0
  let hot := satInc 10 p.hot
  if 105 * 16 ≤ temp ∧ 10 ≤ hot ∧ p.capTherm < 3 then { p with capTherm := p.capTherm + 1, hot := 0, cool := 0 }
  else if 100 ≤ cool then { p with capTherm := p.capTherm - 1, hot := hot, cool := 0 }
  else { p with hot := hot, cool := cool }

/-! ## Clock gating (R408) -/

/-- The conditions on which CLK_CORE may be gated. -/
def gateReady (s : State) : Bool :=
  s.pwr.gate && !s.pwr.gated && s.cq.entries.isEmpty && s.cq.asleep.isEmpty && s.crs.run.isNone &&
    s.crs.decided.isEmpty && s.tow.reading.isNone && s.ken.clusters.all (fun c => c.st != .testing) && !s.tbl.busy &&
    s.toll.busy == .none && s.man.stage != .verifying && s.man.apply != .applying && !(mainStopped s)

/-- CLOCK_GATE. EVT_IRQ keeps its level from here on (R434). -/
def execClockGate (s : State) : Host.Outcome State Fault Refusal :=
  .next (if gateReady s then
      { s with pwr := { s.pwr with gated := true, waking := false }, evt := { s.evt with held := evtIrq s } }
    else s)

/-- CLOCK_WAKE: the clocks restart and each submission that waited reaches the engine, in order of arrival. -/
def execClockWake (s : State) : Host.Outcome State Fault Refusal :=
  .next (if s.pwr.waking ∧ ¬mainStopped s then
      s.cq.asleep.foldl (fun t a => submit a.path a.fore a.bytes a.bank t)
        { s with pwr := { s.pwr with gated := false, waking := false }, cq := { s.cq with asleep := [] } }
    else s)

/-! ## The keep island (R398–R401) -/

/-- KEEP_SWITCHOVER's record: supply left, supply taken, tide of the decision (Table 19-7). -/
def keepSwitch (left taken : Nat) (s : State) : State := raise evKeepSwitchover none (left + 4 * taken) (tideNow s) s

/-- Samples for which a supply has stayed at or above 0.72 V: 100 of them are 1 ms (R398). -/
def goodFor (mv n : Nat) : Nat := if mv < 720 then 0 else satInc 100 n

/-- KEEP_SUPPLY_A_LOW (R398): the island switches to B when B is good. A is good again only after 1 ms at or above 0.72 V. -/
def execKeepSupplyALow (s : State) : Host.Outcome State Fault Refusal :=
  let s1 := { s with pwr := { s.pwr with aOk := false }, isl := { s.isl with goodA := 0 } }
  .next (if s.pwr.srcB = false ∧ s.pwr.bOk = true then
      keepSwitch 0 1 { s1 with pwr := { s1.pwr with srcB := true, switched := true } }
    else s1)

/-- KEEP_SUPPLY_RETURN (R399): A is good while the island is on B, and the island returns to A. -/
def execKeepSupplyReturn (s : State) : Host.Outcome State Fault Refusal :=
  let s1 := { s with pwr := { s.pwr with aOk := true }, isl := { s.isl with goodA := 100 } }
  .next (if s.pwr.srcB then keepSwitch 1 0 { s1 with pwr := { s1.pwr with srcB := false, switched := true } } else s1)

/-- A torn acceptance's entry is withdrawn (R259, R401). LDG_ACCEPTED stays at the last acceptance whose write completed. -/
def tearOne (j : Judged) (s : State) : State :=
  let s1 := dropEntry j.berth j.seq s
  let put := fun (k : Keep) => { k with accepted := sset 0 k.accepted j.berth (min (ldgAccepted s1 j.berth) (j.seq - 1)) }
  { s1 with keep := put s1.keep, isl := { putCell (flipCell (cellOf s1.isl (.accepted j.berth))) s1.isl with shadow := s1.isl.shadow.map put } }

/-- The responses once acceptances are torn: each of them, and every later submission of the same berth, receives FULL (R259). -/
def fullAfter : List Judged → List Nat → List Judged → List Judged
  | _, _, [] => []
  | torn, bs, j :: rest =>
    let hit := torn.contains j || bs.contains j.berth
    (if hit then { j with code := 4 } else j) :: fullAfter torn (if hit then j.berth :: bs else bs) rest

/-- Tear the last `n` pending acceptances, judged ACCEPTED and not yet answered. -/
def tearAccepts (n : Nat) (s : State) : State :=
  let acc := s.cq.responses.filter (fun j => j.code == 1)
  let torn := acc.drop (acc.length - n)
  let s1 := torn.foldl (fun t j => tearOne j t) s
  { s1 with cq := { s1.cq with responses := fullAfter torn [] s1.cq.responses } }

/-- Whether a block holds an acceptance, which is torn with its submission. -/
def keepAccept : KeepBlock → Bool
  | .accepted _ => true
  | _ => false

/-- Every write that had not reached its cycle 12 is torn (R401). -/
def tearWrites (t : Torn) (s : State) : State :=
  (t.blocks.filter (fun b => !keepAccept b)).eraseDups.foldl (fun u b => tearBlock b u) (tearAccepts t.accepts s)

/-- THERMAL_SAMPLE (R398, R406): PWR_MON is refreshed, the keep supplies are judged, the cap follows, and at 120 °C or more the engine trips:
CLK_CORE stops, and a ledger write cut off is torn. A sample of the feeding supply below 0.55 V while the island is failing shows its rail
below that: the retention latch holds it (R402; DEDUCED, log entry 159). -/
def execThermalSample (temp : Int) (vcore vkeepA vkeepB : Nat) (s : State) (torn : Torn := .none) : Host.Outcome State Fault Refusal :=
  let a := goodFor vkeepA s.isl.goodA
  let b := goodFor vkeepB s.isl.goodB
  let p := { s.pwr with
    temp := temp, vcore := vcore, vkeepA := vkeepA, vkeepB := vkeepB, aOk := decide (100 ≤ a), bOk := decide (100 ≤ b)
    latch := s.pwr.latch || (s.pwr.keepFail && decide ((if s.pwr.srcB then vkeepB else vkeepA) < 550)) }
  let q := retarget 1 (thermalCap temp p)
  let hot := decide (120 * 16 ≤ temp)
  let s1 := if hot ∧ ¬mainStopped s then tearWrites torn s else s
  .next { s1 with pwr := { q with thermTrip := q.thermTrip || hot }, isl := { s1.isl with goodA := a, goodB := b } }

/-- KEEP_ISLAND_FAILING (R401): neither supply is good; the writes under way are torn. -/
def execKeepIslandFailing (torn : Torn) (s : State) : Host.Outcome State Fault Refusal :=
  let s1 := tearWrites torn s
  .next (keepSwitch (bit s.pwr.srcB) 3 { s1 with
    pwr := { s1.pwr with keepFail := true, aOk := false, bOk := false }, isl := { s1.isl with goodA := 0, goodB := 0 } })

/-- KEEP_SUPPLY_RESTORED (R399, R401): a supply is good again. An island that was failing checks its seals, fed from that supply; where this
is not the one that fed it, that is a switch. -/
def execKeepSupplyRestored (supplyB : Bool) (s : State) : Host.Outcome State Fault Refusal :=
  let s1 := { s with
    pwr := { s.pwr with aOk := s.pwr.aOk || !supplyB, bOk := s.pwr.bOk || supplyB }
    isl := { s.isl with goodA := if supplyB then s.isl.goodA else 100, goodB := if supplyB then 100 else s.isl.goodB } }
  .next (if !s.pwr.keepFail then s1
    else
      let s2 := { s1 with pwr := { s1.pwr with keepFail := false, sealCheck := true } }
      if s.pwr.srcB = supplyB then s2
      else keepSwitch (bit s.pwr.srcB) (bit supplyB) { s2 with pwr := { s2.pwr with srcB := supplyB, switched := true } })

/-- A block is rewritten from the main side's shadow, and sealed (R401). -/
def rewriteBlock (b : KeepBlock) (s : State) : State :=
  match s.isl.shadow with
  | some k => { s with keep := copyBlock b k s.keep, isl := putCell (setSeal (crc32 (keepRecord b k)) (cellOf s.isl b)) s.isl }
  | none => s

/-- KEEP_SEAL_CHECK_END (R401, R402): a block whose seal fails is rewritten from the main-side shadow, and issue and acceptance resume. With
no shadow keep state is lost, which the retention latch holds for the next keep check (log entry 33). -/
def execKeepSealCheckEnd (failed : List KeepBlock) (s : State) : Host.Outcome State Fault Refusal :=
  .next (if s.pwr.sealCheck then
      let s1 := failed.foldl (fun t b => rewriteBlock b t) s
      { s1 with pwr := { s1.pwr with sealCheck := false, latch := s.pwr.latch || (s.isl.shadow.isNone && !failed.isEmpty) } }
    else s)

/-! ## Resets (R412–R414, Table 16-7) -/

/-- R271, Table 16-7: the journals at a reset that kept the ledger. -/
def keepAtReset (k : Keep) : Keep :=
  { k with priorAccepted := k.accepted, priorCompleted := k.completed, accepted := k.commitSeq, completed := k.commitSeq }

/-- R371, Table 16-7: the cluster states at a cold reset: the start-up map, with the retired clusters kept. -/
def coldClusters (retired : List Nat) : List ClusterRec :=
  (List.range 40).map (fun i => if retired.contains i then ⟨.retired, 0, false⟩ else KenUnit.startCluster i)

/-- R380, R412: a reset of any kind ends every session; the nonces go with it. -/
def endSessions (t : TollUnit) : TollUnit :=
  { t with host := { t.host with auth := false, nonce := none }, mgr := { t.mgr with auth := false, nonce := none } }

/-- R391: a cold reset, with keep state lost or kept, and ZEROISE end an armed certificate with FAILED, CAUSE RESET. One whose write has left
counts in the serial as written (log entry 150). -/
def certReset (s : State) : CertUnit :=
  let c := s.toll.cert
  let live := certLive c
  { CertUnit.zero with state := if live then 5 else c.state, cause := if live then 2 else c.cause, serial := c.serial + bit (certSent s) }

/-- The Tollhouse at a cold reset that kept the island: keys stay; sessions, services and the error state end; the fuses
are loaded into their shadow (R411 step 2). -/
def tollCold (s : State) : TollUnit :=
  let t := s.toll
  { endSessions t with
      busy := .none, waitSelftest := none, errorState := false, approved := true, selftest := 0, health := .start, cert := certReset s,
      shadow := t.fuses, host := { t.host with auth := false, nonce := none, data := [], result := 0 },
      mgr := { t.mgr with auth := false, nonce := none, data := [], result := 0 } }

/-- The keep island once a reset has set the ledger back in both copies: the main side's shadow follows, and is gone at a cold reset. -/
def islAtReset (cold : Bool) (k : Keep) (s : State) : Island :=
  { s.isl with other := k, shadow := if cold then none else some k, tide := if cold ∧ ¬s.pwr.mainDown then s.crs.tide else s.isl.tide }

/-- The main side at the start of a cold reset (Table 16-7, Table 18-6). Keep state is lost where the keep check finds it so, or where the
retention latch holds a loss of the island rail (R402). -/
def coldReset (bad : Bool) (s : State) : State :=
  let fuses := s.toll.fuses
  let lost := bad || s.pwr.latch
  { s with
      man := .cold, crs := .cold, cq := .cold, rtv := .cold, sp := .cold, tbl := .cold, arr := .cold, dgst := .cold
      keep := if lost then .lost fuses.factory else keepAtReset s.keep
      isl := if lost then { Island.lost fuses.factory with
          tide := (islAtReset true s.keep s).tide, goodA := s.isl.goodA, goodB := s.isl.goodB }
        else islAtReset true (keepAtReset s.keep) s
      ken := { KenUnit.cold with clusters := coldClusters (if lost then fuses.factory.retired else s.keep.repair.retired) }
      tow := .cold s.tow.position
      toll := if lost then { TollUnit.lost fuses with drbg := .blank s.toll.drbg.seeds, cert := if certLive s.toll.cert then { certReset s with serial := 0 } else .zero } else tollCold s
      pwr := { PwrUnit.cold with
        keepLost := lost, keepFail := s.pwr.keepFail, sealCheck := s.pwr.sealCheck, srcB := s.pwr.srcB,
        aOk := s.pwr.aOk, bOk := s.pwr.bOk, temp := s.pwr.temp, vcore := s.pwr.vcore, vkeepA := s.pwr.vkeepA,
        vkeepB := s.pwr.vkeepB, zeroisePending := s.pwr.zeroisePending }
      sb := if lost then .lost else s.sb
      hostp := .zero
      evt := { EvtUnit.cold with kept := if lost then [] else s.evt.kept } }

/-- Whether a cold reset is still under way (Table 18-6). -/
def coldBusy (s : State) : Bool := s.pwr.mainDown || !s.pwr.tested

/-- A cold reset asked for (R412). Keep state is lost at power-on, when the retention latch holds a loss of the island
rail, or when the keep check finds it so (R402). JQ_CTL.COLD, which only the manager writes, is ignored during a cold
reset (R414). -/
def coldOp (cause : ColdCause) (keepBad : Bool) (s : State) : State :=
  if cause = .jqCtl then
    (if coldBusy s then dropHeld .mgr s else coldReset keepBad (dropHeld .mgr s))
  else coldReset (keepBad || cause == .powerOn) s

/-- COLD_RESET (R411). -/
def execColdReset (cause : ColdCause) (keepBad : Bool) (s : State) : Host.Outcome State Fault Refusal :=
  .next (coldOp cause keepBad s)

/-- VDD_CORE_COLLAPSE (R407): the main side goes down into a cold reset, without any effect on the keep island. -/
def execVddCoreCollapse (s : State) : Host.Outcome State Fault Refusal := .next (coldReset false s)

/-- RAIL_ORDER_VIOLATION (R397). -/
def execRailOrderViolation (s : State) : Host.Outcome State Fault Refusal :=
  .next { s with pwr := { s.pwr with coldNext := true } }

/-- CRS_NOW and the deadline base from the crossing copy (R41, R60). With no landing committed since the cold reset the
copy is zero, and the first opening is still to come. -/
def reloadCrossing (s : State) (c : CrsUnit) : CrsUnit :=
  match s.keep.crossCopy with
  | some (x, l) => { c with crossing := x, landing := l, deadlineBase := s.keep.crossBase, firstOpen := false }
  | none => { c with crossing := 0, landing := 0, deadlineBase := 0, firstOpen := true }

/-- PHASE once the engine is moored and tested: a crossing under way, or waiting for the next (Table 2-10, R40). -/
def settledPhase (c : CrsUnit) : Phase :=
  if c.firstOpen ∨ c.landing = 0xFFFF then .waitBeacon else .inSegment

/-- The crossing unit at a warm or replay reset. A replay reset keeps the moored crossings (R413). The announcement of a
landing 0 kept for T_open (R36) is cleared with the announcement registers, so an opening before the beacon announces again
takes CRS_TIDE (DESIGN CHOICE, log entry 146: only the registers have a stated reset value). -/
def crsAtReset (kind : ResetKind) (s : State) : CrsUnit :=
  let base := reloadCrossing s { CrsUnit.cold with tide := s.crs.tide, tOpen := s.crs.tOpen }
  match kind with
  | .warm => { base with moored := false, phase := .notMoored }
  | .replay => { base with moored := s.crs.moored, frames := s.crs.frames,
                           phase := if s.crs.moored ∧ s.pwr.tested then settledPhase base else .notMoored }

/-- Table 3-8: the manifest unit at a warm or replay reset. A replay reset keeps an armed MAN_APPLY_AT request; without one
the register reads its reset value 0 (Table 3-11; DEDUCED, log entry 147). A verification that is running goes on over a replay reset, which
keeps STAGE_STATE (DESIGN CHOICE, log entry 182). -/
def manAtReset (kind : ResetKind) (m : ManUnit) : ManUnit :=
  match kind with
  | .warm => { ManUnit.cold with active := m.active, prior := m.prior }
  | .replay => { m with page := 0, reason := 0, permDenied := false, applyNow := false, held := [],
                        applyAt := if m.apply = .armed then m.applyAt else (0, 0),
                        apply := if m.apply = .armed then .armed else .none }

/-- Table 7-4: the table unit at a warm or replay reset. A warm reset empties the shadow banks and a replay reset keeps
them; an operation under way is abandoned and its slots are empty. -/
def tblAtReset (kind : ResetKind) (t : TblUnit) : TblUnit :=
  let abandon := fun (c : Nat × TblCluster) => match t.load with
    | some l => if l.mask.testBit c.1 then
        (if c.2.phys then (c.1, { c.2 with valid0 := c.2.valid0 &&& ~~~(BitVec.ofNat 16 (2 ^ l.slot)) })
         else (c.1, { c.2 with valid1 := c.2.valid1 &&& ~~~(BitVec.ofNat 16 (2 ^ l.slot)) })) else c
    | none => c
  let empty := fun (c : Nat × TblCluster) => if kind = .warm then
      (if c.2.phys then (c.1, { c.2 with valid0 := 0 }) else (c.1, { c.2 with valid1 := 0 })) else c
  { TblUnit.cold with
      clusters := (t.clusters.map (fun c => empty (abandon c))).filter (fun c => c.2 ≠ .zero)
      images := t.images, badWords := t.badWords }

/-- R285, Table 11-11: every window is raised by one and EMPTY at a warm or replay reset, and its binding fields are 0. -/
def winsAtReset (wins : List (Nat × Win)) : List (Nat × Win) :=
  (List.range 128).map (fun w => let x := sget default wins w; (w, { (default : Win) with gen := (x.gen + 1) % 2 ^ 16 }))

/-- Table 16-7: the kennel unit at a warm or replay reset: the map and the cluster states stay. -/
def kenAtReset (k : KenUnit) : KenUnit :=
  { KenUnit.cold with map := k.map, clusters := k.clusters, startupPass := k.startupPass }

/-- Tables 14-7 to 14-9: the towline unit at a warm or replay reset. Of a message in flight only the tags are left, which still return. What
a partner's headers have said of its landings stays with the slots, and so do the headers one crossing ahead (R341, R375). -/
def towAtReset (s : State) : TowUnit :=
  { TowUnit.cold s.tow.position with
      package := s.tow.package, berthGroup := s.tow.berthGroup, mirrorBase := s.tow.mirrorBase,
      mirrorPages := s.tow.mirrorPages, coll := s.keep.colls, slotPending := s.tow.slotPending,
      slotCommitted := s.tow.slotCommitted, nextId := s.tow.nextId, partnerRecs := s.tow.partnerRecs, waitRecs := s.tow.waitRecs
      tx := s.tow.tx.filterMap (fun t => if 0 < t.out then some { t with left := 0, waiting := 0, relay := true, owner := none } else none) }

/-- Whether a landing lies at or before another. -/
def landingLe (c l c' l' : Nat) : Bool := decide (c < c') || (c == c' && decide (l ≤ l'))

/-- R391: a warm or replay reset discards pending capture values and keeps final ones. A table record is final once its
landing is committed, and the capture starts again where C0 is still to open (log entry 44). -/
def certAtReset (committed : Nat × Nat) (c : CertUnit) : CertUnit :=
  let keepFinal := fun (v : Option (Nat × Bool)) => match v with | some (x, true) => some (x, true) | _ => none
  let tvd := c.tvd.filter (fun x => landingLe x.1 x.2.1 committed.1 committed.2)
  let again := decide (c.state = 2) && tvd.isEmpty
  { c with vec := keepFinal c.vec, inp := keepFinal c.inp, outp := keepFinal c.outp, tvd := tvd,
           state := if again then 1 else c.state, captured := if again then none else c.captured,
           range0 := 0, range1 := 0, addr := 0, lInHigh := 0 }

/-- The Tollhouse at a warm or replay reset. A zeroisation under way goes on to its cold reset (R387). -/
def tollAtReset (committed : Nat × Nat) (t : TollUnit) : TollUnit :=
  { t with busy := (match t.busy with | .zeroise p => .zeroise p | _ => .none), waitSelftest := none, cert := certAtReset committed t.cert, host := .zero, mgr := .zero }

/-- The rows whose copies a warm or replay reset ends: COPY_BUSY is 0 after it (Table 13-5), and their errors count anew (log entry 160). -/
def copyRows (s : State) : List Nat :=
  s.sp.copies.flatMap (fun c => match c.row with
    | some r => [(c.region * 64 + c.bank) * 256 + r]
    | none => (List.range 256).map (fun r => (c.region * 64 + c.bank) * 256 + r))

/-- A warm or replay reset stops issue at once (R413): the state of Table 16-7, with every outstanding tag still to
return before the reset ends. -/
def beginReset (kind : ResetKind) (s : State) : State :=
  { s with
      man := manAtReset kind s.man
      crs := crsAtReset kind s
      cq := { CqUnit.cold with rings := s.cq.rings, wins := winsAtReset s.cq.wins }
      keep := keepAtReset s.keep
      isl := islAtReset false (keepAtReset s.keep) s
      rtv := { RtvUnit.cold with lookahead := s.rtv.lookahead, readTags := s.rtv.readTags, cache := s.rtv.cache,
                                 writeTags := s.rtv.writeTags, out := s.rtv.out, nextTag := s.rtv.nextTag,
                                 posts := s.rtv.posts.filter (fun p => p.1.isCert) }
      sp := { s.sp with log := .zero, copies := [], corrected := s.sp.corrected.filter (fun x => !(copyRows s).contains x.1)
                        failedRows := s.sp.failedRows.filter (fun x => !(copyRows s).contains x) }
      tbl := tblAtReset kind s.tbl
      arr := .cold
      ken := kenAtReset s.ken
      tow := towAtReset s
      dgst := .cold
      toll := tollAtReset s.keep.committed s.toll
      pwr := { s.pwr with draining := some kind, warmTest := decide (kind = .warm), gate := false, gated := false, waking := false }
      hostp := { s.hostp with capture := none, heldLow := none } }

/-- A reset that a broken rail order has made a cold one (R397), or the reset itself. -/
def resetOrCold (kind : ResetKind) (s : State) : State :=
  if s.pwr.coldNext then coldReset false s else beginReset kind s

/-- JQ_CTL.WARM takes effect: ignored during a reset of equal or higher precedence (R414). -/
def jqWarm (s : State) : State :=
  if coldBusy s ∨ s.pwr.warmTest ∨ s.pwr.draining = some .warm then s else resetOrCold .warm s

/-- JQ_CTL.REPLAY takes effect (R414). -/
def jqReplay (s : State) : State :=
  if coldBusy s ∨ s.pwr.warmTest ∨ s.pwr.draining.isSome then s else resetOrCold .replay s

/-- A write to JQ_CTL (Table 19-5): the host needs permission bit 6, the manager none; while the main side is down
nothing answers. -/
def jqWrite (p : Port) (f : State → State) (s : State) : State :=
  match p with
  | .host => onMain .host 6 f s
  | .mgr => if s.pwr.mainDown then s else f (dropHeld .mgr s)

/-- WARM_RESET (R412, R414): by the pin, or by JQ_CTL.WARM. -/
def execWarmReset (cause : WarmCause) (s : State) : Host.Outcome State Fault Refusal :=
  .next (match cause with
    | .pin => if s.pwr.mainDown then s else resetOrCold .warm s
    | .jqCtl p => jqWrite p jqWarm s)

/-- REPLAY_RESET (R412, R414): by JQ_CTL.REPLAY. -/
def execReplayReset (port : Port) (s : State) : Host.Outcome State Fault Refusal :=
  .next (jqWrite port jqReplay s)

/-- RESET_DRAIN_END (R413): the last outstanding tag has returned and the reset sequence continues. -/
def execResetDrainEnd (s : State) : Host.Outcome State Fault Refusal :=
  .next (if ¬mainStopped s ∧ s.pwr.draining.isSome ∧ s.rtv.out.isEmpty ∧ s.tow.tx.isEmpty then
      { s with pwr := { s.pwr with draining := none } }
    else s)

/-! ## Start-up (R411) -/

/-- Step 4 of Table 18-6: the PLL locks at PWR_CTL.TARGET, as it stands then; a cap below it goes on by R404. -/
def startStep (p : PwrUnit) : PwrUnit :=
  if effectiveStep p = p.target then { p with step := p.target, pending := none } else p

/-- MAIN_SIDE_UP (R402, R419): step 4 of Table 18-6 has ended, and CLK_CORE runs at the step of PWR_CTL.TARGET. The records that the keep
island made are raised in order of their tides (R430); a zeroisation asked for meanwhile has its cold reset here (R419). The DRBG is
instantiated (R385; at this step of the start-up: DESIGN CHOICE, log entry 149). A keep check that found a seal broken, with no shadow, has
found keep state lost. -/
def execMainSideUp (s0 : State) (keepBad : Bool := false) : Host.Outcome State Fault Refusal :=
  let s := if s0.pwr.mainDown ∧ (keepBad ∨ s0.pwr.latch) ∧ ¬s0.pwr.keepLost then coldReset keepBad s0 else s0
  .next (if s.pwr.mainDown then
      let s1 := if s.pwr.zeroisePending then coldReset s.pwr.keepLost s else s
      let evs := sortByKey (·.tide) s1.evt.kept
      seedDrbg true { s1 with pwr := { startStep s1.pwr with mainDown := false, zeroisePending := false }, isl := { s1.isl with shadow := some s1.keep },
                              evt := evs.foldl logEvent { s1.evt with kept := [] } }
    else s)

/-- FAB_READY (R411 step 5): mooring begins. -/
def execFabReady (s : State) : Host.Outcome State Fault Refusal :=
  .next (if mainStopped s then s else { s with pwr := { s.pwr with fabReady := true } })

/-- Whether mooring may go on (R411, Table 18-7): FAB_READY is high, and a warm reset has ended its drain. -/
def mooringOpen (s : State) : Bool := s.pwr.fabReady && s.pwr.draining != some .warm

/-- MOOR_WAIT (R410). -/
def execMoorWait (s : State) : Host.Outcome State Fault Refusal :=
  .next (if mooringOpen s ∧ ¬s.crs.moored then { s with pwr := { s.pwr with moorWait := true } } else s)

/-- Once the engine is both moored and tested, PHASE leaves 0b000 (R410, R411 step 8); after a warm reset once its
Tollhouse self-tests have ended too (Table 18-7, log entry 127). -/
def settle (s : State) : State :=
  if s.crs.moored ∧ s.pwr.tested ∧ ¬s.pwr.warmTest ∧ s.crs.phase = .notMoored then
    { s with crs := { s.crs with phase := settledPhase s.crs } }
  else s

end Sys2Proof.Machine
end

