-- ==== Sys2Proof/Machine/Tollhouse.lean ====
section
/-! DEFINITION. The Tollhouse: services, keys, self-tests, zeroisation, certificates, debug access (chapter 17). -/

namespace Sys2Proof.Machine

/-! ## Ports and results -/

/-- A port's view. -/
def tollPort (s : State) (p : Port) : TollPort := match p with | .host => s.toll.host | .mgr => s.toll.mgr

/-- Replace a port's view. -/
def setTollPort (p : Port) (x : TollPort) (s : State) : State :=
  match p with
  | .host => { s with toll := { s.toll with host := x } }
  | .mgr => { s with toll := { s.toll with mgr := x } }

/-- RESULT codes (Table 17-6). -/
def tollResult (r : Nat) (p : Port) (s : State) : State := setTollPort p { tollPort s p with result := r } s

/-- Write bytes from offset 0 of a port's TOLL_DATA. -/
def tollOutput (p : Port) (bs : List Byte) (s : State) : State :=
  setTollPort p { tollPort s p with data := sblit 0 (tollPort s p).data 0 bs } s

/-- The first `n` bytes of a port's TOLL_DATA. -/
def tollInput (s : State) (p : Port) (n : Nat) : List Byte := sdense 0 (tollPort s p).data 0 n

/-- The service runner is busy (R389): a self-test, a zeroisation, or a manifest verification. -/
def tollRunning (s : State) : Bool := s.toll.busy != .none || s.man.stage == .verifying

/-- A key slot. -/
def keySlot (s : State) (k : Nat) : KeySlot := sget default s.toll.slots k

/-- Enter a key: the slot takes it with no uses, and ZEROISED is cleared (R387). -/
def enterKey (k : Nat) (key : List Byte) (s : State) : State :=
  { s with toll := { s.toll with slots := sset default s.toll.slots k ⟨key, 0⟩, zeroised := false } }

/-- What a service needs before it runs: its role (none: both), a session, and whether the provisioning rule of R381
admits it while slot 0x0F is empty. -/
structure Need where
  role : Option Port
  auth : Bool
  provision : Bool

/-- Run a service by the order of R386, R389, R379, R381, R380: ERROR, BUSY, ROLE, AUTH_FAIL (log entry 43). While the
main side is down every service but STATUS and ZEROISE is BUSY (R419), and likewise while a thermal trip has stopped CLK_CORE (DESIGN
CHOICE, log entry 176: R406). Permission bit 8 guards the host (R379). -/
def service (p : Port) (n : Need) (f : State → State) (s : State) : State :=
  let run := fun (t : State) =>
    if mainStopped t then tollResult 5 p t
    else if t.toll.errorState then tollResult 6 p t
    else if tollRunning t then tollResult 5 p t
    else if n.role.isSome && n.role != some p then tollResult 1 p t
    else if p == .mgr && (keySlot t 0x0F).key.isEmpty && !n.provision then tollResult 2 p t
    else if n.auth && !(tollPort t p).auth && !(n.provision && (keySlot t 0x0F).key.isEmpty) then tollResult 2 p t
    else f t
  if p = .host then (if mainStopped s then s else guarded .host 8 run s) else run (dropHeld .mgr s)

/-! ## Services without a key change -/

/-- STATUS: ends OK. It runs in the error state and while the main side is down. -/
def tollStatusOp (p : Port) (s : State) : State :=
  let run := fun (t : State) => if tollRunning t && !mainStopped t then tollResult 5 p t else tollResult 0 p t
  if p = .host then (if mainStopped s then s else guarded .host 8 run s) else run (dropHeld .mgr s)

/-- TOLL_STATUS: the service STATUS. -/
def execTollStatus (port : Port) (s : State) : Host.Outcome State Fault Refusal := .next (tollStatusOp port s)

/-- NONCE (R380 step 1). A reseeding that falls due and fails a continuous test ends it with ERROR (R385, R386). -/
def tollNonceOp (p : Port) : State → State :=
  service p ⟨none, false, true⟩ (fun s =>
    let s0 := drbgDue s
    let bs := drbgBytes s0 48
    let s1 := tollResult 0 p (tollOutput p bs (drbgNext 48 s0))
    if s0.toll.errorState then tollResult 6 p s0 else setTollPort p { tollPort s1 p with nonce := some bs } s1)

/-- NONCE. -/
def execTollNonce (port : Port) (s : State) : Host.Outcome State Fault Refusal := .next (tollNonceOp port s)

/-- The authentication key and the role byte of a port (R380). -/
def authSlot : Port → Nat
  | .host => 0x0E
  | .mgr => 0x0F
def roleByte : Port → Byte
  | .host => 0x55#8
  | .mgr => 0xC0#8

/-- AUTH (R380 step 3): each nonce serves one AUTH. -/
def tollAuthOp (p : Port) : State → State :=
  service p ⟨none, false, false⟩ (fun s =>
    let v := tollPort s p
    let key := (keySlot s (authSlot p)).key
    let ok := match v.nonce with
      | some n => !key.isEmpty && tollInput s p 48 == hmac384 key (n ++ [roleByte p])
      | none => false
    let s1 := countUse (authSlot p) (setTollPort p { v with nonce := none, auth := v.auth || ok } s)
    tollResult (if ok then 0 else 2) p s1)

/-- AUTH. -/
def execTollAuth (port : Port) (s : State) : Host.Outcome State Fault Refusal := .next (tollAuthOp port s)

/-- LOGOUT. -/
def tollLogoutOp (p : Port) : State → State :=
  service p ⟨none, false, false⟩ (fun s => tollResult 0 p (setTollPort p { tollPort s p with auth := false } s))

/-- LOGOUT. -/
def execTollLogout (port : Port) (s : State) : Host.Outcome State Fault Refusal := .next (tollLogoutOp port s)

/-- SELFTEST (R386, R389): it runs in the error state; it waits for the running service; a second one is BUSY. While slot 0x0F is empty
the Crypto Officer port does not accept it (R381). -/
def tollSelftestOp (p : Port) (s : State) : State :=
  let testing := fun (t : State) => t.toll.waitSelftest.isSome || (match t.toll.busy with | .selftest _ => true | _ => false)
  let run := fun (t : State) =>
    if mainStopped t || testing t then tollResult 5 p t
    else if p == .mgr && (keySlot t 0x0F).key.isEmpty then tollResult 2 p t
    else if !(tollPort t p).auth then tollResult 2 p t
    else if tollRunning t then { t with toll := { t.toll with waitSelftest := some p } }
    else { t with toll := { t.toll with busy := .selftest p } }
  if p = .host then (if mainStopped s then s else guarded .host 8 run s) else run (dropHeld .mgr s)

/-- SELFTEST. -/
def execTollSelftest (port : Port) (s : State) : Host.Outcome State Fault Refusal := .next (tollSelftestOp port s)

/-- R386: self-tests that pass leave the error state; the continuous tests start again. -/
def leaveError (s : State) : State := { s with toll := { s.toll with errorState := false, health := .start } }

/-- The Tollhouse self-tests of a warm reset have ended, and the reset with them (Table 18-7, R386, log entry 127). -/
def warmTestsEnd (pass : BitVec 9) (s : State) : State :=
  let s1 := { s with toll := { s.toll with selftest := pass }, pwr := { s.pwr with warmTest := false } }
  settle (if pass = 0x1FF#9 then leaveError s1 else tollError s1)

/-- TOLL_SELFTEST_END (R386): one pass bit per test; a pass leaves the error state, a failure enters it. Where no service
runs them, the tests are those that follow the mooring of a warm reset. -/
def execTollSelftestEnd (pass : BitVec 9) (s : State) : Host.Outcome State Fault Refusal :=
  .next (if mainStopped s then s else match s.toll.busy with
    | .selftest p =>
      let s1 := { s with toll := { s.toll with busy := .none, selftest := pass } }
      if pass = 0x1FF#9 then tollResult 0 p (leaveError s1)
      else tollResult 6 p (tollError s1)
    | _ => if s.pwr.warmTest ∧ s.pwr.draining = none ∧ s.crs.moored then warmTestsEnd pass s else s)

/-- READ_PUBKEY (R383): a public slot, or the public key of slot 0x0C; any other slot, and an empty one, is BAD_ARG. -/
def tollReadPubkeyOp (p : Port) (slot : Nat) : State → State :=
  service p ⟨none, false, true⟩ (fun s =>
    let k := (keySlot s slot).key
    if k.isEmpty ∨ ¬(slot < 8 ∨ slot = 0x0C) then tollResult 9 p s
    else tollResult 0 p (tollOutput p (if slot = 0x0C then p384Public (beNat k) else k) s))

/-- READ_PUBKEY. -/
def execTollReadPubkey (port : Port) (slot : Byte) (s : State) : Host.Outcome State Fault Refusal :=
  .next (tollReadPubkeyOp port slot.toNat s)

/-! ## Keys (R381–R383) -/

/-- R389: a slot that a running signing uses. -/
def slotSigning (s : State) (slot : Nat) : Bool :=
  s.toll.cert.state == 3 && (match s.toll.cert.captured with
    | some j => slot == (if j.hmac then 0x0D else 0x0C)
    | none => false)

/-- LOAD_PUBKEY (R382). -/
def tollLoadPubkeyOp (p : Port) (slot : Nat) : State → State :=
  service p ⟨some .mgr, true, false⟩ (fun s =>
    let k := tollInput s p 96
    let x := beNat (k.take 48)
    let y := beNat (k.drop 48)
    if 8 ≤ slot then tollResult 9 p s
    else if x < p384P ∧ y < p384P ∧ onP384 x y then tollResult 0 p (enterKey slot k s)
    else tollResult 4 p s)

/-- LOAD_PUBKEY. -/
def execTollLoadPubkey (port : Port) (slot : Byte) (s : State) : Host.Outcome State Fault Refusal :=
  .next (tollLoadPubkeyOp port slot.toNat s)

/-- Bytes of the wrapped key of a slot (Table 17-2); 0 where LOAD_WRAPPED enters none. -/
def wrappedSize (slot : Nat) : Nat :=
  if 8 ≤ slot ∧ slot ≤ 0x0B then 32 else if slot = 0x0D ∨ slot = 0x0E ∨ slot = 0x0F then 48 else 0

/-- LOAD_WRAPPED (R382, R387). Without a KWK no tag can hold. -/
def tollLoadWrappedOp (p : Port) (slot : Nat) : State → State :=
  service p ⟨some .mgr, true, slot == 0x0F⟩ (fun s =>
    let n := wrappedSize slot
    let w := tollInput s p (28 + n)
    let opened := match s.toll.fuses.kwk with
      | some k => gcmOpen k (w.take 12) [BitVec.ofNat 8 slot, BitVec.ofNat 8 n, 0, 0] (slice w 12 (12 + n)) (w.drop (12 + n))
      | none => none
    if n = 0 then tollResult 9 p s
    else if s.toll.fuses.revoke then tollResult 8 p s
    else if slotSigning s slot then tollResult 5 p s
    else match opened with
      | some k => tollResult 0 p (enterKey slot k s)
      | none => tollResult 3 p s)

/-- LOAD_WRAPPED. -/
def execTollLoadWrapped (port : Port) (slot : Byte) (s : State) : Host.Outcome State Fault Refusal :=
  .next (tollLoadWrappedOp port slot.toNat s)

/-- GENKEY (R383): after a reseeding (R385), a fresh key in slot 0x0C, or, when the pairwise consistency test fails, an empty slot and
the error state. A continuous test that fails at the reseeding ends it with ERROR before it draws a key (R386). -/
def tollGenkeyOp (p : Port) (consistent : Bool) : State → State :=
  service p ⟨some .mgr, true, false⟩ (fun s =>
    let s0 := reseedDrbg s
    if slotSigning s 0x0C then tollResult 5 p s
    else if s0.toll.errorState then tollResult 6 p s0
    else if consistent then tollResult 0 p (enterKey 0x0C (beBytes 48 (drbgScalar s0)) (scalarNext s0))
    else tollResult 6 p (tollError (scalarNext { s0 with toll := { s0.toll with slots := sput s0.toll.slots 0x0C none } })))

/-- GENKEY. -/
def execTollGenkey (port : Port) (consistent : Bool) (s : State) : Host.Outcome State Fault Refusal :=
  .next (tollGenkeyOp port consistent s)

/-- CLEAR_SLOT. -/
def tollClearSlotOp (p : Port) (slot : Nat) : State → State :=
  service p ⟨some .mgr, true, false⟩ (fun s =>
    if 16 ≤ slot then tollResult 9 p s
    else if slotSigning s slot then tollResult 5 p s
    else tollResult 0 p { s with toll := { s.toll with slots := sput s.toll.slots slot none } })

/-- CLEAR_SLOT. -/
def execTollClearSlot (port : Port) (slot : Byte) (s : State) : Host.Outcome State Fault Refusal :=
  .next (tollClearSlotOp port slot.toNat s)

/-- FIELD_LOCK (R394): only with 0x4B43_4F4C in TOLL_DATA. -/
def tollFieldLockOp (p : Port) : State → State :=
  service p ⟨some .mgr, true, false⟩ (fun s =>
    if leNat (tollInput s p 4) = 0x4B434F4C then
      tollResult 0 p { s with toll := { s.toll with fuses := { s.toll.fuses with lock := true } } }
    else tollResult 9 p s)

/-- FIELD_LOCK. -/
def execTollFieldLock (port : Port) (s : State) : Host.Outcome State Fault Refusal := .next (tollFieldLockOp port s)

/-! ## Zeroisation (R387, R393) -/

/-- The overwrite of R387 step 1: slots, the DRBG state, sessions, nonces, captures. -/
def eraseKeys (permanent : Bool) (s : State) : State :=
  { s with
    rtv := { s.rtv with posts := s.rtv.posts.filter (fun p => !p.1.isCert) }
    toll := { endSessions s.toll with
      slots := [], drbg := .blank s.toll.drbg.seeds, busy := .none, waitSelftest := none, zeroised := true, cert := certReset s,
      fuses := { s.toll.fuses with revoke := s.toll.fuses.revoke || permanent } } }

/-- A service that a zeroisation ends has RESULT ZEROISED; a verification ends without a report (R384, R387). -/
def endServices (s : State) : State :=
  let s1 := match s.toll.busy with | .selftest p => tollResult 7 p s | _ => s
  let s2 := match s.toll.waitSelftest with | some p => tollResult 7 p s1 | none => s1
  let s3 := { s2 with toll := { s2.toll with waitSelftest := none } }
  if s.man.stage = .verifying then { s3 with man := { s3.man with stage := .empty, staged := [], stagedConf := none } } else s3

/-- ZEROISE and ZEROISE_PERMANENT end the running service and overwrite the store, which takes 4,096 cycles. ZEROISE asked for while the
main side is down overwrites the keys at once and has its cold reset at the next start-up (R419); so it does while a thermal trip has
stopped CLK_CORE (log entry 176). One asked for while a zeroisation runs finds slot 0x0F empty (R381). -/
def tollZeroiseOp (p : Port) (permanent : Bool) (s : State) : State :=
  let run := fun (t : State) =>
    if mainStopped t then
      (if permanent then tollResult 5 p t
       else if p = .mgr then
         (if (keySlot t 0x0F).key.isEmpty then tollResult 2 p t
          else tollResult 0 p (eraseKeys false { t with pwr := { t.pwr with zeroisePending := true } }))
       else t)
    else if t.toll.errorState then tollResult 6 p t
    else if p = .host then tollResult 1 p t
    else if (keySlot t 0x0F).key.isEmpty then tollResult 2 p t
    else if permanent && !(tollPort t p).auth then tollResult 2 p t
    else
      let t1 := eraseKeys permanent (endServices t)
      tollResult 0 p { t1 with toll := { t1.toll with busy := .zeroise permanent } }
  if p = .host then (if mainStopped s then s else guarded .host 8 run s) else run (dropHeld .mgr s)

/-- ZEROISE. -/
def execTollZeroise (port : Port) (s : State) : Host.Outcome State Fault Refusal := .next (tollZeroiseOp port false s)

/-- ZEROISE_PERMANENT. -/
def execTollZeroisePermanent (port : Port) (s : State) : Host.Outcome State Fault Refusal :=
  .next (tollZeroiseOp port true s)

/-- ZEROISE_END (R387): the store is overwritten by now and the main side has a cold reset; ledger and repair table stay. -/
def execZeroiseEnd (s : State) : Host.Outcome State Fault Refusal :=
  .next (if mainStopped s then s else match s.toll.busy with
    | .zeroise perm => coldReset false (eraseKeys perm s)
    | _ => s)

/-- DEBUG_INSTRUMENT_ENABLE (R393, R394): the Tollhouse zeroises first and APPROVED is cleared; with the field lock in
the fuse shadow the wrapper selects BYPASS. -/
def execDebugInstrumentEnable (s : State) : Host.Outcome State Fault Refusal :=
  .next (if s.toll.shadow.lock then s
    else
      let s1 := coldReset false (eraseKeys false (endServices s))
      { s1 with toll := { s1.toll with approved := false } })

/-! ## Certificates (R390–R392) -/

/-- The slot of a certificate mode. -/
def certSlot (hmac : Bool) : Nat := if hmac then 0x0D else 0x0C

/-- CERT_ARM (R390). TOLL_CERT_ADDR is in units of 512 bytes, so it is aligned. -/
def certArmOp (p : Port) : State → State :=
  service p ⟨some .host, true, false⟩ (fun s =>
    let c := s.toll.cert
    let c0 := c.range0 / 2 ^ 16
    let c1 := c.range1 / 2 ^ 16
    let slotOk := match s.man.active with
      | some m => !(keySlot s (certSlot m.certHmac)).key.isEmpty
      | none => false
    if (s.crs.firstOpen || decide (s.crs.crossing < c0)) && decide (c0 ≤ c1) && slotOk &&
        !certLive c then
      tollResult 0 p { s with toll := { s.toll with cert := { c with
        state := 1, cause := 0, dest := c.addr / 512 * 512, c0 := c0, c1 := c1, lVec := c.range0 % 2 ^ 16, lOut := c.range1 % 2 ^ 16,
        lIn := c.lInHigh * 512 + c.addr % 512, captured := none, tvd := [], vec := none, inp := none, outp := none } } }
    else tollResult 9 p s)

/-- CERT_ARM. -/
def execCertArm (port : Port) (s : State) : Host.Outcome State Fault Refusal := .next (certArmOp port s)

/-- CERT_CANCEL (R390). With nothing to cancel it is BAD_ARG. One that waits to be written is written no more (R392, log entry 150). -/
def certCancelOp (p : Port) : State → State :=
  service p ⟨some .host, true, false⟩ (fun s =>
    if certLive s.toll.cert then tollResult 0 p (endCert 6 0 s)
    else tollResult 9 p s)

/-- CERT_CANCEL. -/
def execCertCancel (port : Port) (s : State) : Host.Outcome State Fault Refusal := .next (certCancelOp port s)

/-- One table record of R391. -/
def tableRecord (s : State) (c l : Nat) : List Byte :=
  leBytes 6 c ++ leBytes 2 l ++
    ((List.range 32).map (fun cl => ((List.range 16).map (fun sl =>
      let t := tblOf s cl
      let img := imageAt s cl t.phys sl
      leBytes 1 (bit (slotValid s cl sl)) ++ leBytes 8 (imgShapeId img) ++ leBytes 4 (imgCheck img))).flatten)).flatten

/-- Replace the certificate. -/
def setCert (c : CertUnit) (s : State) : State := { s with toll := { s.toll with cert := c } }

/-- The opening of C0: the tag is taken, with the first table record (R391). -/
def certOpening (s : State) : State :=
  let c := s.toll.cert
  if c.state = 1 ∧ c.c0 = s.crs.crossing then
    let job := match s.man.active with
      | some m => some ⟨m.tag, m.digest, m.jobId, m.certHmac⟩
      | none => none
    setCert { c with state := 2, captured := job, tvd := [(s.crs.crossing, 0, tableRecord s s.crs.crossing 0)] } s
  else s

/-- A table record at a landing where a swap has taken effect (R391): one for the landing, beside the opening's. -/
def certSwap (l : Nat) (s : State) : State :=
  let c := s.toll.cert
  if c.state = 2 ∧ s.crs.crossing ≤ c.c1 then
    let kept := c.tvd.take 1 ++ (c.tvd.drop 1).filter (fun x => !(x.1 == s.crs.crossing && x.2.1 == l))
    setCert { c with tvd := kept ++ [(s.crs.crossing, l, tableRecord s s.crs.crossing l)] } s
  else s

/-- An application has changed the tag before C1 ends (R391): a certificate that is capturing, or already being signed and written because its
landings have committed, ends. -/
def certApplied (l : Nat) (s : State) : State :=
  let c := s.toll.cert
  if (c.state = 2 ∨ c.state = 3) ∧ (s.crs.crossing < c.c1 ∨ (s.crs.crossing = c.c1 ∧ l ≠ 0xFFFF)) ∧
      (c.captured.map (·.tag)) ≠ some (activeTag s) then
    endCert 5 1 s
  else s

/-- The store digest of a named segment is taken when it closes clean, pending (R391). `k` is the segment; at a crossing
end `cross` is the store crossing digest. -/
def certClose (k store : Nat) (invalid : Bool) (cross : Option (Nat × Bool)) (s : State) : State :=
  let c := s.toll.cert
  let x := s.crs.crossing
  if c.state ≠ 2 then s
  else
    let take := fun (cr l : Nat) (old : Option (Nat × Bool)) =>
      if cr = x ∧ l = k ∧ ¬invalid then some (store, false) else old
    let o := match cross with
      | some (w, inv) => if c.c1 = x ∧ c.lOut = 0xFFFF ∧ ¬inv then some (w, false) else take c.c1 c.lOut c.outp
      | none => take c.c1 c.lOut c.outp
    setCert { c with vec := take c.c0 c.lVec c.vec, inp := take c.c0 c.lIn c.inp, outp := o } s

/-- The first 192 bytes of a certificate (Table 17-4). -/
def certBody (c : CertUnit) (j : CertJob) (engine : Nat) : List Byte :=
  let dig := fun (v : Option (Nat × Bool)) => leBytes 16 ((v.map (·.1)).getD 0)
  asciiBytes "JQC1" ++ leBytes 1 (bit j.hmac) ++ leBytes 3 0 ++ leBytes 8 j.jobId ++ j.digest ++
    sha384 ((c.tvd.map (fun x => x.2.2)).flatten) ++ dig c.vec ++ dig c.inp ++ dig c.outp ++ leBytes 6 c.c0 ++
    leBytes 6 c.c1 ++ leBytes 2 c.lVec ++ leBytes 2 c.lIn ++ leBytes 2 c.lOut ++ leBytes 6 engine ++ leBytes 8 c.serial

/-- Sign the certificate and hand it to the Retriever (R392). A key that is gone ends it with CAUSE KEY; a failed reseeding of the DRBG
has ended it with CAUSE ERROR (R386). -/
def certSign (s : State) : State :=
  let c := s.toll.cert
  match c.captured with
  | none => s
  | some j =>
    let slot := certSlot j.hmac
    let key := (keySlot s slot).key
    if key.isEmpty then endCert 5 4 s
    else
      let s0 := if j.hmac then s else drbgDue s
      let body := certBody c j (s.toll.fuses.serial % 2 ^ 48)
      let rs := ecdsaSign (beNat key) (drbgScalar s0) (sha384 body)
      let tail := if j.hmac then hmac384 key body ++ List.replicate 48 0#8 else beBytes 48 rs.1 ++ beBytes 48 rs.2
      let s1 := countUse slot (if j.hmac then s0 else scalarNext s0)
      if s0.toll.errorState then s0
      else setCert { c with state := 3 } { s1 with rtv := { s1.rtv with
        posts := s1.rtv.posts ++ [(.cert c.serial, recordBlock c.dest (body ++ tail))] } }

/-- A landing has committed: pending values of the segment it closed become final, and once every landing of C1 up to
the output segment has committed the certificate is signed (R391, R392). -/
def certCommit (c l : Nat) (closes : Option Nat) (s : State) : State :=
  let x := s.toll.cert
  if x.state ≠ 2 then s
  else
    let fin := fun (cr k : Nat) (v : Option (Nat × Bool)) =>
      match v with
      | some (w, _) => if cr = c ∧ (closes = some k ∨ (k = 0xFFFF ∧ l = 0xFFFF)) then some (w, true) else v
      | none => none
    let s1 := setCert { x with vec := fin x.c0 x.lVec x.vec, inp := fin x.c0 x.lIn x.inp, outp := fin x.c1 x.lOut x.outp } s
    if c = x.c1 ∧ (x.lOut < l ∨ l = 0xFFFF) then certSign s1 else s1

/-- CERTIFICATE_WRITTEN (R392): written, or CAUSE WRITE; the serial rises for each certificate written. -/
def execCertificateWritten (fault : Bool) (s : State) : Host.Outcome State Fault Refusal :=
  let c := s.toll.cert
  let open' := s.rtv.posts.any (fun p => p.1 == .cert c.serial) || s.rtv.out.any (fun q => q.owner == .cert c.serial)
  .next (if mainStopped s then s else if c.state = 3 ∧ ¬open' then
      setCert (if fault then { c with state := 5, cause := 3 } else { c with state := 4, serial := c.serial + 1 }) s
    else s)

end Sys2Proof.Machine
end

