-- ==== Sys2Proof/Machine/Mirror.lean ====
section
/-! DEFINITION. Sending by the towline, the partner mirror and its restore (R323, R333, R339 to R342), and the
comparison of partners' digests (R354). -/

namespace Sys2Proof.Machine

/-! ## Bursts (R323, R333) -/

/-- Bursts of a message (R326). -/
def burstsOf (bytes : Nat) : Nat := ceilDiv bytes 512

/-- REMOTE tags held (R291). -/
def remoteOut (s : State) : Nat := (s.tow.tx.map (·.out)).sum

/-- Hand free REMOTE tags to the bursts still to be sent, in the order of the messages. -/
def pumpTx : Nat → List TxMsg → List TxMsg
  | _, [] => []
  | free, t :: rest =>
    let n := min free t.left
    { t with left := t.left - n, out := t.out + n } :: pumpTx (free - n) rest

/-- Send what the 512 REMOTE tags allow. -/
def pump (s : State) : State := { s with tow := { s.tow with tx := pumpTx (512 - remoteOut s) s.tow.tx } }

/-- Bytes of a snapshot (Table 14-6): the control part at its largest size, the bitmap and records, 4 KiB for every held
slipway of a cluster, the table names and the range. -/
def snapBytes (n : Snapshot) : Nat :=
  4096 + 1024 + 96 * n.accs.length + 4096 * 32 * (n.holds.filter Option.isSome).length + 16384 + 64 * n.range.length

/-- Bytes of a message: its header and payload; a MIRROR message begins with its control part, which holds the header (Table 14-6). -/
def msgBytes (m : TowMsg) : Nat :=
  match m.snap with
  | some n => snapBytes n + (if m.kind = 5 then 0 else 64)
  | none => 64 + m.payload.length

/-- Bursts of a towline message (R326). -/
def towBursts (m : TowMsg) : Nat := burstsOf (msgBytes m)

/-- Queue a message. -/
def sendMsg (m : TowMsg) (owner : Option (Nat × Nat × Nat)) (relay : Bool) (s : State) : State :=
  pump { s with tow := { s.tow with
    tx := s.tow.tx ++ [⟨s.tow.nextId, towBursts m, 0, 0, owner, m, relay⟩], nextId := s.tow.nextId + 1 } }

/-- Whether a message in flight is the engine's own mirror snapshot. -/
def TxMsg.mirror (t : TxMsg) : Bool := t.msg.kind == 5 && !t.relay

/-- Whether a mirror snapshot is still sending (R340). -/
def mirrorSending (s : State) : Bool := s.tow.tx.any TxMsg.mirror

/-- R340: a queued snapshot read begins once the previous snapshot is through. -/
def nextSnapshot (s : State) : State :=
  match s.tow.snapQueued with
  | n :: rest =>
    if s.tow.reading.isNone && !mirrorSending s then { s with tow := { s.tow with reading := some n, snapQueued := rest } }
    else s
  | [] => s

/-- A message whose bursts have all been acknowledged is through. -/
def txDone (t : TxMsg) : Bool := t.left == 0 && t.out == 0 && t.waiting == 0

/-- Change one message in flight, drop it when it is through, and send on. -/
def txUpdate (id : Nat) (f : TxMsg → TxMsg) (s : State) : State :=
  nextSnapshot (pump { s with tow := { s.tow with
    tx := (s.tow.tx.map (fun t => if t.id = id then f t else t)).filter (fun t => !txDone t) } })

/-- BURST_ACK (R323): a burst's acknowledgement returns its REMOTE tag. -/
def execBurstAck (id : Nat) (s : State) : Host.Outcome State Fault Refusal :=
  .next (if mainStopped s then s else txUpdate id (fun t => { t with out := t.out - 1 }) s)

/-- BURST_REFUSED (R333): the tag returns and the burst waits 1,024 cycles. While a reset drains nothing is sent again (R374, R413). -/
def execBurstRefused (id : Nat) (s : State) : Host.Outcome State Fault Refusal :=
  .next (if mainStopped s then s else txUpdate id (fun t => if 0 < t.out then
      { t with out := t.out - 1, waiting := t.waiting + if s.pwr.draining.isSome then 0 else 1 } else t) s)

/-- BURST_RESEND (R333): the burst is sent again under a free tag. -/
def execBurstResend (id : Nat) (s : State) : Host.Outcome State Fault Refusal :=
  .next (if mainStopped s then s
    else txUpdate id (fun t => if 0 < t.waiting then { t with waiting := t.waiting - 1, left := t.left + 1 } else t) s)

/-- Bursts in the receive buffer: partial messages, held messages, held snapshots, and forward messages that wait for the member's own
record (R333). -/
def rxUsed (s : State) : Nat :=
  s.tow.rxPartial + (s.tow.held.map towBursts).sum + (s.tow.heldRestore.map towBursts).sum +
    (s.tow.heldSnaps.map (fun n => burstsOf (snapBytes n))).sum +
    (s.cq.entries.map (fun e => (e.tow.map (fun t => match t.fwdHeld with | some p => burstsOf (64 + p.length) | none => 0)).sum)).sum

/-- A message is whole: its bursts leave the partial count. -/
def rxWhole (b : Nat) (s : State) : State := { s with tow := { s.tow with rxPartial := s.tow.rxPartial - b } }

/-! ## Places (R319 to R322) -/

/-- The engine's own place. -/
def ownPlace (s : State) : TowPlace :=
  ⟨s.tow.package, match s.man.active with
    | some m => (m.engines.getD s.tow.position default).ring
    | none => 0⟩

/-- The partner's place (R24, R340): an engine of the same package. -/
def partnerPlace (s : State) : TowPlace :=
  ⟨s.tow.package, match s.man.active with
    | some m => (m.engines.getD (m.engines.getD s.tow.position default).partner default).ring
    | none => 0⟩

/-- The ring positions of a group's members on one package, in ascending order (R321). -/
def groupRings (s : State) (g : Nat) : List Nat :=
  match s.man.active with
  | some m => sortByKey id ((m.engines.filter (fun x => x.groups.testBit (g - 1))).map (·.ring))
  | none => []

/-- The place of a member by its chain position (R321): the inverse of its definition. -/
def memberPlace (s : State) (g cp : Nat) : TowPlace :=
  let rings := groupRings s g
  let first := match s.man.active with | some m => (m.groups.getD (g - 1) default).first | none => 0
  ⟨first + cp / max 1 rings.length, rings.getD (cp % max 1 rings.length) 0⟩

/-- A message to the partner (R340, R342). -/
def partnerMsg (s : State) (tag crossing landing kind : Nat) (snap : Option Snapshot) : TowMsg :=
  { tag := tag, crossing := crossing, landing := landing, kind := kind, group := 0, ret := false, isVoid := false, reason := 0, senderCp := 0,
    coll := 0, rows := 0, rowBlock := 0, source := ownPlace s, dest := partnerPlace s, payload := [], snap := snap }

/-! ## Snapshots (R339) -/

/-- The table names of Table 14-6: per cluster, bank role (active, shadow) and slot. -/
def tableNames (s : State) : List TableName :=
  ((List.range 32).map (fun c =>
    let t := tblOf s c
    ([false, true].map (fun sh => (List.range 16).map (fun sl =>
      let b := if sh then !t.phys else t.phys
      let img := imageAt s c b sl
      { cluster := c, shadow := sh, slot := sl, shapeId := imgShapeId img, check := imgCheck img,
        valid := (t.valid b &&& slotBit sl) != 0, gen := t.gen }))).flatten)).flatten

/-- The LDG_ registers by kind × 32 + berth: accepted, completed, committed, and the two prior counts; and under 160 and 161 the crossing and
the landing of LDG_COMMITTED (Table 19-3). -/
def ledgerRegs (k : Keep) : List (Nat × Nat) :=
  let shift := fun (n : Nat) (xs : List (Nat × Nat)) => xs.map (fun x => (32 * n + x.1, x.2))
  shift 0 k.accepted ++ shift 1 k.completed ++ shift 2 k.commitSeq ++ shift 3 k.priorAccepted ++ shift 4 k.priorCompleted ++
    [(160, k.committed.1), (161, k.committed.2)]

/-- The lines of the mirrored range with their marks. -/
def rangeLines (s : State) : List RangeLine :=
  (List.range (64 * s.tow.mirrorPages)).map (fun i =>
    let a := 4096 * s.tow.mirrorBase + 64 * i
    ⟨a, (List.range 64).map (fun j => spByte s (a + j)), lineMarked s (a / 64)⟩)

/-- An accumulator entry with a count, a reference exponent or a state bit is in the snapshot. -/
def accLive (r : AccRec) : Bool := r.count != 0 || r.rho != 0 || r.st != 0

/-- Whether a slipway is held: key cluster × 2 + (0 A, 1 B). -/
def slipHeld (s : State) (key : Nat) : Bool := if key % 2 = 0 then s.arr.holdA.isSome else s.arr.holdB.isSome

/-- The snapshot of a landing (Table 14-6), with the digest records it carries. -/
def snapshotOf (s : State) (c l : Nat) (seg cross : Option DigRec) : Snapshot :=
  { tag := activeTag s, crossing := c, landing := l, segment := seg, cross := cross, ledger := ledgerRegs s.keep,
    vlens := s.cq.vlen, holds := [s.arr.holdA, s.arr.holdB], colls := s.tow.coll,
    accs := s.arr.accs.filter (fun a => accLive a.2), slips := s.arr.slips.filter (fun x => slipHeld s x.1),
    tables := tableNames s, range := rangeLines s }

/-- A MIRROR action takes its snapshot (R45 step 4); the read waits for the previous snapshot (R340). -/
def takeSnapshot (c l : Nat) (seg cross : Option DigRec) (s : State) : State :=
  nextSnapshot { s with tow := { s.tow with snapQueued := s.tow.snapQueued ++ [snapshotOf s c l seg cross] } }

/-- MIRROR_SNAPSHOT_READ_END (R339, R340): the send buffer sends the snapshot to the partner, header first. Its reads correct and find errors
as others do (R311, R312). -/
def execMirrorSnapshotReadEnd (s : State) (err : ReadErr := .none) : Host.Outcome State Fault Refusal :=
  .next (if mainStopped s then s else match s.tow.reading with
    | none => s
    | some n =>
      let e := err.within (fun a => n.range.any (fun x => x.addr / 64 == a / 64))
      let s1 := readMeets e s
      let bad := e.lost.map (· / 64)
      let m := { n with range := n.range.map (fun x => { x with mark := x.mark || bad.contains (x.addr / 64) }) }
      sendMsg (partnerMsg s n.tag n.crossing n.landing 5 (some m)) none false { s1 with tow := { s1.tow with reading := none } })

/-! ## Tags (R332, R336, R341) -/

/-- Whether an application is armed or timetabled for this engine (R59, R332). -/
def applicationDue (s : State) : Bool :=
  s.man.apply != .none || (match s.man.active with
    | some m => m.times.any (fun t => t.action == 1 && !landingPast s t.crossing t.landing)
    | none => false)

/-- A tag equal to MAN_STAGED_TAG while an application is armed or timetabled: held (R59, R336). -/
def stagedTagHeld (s : State) (tag : Nat) : Bool :=
  (match s.man.stagedConf with | some _ => s.man.stage == .verified | none => false) && tag == stagedTag s && applicationDue s

/-- The tag active before the latest application, for a landing before that application (R332, R341). -/
def priorTagOk (s : State) (tag c l : Nat) : Bool :=
  match s.man.prior with
  | some (t, pc, pl) => tag == t && landingLe c l pc pl && !(c == pc && l == pl)
  | none => false

/-- What the tag check of R332 decides: go on, hold, discard silently (a MIRROR burst goes on, R341), refuse. -/
inductive TagCheck where
  | go | hold | prior | refuse
deriving DecidableEq, Repr

/-- R332 step 1. -/
def tagCheck (s : State) (tag c l : Nat) : TagCheck :=
  if s.man.active.isSome ∧ tag = activeTag s then .go
  else if stagedTagHeld s tag then .hold
  else if priorTagOk s tag c l then .prior
  else .refuse

/-- A refused message of the partner (R59, R332, R341): MISMATCH with the tag received. -/
def refusePartner (tag crossing : Nat) (s : State) : State := raise evMismatch none (2 + crossing * 2 ^ 16) tag s

/-- A refused restore message (R332): MISMATCH of the towline. -/
def refuseRestore (m : TowMsg) (s : State) : State := raise evMismatch none (1 + m.crossing * 2 ^ 16) m.tag s

/-- The crossing difference d of R58. -/
def crossingDiff (s : State) (c : Nat) : Int := (c : Int) - s.crs.crossing

/-! ## Receiving a partner's snapshot (R341, R354) -/

/-- R354: what a partner's header says of its landing, for the protection level in force: the record compared. Under the unprotected level
only the crossing record counts. -/
def snapshotRecord (s : State) (n : SnapHead) : Option DigRec := if protection s = 0 then n.cross else n.segment

/-- The comparison on arrival of a header. -/
def comparePartner (n : SnapHead) (s : State) : State :=
  match snapshotRecord s n with
  | none => s
  | some r =>
    let x := match n.cross with
      | some x => x.differ || x.invalid
      | none => false
    let clean := !(r.differ || r.invalid || x)
    let s1 := { s with tow := { s.tow with partnerRecs := setRec n.crossing n.landing clean s.tow.partnerRecs } }
    if clean then s1
    else mismatchDigest r.crossing r.landing true { s1 with dgst := { s1.dgst with partnerDiffer := true } }

/-- PENDING becomes COMMITTED once LDG_COMMITTED reaches its landing (R341). -/
def promotePartner (s : State) : State :=
  match s.tow.slotPending with
  | some p =>
    if landingLe p.crossing p.landing s.keep.committed.1 s.keep.committed.2 && s.keep.crossCopy.isSome then
      { s with tow := { s.tow with slotCommitted := some p, slotPending := none } }
    else s
  | none => s

/-- A header is refused (R341): MISMATCH, once, and the snapshot's other bursts are discarded. -/
def refuseHead (h : SnapHead) (s : State) : State :=
  refusePartner h.tag h.crossing { s with tow := { s.tow with rxHead := some ⟨h, .drop, 0⟩ } }

/-- What R341 does with a header whose tag is let through: by Table 2-6 the snapshot goes to PENDING, and its digests are compared now, or
with d = +1 when its crossing opens; or it is refused. -/
def acceptHead (h : SnapHead) (s : State) : State :=
  let d := crossingDiff s h.crossing
  let take := { s with tow := { s.tow with rxHead := some ⟨h, .take, 0⟩, slotPending := none } }
  if d = 0 ∨ d = -1 then comparePartner h take
  else if d = 1 then { take with tow := { take.tow with waitRecs := take.tow.waitRecs ++ [h] } }
  else refuseHead h s

/-- A header arrives (R341): its tag lets it through, holds the snapshot in the buffer (R59), or refuses it; what follows of the snapshot goes
the same way. -/
def receiveHead (h : SnapHead) (s : State) : State :=
  match tagCheck s h.tag h.crossing h.landing with
  | .go | .prior => acceptHead h s
  | .hold => { s with tow := { s.tow with rxHead := some ⟨h, .hold, 0⟩ } }
  | .refuse => refuseHead h s

/-- The bursts that a snapshot still arriving holds in the buffer leave it. -/
def dropArriving (s : State) : State :=
  match s.tow.rxHead with
  | some r => { rxWhole r.parts s with tow := { (rxWhole r.parts s).tow with rxHead := none } }
  | none => s

/-- The first burst of a snapshot: one that is to be held needs room. -/
def headBurst (h : SnapHead) (s : State) : State :=
  let s0 := dropArriving s
  if tagCheck s h.tag h.crossing h.landing = .hold then
    (if 1024 ≤ rxUsed s0 then s
     else { s0 with tow := { s0.tow with rxPartial := s0.tow.rxPartial + 1, rxHead := some ⟨h, .hold, 1⟩ } })
  else receiveHead h s0

/-- A further burst of the snapshot that is arriving; without one it is discarded (log entry 191). -/
def partBurst (s : State) : State :=
  match s.tow.rxHead with
  | some r =>
    if r.fate ≠ .hold ∨ 1024 ≤ rxUsed s then s
    else { s with tow := { s.tow with rxPartial := s.tow.rxPartial + 1, rxHead := some { r with parts := r.parts + 1 } } }
  | none => s

/-- TOWLINE_BURST_RECEIVED (R323, R333, R341): acknowledged into the buffer, or refused when the 1,024 bursts are used. The bursts of a
snapshot that has been let through go to PENDING, those of a refused one are discarded: neither takes buffer. Bursts that arrive while a
reset drains are discarded (R413). -/
def execTowBurstReceived (s : State) (burst : Burst := .part) : Host.Outcome State Fault Refusal :=
  let add := fun (t : State) => if 1024 ≤ rxUsed t then t else { t with tow := { t.tow with rxPartial := t.tow.rxPartial + 1 } }
  .next (if mainStopped s ∨ s.pwr.draining.isSome then s
    else match burst with
      | .part => add s
      | .mirrorPart => partBurst s
      | .mirrorHead h => headBurst h s)

/-- PENDING is complete (R341). -/
def storePending (n : Snapshot) (s : State) : State :=
  promotePartner { s with tow := { s.tow with slotPending := some n, rxHead := none } }

/-- What becomes of a whole snapshot, by what its header decided: to PENDING, among those held, or discarded. -/
def settleSnapshot (n : Snapshot) (r : RxSnap) (s : State) : State :=
  match r.fate with
  | .take => storePending n s
  | .hold => let t := dropArriving s; { t with tow := { t.tow with heldSnaps := t.tow.heldSnaps ++ [n] } }
  | .drop => dropArriving s

/-- The header of a whole snapshot, where the snapshot that is arriving is another or none: it is handled now. -/
def headNow (n : Snapshot) (s : State) : State :=
  match s.tow.rxHead with
  | some r => if r.head = n.head then s else receiveHead n.head (dropArriving s)
  | none => receiveHead n.head s

/-- A partner's snapshot is whole (R341). -/
def receiveSnapshot (n : Snapshot) (s : State) : State :=
  let t := headNow n s
  match t.tow.rxHead with
  | some r => settleSnapshot n r t
  | none => t

/-- MIRROR_RECEIVED. -/
def execMirrorReceived (snap : Snapshot) (s : State) : Host.Outcome State Fault Refusal :=
  .next (if mainStopped s ∨ s.pwr.draining.isSome then s else receiveSnapshot snap s)

/-! ## Restore (R342) -/

/-- Write one restored line with its mark. -/
def restoreLine (s : State) (x : RangeLine) : State :=
  setMark (x.addr / 64) x.mark { s with sp := { s.sp with mem := sblit 0 s.sp.mem x.addr x.bytes } }

/-- The restore of a snapshot (R342): accumulators, the held slipways and their holds, and the mirrored range; the table names are compared.
A slipway that the snapshot does not hold keeps its content. It writes no ledger, register or table. -/
def restoreFrom (n : Snapshot) (s : State) : State :=
  let held := fun (k : Nat) => (n.holds.getD (k % 2) none).isSome
  let s1 := { s with arr := { s.arr with
    accs := n.accs.foldl (fun m x => sset ⟨0, 0, 0, 0⟩ m x.1 x.2) [], holdA := n.holds.getD 0 none, holdB := n.holds.getD 1 none
    slips := (List.range 64).foldl (fun m k => if held k then sset [] m k (sget [] n.slips k) else m) s.arr.slips } }
  let s2 := n.range.foldl restoreLine s1
  { s2 with tow := { s2.tow with restore := if n.tables = tableNames s then 2 else 6 } }

/-- TOW_CTL.RESTORE: a RESTORE_REQ leaves for the partner, or NOT_IDLE. Its header has the requester's crossing (Table 14-3); it asks for the
requester's LDG_COMMITTED (log entry 171). -/
def restoreOp (s : State) : State :=
  if s.man.active.isSome ∧ ¬s.cq.takenSinceApply then
    sendMsg { partnerMsg s (activeTag s) s.crs.crossing s.keep.committed.2 6 none with place := some s.keep.committed } none false
      { s with tow := { s.tow with restore := 1 } }
  else { s with tow := { s.tow with restore := 5 } }

/-- RESTORE; needs permission bit 4. -/
def execRestore (port : Port) (s : State) : Host.Outcome State Fault Refusal := .next (onMain port 4 restoreOp s)

/-- The answer to a RESTORE_REQ (R342): the COMMITTED slot when it is the requester's committed landing; otherwise no snapshot, but the landing
of the slot where there is one (log entry 171). -/
def answerRestore (crossing landing : Nat) (s : State) : State :=
  let slot := s.tow.slotCommitted.filter (fun n => n.crossing == crossing && n.landing == landing)
  sendMsg { partnerMsg s (activeTag s) s.crs.crossing landing 7 slot with place := s.tow.slotCommitted.map (fun n => (n.crossing, n.landing)) }
    none false s

/-- A RESTORE_REQ (R332, R342): the tag alone is checked. -/
def receiveReq (m : TowMsg) (s : State) : State :=
  match tagCheck s m.tag m.crossing m.landing with
  | .go => answerRestore (m.place.getD (m.crossing, m.landing)).1 (m.place.getD (m.crossing, m.landing)).2 s
  | .hold => { s with tow := { s.tow with heldRestore := s.tow.heldRestore ++ [m] } }
  | .prior => s
  | .refuse => refuseRestore m s

/-- The outcome of an answer that is taken (R342, Table 14-9): done, TABLES_DIFFER, NONE, or LANDING for a slot of another landing. Nothing is
running: discarded. -/
def takeRestore (slot : Option Snapshot) (place : Option (Nat × Nat)) (s : State) : State :=
  if s.tow.restore ≠ 1 then s
  else match slot with
    | none => { s with tow := { s.tow with restore := if place.isSome then 4 else 3 } }
    | some n =>
      if n.crossing = s.keep.committed.1 ∧ n.landing = s.keep.committed.2 then restoreFrom n s
      else { s with tow := { s.tow with restore := 4 } }

/-- A RESTORE_DATA (R332): its tag, and its crossing by Table 2-6 as of a message of the partner (log entry 114). -/
def receiveData (m : TowMsg) (s : State) : State :=
  let hold := { s with tow := { s.tow with heldRestore := s.tow.heldRestore ++ [m] } }
  match tagCheck s m.tag m.crossing m.landing with
  | .go =>
    let d := crossingDiff s m.crossing
    if d = 0 ∨ d = -1 then takeRestore m.snap m.place s else if d = 1 then hold else refuseRestore m s
  | .hold => hold
  | .prior => s
  | .refuse => refuseRestore m s

/-- RESTORE_REQ. -/
def execRestoreReq (tag crossing landing : Nat) (s : State) : Host.Outcome State Fault Refusal :=
  .next (if mainStopped s ∨ s.pwr.draining.isSome then s
    else receiveReq { partnerMsg s tag crossing landing 6 none with
      source := partnerPlace s, dest := ownPlace s, place := some (crossing, landing) } (rxWhole 1 s))

/-- RESTORE_DATA. -/
def execRestoreData (slot : Option Snapshot) (s : State) (tag : Nat := 0) (crossing : Nat := 0) (place : Option (Nat × Nat) := none) :
    Host.Outcome State Fault Refusal :=
  let m := { partnerMsg s tag crossing ((slot.map (·.landing)).getD 0) 7 slot with source := partnerPlace s, dest := ownPlace s, place := place }
  .next (if mainStopped s ∨ s.pwr.draining.isSome then s else receiveData m (rxWhole (towBursts m) s))

/-- A snapshot that is arriving under a held header has its header examined again: let through or refused, its bursts leave the buffer. -/
def reexamineArriving (s : State) : State :=
  match s.tow.rxHead with
  | some r => if r.fate = .hold ∧ tagCheck s r.head.tag r.head.crossing r.head.landing ≠ .hold then receiveHead r.head (dropArriving s) else s
  | none => s

/-- Held snapshots, headers and restore messages are examined again when a crossing opens or an application ends (R59, R341): those of the
current crossing take part in their comparison, and those under the tag now active are handled, whole snapshots before the one that is arriving. -/
def reexamineSnaps (s : State) : State :=
  let due := s.tow.waitRecs.filter (fun n => decide (n.crossing ≤ s.crs.crossing))
  let s1 := due.foldl (fun t n => comparePartner n t)
    { s with tow := { s.tow with waitRecs := s.tow.waitRecs.filter (fun n => !due.contains n) } }
  let s2 := s1.tow.heldSnaps.foldl (fun t n => receiveSnapshot n t) { s1 with tow := { s1.tow with heldSnaps := [], rxHead := none } }
  let s3 := reexamineArriving { s2 with tow := { s2.tow with rxHead := s1.tow.rxHead } }
  s3.tow.heldRestore.foldl (fun t m => if m.kind = 6 then receiveReq m t else receiveData m t) { s3 with tow := { s3.tow with heldRestore := [] } }

end Sys2Proof.Machine
end

