-- ==== Sys2Proof/Machine/Landing.lean ====
section
/-! DEFINITION. The beacon, crossings and landings: decision points, landing duties, full landings, applications,
commitment (chapters 2 and 3, R443). -/

namespace Sys2Proof.Machine

/-! ## The beacon (R32–R36, R409, R410) -/

/-- The 224 bits of a frame as a number, nibble 0 first (R409). -/
def frameNat (ns : BeaconBits) : Nat := ns.foldl (fun a n => 16 * a + n.toNat) 0

/-- A discarded frame, counted since mooring (R35, Table 2-10). -/
def beaconError (s : State) : State :=
  if s.crs.moored then { s with crs := { s.crs with beaconErr := satInc 0xFFFF s.crs.beaconErr } } else s

/-- BEACON_FRAME (R409): 56 nibbles await their effect edge; a frame cut short is discarded. Nothing listens before
mooring begins (Table 18-6), nor before a warm reset has ended its drain (Table 18-7). -/
def execBeaconFrame (nibbles : List (BitVec 4)) (s : State) : Host.Outcome State Fault Refusal :=
  .next (if mainStopped s ∨ ¬mooringOpen s then s
    else if nibbles.length < 56 then beaconError s
    else { s with crs := { s.crs with frames := s.crs.frames ++ [nibbles.take 56] } })

/-- SYNC, TYPE and CRC of a frame (R32, R35). -/
def frameOk (w : Nat) : Bool :=
  bitsOf w 223 216 == 0xA5 && (bitsOf w 215 208 == 1 || bitsOf w 215 208 == 2) &&
    crc16 200 (bitsOf w 215 16) == bitsOf w 15 0

/-- The announcement a frame repeats: crossing and landing. -/
def frameAnn (w : Nat) : Nat × Nat := (bitsOf w 207 160, bitsOf w 159 144)

/-- Record an announcement (R36). Repeats of the latest one change nothing (R33). -/
def recordAnn (w : Nat) (s : State) : State :=
  let a := frameAnn w
  let at' := bitsOf w 143 80
  if s.crs.annSeen ∧ a = s.crs.ann then s
  else { s with crs := { s.crs with ann := a, annTide := at', annSeen := true,
                                    ann0 := if a.2 = 0 then some (a.1, at') else s.crs.ann0,
                                    ann0New := s.crs.ann0New || decide (a.2 = 0) } }

/-- The announcement that the mooring frame repeats is shown and kept; it was made before mooring, so it does not open the
first crossing (R41). -/
def recordMooring (w : Nat) (s : State) : State :=
  let s1 := recordAnn w s
  { s1 with crs := { s1.crs with ann0New := false } }

/-- BEACON_FRAME_EFFECT: on its effect edge a frame moors an unmoored engine (R410), or is recorded or discarded (R35).
The frame that moors is recorded too (log entry 42). -/
def execBeaconFrameEffect (s : State) : Host.Outcome State Fault Refusal :=
  .next (if mainStopped s ∨ s.pwr.draining = some .warm then s else match s.crs.frames with
    | [] => s
    | f :: rest =>
      let w := frameNat f
      let s1 := { s with crs := { s.crs with frames := rest } }
      if !s.crs.moored then
        (if frameOk w then
          settle (recordMooring w { s1 with
            crs := { s1.crs with moored := true, tide := bitsOf w 79 16, beaconErr := 0 }
            pwr := { s1.pwr with moorWait := false } })
         else s1)
      else if frameOk w ∧ bitsOf w 79 16 = s.crs.tide ∧
          ¬(s.crs.annSeen ∧ landingLe (frameAnn w).1 (frameAnn w).2 s.crs.ann.1 s.crs.ann.2 ∧ frameAnn w ≠ s.crs.ann) then
        recordAnn w s1
      else beaconError s1)

/-! ## Decision points (R43, R80) -/

/-- The outcome of an application that falls due, judged at the decision point (R80): a refusal reason, or none. -/
def judgeApplication (s : State) (params : List Nat) : Option Nat :=
  if s.man.stage ≠ .verified then some 0x0B
  else if params.any (fun p => p != stagedTag s / 2 ^ 16) then some 0x0C
  else none

/-- Whether a MAN_APPLY_AT request names a landing of the current crossing. -/
def requested (s : State) (l : Nat) : Bool := s.man.apply == .armed && s.man.applyAt == (s.crs.crossing, l)

/-- What the decision point of a landing fixes (R43), given that an earlier undecided landing takes the staged manifest
(`taken`). -/
def decide' (s : State) (l : Nat) (ll : PendingLL) (taken : Bool) : Decided :=
  let es := matching s l
  let params := (es.filter (fun t => t.action == 1)).map (·.param)
  let due := !params.isEmpty || requested s l
  let refusal := if due then (if taken then some 0x0B else judgeApplication s params) else none
  { landing := l, accepted := s.cq.acceptCount, applyRefused := refusal, applies := due && refusal.isNone, ll := ll,
    full := due || l == 0xFFFF || !ll.isEmpty || es.any (fun t => t.action == 3 || t.action == 4) }

/-- Fix the decision point of one landing. An application that will run makes APPLY_STATE applying; a refused request is
dropped there, with its refusal and no EXPIRED later (DESIGN CHOICE, log entry 178: R80 names no end of the request). -/
def decideOne (s : State) (l : Nat) : State :=
  let d := decide' s l s.crs.pendingLL (s.man.apply == .applying)
  { s with
      crs := { s.crs with decided := s.crs.decided ++ [d], pendingLL := [] }
      man := { s.man with apply := if d.applies then .applying
                                   else if requested s l then .none else s.man.apply } }

/-- The last landing decided, or the last reached. -/
def lastDecided (s : State) : Nat := ((s.crs.decided.getLast?).map (·.landing)).getD s.crs.landing

/-- The landings that a command of index `k` decides when it is taken (R39): each up to its own; a marker of the
crossing end decides that alone. -/
def toDecide (s : State) (k : Nat) : List Nat :=
  let j := lastDecided s
  if k ≤ j then [] else if k = 0xFFFF then [0xFFFF] else (List.range (k - j)).map (fun i => j + 1 + i)

/-- Decide every landing up to `k`, and begin the static copies of the next one (R367). -/
def decideUpTo (k : Nat) (s : State) : State :=
  let s1 := (toDecide s k).foldl decideOne s
  match s1.crs.decided with
  | d :: _ => if s.crs.decided.isEmpty then startCopies d.landing (llValue d.ll llKenReq) s1 else lockLoads s1
  | [] => s1

/-! ## Landing duties (R45, R47) -/

/-- A landing-latched write takes effect (R49). -/
def latchIn (s : State) (p : Nat × Nat) : State :=
  match p.1 with
  | 0 => { s with rtv := { s.rtv with lookahead := p.2 } }
  | 1 => { s with rtv := { s.rtv with readTags := p.2 % 2 ^ 16, writeTags := p.2 / 2 ^ 16 } }
  | 2 => { s with tow := { s.tow with mirrorBase := p.2 % 2 ^ 15, mirrorPages := p.2 / 2 ^ 15 } }
  | 3 => { s with ken := { s.ken with req := p.2 } }
  | r => { s with tow := { s.tow with berthGroup := sset 0 s.tow.berthGroup (r - 32) p.2 } }

/-- What the actions of one landing collect: the regions rotated and the in-line tests forced. -/
structure LandingAcc where
  state : State
  rotated : List Nat
  tests : List Nat

/-- One timetable entry (Table 2-5); APPLY_MANIFEST and MIRROR have their own places. `seg` is the record to post; none at
landing 0 (R443). -/
def runEntry (l : Nat) (post : Option DigRec) (forced : List Rotation × List (Nat × Nat)) (a : LandingAcc)
    (t : TimeEntry) : LandingAcc :=
  match t.action with
  | 2 => { a with state := certSwap l (swapTables t.param a.state) }
  | 3 =>
    let r := rotationOf t.param
    if forced.1.any (fun f => f.region == r.region) then a
    else let x := rotate r (a.state, a.rotated); { a with state := x.1, rotated := x.2 }
  | 4 =>
    let r : Rotation := { rotationOf t.param with back := false }
    let s1 := { a.state with ken := { a.state.ken with deadlineForced := true } }
    if forced.1.contains r && !a.rotated.contains r.region then
      let x := rotate r (s1, a.rotated); { a with state := x.1, rotated := x.2 }
    else if forced.2.contains (r.region, r.position) then { a with state := s1, tests := a.tests ++ [4 * r.region + r.position] }
    else a
  | 6 => match post with
    | some r => { a with state := postDigest t.param r a.state }
    | none => a
  | 7 => { a with state := { a.state with crs := { a.state.crs with
      deadlineBase := (a.state.crs.tOpen + t.param) % 2 ^ 64 } } }
  | _ => a

/-- Steps 2 and 3 of R47, then the host's rotation (R372): latched writes, the entries in order, and the in-line tests by
the clusters that serve after the switch. -/
def runActions (l : Nat) (ll : PendingLL) (post : Option DigRec) (s : State) : LandingAcc :=
  let s1 := ll.foldl latchIn s
  let forced := forcedTests s1 l
  let a := (matching s1 l).foldl (runEntry l post forced) ⟨s1, [], []⟩
  let x := (hostRotation (llValue ll llKenReq)).foldl (fun acc r => rotate r acc) (a.state, a.rotated)
  let s2 := { x.1 with ken := { x.1.ken with req := if (llValue ll llKenReq).isSome then 0 else x.1.ken.req } }
  ⟨s2, x.2, (a.tests.map (fun q => servingIndex s2 (q / 4) (q % 4))).eraseDups⟩

/-- Whether a landing takes a mirror snapshot (R45, R55): a MIRROR entry matches, or it is the crossing end. -/
def mirrorDue (s : State) (l : Nat) : Bool := l == 0xFFFF || (matching s l).any (fun t => t.action == 5)

/-- A landing reached waits for its commitment, with what R48 and R270 record with it. -/
def noteReached (l : Nat) (closes : Option Nat) (s : State) : State :=
  { s with crs := { s.crs with uncommitted := s.crs.uncommitted ++
      [⟨s.crs.crossing, l, s.crs.deadlineBase, s.tow.coll, closes, protection s⟩] } }

/-- Markers of a landing complete on the cycle after it is reached (R265). -/
def markersReached (l : Nat) (s : State) : State :=
  { s with cq := { s.cq with entries := s.cq.entries.map (fun e =>
      if e.desc.kind = .marker ∧ e.life = .taken ∧ e.desc.landing = l then { e with life := .ran, crossing := s.crs.crossing } else e) } }

/-- Markers of a landing complete once it is reached (R265); requests that named it or an earlier one expire (R79); the
static copies of the next landing, or of landing 0 of the next crossing, begin (R367). -/
def afterReached (l : Nat) (s : State) : State :=
  let s1 := { markersReached l s with ken := { s.ken with copied := [], copying := [] } }
  let s2 := if s1.man.apply = .armed ∧ landingPast s1 s1.man.applyAt.1 s1.man.applyAt.2 then expireRequest s1 else s1
  match s2.crs.decided with
  | d :: _ => startCopies d.landing (llValue d.ll llKenReq) s2
  | [] =>
    if l = 0xFFFF then
      let t := startCopies 0 none { s2 with crs := { s2.crs with crossing := s2.crs.crossing + 1 } }
      { t with crs := { t.crs with crossing := s2.crs.crossing } }
    else startCopies (l + 1) none s2

/-- The rest of a landing's duties once no application is due, or one was refused or aborted. -/
def landingActions (l : Nat) (full : Bool) (ll : PendingLL) (closes : Option Nat) (seg cross : Option DigRec)
    (s : State) : State :=
  let post := if l = 0xFFFF then cross else seg
  let mirror := mirrorDue s l
  let a := runActions l ll post s
  let s1 := if mirror then takeSnapshot s.crs.crossing l seg cross a.state else a.state
  let s2 := afterReached l (noteReached l closes s1)
  { s2 with crs := { s2.crs with
      run := if full then some ⟨l, .closing, a.tests, false, closes, none, none, []⟩ else none
      phase := if full then .fullLanding else .inSegment } }

/-- A landing is reached (R45): its record in the ledger, the digests of the segment that ended, and the actions of R47,
or phase 1 of an application, beside which the landing's markers complete (R265). Landing 0 closes no segment (R443). -/
def enterLanding (d : Decided) (s : State) : State :=
  let l := d.landing
  let prev := s.crs.landing
  let c := s.crs.crossing
  let first := decide (l = 0)
  let g := sget .zero s.dgst.segs prev
  let x := crossDig (wakeSeed s) (s.dgst.closed ++ [(prev, g)])
  let seg := if first then none else some (digRecord c prev g s.crs.tide)
  let cross := if l = 0xFFFF then some (digRecord c 0xFFFF x s.crs.tide) else none
  let closes := if first then none else some prev
  let s1 := journal [.landing] { s.keep with landing := (c, l) }
    { s with crs := { s.crs with landing := l, decided := s.crs.decided.drop 1 } }
  let s2 := if first then s1
    else certClose prev g.store g.invalid (if l = 0xFFFF then some (x.store, x.invalid) else none) (closeDigest prev l s1)
  let s3 := match d.applyRefused with
    | some r => refuseManifest r s2
    | none => s2
  if d.applies then
    let s4 := markersReached l (match s3.man.stagedConf with | some m => phase1Tables m s3 | none => s3)
    { s4 with crs := { s4.crs with
        run := some ⟨l, .phase1, [], mirrorDue s l, closes, seg, cross, d.ll⟩, phase := .fullLanding } }
  else landingActions l d.full d.ll closes seg cross s3

/-- R39: the commands that hold a landing back: those of a lower index, accepted before its decision point, that do not
stand behind a command of the landing or beyond in their own berth. -/
def holdsBack (s : State) (d : Decided) (e : Entry) : Bool :=
  decide (e.desc.landing < d.landing) && decide (e.ord < d.accepted) &&
    !s.cq.entries.any (fun x => x.berth == e.berth && decide (x.seq < e.seq) && decide (d.landing ≤ x.desc.landing))

/-- The static copies that a landing needs have ended (R367). One that applies a manifest waits for them too: should the application abort, its
rotations take place (R82). -/
def copiesReady (s : State) (d : Decided) : Bool :=
  (plannedRotations s d.landing (llValue d.ll llKenReq)).all
    (fun r => s.ken.copied.contains (4 * r.region + r.position))

/-- Enter a landing once its copies have ended; a copy that has not begun begins, and the landing waits for it (R367). -/
def landWhenReady (d : Decided) (s : State) : State :=
  if copiesReady s d then enterLanding d s else startCopies d.landing (llValue d.ll llKenReq) s

/-- LANDING_REACHED (R39, R45): the first decided landing, once nothing holds it back. A copy that has not begun begins,
and the landing waits for it. -/
def execLandingReached (s : State) : Host.Outcome State Fault Refusal :=
  .next (if mainStopped s then s else match s.crs.decided with
    | [] => s
    | d :: _ =>
      if s.crs.phase ≠ .inSegment ∨ s.crs.run.isSome ∨ s.cq.entries.any (holdsBack s d) then s
      else landWhenReady d s)

/-- The phase after the gate of a landing opens (Table 2-10, R40). -/
def phaseAfter (s : State) (l : Nat) : Phase :=
  if l = 0xFFFF then (if s.crs.uncommitted.isEmpty then .waitBeacon else .afterEnd) else .inSegment

/-- LANDING_GATE_OPEN (R46): the schedule is over, every in-line test has ended, and so have the copies that R315 and R316
end by cycle 16. APPLY_NOW leaves the phase. -/
def execLandingGateOpen (s : State) : Host.Outcome State Fault Refusal :=
  .next (if mainStopped s then s else match s.crs.run with
    | none => s
    | some r =>
      if r.stage ≠ .closing ∨ ¬r.tests.isEmpty ∨ s.sp.copies.any (fun c => c.row.isSome || r.landing == 0xFFFF) then s
      else { s with
        crs := { s.crs with run := none, phase := if s.man.applyNow then s.crs.phase else phaseAfter s r.landing }
        man := { s.man with applyNow := false } })

/-! ## Applications (R81–R86) -/

/-- R82: an application aborts: the banks that phase 1 wrote are emptied and the staged manifest is refused. The table writes and operations
held during it are performed at the abort, before the landing's own actions (DESIGN CHOICE, log entry 177: R84 and R172 place them after
phase 2 alone). A request armed
for a later landing when the timetable's application was decided is dropped with it, APPLY_STATE none and no EXPIRED
(DESIGN CHOICE, log entry 143: R79 names no case for it, and the staged manifest it asked for is gone). -/
def abortApplication (s : State) : State :=
  let s0 := match s.man.stagedConf with | some m => abortTables m s | none => s
  let s1 := refuseManifest 0x0E s0
  releaseHeld ({ s1 with
    man := { s1.man with stage := .refused, stagedConf := none, apply := .none }
    crs := { s1.crs with run := s1.crs.run.map (fun r => { r with stage := .closing }) } })

/-- APPLICATION_PHASE1_END (R82): every region ready, and phase 2 begins; or the application aborts and the landing goes
on with the old manifest. -/
def execApplicationPhase1End (notReady : List Nat) (s : State) : Host.Outcome State Fault Refusal :=
  .next (if mainStopped s then s else match s.crs.run with
    | none => s
    | some r =>
      if r.stage ≠ .phase1 then s
      else if notReady.any (· < Config.regions) then
        let s1 := abortApplication s
        if s.man.applyNow then s1
        else landingActions r.landing true r.ll r.closes r.seg r.cross s1
      else { s with crs := { s.crs with run := some { r with stage := .phase2 } } })

/-- The decisions already made for later landings are made again by the new timetable (R47). -/
def redecide (s : State) : State :=
  { s with crs := { s.crs with decided := s.crs.decided.map (fun d =>
      { decide' s d.landing [] false with accepted := d.accepted }) } }

/-- Phase 2 (R83, R84): every setting of the staged manifest takes effect. -/
def install (m : Manifest) (c l : Nat) (s : State) : State :=
  let prior := match s.man.active with
    | some old => some (old.tag, c, l)
    | none => s.man.prior
  let s0 := applyTopo m (switchTables m s)
  let s1 := journal [.tag] { s0.keep with keptTag := some m.tag, keptPermMgr := m.permMgr } s0
  { s1 with
      man := { s1.man with active := some m, stage := .empty, staged := [], stagedConf := none, apply := .none, prior := prior }
      rtv := { s1.rtv with lookahead := m.lookahead, readTags := m.readTags, writeTags := m.writeTags }
      tow := { s1.tow with berthGroup := [], mirrorBase := 0, mirrorPages := 0 }
      ken := { s1.ken with copying := [], copied := [], req := 0 }
      cq := { s1.cq with takenSinceApply := false }
      crs := { s1.crs with pendingLL := [], llDiscarded := true,
                           run := s1.crs.run.map (fun r => { r with stage := .closing, ll := [] }) } }

/-- APPLICATION_PHASE2_END (R84): the new manifest is active, MANIFEST_APPLIED is raised, held commands are bound, held table writes land, and a
matched mirror snapshot is taken under the new tag (R47, R81). -/
def execApplicationPhase2End (s : State) : Host.Outcome State Fault Refusal :=
  .next (if mainStopped s then s else match s.crs.run, s.man.stagedConf with
    | some r, some m =>
      if r.stage ≠ .phase2 then s
      else
        let now := s.man.applyNow
        let s1 := install m s.crs.crossing r.landing s
        let d1 := if now then 0 else s.crs.crossing + r.landing * 2 ^ 48
        let s2 := releaseHeld (rebindBanks (redecide (raise evManifestApplied none m.tag d1 s1)))
        if now then reexamineSnaps s2
        else
          let s3 := certSwap r.landing (certApplied r.landing s2)
          let s4 := if r.mirror then takeSnapshot s.crs.crossing r.landing r.seg r.cross s3 else s3
          reexamineSnaps (afterReached r.landing (noteReached r.landing r.closes s4))
    | _, _ => s)

/-- APPLY_NOW (R86): while no manifest is active, a verified staged manifest is applied at once. It reaches no landing: no landing-reached
record is written, no digest closes and no snapshot is taken, although Table 3-7 begins them on cycle 1 (DESIGN CHOICE, log entry 179).
Written again while such an
application runs, it is ignored (DESIGN CHOICE, log entry 144). -/
def applyNowOp (s : State) : State :=
  if s.man.active.isSome then refuseManifest 0x11 s
  else if s.man.stage ≠ .verified then refuseManifest 0x0B s
  else if s.keep.keptTag.isSome ∧ s.keep.keptTag ≠ some (stagedTag s) then refuseManifest 0x0F s
  else if s.crs.run.isSome then s
  else
    let s1 := match s.man.stagedConf with | some m => phase1Tables m s | none => s
    { s1 with man := { s1.man with apply := .applying, applyNow := true },
              crs := { s1.crs with run := some ⟨s.crs.landing, .phase1, [], false, none, none, none, []⟩ } }

/-- APPLY_NOW: MAN_CTL.APPLY_NOW; needs permission bit 1. -/
def execManApplyNow (port : Port) (s : State) : Host.Outcome State Fault Refusal := .next (onMain port 1 applyNowOp s)

/-! ## Crossings (R40, R41, R443) -/

/-- The crossing that opens next, when the beacon condition of R40 or R41 holds. -/
def nextCrossing (s : State) : Option Nat :=
  if s.crs.firstOpen then (if s.crs.ann0New then s.crs.ann0.map (·.1) else none)
  else if s.crs.annSeen ∧ s.crs.crossing + 1 ≤ s.crs.ann.1 then some (s.crs.crossing + 1) else none

/-- T_open of a crossing (R36): the ANN_TIDE of the kept announcement that names it; otherwise CRS_TIDE on the opening. -/
def openTide (s : State) (c : Nat) : Nat :=
  match s.crs.ann0 with
  | some (a, t) => if a = c then t else s.crs.tide
  | none => s.crs.tide

/-- The crossing is open and its landing 0 is under way: collective numbers restart (R327), messages held for the closed
crossing are discarded (R333), no segment of it is closed (R352), and the segments whose commands ended early before it opened are INVALID
(R351). -/
def openCrossing (c : Nat) (s : State) : State :=
  let t := openTide s c
  let s1 := { s with
    crs := { s.crs with crossing := c, landing := 0, tOpen := t, deadlineBase := t, firstOpen := false, phase := .inSegment }
    tow := { s.tow with coll := [], held := s.tow.held.filter (fun m => decide (c ≤ m.crossing)),
                        ownRecs := s.tow.ownRecs.filter (fun r => decide (c ≤ r.1 + 1)),
                        partnerRecs := s.tow.partnerRecs.filter (fun r => decide (c ≤ r.1 + 1)) }
    dgst := { s.dgst with closed := [], nextInvalid := [],
                          segs := s.dgst.nextInvalid.foldl (fun m k => sset .zero m k { SegDig.zero with invalid := true }) [] } }
  certOpening (startupPasses c s1)

/-! ## Commitment (R48, R270, Table 2-3) -/

/-- The last sequence number of each berth whose landing lies before a committed one (R270). -/
def commitSeqs (s : State) (c l : Nat) : List (Nat × Nat) :=
  (s.cq.hist.filter (fun h => landingLe h.2.2.1 h.2.2.2 c l && !(h.2.2.1 == c && h.2.2.2 == l))).foldl
    (fun acc h => if sget 0 acc h.1 < h.2.1 then sset 0 acc h.1 h.2.1 else acc) s.keep.commitSeq

/-- Commit the first uncommitted landing (R48). -/
def commitFirst (u : Uncommitted) (s : State) : State :=
  let s1 := journal [.commit, .crossing] { s.keep with
      committed := (u.crossing, u.landing), crossCopy := some (u.crossing, u.landing), crossBase := u.deadlineBase, colls := u.colls
      commitSeq := commitSeqs s u.crossing u.landing } { s with
    cq := { s.cq with hist := s.cq.hist.filter (fun h => !(landingLe h.2.2.1 h.2.2.2 u.crossing u.landing &&
                                                          !(h.2.2.1 == u.crossing && h.2.2.2 == u.landing))) }
    crs := { s.crs with uncommitted := s.crs.uncommitted.drop 1 } }
  let s2 := certCommit u.crossing u.landing u.closes (promotePartner s1)
  if s2.crs.phase = .afterEnd ∧ s2.crs.uncommitted.isEmpty then { s2 with crs := { s2.crs with phase := .waitBeacon } } else s2

/-- The partner comparison of a landing has matched (R354). -/
def compared (s : State) (c l : Nat) : Bool := recClean c l s.tow.ownRecs && recClean c l s.tow.partnerRecs

/-- Whether an uncommitted landing may commit (Table 2-3). Landing 0 closes no segment and needs no comparison (R443). -/
def mayCommit (s : State) (u : Uncommitted) : Bool :=
  if u.prot = 0 then
    s.crs.uncommitted.any (fun v => v.crossing == u.crossing && v.landing == 0xFFFF) && compared s u.crossing 0xFFFF
  else u.closes.isNone || compared s u.crossing u.landing

/-- Commit from the front while the landings may: under the unprotected level a crossing commits together. -/
def commitRun : Nat → State → State
  | 0, s => s
  | n + 1, s =>
    match s.crs.uncommitted with
    | u :: _ => if u.prot = 0 then commitRun n (commitFirst u s) else s
    | [] => s

/-- LANDING_COMMITTED: the first uncommitted landing commits, in order; with it the rest of its crossing under the
unprotected level. -/
def execLandingCommitted (s : State) : Host.Outcome State Fault Refusal :=
  .next (if mainStopped s then s else match s.crs.uncommitted with
    | [] => s
    | u :: rest =>
      if mayCommit s u then
        (if u.prot = 0 then commitRun (rest.length + 1) s else commitFirst u s)
      else s)

end Sys2Proof.Machine
end

