-- ==== Sys2Proof/Machine/Towline.lean ====
section
/-! DEFINITION. The towline: records of row blocks, their combination, messages, refusals, voids, timers and abandoned
hops (R319 to R338). -/

namespace Sys2Proof.Machine

/-! ## What a grouped command sends (Table 14-4) -/

/-- The REDUCE stages of AXIS 1, with positions (R330). -/
def Desc.wholeStages (d : Desc) : List (Nat × Nat) :=
  d.chainStages.zipIdx.filter (fun w => stageKind w.1 == 7 && w.1.testBit 3)

/-- KIND of a command's messages. -/
def towKind (d : Desc) : Nat :=
  match d.kind with
  | .smaxFwd => 2
  | .attn => 3
  | .normFwd | .rmsFwd | .normBwd | .rmsBwd | .smaxBwd => 1
  | _ => 4

/-- Payload bytes per row; of the one message of a CHAIN command. -/
def towRowBytes (d : Desc) : Nat :=
  match d.kind with
  | .smaxFwd => 320
  | .attn => 320 + 4 * d.nx
  | .normFwd | .rmsFwd | .normBwd | .rmsBwd | .smaxBwd => 192
  | _ => 128 * d.wholeStages.length

/-- Whether a command sends one message of its own and not one per row block. -/
def isChain (d : Desc) : Bool := towKind d == 4

/-- The row blocks of a grouped command, each with its rows, before anything has happened. -/
def towBlocks (d : Desc) : List TowBlock :=
  let blank := fun (rb n : Nat) => (⟨rb, n, none, none, none, false, false, 0, false, false⟩ : TowBlock)
  if isChain d then [blank 0 1] else (List.range d.shape.rowBlocks).map (fun rb => blank rb (d.shape.blockRows rb).length)

/-- ROW_BLOCK of Table 14-3. -/
def rowBlockField (d : Desc) (rb : Nat) : Nat := if isChain d then 0 else rowIndex d.shape (d.shape.blockRow rb)

/-! ## Records of a CHAIN command (Table 14-5) -/

/-- The place of a member: chain position and size; a command whose group has gone stands alone. -/
def placeOf (s : State) (e : Entry) : Nat × Nat := (memberOf s ((e.coll.map (·.1)).getD 0)).getD (0, 1)

/-- A 128-byte record: its content padded with zeros, and the poison of R329 in bit 0 of its last byte (log entry 63). -/
def padRecord (bs : List Byte) (poison : Bool) : List Byte :=
  bs ++ List.replicate (127 - bs.length) 0 ++ [BitVec.ofNat 8 (bit poison)]

/-- The word of a value. -/
def valWord : Val → Nat
  | .fp w => w.toNat
  | .int i => (BitVec.ofInt 32 i).toNat

/-- An INT32 result (Table 14-5): POPCOUNT, counted in 64 bits, saturates (R189, Table 4-4; log entry 161). -/
def int32Word (v : Int) : Nat × Flags :=
  if v < -(2 ^ 31 : Nat) then (2 ^ 31, flagInvalid) else if (2 ^ 31 : Nat) ≤ v then (2 ^ 31 - 1, flagInvalid) else ((BitVec.ofInt 32 v).toNat, flagNone)

/-- An INT32 result from a value of integer class. A pattern is its own word. -/
def logicalWord (op : Nat) (v : Val) : Nat × Flags :=
  match v with
  | .int i => if op = 7 then int32Word i else ((BitVec.ofInt 32 i).toNat, flagNone)
  | .fp w => (w.toNat, flagNone)

/-- A member's own record for one AXIS 1 stage, from its contributions or its entries, with the flags of forming it. -/
def sinkRecord (s : State) (e : Entry) (cp : Nat) (w : Nat × Nat) : List Byte × Flags :=
  let op := bitsOf w.1 11 8
  if op ≤ 9 then
    let r := plainResult s e.desc w true ((e.reds.filter (fun y => y.1 == w.2)).map (·.2))
    let z : List Byte × Flags := if op ≤ 1 then (leBytes 4 (valWord r.1.val), flagNone)
      else if op ≤ 3 then (leBytes 4 (valWord r.1.val) ++ leBytes 4 (r.2.getD 0) ++ leBytes 4 cp, flagNone)
      else let x := logicalWord op r.1.val; (leBytes 4 x.1, x.2)
    (padRecord z.1 r.1.poison, r.1.flags ||| z.2)
  else (padRecord (accBytes (((blockKeys (sinkBlock w.1)).map (accAt s)).foldl accMerge accZero)) false, flagNone)

/-- The record of a grouped CHAIN command: one for each REDUCE stage of AXIS 1, in stage order. -/
def chainRecord (s : State) (e : Entry) : List Byte × Flags :=
  let rs := e.desc.wholeStages.map (sinkRecord s e (placeOf s e).1)
  (rs.flatMap (·.1), flagsAll (rs.map (·.2)))

/-- Whether a record carries poison. -/
def recPoison (bs : List Byte) : Bool := (bytesAt bs 127 1).testBit 0

/-- A value of a record, in the class that the stage has. -/
def recVal (ints : Bool) (w : Nat) : Val := if ints then .int (BitVec.ofNat 32 w).toInt else .fp (BitVec.ofNat 32 w)

/-- Whether a value is a NaN. -/
def valNan : Val → Bool
  | .fp w => isNanF (readFp32 false w)
  | .int _ => false

/-- Two INT32 results combined by Table 8-1. -/
def logicalCombine (op x y : Nat) : Nat × Flags :=
  match op with
  | 4 => (x &&& y, flagNone)
  | 5 => (x ||| y, flagNone)
  | 6 => (Nat.xor x y, flagNone)
  | 7 => int32Word ((x + y : Nat) : Int)
  | 8 => (max x y, flagNone)
  | _ => (min x y, flagNone)

/-- Table 14-5: the running record `a` and the own record `o` of one stage, with the flags of a sum (R183). A member without a contributing
element (index all ones) never wins. -/
def combineSink (ftz ints : Bool) (w : Nat) (a o : List Byte) : List Byte × Flags :=
  let op := bitsOf w 11 8
  let p := recPoison a || recPoison o
  if op ≤ 1 then
    let z := fAdd ftz (readFp32 ftz (BitVec.ofNat 32 (bytesAt a 0 4))) (readFp32 ftz (BitVec.ofNat 32 (bytesAt o 0 4)))
    (padRecord (leBytes 4 z.1.toNat) p, z.2)
  else if op ≤ 3 then
    let va := recVal ints (bytesAt a 0 4)
    let vo := recVal ints (bytesAt o 0 4)
    let second := bytesAt o 4 4 != 0xFFFFFFFF && (bytesAt a 4 4 == 0xFFFFFFFF ||
      (!valNan va && (valNan vo || beats ftz (op == 2) vo va)))
    (padRecord ((if second then o else a).take 12) p, flagNone)
  else if op ≤ 9 then
    let z := logicalCombine op (bytesAt a 0 4) (bytesAt o 0 4)
    (padRecord (leBytes 4 z.1) p, z.2)
  else (padRecord (accBytes (accMerge (accOfBytes (a.take 96)) (accOfBytes (o.take 96)))) p, flagNone)

/-- The results of an AXIS 1 stage from a final record (R330, R331). -/
def finalSlices (s : State) (d : Desc) (w : Nat × Nat) (bs : List Byte) : List (Nat × OutSlice) × Flags :=
  let op := bitsOf w.1 11 8
  let origin : Coord := ⟨0, 0, 0, 0⟩
  let ints := (classesAt s d w.2).1
  let p := recPoison bs
  let one := fun (i : Nat) (els : List OutVal) => (i, (⟨origin, 0, w.2, els⟩ : OutSlice))
  if op ≤ 1 then ([one (sinkOut w.1) [.of ⟨.fp (BitVec.ofNat 32 (bytesAt bs 0 4)), p⟩]], flagNone)
  else if op ≤ 3 then
    let idx : List OutVal := [.of ⟨.int (bytesAt bs 4 4), p⟩] ++
      (if 2 ≤ (d.slot (5 - sinkOut w.1)).stride1 then [.of ⟨.int (bytesAt bs 8 4), p⟩] else [])
    ([one (sinkOut w.1) [.of ⟨recVal ints (bytesAt bs 0 4), p⟩], one (1 - sinkOut w.1) idx], flagNone)
  else if op ≤ 9 then ([one (sinkOut w.1) [.of ⟨.int (BitVec.ofNat 32 (bytesAt bs 0 4)).toInt, p⟩]], flagNone)
  else
    let o := entryOut (sinkRaw d w.1) (accOfBytes (bs.take 96))
    ([one (sinkOut w.1) o.1], o.2)

/-- The outputs of AXIS 1 stages in a voided command: poisoned (R335). -/
def voidResults (d : Desc) : List Emit :=
  ([0, 1].filter (fun i => d.wholeStages.any (fun w => sinkOut w.1 == i || (1 - sinkOut w.1 == i &&
      (bitsOf w.1 11 8 == 2 || bitsOf w.1 11 8 == 3))))).map (fun i =>
    let h := outShape d i
    ⟨4 + i, h, [voidSlice 0 ⟨0, 0, 0, 0⟩ h.n0]⟩)

/-! ## Combination (R328) -/

/-- Two payloads of one row block combined, the predecessor's running value first, with the flags of it. -/
def combinePayload (s : State) (e : Entry) (rows : Nat) (a o : List Byte) : List Byte × Flags :=
  let d := e.desc
  let ftz := (numCfg s).ftz
  let n := towRowBytes d
  let part := fun (bs : List Byte) (k size : Nat) => slice bs (k * size) ((k + 1) * size)
  match towKind d with
  | 1 => ((List.range (2 * rows)).flatMap (fun k => accBytes (accMerge (accOfBytes (part a k 96)) (accOfBytes (part o k 96)))), flagNone)
  | 2 => ((List.range rows).flatMap (fun k => ladderBytes ((ladderOfBytes (part a k n)).merge (ladderOfBytes (part o k n)))), flagNone)
  | 3 =>
    let zs := (List.range rows).map (fun k => attnMerge ftz (attnOfBytes (part a k n) d.nx) (attnOfBytes (part o k n) d.nx))
    (zs.flatMap (fun z => attnBytes z.1), flagsAll (zs.map (·.2)))
  | _ =>
    let zs := d.wholeStages.zipIdx.map (fun w => combineSink ftz (classesAt s d w.1.2).1 w.1.1 (part a w.2 128) (part o w.2 128))
    (zs.flatMap (·.1), flagsAll (zs.map (·.2)))

/-! ## Late arrivals (R61, R62) -/

/-- The deadline tide of R61. -/
def deadlineOf (s : State) (d : Desc) : Option Nat :=
  if timedMode s && d.deadline != 0 then some (s.crs.deadlineBase + d.deadline) else none

/-- The deadline of a command: fixed at its first lane issue; before it, by the base in force (log entry 162). -/
def deadlineNow (s : State) (e : Entry) : Option Nat := if e.started then e.deadline else deadlineOf s e.desc

/-- DEADLINE_MISS, once for a command: 0 a granule, 1 a towline value, 2 a tile issued from scratchpad. -/
def lateCheck (what : Nat) (e : Entry) (s : State) : Entry × State :=
  match deadlineNow s e with
  | some t =>
    if t < s.crs.tide ∧ ¬e.res.late then
      ({ e with res := { e.res with late := true } }, raise evDeadlineMiss (some (e.berth, e.seq)) s.crs.tide what s)
    else (e, s)
  | none => (e, s)

/-! ## Sending -/

/-- Change one row block of an entry. -/
def updTow (rb : Nat) (f : TowBlock → TowBlock) (e : Entry) : Entry :=
  { e with tow := e.tow.map (fun t => if t.rowBlock = rb then f t else t) }

/-- The row block of an entry. -/
def towAt (e : Entry) (rb : Nat) : Option TowBlock := e.tow.find? (fun t => t.rowBlock == rb)

/-- Send a message for a row block to the next member in its direction (R322, Table 14-3). -/
def sendTow (e : Entry) (rb : Nat) (ret isVoid : Bool) (reason : Nat) (payload : List Byte) (s : State) : State :=
  let d := e.desc
  let g := e.coll.getD (0, 0)
  let cp := (placeOf s e).1
  sendMsg { tag := activeTag s, crossing := s.crs.crossing, landing := d.landing, kind := towKind d, group := g.1,
            ret := ret, isVoid := isVoid, reason := reason, senderCp := cp, coll := g.2,
            rows := ((towAt e rb).map (·.rows)).getD 0, rowBlock := rowBlockField d rb, source := ownPlace s
            dest := memberPlace s g.1 (if ret then cp - 1 else cp + 1), payload := payload, snap := none }
    (some (e.berth, e.seq, rb)) false s

/-- Rows of a block that waited for the group go on: to the finisher, or, voided, past it. -/
def releaseRows (rb : Nat) (next : FinStage) (e : Entry) : Entry :=
  { e with fin := e.fin.map (fun f => if f.1 / 16 = rb ∧ f.2 = .waiting then (f.1, next) else f) }

/-- The entry as the state holds it. -/
def entryNow (e : Entry) (s : State) : Entry := (findEntry s e.berth e.seq).getD e

/-- Write outputs of a row block of an entry, and store it. -/
def emitInto (rb : Nat) (ms : List Emit) (flags : Flags) (delta : Nat) (e : Entry) (s : State) : State :=
  let x := emitLate rb delta ms flags e s
  setEntry x.1 x.2

/-- An entry with flags added to its own. -/
def withFlags (fl : Flags) (e : Entry) : Entry := { e with res := { e.res with flags := e.res.flags ||| fl } }

/-- The AXIS 1 results of a grouped CHAIN command from its final record. -/
def chainFinal (bs : List Byte) (delta : Nat) (e : Entry) (s : State) : State :=
  let d := e.desc
  let ys := d.wholeStages.zipIdx.map (fun w => finalSlices s d w.1 (slice bs (128 * w.2) (128 * (w.2 + 1))))
  emitInto 0 (emitsOf d (ys.flatMap (·.1))) (flagsAll (ys.map (·.2))) delta e s

/-- A final record for a row block (R331): sent on toward the head, and its results. -/
def acceptFinal (rb : Nat) (bs : List Byte) (delta : Nat) (e : Entry) (s : State) : State :=
  let e1 := releaseRows rb .ready (updTow rb (fun t => { t with final := some bs, timer := false, fwdHeld := none }) e)
  let s1 := setEntry e1 s
  let s2 := if 0 < (placeOf s e).1 then sendTow e1 rb true false 0 bs s1 else s1
  if isChain e.desc then chainFinal bs delta e1 s2 else s2

/-- The running value that this member has combined: the tail forms the final record, any other member sends it on. -/
def passOn (rb : Nat) (bs : List Byte) (delta : Nat) (e : Entry) (s : State) : State :=
  let p := placeOf s e
  if p.1 + 1 = p.2 then acceptFinal rb bs delta e s
  else
    let e1 := updTow rb (fun t => { t with sentFwd := true, fwdHeld := none }) e
    sendTow e1 rb false false 0 bs (setEntry e1 s)

/-- The member's own record of a row block reaches the port (R328, R334): its timer starts, and it is sent on or combined
with the forward message that waits for it, whose combination's flags are the command's. A voided block combines nothing further. -/
def ownRecord (rb : Nat) (bs : List Byte) (delta : Nat) (e : Entry) (s : State) : State :=
  match towAt e rb with
  | none => setEntry e s
  | some t =>
    if t.isVoid then
      let e1 := updTow rb (fun x => { x with own := some bs, timer := x.selfVoided }) e
      if isChain e.desc then emitInto rb (voidResults e.desc) flagNone delta e1 s else setEntry e1 s
    else
      let e1 := updTow rb (fun x => { x with own := some bs, timer := true }) e
      if (placeOf s e).1 = 0 then passOn rb bs delta e1 s
      else match t.fwdHeld with
        | some a => let z := combinePayload s e t.rows a bs; passOn rb z.1 delta (withFlags z.2 e1) s
        | none => setEntry e1 s

/-- Whether a row block's record waits for comparisons of its tiles (R358). -/
def awaitsPair (e : Entry) (rb : Nat) : Bool := if isChain e.desc then !e.sigs.isEmpty else e.sigs.any (fun x => x.rb == rb)

/-- A member's own record is formed: at full redundancy it leaves once its tiles have been compared (R358). -/
def offerOwn (rb : Nat) (bs : List Byte) (delta : Nat) (e : Entry) (s : State) : State :=
  if awaitsPair e rb then setEntry { e with own := e.own ++ [(rb, bs)] } s else ownRecord rb bs delta e s

/-! ## Voids (R335) -/

/-- What of a voided row block a command has written already, as the void leaves it: the results of a CHAIN command, the rows of an ATTN command
that have left, or of a fused row command the tiles of its second pass that were issued and OUT1. -/
def writtenEmits (rb : Nat) (e : Entry) (s : State) : List Emit :=
  if isChain e.desc then voidResults e.desc
  else if e.desc.kind = .attn then
    ((e.desc.shape.blockRows rb).filter (fun c => decide (e.life = .ran) || e.emitted.contains (rowNo rb c))).flatMap (fun c => (attnEmits rb c e s).1)
  else
    (execClusters s).flatMap (fun c => ((stepsOf s e c).take (nextOf e c)).flatMap (fun x => match x.2 with
      | .pass true t => if t.rb = rb then (passTwoEmits t e s).1 else []
      | _ => [])) ++ (if e.life = .ran ∨ e.emitted.contains rb then statEmits rb e s else [])

/-- The outputs of a voided row block that may have been written are written as poisoned (R335). -/
def poisonBlock (rb : Nat) (e : Entry) (s : State) : State :=
  let x := (writtenEmits rb e s).foldl (fun a m => rewriteOne m a) (e, s)
  setEntry x.1 x.2

/-- REASON codes of Table 14-3. -/
def voidMismatch : Nat := 1
def voidTimeout : Nat := 2
def voidLink : Nat := 3

/-- A row block is voided. `self`: by this member itself; its first such block holds the completion back. A block that has its final record
already may have outputs written, which are written again as poisoned (R325). -/
def voidBlock (rb reason : Nat) (self : Bool) (delta : Nat) (e : Entry) (s : State) : State :=
  match towAt e rb with
  | none => s
  | some t =>
    if t.isVoid then s
    else
      let p := placeOf s e
      let first := self && !(e.tow.any (·.selfVoided))
      let e1 := releaseRows rb .done (updTow rb (fun x => { x with
        isVoid := true, reason := reason, selfVoided := first, fwdHeld := none, timer := first && (x.timer || x.final.isSome) }) e)
      let e2 := { e1 with res := { e1.res with mismatch := e1.res.mismatch || reason == voidMismatch, timeout := e1.res.timeout || reason == voidTimeout && self } }
      let s1 := setEntry e2 s
      let s2 := if 0 < p.1 then sendTow e2 rb true true reason [] s1 else s1
      let s3 := if p.1 + 1 < p.2 ∧ ¬t.sentFwd then sendTow e2 rb false true reason [] s2 else s2
      if t.final.isSome then poisonBlock rb (entryNow e2 s3) s3
      else if isChain e.desc ∧ e.life = .ran ∧ t.own.isSome then emitInto rb (voidResults e.desc) flagNone delta (entryNow e2 s3) s3
      else s3

/-! ## Receiving (R332) -/

/-- The command a message names: its group and collective number. -/
def towEntry (s : State) (m : TowMsg) : Option Entry := s.cq.entries.find? (fun e => e.coll == some (m.group, m.coll))

/-- The row block of a command that a message names. -/
def towBlockOf (e : Entry) (m : TowMsg) : Option TowBlock := e.tow.find? (fun t => rowBlockField e.desc t.rowBlock == m.rowBlock)

/-- A refusal (R332, R59): MISMATCH, once for a command, and the block is voided. -/
def refuseMsg (m : TowMsg) (env : RunEnv) (s : State) : State :=
  let loud := fun (cmd : Option (Nat × Nat)) (t : State) =>
    raise evMismatch cmd (1 + m.group % 32 * 8 + m.crossing * 2 ^ 16) m.tag t
  match towEntry s m with
  | none => loud none s
  | some e =>
    let e1 := { e with res := { e.res with refusedMsg := true, mismatch := true } }
    let s1 := setEntry e1 (if e.res.refusedMsg then s else loud (some (e.berth, e.seq)) s)
    match towBlockOf e m with
    | some t => voidBlock t.rowBlock voidMismatch true env.storeDelta e1 s1
    | none => s1

/-- A message that its command expects is combined or taken as final (R332 step 4). -/
def acceptMsg (m : TowMsg) (t : TowBlock) (env : RunEnv) (e0 : Entry) (s0 : State) : State :=
  if m.isVoid then voidBlock t.rowBlock m.reason false env.storeDelta e0 s0
  else
    let x := lateCheck 1 e0 s0
    let e := x.1
    let s := setEntry e x.2
    if m.ret then acceptFinal t.rowBlock m.payload env.storeDelta e s
    else match t.own with
      | some o =>
        let z := combinePayload s e t.rows m.payload o
        passOn t.rowBlock z.1 env.storeDelta (withFlags z.2 e) s
      | none => setEntry (updTow t.rowBlock (fun y => { y with fwdHeld := some m.payload }) e) s

/-- Whether a command has ended without its group (R280, R281, R304, R359). -/
def endedEarly (e : Entry) : Bool := e.res.abort != 0 || e.res.fault.isSome || e.res.cap || e.res.refused.isSome

/-- The collective check (R332 step 3): a message for a completed or voided block is discarded, one that its command does not expect refused.
One that fits, in a direction in which the member has no neighbour or for a block that has its final record, is discarded (log entry 120). -/
def checkColl (m : TowMsg) (env : RunEnv) (s : State) : State :=
  if sget 0 s.tow.coll m.group ≤ m.coll then { s with tow := { s.tow with held := s.tow.held ++ [m] } }
  else match towEntry s m with
    | none => s
    | some e =>
      let d := e.desc
      if endedEarly e then s
      else match towBlockOf e m with
        | none => refuseMsg m env s
        | some t =>
          let p := placeOf s e
          if t.isVoid then s
          else if m.kind ≠ towKind d ∨ m.rows ≠ t.rows ∨
              m.payload.length ≠ (if m.isVoid then 0 else if isChain d then towRowBytes d else t.rows * towRowBytes d) then
            refuseMsg m env s
          else if t.final.isSome ∨ (m.ret ∧ p.1 + 1 = p.2) ∨ (¬m.ret ∧ p.1 = 0) then s
          else acceptMsg m t env e s

/-- R332, in order: tag, crossing (Table 2-6), collective. -/
def receiveMsg (m : TowMsg) (env : RunEnv) (s : State) : State :=
  if s.man.active.isSome ∧ m.tag = activeTag s then
    (if m.crossing = s.crs.crossing then checkColl m env s
     else if m.crossing = s.crs.crossing + 1 then { s with tow := { s.tow with held := s.tow.held ++ [m] } }
     else refuseMsg m env s)
  else if stagedTagHeld s m.tag then { s with tow := { s.tow with held := s.tow.held ++ [m] } }
  else if priorTagOk s m.tag m.crossing m.landing then s
  else refuseMsg m env s

/-- Held messages are examined again once a command takes a collective number: what still cannot be decided is held
again. -/
def reexamineHeld (s : State) : State :=
  s.tow.held.foldl (fun t m => receiveMsg m (RunEnv.clean 0) t) { s with tow := { s.tow with held := [] } }

end Sys2Proof.Machine
end

