-- ==== Sys2Proof/Machine/Issue.lean ====
section
/-! DEFINITION. Issue: a command is taken from the head of its berth, checked, bound, started, stepped at tile boundaries
and brought to its outputs (R37 to R43, R86, R130, R135, R171, R202, R213, R265, R273 to R276, R282, R288, R302, R327,
R358, R359). -/

namespace Sys2Proof.Machine

/-! ## Detected errors (R359) -/

/-- The source code of a detected error (Table 16-2). -/
def detCode : DetSrc → Nat
  | .pair => 4
  | .checksum => 5
  | .parity => 6

/-- JQ_FAULT_LOG (Table 16-12). -/
def faultLogWord (s : State) (src : DetSrc) (cl : Nat) (e : Entry) : Word64 :=
  packFields [(63, 1, 1), (60, 3, detCode src), (55, 5, cl), (52, 3, physPos s cl),
    (49, 3, if protection s = 2 then physPos s (cl + 16) else 0), (44, 5, e.berth), (0, 32, e.seq)]

/-- R359: MISMATCH with its source, the error registers, and the command ends with ABORT, DETAIL 2. -/
def detectedError (src : DetSrc) (cluster : Nat) (e : Entry) (s : State) : State :=
  let cl := if protection s = 2 then cluster % 16 else cluster % Config.clusters
  let s1 := raise evMismatch (some (e.berth, e.seq)) (detCode src) (cl + 32 * physPos s cl) s
  let k := s1.ken
  let s2 := { s1 with ken := { k with
    faultLog := faultLogWord s src cl e
    pairErr := if src = .pair then satInc 0xFFFF k.pairErr else k.pairErr
    csumErr := if src = .pair then k.csumErr else satInc 0xFFFF k.csumErr } }
  endEarly e { e.res with abort := 2, mismatch := true } s2

/-- The detected error that a run meets, if the check that finds it runs at this level and in this class (Tables 16-1 and
16-4): lane parity always; the column checksum of the MAC array from level 1; the pair comparison at level 2. -/
def errorOf (s : State) (e : Entry) (env : RunEnv) : Option (DetSrc × Nat) :=
  match env.detected with
  | some (.checksum, c) => if 1 ≤ protection s ∧ e.desc.cls = 3 then some (.checksum, c) else none
  | some (.pair, c) => if protection s = 2 then some (.pair, c) else none
  | x => x

/-! ## What a step meets (R281, R311, R312, R363) -/

/-- An uncorrectable word at rest, found as it is read, is poisoned: of an operand buffer, a table bank, an accumulator or a slipway. -/
def restMeet (x : RestErr) (a : Entry × State) : Entry × State :=
  let e := a.1
  let s := a.2
  match x with
  | .operand addr => ({ e with bad := e.bad ++ [addr / 8] }, s)
  | .table c slot w =>
    (e, { s with tbl := { s.tbl with badWords := (s.tbl.badWords ++ [imageKey c (bankOf s e c) slot * 516 + w]).eraseDups } })
  | .acc k => (e, putAccs [(k, { accAt s k with st := (accAt s k).st ||| accPoison })] s)
  | .slip c w i =>
    let t := sget [] s.arr.slips (slipKey c w)
    (e, setSlip (slipKey c w) (slipWrite [(i, ((slipCell t i).1, true))] t) s)
  | .output _ _ => (e, s)

/-- Whether an uncorrectable word lies in an output of a command. -/
def outputHit (d : Desc) (x : RestErr) : Bool :=
  match x with
  | .output job addr => [0, 1].any (fun i =>
      (d.slot (4 + i)).job == job && decide ((outSpan d i).1 ≤ addr) && decide (addr < (outSpan d i).1 + (outSpan d i).2))
  | _ => false

/-- A word that is uncorrectable on its way to storage marks the storage unit it goes to, among those of the command's outputs. -/
def outputMeet (x : RestErr) (a : Entry × State) : Entry × State :=
  let e := a.1
  if !(outputHit e.desc x) then a
  else match x with
    | .output true addr =>
      ({ e with writes := e.writes.map (fun b =>
          if b.addr == addr / 512 * 512 && !(b.poison.contains (addr % 512 / 64)) then
            { b with poison := b.poison ++ [addr % 512 / 64] } else b) }, a.2)
    | .output false addr => (e, setMark (addr / 64) true a.2)
    | _ => a

/-- What a step adds to the store digest on the way to storage: what the row says of it, and with an output word lost more than nothing, since
then the digests differ (Table 16-4; free value, log entry 175). -/
def storeFault (env : RunEnv) (e : Entry) (s : State) : Nat × State :=
  if env.rest.any (outputHit e.desc) && env.storeDelta % digP == 0 then
    (1 + Config.lostWord s.free % (digP - 1), { s with free := s.free + 1 })
  else (env.storeDelta, s)

/-- What the reads of a step meet. -/
def meetStep (env : RunEnv) (e : Entry) (s : State) : Entry × State :=
  env.rest.foldl (fun a x => restMeet x a) (e, readMeets ⟨env.corrected, env.uncorrectable⟩ s)

/-- Charge the cycles of a step (R281). -/
def charge (env : RunEnv) (e : Entry) : Entry := { e with res := { e.res with charged := e.res.charged + env.cycles } }

/-- Whether a step would take a command's count beyond the cap (R281). -/
def overCap (env : RunEnv) (e : Entry) : Bool := decide (durationCap < e.res.charged + env.cycles)

/-! ## One step of a command -/

/-- The steps of every cluster. -/
abbrev Plan := List (Nat × List (Granule × Work))

def planOf (s : State) (e : Entry) : Plan := (execClusters s).map (fun c => (c, stepsOf s e c))

/-- The steps that each cluster comes to next. -/
def nextWorks (p : Plan) (e : Entry) : List (Nat × Granule × Work) :=
  p.filterMap (fun x => (x.2[nextOf e x.1]?).map (fun y => (x.1, y)))

/-- A k-slab is issued: its elements are read, whether or not its tile comes to its end (R301). -/
def noteSlab (g : Granule) (e : Entry) : Entry :=
  let bad := (g.filter (fun x => match (e.got.find? (fun y => y.1 == x.1)).map (·.2) with | some z => z.poison | none => false)).map
    (fun x => 64 * keySector x.1)
  addNotes ⟨flagIf (!bad.isEmpty) flagPoisonSeen, bad.foldl (fun m a => minOpt m (some a)) none⟩ e

/-- One step of a cluster. -/
def runWork (delta : Nat) (w : Work) (e : Entry) (s : State) : Entry × State :=
  match w with
  | .slab g => (noteSlab g e, s)
  | .chain t => chainTile delta t e s
  | .product t n => matmulTile delta t n e s
  | .load l => loadCluster delta l e s
  | .store l => storeCluster delta l e s
  | .pass false t => passOneTile delta t e s
  | .pass true t => passTwoTile delta t e s
  | .key rb kt => attnStep delta rb kt e s

/-- Whether a step writes outputs. -/
def workWrites (d : Desc) (w : Work) : Bool :=
  match w with
  | .chain _ => d.countsOut || d.chainStages.any (fun w => stageKind w == 11)
  | .product _ _ => (mparam d).drain
  | .store _ => true
  | .pass second _ => second
  | _ => false

/-- Steps in ascending logical cluster; a fault on the way to storage falls on the first that writes, and is what is left of it otherwise. -/
def runWorks (delta : Nat) (ws : List Work) (e : Entry) (s : State) : Nat × (Entry × State) :=
  ws.foldl (fun (a : Nat × (Entry × State)) w =>
    let now := workWrites e.desc w
    (if now then 0 else a.1, runWork (if now then a.1 else 0) w a.2.1 a.2.2)) (delta, (e, s))

/-- The row block whose first pass, or key tiles, a step belongs to. -/
def Work.block : Work → Option Nat
  | .chain t => some t.rb
  | .pass false t => some t.rb
  | .key rb _ => some rb
  | _ => none

/-- The row blocks that still have such a step ahead. -/
def blocksAhead (p : Plan) (e : Entry) : List Nat := p.flatMap (fun x => (x.2.drop (nextOf e x.1)).filterMap (fun y => y.2.block))

/-- Whether every step has been issued. -/
def allPast (p : Plan) (e : Entry) : Bool := p.all (fun x => decide (x.2.length ≤ nextOf e x.1))

/-- A command has formed its outputs and waits to complete; the issue is free. -/
def formed (e : Entry) (s : State) : State :=
  releaseIssue e.berth (setEntry { e with
    life := .ran, held := [], bad := [], reds := [], lads := [], recs := [], outs := [], rows := [], emitted := [],
    sent := [], rowIn := [], stop := false } s)

/-- The end of a command whose clusters run in step: results of the whole command, holds, and under a group its own record (R330). -/
def endTogether (delta : Nat) (e : Entry) (s : State) : State :=
  if e.desc.kind = .chain ∨ e.desc.kind = .fore then
    let rec' := chainRecord s e
    let x := chainEnd delta e s
    let e1 := if e.coll.isSome then withFlags rec'.2 x.1 else x.1
    let s1 := formed e1 x.2
    if isChain e.desc ∧ e.coll.isSome then offerOwn 0 rec'.1 delta (entryNow e1 s1) s1 else s1
  else formed e (macHolds e s)

/-- One step of a command whose clusters run in step: every cluster's work at the position, and the row blocks that it completes. -/
def stepTogether (p : Plan) (delta : Nat) (e : Entry) (s : State) : Nat × (Entry × State) :=
  let ws := (nextWorks p e).map (fun x => x.2.2)
  let x := runWorks delta ws e s
  let e1 := { x.2.1 with pos := e.pos + 1 }
  let ahead := blocksAhead p e1
  let done := sortByKey id (((ws.filterMap Work.block).eraseDups).filter (fun rb => !(ahead.contains rb)))
  let chain := e.desc.kind == .chain || e.desc.kind == .fore
  if chain && e.desc.rowReduce then
    done.foldl (fun (a : Nat × (Entry × State)) rb => (0, chainBlock a.1 rb a.2.1 a.2.2)) (x.1, (e1, x.2.2))
  else (x.1, (e1, x.2.2))

/-- Steps until the last, with fuel. -/
def runSteps (p : Plan) : Nat → Nat → Entry → State → Nat × (Entry × State)
  | 0, delta, e, s => (delta, (e, s))
  | n + 1, delta, e, s =>
    if allPast p e then (delta, (e, s))
    else
      let x := stepTogether p delta e s
      runSteps p n x.1 x.2.1 x.2.2

/-- A step, or with `whole` every step, of a command whose clusters run in step, once what it meets is settled: its end, if that was the
last. -/
def runTogether (whole : Bool) (env : RunEnv) (e0 : Entry) (s0 : State) : State :=
  match errorOf s0 e0 env with
  | some x => detectedError x.1 x.2 e0 s0
  | none =>
    if overCap env e0 then capEntry e0 s0
    else
      let m := meetStep env (charge env e0) s0
      let l := if readsJob e0.desc then m else lateCheck 2 m.1 m.2
      let p := planOf l.2 l.1
      let depth := p.foldl (fun m x => max m x.2.length) 0
      let f := storeFault env l.1 l.2
      let x := runSteps p (if whole then depth else 1) f.1 l.1 f.2
      let y := env.rest.foldl (fun a r => outputMeet r a) x.2
      let e1 := trimHeld y.2 y.1
      if allPast p e1 then endTogether x.1 e1 (setEntry e1 y.2) else setEntry e1 y.2

/-! ## Fused rows and attention (R202, R213, R245, R249) -/

/-- The records of a row block. -/
def blockRecord (e : Entry) (rb : Nat) : List Byte :=
  let d := e.desc
  if d.kind = .attn then (attnBlock e rb).flatMap (fun x => attnBytes x.2)
  else (d.shape.blockRows rb).flatMap (fun c => rowRecBytes (fparam d).op (sget .zero e.recs (rowNo rb c)))

/-- A row block's records are final: its rows go to the finisher, or its record to the towline (R213, R231, R252). -/
def formBlock (rb : Nat) (e : Entry) (s : State) : State :=
  let x := if e.desc.kind = .attn then (e, s) else formRows rb e s
  let n := (e.desc.shape.blockRows rb).length
  let grouped := e.coll.isSome
  let stage : FinStage := if !grouped then .ready else if voided e rb then .done else .waiting
  let e1 := { x.1 with fin := x.1.fin ++ (List.range n).map (fun j => (16 * rb + j, stage)) }
  if grouped then offerOwn rb (blockRecord e1 rb) 0 e1 (setEntry e1 x.2) else setEntry e1 x.2

/-- Form every row block whose steps have all been issued and that has not been formed. -/
def formBlocks (p : Plan) (e : Entry) (s : State) : State :=
  let ahead := blocksAhead p e
  ((List.range e.desc.shape.rowBlocks).filter (fun rb => !(e.fin.any (fun f => f.1 / 16 == rb)) && !(ahead.contains rb))).foldl
    (fun t rb => formBlock rb (entryNow e t) t) s

/-- Whether every row of a block has been delivered, or passed as voided. -/
def blockDone (e : Entry) (rb : Nat) : Bool :=
  let fs := e.fin.filter (fun f => f.1 / 16 == rb)
  !fs.isEmpty && fs.all (fun f => f.2 == .done)

/-- The row of a number, 16 × row block + its place in the block. -/
def rowCoord (h : Shape) (n : Nat) : Coord := let c := h.blockRow (n / 16); { c with i1 := c.i1 + n % 16 }

/-- What the finisher's outputs let a command write: OUT1 of each row block that is done, or the rows of an attention command that passed as
voided. -/
def emitDone (delta : Nat) (e : Entry) (s : State) : Entry × State :=
  if e.desc.kind = .attn then
    (e.fin.filter (fun f => f.2 == .done)).foldl (fun (a : Entry × State) f =>
      emitAttnRow 0 (f.1 / 16) (rowCoord e.desc.shape f.1) a.1 a.2) (e, s)
  else
    ((List.range e.desc.shape.rowBlocks).filter (blockDone e)).foldl (fun (a : Entry × State) rb => emitStats delta rb a.1 a.2) (e, s)

/-- Whether every row of an attention command has been delivered. -/
def rowsSettled (e : Entry) : Bool :=
  e.fin.length == e.desc.shape.n1 * e.desc.shape.n2 * e.desc.shape.n3 && e.fin.all (fun f => f.2 == .done)

/-- The end of a fused row command, every step issued; or of an ATTN command, whose rows have then all been delivered: from its last key tile
on it does not hold the issue. -/
def endApart (p : Plan) (e : Entry) (s : State) : State :=
  if !(allPast p e) then setEntry e s
  else if e.desc.kind ≠ .attn ∨ rowsSettled e then formed e s
  else if e.life = .taken then releaseIssue e.berth (setEntry { e with life := .stats, held := [] } s)
  else setEntry e s

/-- Form what can be formed, write what can be written, and end the command if it is over. -/
def settleApart (delta : Nat) (e : Entry) (s : State) : State :=
  let p := planOf s e
  let s1 := formBlocks p e s
  let x := emitDone delta (entryNow e s1) s1
  endApart p x.1 x.2

/-- The home cluster of a row block (R184, R245). -/
def blockHome (s : State) (e : Entry) (rb : Nat) : Nat :=
  if e.desc.kind = .attn then rb % Config.clusters else homeOf (rowSpan s) rb

/-- The row block two before one among those of its home (R202). -/
def twoBefore (s : State) (e : Entry) (rb : Nat) : Option Nat :=
  let mine := (List.range rb).filter (fun x => blockHome s e x == blockHome s e rb)
  if mine.length < 2 then none else mine[mine.length - 2]?

/-- Whether the finisher has accepted every row of a block. -/
def blockAccepted (e : Entry) (rb : Nat) : Bool :=
  let fs := e.fin.filter (fun f => f.1 / 16 == rb)
  !fs.isEmpty && fs.all (fun f => f.2 == .inFin || f.2 == .done)

/-- Whether a step is held for the finisher's queue (R202): the first slice of a row block at its home, or its first key tile. -/
def queueHeld (s : State) (e : Entry) (steps : List (Granule × Work)) (i : Nat) : Bool :=
  let wait := fun (rb : Nat) => match twoBefore s e rb with | some x => !(blockAccepted e x) | none => false
  match steps[i]? with
  | some (_, .pass false t) => t.cluster == blockHome s e t.rb && decide (t.ct < rowSpan s) && wait t.rb
  | some (_, .key rb _) => !((steps.take i).any (fun x => x.2.block == some rb)) && wait rb
  | _ => false

/-- Whether a cluster can issue its next step: its granule is complete, a second pass has its block's statistics (R213), and the finisher's
queue has room (R202). -/
def stepReady (s : State) (e : Entry) (x : Nat × List (Granule × Work)) : Bool :=
  let i := nextOf e x.1
  match x.2[i]? with
  | none => false
  | some y => granuleDone e y.1 && !(queueHeld s e x.2 i) && (match y.2 with | .pass true t => e.stats.contains t.rb | _ => true)

/-! ## Store areas (R297) -/

/-- Bytes that wait in a cluster's store area. -/
def areaUsed (s : State) (c : Nat) : Nat := ((s.cq.entries.flatMap (·.writes)).map (fun b => sget 0 b.areas c)).sum

/-- A cluster's store area has no room for the slices of a tile, and a block that could make some waits to leave (log entry 163: room for a tile's
slices of each output; with no such block the tile goes on). -/
def areaFull (s : State) (e : Entry) (c : Nat) : Bool :=
  let outs := ([4, 5].filter (fun i => (e.desc.slot i).present && (e.desc.slot i).job)).length
  decide (0 < outs) && decide (32768 < areaUsed s c + 4096 * outs) &&
    s.cq.entries.any (fun x => x.writes.any (fun b =>
      decide (0 < sget 0 b.areas c) && blockReady x b && !(x.faults.any (fun f => f.write && f.addr / 512 == b.addr / 512))))

/-- Whether a command whose clusters run in step waits for room: in a cluster that has a next step. -/
def areasFull (s : State) (e : Entry) : Bool := (nextWorks (planOf s e) e).any (fun x => areaFull s e x.1)

/-! ## Start (R3, R274, R275) -/

/-- The exact-accumulator blocks that a command uses (R195, R211, R253). -/
def blocksUsed (d : Desc) : List Nat :=
  match d.kind with
  | .chain | .fore => (d.chainStages.filter (fun w => stageKind w == 7 && decide (10 ≤ bitsOf w 11 8))).map sinkBlock
  | .matmul | .load | .store | .marker => []
  | _ => [13, 14, 15]

/-- The slipways that a command uses (R240, R249). -/
def slipsUsed (d : Desc) : List Nat :=
  match d.kind with
  | .matmul | .load | .store => [0, 1].filter (selects d)
  | .attn => [0, 1]
  | _ => []

/-- A command reads bytes that another writes (Table 11-6). -/
def readsOf (n c : Desc) : Bool := [0, 1].any (fun i => (usesOf n).any (fun u => overlaps (outRange c i) (useSpan n u)))

/-- A command writes bytes that another reads or writes (Table 11-6). -/
def writesOver (n c : Desc) : Bool := readsOf c n || [0, 1].any (fun i => [0, 1].any (fun j => overlaps (outRange c i) (outRange n j)))

/-- The commands that a command follows, to which the byte check of Table 11-6 applies (R276; log entry 188): those of its own berth, and the
last to have issued. -/
def follows (s : State) (e x : Entry) : Bool :=
  x.started && !(x.berth == e.berth && x.seq == e.seq) &&
    (x.berth == e.berth || s.cq.lastBerth == some x.berth && !(s.cq.entries.any (fun y => y.berth == x.berth && y.started && decide (x.seq < y.seq))))

/-- A command reads bytes that a command it follows has still to bring to storage: no request of it is made (Table 11-6). -/
def heldReading (s : State) (e x : Entry) : Bool := follows s e x && readsOf e.desc x.desc

/-- What of an earlier command holds a command back (R275): bytes of one that it follows, until that completes; exact accumulator blocks and
slipways until the last slice. -/
def heldBy (s : State) (e x : Entry) : Bool :=
  let d := e.desc
  let f := x.desc
  follows s e x && (readsOf d f || writesOver d f) ||
    x.started && !(x.berth == e.berth && x.seq == e.seq) && x.life != .ran &&
      ((blocksUsed d).any (fun b => (blocksUsed f).contains b) || (slipsUsed d).any (fun w => (slipsUsed f).contains w))

/-- Whether a taken command may issue: its landing is reached and the gate open, and no earlier command holds back its first slice. -/
def mayStart (s : State) (e : Entry) : Bool :=
  decide (s.crs.phase = .inSegment) && s.crs.run.isNone && s.crs.landing == e.desc.landing &&
    !(s.crs.decided.any (fun d => decide (d.landing ≤ e.desc.landing))) && (e.started || !(s.cq.entries.any (heldBy s e)))

/-- Whether a command writes job memory. -/
def writesJob (d : Desc) : Bool := [0, 1].any (fun i => decide (0 < (outSpan d i).2) && (d.slot (4 + i)).job)

/-- The first lane issue. A command that reads no job memory makes its first step, if its store areas have room; where it writes none either
and no boundary is asked for, it runs to its outputs (log entry 64: interleaving changes timing only). -/
def startEntry (env : RunEnv) (e : Entry) (s : State) : State :=
  let d := e.desc
  let e1 := { e with started := true, life := .taken, crossing := s.crs.crossing, deadline := deadlineOf s d }
  let s1 := noteTaken s.crs.crossing d.landing
    { s with cq := { s.cq with issuing := some e.berth, lastBerth := some e.berth, chosen := none } }
  if runsApart d then settleApart env.storeDelta e1 (setEntry e1 s1)
  else
    let s2 := setEntry e1 (if d.kind = .chain ∨ d.kind = .fore then chainStart e1 s1 else s1)
    if (readsJob d ∧ ¬allPast (planOf s2 e1) e1) ∨ areasFull s2 e1 then s2
    else runTogether (!env.stepwise && !writesJob d) env e1 s2

/-! ## Binding (R171, R282, R288, R327) -/

/-- Whether the settings under which a command will run are in force: no full landing up to its own lies ahead, and the
crossing is open. -/
def bindable (s : State) (d : Desc) : Bool :=
  decide (s.crs.phase = .inSegment) && s.crs.run.isNone && !(s.crs.decided.any (fun x => x.full && decide (x.landing ≤ d.landing)))

/-- A command that has passed its checks: Λ, the table bank it reads in each cluster (R171), its window raised and bound, its collective
number and its row blocks. -/
def bindEntry (e : Entry) (s : State) : State :=
  let d := e.desc
  let g := groupOf s e
  let n := sget 0 s.tow.coll g
  let w := sget default s.cq.wins d.window
  let gen := (w.gen + 1) % 2 ^ 16
  let named := decide (d.window < 128)
  let e1 := { e with
    lookahead := lambdaOf s d, banks := (List.range Config.clusters).map (bankOf s e), gen := if named then gen else 0, coll := if g = 0 then none else some (g, n),
    tow := if g = 0 then [] else towBlocks d }
  let win : Win := ⟨gen, 1, e.berth, e.seq % 2 ^ 32, d.out0.base, (outSpan d 0).2⟩
  let s1 := if named then { s with cq := { s.cq with wins := sset default s.cq.wins d.window win } } else s
  if g = 0 then setEntry e1 s1
  else reexamineHeld (setEntry e1 { s1 with tow := { s1.tow with coll := sset 0 s1.tow.coll g (n + 1) } })

/-! ## Taking -/

/-- CQ_VLEN of a berth. -/
def vlenOf (s : State) (b : Nat) : Nat := sget 0xFFFFFF s.cq.vlen b

/-- A command is refused (R135): it writes nothing and completes after its predecessors. -/
def refuseEntry (reason : Nat) (e : Entry) (s : State) : State :=
  let e1 := { e.shed with life := .ran, crossing := s.crs.crossing, res := { e.res with refused := some reason } }
  completeRefused 256 e.berth (releaseIssue e.berth (setEntry e1 s))

/-- Whether commands can be taken: the engine is up, tested and clocked, no reset is under way, the keep island accepts. An
engine with an active manifest must be moored. -/
def mayTake (s : State) : Bool :=
  portsOpen s && !s.pwr.gated && s.pwr.tested && !s.pwr.warmTest && !(islandFailing s) && (s.crs.moored || s.man.active.isNone)

/-- The head command of a berth as it would issue: a queued one with the length it would latch. -/
def headFor (s : State) (b : Nat) : Option Entry :=
  (berthNext s b).map (fun e =>
    if e.life = .queued then { e with vlen := if e.desc.vlen = 0 then vlenOf s b else e.desc.vlen } else e)

/-- Whether a granule of the front became complete. -/
def granuleCame (s : State) (before after : Entry) : Bool :=
  (frontOf s before (frontDepth s before)).any (fun g => !(granuleDone before g.2.2) && granuleDone after g.2.2)

/-- What the region caches hold for a command enters its operand buffers; a granule that this completes after the deadline is a late arrival
(R62, R296). -/
def hitGranules (e : Entry) (s : State) : Entry × State :=
  let e1 := takeHits s e
  if granuleCame s e e1 then lateCheck 0 e1 s else (e1, s)

/-- The granules that each cluster issues next are complete. -/
def granulesReady (s : State) (e : Entry) : Bool := (nextGranules s (takeHits s e)).all (granuleDone (takeHits s e))

/-- Whether the head command of a berth could take the issue (R274 step 2): taken or still queued, at the current landing, its next granules
present, nothing holding it back. -/
def couldIssue (s : State) (b : Nat) : Bool :=
  match headFor s b with
  | none => false
  | some e => decide (e.desc.kind ≠ .marker) && decide (e.life ≠ .stats) && !e.suspended && mayStart s e && granulesReady s e

/-- Whether the scheduler's choice at a boundary leaves the issue to a berth (R274). -/
def issueOpen (s : State) (b : Nat) : Bool :=
  s.cq.issuing.isNone && (match s.cq.chosen with | some x => x == b || !(couldIssue s x) | none => true)

/-- The command that holds the issue. -/
def issuingEntry (s : State) : Option Entry :=
  s.cq.issuing.bind (fun b => (berthEntries s b).find? (fun e => e.started && decide (e.life = .taken)))

/-- A fused row command or an ATTN command is suspended: it holds the issue, and nothing is issued (R302). -/
def issueHeld (s : State) : Bool := s.cq.entries.any (fun e => e.started && e.suspended && runsApart e.desc)

/-- A fused row command or an ATTN command holds the issue: nothing else is taken (R274). -/
def issueBarred (s : State) : Bool := issueHeld s || match issuingEntry s with | some e => runsApart e.desc | none => false

/-- A command that has been taken: judged and bound once the settings under which it runs are in force, and started as
soon as it can be (R135, R274, R278). -/
def advanceTaken (env : RunEnv) (e : Entry) (s : State) : State :=
  let d := groupedDesc s e
  let bound := decide (0 < e.lookahead)
  if !bound && !(bindable s d) then setEntry e s
  else match if bound then none else lowest (fixedReasons e d e.vlen ++ liveReasons s e d) with
    | some r => refuseEntry r e s
    | none =>
      let s1 := if bound then setEntry e s else bindEntry e s
      let e1 := entryNow e s1
      if mayStart s1 e1 && issueOpen s1 e.berth then startEntry env e1 s1 else s1

/-- A landing marker that has been taken: refused under R265, held for its landing, or ended at once where that is
reached. -/
def advanceMarker (e : Entry) (s : State) : State :=
  match lowest (fixedReasons e e.desc e.vlen) with
  | some r => refuseEntry r e s
  | none => setEntry (if s.crs.landing = e.desc.landing then { e with life := .ran, crossing := s.crs.crossing } else e) s

/-- R130: a length in the descriptor is written when the command is taken. A marker never writes it. -/
def latchVlen (e : Entry) (s : State) : State :=
  let d := e.desc
  if d.vlen = 0 ∨ d.kind = .marker then s else { s with cq := { s.cq with vlen := sset 0xFFFFFF s.cq.vlen e.berth d.vlen } }

/-- R38, R39: a command's landing lies behind: the current landing has passed it, or it was accepted after the decision point of a later one. One
accepted before that point is waited for (DEDUCED, log entry 164). -/
def landingPassed (s : State) (e : Entry) : Bool :=
  decide (e.desc.landing < s.crs.landing) || s.crs.decided.any (fun x => decide (e.desc.landing < x.landing) && decide (x.accepted ≤ e.ord))

/-- A command is taken for issue from the head of its berth. Between two crossings it is held for the opening (R40). -/
def takeEntry (env : RunEnv) (e : Entry) (s : State) : State :=
  let d := e.desc
  let k := d.landing
  let s1 := latchVlen e { s with cq := { s.cq with takenSinceReset := true, takenSinceApply := true } }
  let e1 := { e with life := .taken, taken := true, vlen := vlenOf s1 e.berth }
  if s.man.active.isNone then refuseEntry 0x01 e s1
  else if !(inCrossing s) then setEntry e1 s1
  else if (k = 0xFFFF ∧ d.kind ≠ .marker) ∨ landingPassed s e then refuseEntry 0x02 e s1
  else
    let s2 := decideUpTo k (noteTaken s.crs.crossing k s1)
    let s3 := lockLoads (setEntry e1 s2)
    if d.kind = .marker then advanceMarker e1 s3 else advanceTaken env e1 s3

/-- The commands taken and held at an opening. -/
def heldEntries (s : State) : List Entry := s.cq.entries.filter (fun e => decide (e.life = .taken))

/-- What the opening of a crossing means for a command held at it: the landings up to its own are decided, unless it is
refused under R37; a marker is judged (R265). -/
def openHeld (s : State) (e : Entry) : State :=
  let k := e.desc.landing
  if k = 0xFFFF ∧ e.desc.kind ≠ .marker then refuseEntry 0x02 e s
  else
    let s1 := decideUpTo k (noteTaken s.crs.crossing k s)
    if e.desc.kind = .marker then advanceMarker e s1 else s1

/-- CROSSING_OPEN (R40, R41, R443): a command taken for issue waits, every landing of the last crossing is committed and
the beacon condition holds. Landing 0 is decided and reached, and the landings that the held commands pass are
decided. -/
def execCrossingOpen (s : State) : Host.Outcome State Fault Refusal :=
  .next (if mainStopped s ∨ s.crs.phase ≠ .waitBeacon ∨ s.crs.run.isSome ∨ ¬s.crs.uncommitted.isEmpty ∨ (heldEntries s).isEmpty then s
    else match nextCrossing s with
      | none => s
      | some c =>
        let s1 := openCrossing c s
        let d := decide' s1 0 s1.crs.pendingLL false
        let s2 := { s1 with
          crs := { s1.crs with decided := [d], pendingLL := [] }
          man := { s1.man with apply := if d.applies then .applying else if requested s1 0 then .none else s1.man.apply } }
        reexamineSnaps (landWhenReady d ((heldEntries s2).foldl openHeld s2)))

/-- Whether a read of a granule has faulted and is not resolved (R302). -/
def granuleFaulted (e : Entry) (g : Granule) : Bool :=
  g.any (fun x => !(e.held.contains x.1) && e.faults.any (fun f =>
    let a := 64 * keySector x.1
    !f.write && decide (f.addr ≤ a) && decide (a < f.addr + f.len)))

/-- A command that stood aside resumes when its next granules are present (R274, R304). -/
def resumeEntry (e : Entry) (s : State) : State :=
  if issueOpen s e.berth ∧ ¬e.suspended ∧ granulesReady s e then
    let x := hitGranules e s
    setEntry { x.1 with aside := false }
      { x.2 with cq := { x.2.cq with issuing := some e.berth, lastBerth := some e.berth, chosen := none } }
  else s

/-- One offer of the issue to the head command of a berth, for the row of its kind: it is taken; or, taken before, it is
bound and started; or it resumes after standing aside. None is taken while a fused row or ATTN command holds the issue (R274). -/
def offer (k : Kind) (b : Nat) (env : RunEnv) (s : State) : State :=
  if !(mayTake s) || issueBarred s then s
  else match berthNext s b with
    | none => s
    | some e =>
      if e.desc.kind ≠ k then s
      else if e.life = .queued then takeEntry env e s
      else if e.life ≠ .taken ∨ k = .marker then s
      else if !e.started then advanceTaken env e s
      else if e.aside then resumeEntry e s
      else s

/-- CHAIN. -/
def execChain (berth : BitVec 5) (env : RunEnv) (s : State) : Host.Outcome State Fault Refusal :=
  .next (offer .chain berth.toNat env s)

/-- FORERUNNER_CHAIN (R139). -/
def execForerunnerChain (berth : BitVec 5) (env : RunEnv) (s : State) : Host.Outcome State Fault Refusal :=
  .next (offer .fore berth.toNat env s)

/-- NORM_FWD. -/
def execNormFwd (berth : BitVec 5) (env : RunEnv) (s : State) : Host.Outcome State Fault Refusal :=
  .next (offer .normFwd berth.toNat env s)

/-- RMS_FWD. -/
def execRmsFwd (berth : BitVec 5) (env : RunEnv) (s : State) : Host.Outcome State Fault Refusal :=
  .next (offer .rmsFwd berth.toNat env s)

/-- NORM_BWD. -/
def execNormBwd (berth : BitVec 5) (env : RunEnv) (s : State) : Host.Outcome State Fault Refusal :=
  .next (offer .normBwd berth.toNat env s)

/-- RMS_BWD. -/
def execRmsBwd (berth : BitVec 5) (env : RunEnv) (s : State) : Host.Outcome State Fault Refusal :=
  .next (offer .rmsBwd berth.toNat env s)

/-- SMAX_FWD. -/
def execSmaxFwd (berth : BitVec 5) (env : RunEnv) (s : State) : Host.Outcome State Fault Refusal :=
  .next (offer .smaxFwd berth.toNat env s)

/-- SMAX_BWD. -/
def execSmaxBwd (berth : BitVec 5) (env : RunEnv) (s : State) : Host.Outcome State Fault Refusal :=
  .next (offer .smaxBwd berth.toNat env s)

/-- MATMUL. -/
def execMatmul (berth : BitVec 5) (env : RunEnv) (s : State) : Host.Outcome State Fault Refusal :=
  .next (offer .matmul berth.toNat env s)

/-- LOAD. -/
def execLoad (berth : BitVec 5) (env : RunEnv) (s : State) : Host.Outcome State Fault Refusal :=
  .next (offer .load berth.toNat env s)

/-- STORE. -/
def execStore (berth : BitVec 5) (env : RunEnv) (s : State) : Host.Outcome State Fault Refusal :=
  .next (offer .store berth.toNat env s)

/-- ATTN. -/
def execAttn (berth : BitVec 5) (env : RunEnv) (s : State) : Host.Outcome State Fault Refusal :=
  .next (offer .attn berth.toNat env s)

/-- LANDING_MARKER (R265). -/
def execLandingMarker (berth : BitVec 5) (s : State) : Host.Outcome State Fault Refusal :=
  .next (offer .marker berth.toNat (RunEnv.clean 0) s)

/-! ## Tile boundaries (R274) -/

/-- The berths after a command's, in ascending order, wrapping (R274). -/
def othersAfter (b : Nat) : List Nat := (List.range 31).map (fun i => (b + 1 + i) % 32)

/-- The issuing command waits for data: the first berth after it that could issue is chosen and it stands aside, or it stays (R274). -/
def waitOrAside (e : Entry) (s : State) : State :=
  match (othersAfter e.berth).find? (couldIssue s) with
  | some b =>
    let s1 := releaseIssue e.berth (setEntry { e with aside := true } s)
    { s1 with cq := { s1.cq with chosen := some b } }
  | none => setEntry e s

/-- A write of a command has faulted and is not resolved (R302). -/
def writeFaulted (e : Entry) : Bool := e.faults.any (·.write)

/-- A boundary of a command whose clusters run in step: it goes on when every cluster's next granule is complete. Between the steps of one
tile it does not stand aside, nor stop. A fault holds it suspended, aside (R302). -/
def boundaryTogether (env : RunEnv) (e : Entry) (s : State) : State :=
  let tile := decide (e.pos % stepsPerTile e = 0)
  let gs := nextGranules s e
  if (tile && writeFaulted e) || gs.any (granuleFaulted e) then
    releaseIssue e.berth (setEntry { e with suspended := true, aside := true } s)
  else if !(gs.all (granuleDone e)) then (if tile then waitOrAside e s else setEntry e s)
  else if areasFull s e then setEntry e s
  else runTogether false env e (setEntry e s)

/-- A boundary of a command whose clusters run on their own: each cluster that can issues one step. A fault suspends all of
them, and the issue stays held (R302). -/
def boundaryApart (env : RunEnv) (e : Entry) (s : State) : State :=
  if writeFaulted e || (nextGranules s e).any (granuleFaulted e) then setEntry { e with suspended := true } s
  else
    let p := planOf s e
    let go := p.filter (fun x => stepReady s e x && !(areaFull s e x.1))
    if go.isEmpty then setEntry e s
    else match errorOf s e env with
      | some x => detectedError x.1 x.2 e s
      | none =>
        if overCap env e then capEntry e s
        else
          let m := meetStep env (charge env e) s
          let l := if readsJob e.desc then m else lateCheck 2 m.1 m.2
          let f := storeFault env l.1 l.2
          let x := runWorks f.1 (go.filterMap (fun c => (c.2[nextOf e c.1]?).map (·.2))) l.1 f.2
          let y := env.rest.foldl (fun a r => outputMeet r a) x.2
          let e1 := trimHeld y.2 { y.1 with front := go.foldl (fun m c => sset 0 m c.1 (sget 0 m c.1 + 1)) y.1.front }
          settleApart x.1 e1 (setEntry e1 y.2)

/-- TILE_BOUNDARY (R274): a suspended command issues nothing (R302), and none issues while the keep island is failing (R401). A command
whose berth has been aborted stops at its tile boundary (R280). -/
def execTileBoundary (env : RunEnv) (s : State) : Host.Outcome State Fault Refusal :=
  .next (if mainStopped s ∨ islandFailing s then s else match issuingEntry s with
    | none => s
    | some e =>
      if e.stop && decide (e.pos % stepsPerTile e = 0) then abortEntry e s
      else if e.suspended || issueHeld s then s
      else
        let x := hitGranules e s
        if runsApart e.desc then boundaryApart env x.1 x.2 else boundaryTogether env x.1 x.2)

/-! ## Pair comparison (R358) -/

/-- The comparison of a tile has passed: its blocks no longer wait for it. -/
def passSig (id : Nat) (e : Entry) : Entry :=
  { e with sigs := e.sigs.drop 1, writes := e.writes.map (fun b => { b with held := b.held.filter (· != id) }) }

/-- Records that waited for comparisons leave for the towline. -/
def releaseOwn (e : Entry) (s : State) : State :=
  let go := e.own.filter (fun x => !(awaitsPair e x.1))
  let e1 := { e with own := e.own.filter (fun x => awaitsPair e x.1) }
  go.foldl (fun t x => ownRecord x.1 x.2 0 (entryNow e1 t) t) (setEntry e1 s)

/-- TILE_SIGNATURE_COMPARE: the next tile of the berth's oldest command that waits for comparisons; equal signatures let it
go on, a difference is a detected error. -/
def compareSignature (b secondary : Nat) (s : State) : State :=
  match (berthEntries s b).find? (fun e => !e.sigs.isEmpty) with
  | none => s
  | some e =>
    match e.sigs with
    | [] => s
    | x :: _ => if secondary % digP = x.sum then releaseOwn (passSig x.id e) s else detectedError .pair x.cluster e s

/-- TILE_SIGNATURE_COMPARE. -/
def execTileSignatureCompare (berth : BitVec 5) (secondary : Nat) (s : State) : Host.Outcome State Fault Refusal :=
  .next (if mainStopped s then s else compareSignature berth.toNat secondary s)

/-! ## The finisher (R202, R213) -/

/-- The first command with a row at a stage of the finisher: the finisher serves commands in order. -/
def finEntry (s : State) (g : FinStage) : Option (Entry × Nat) :=
  s.cq.entries.findSome? (fun e => (e.fin.find? (fun f => f.2 == g)).map (fun f => (e, f.1)))

/-- Move one row to a stage. -/
def finMove (row : Nat) (g : FinStage) (e : Entry) : Entry :=
  { e with fin := e.fin.map (fun f => if f.1 = row then (row, g) else f) }

/-- FINISHER_ROW_ACCEPT: the next row whose inputs are final, in ascending i1 of its row block. -/
def execFinisherRowAccept (s : State) : Host.Outcome State Fault Refusal :=
  .next (if mainStopped s then s else match finEntry s .ready with
    | none => s
    | some x => setEntry (finMove x.2 .inFin x.1) s)

/-- FINISHER_ROW_DELIVER: the oldest accepted row's outputs, with its flags, clamp and full mask (R205, R222), or a detected error (R359).
The last row of an ATTN command ends it. -/
def execFinisherRowDeliver (env : RunEnv) (s : State) : Host.Outcome State Fault Refusal :=
  .next (if mainStopped s then s else match finEntry s .inFin with
    | none => s
    | some x =>
      match errorOf s x.1 env with
      | some y => detectedError y.1 y.2 x.1 s
      | none =>
        if overCap env x.1 then capEntry x.1 s
        else
          let m := meetStep env (charge env (finMove x.2 .done x.1)) s
          let c := rowCoord x.1.desc.shape x.2
          let f := storeFault env m.1 m.2
          let y : Entry × State := if x.1.desc.kind = .attn then deliverAttn f.1 (x.2 / 16) c m.1 f.2
            else (deliverFused f.2 (x.2 / 16) c m.1, f.2)
          let z := env.rest.foldl (fun a r => outputMeet r a) y
          settleApart (if x.1.desc.kind = .attn then 0 else f.1) z.1 (setEntry z.1 z.2))

/-- STATISTICS_READY (R213): the statistics of a block have reached its clusters, which lets its second pass begin. -/
def execStatisticsReady (rowBlock : Nat) (s : State) : Host.Outcome State Fault Refusal :=
  .next (if mainStopped s then s else match issuingEntry s with
    | none => s
    | some e =>
      if e.desc.kind ≠ .attn ∧ blockDone e rowBlock ∧ ¬e.stats.contains rowBlock then
        setEntry { e with stats := e.stats ++ [rowBlock] } s
      else s)

end Sys2Proof.Machine
end

