-- ==== Sys2Proof/Machine/Hops.lean ====
section
/-! DEFINITION. Messages that arrive, abandoned hops and timers (R322, R325, R332, R334), with what they let the rows of a command do. -/

namespace Sys2Proof.Machine

/-- Every command whose clusters run on their own writes what has become final or void, and ends if it is over. -/
def settleRows (s : State) : State :=
  (s.cq.entries.filter (fun e => runsApart e.desc && e.started && decide (e.life ≠ .ran))).foldl
    (fun t e => settleApart 0 (entryNow e t) t) s

/-- A whole message that is addressed to this engine, by its kind (Table 14-4). -/
def takeMsg (m : TowMsg) (env : RunEnv) (s : State) : State :=
  match m.kind, m.snap with
  | 5, some n => receiveSnapshot n s
  | 6, _ => receiveReq m s
  | 7, _ => receiveData m s
  | _, _ => settleRows (receiveMsg m env s)

/-- TOWLINE_MESSAGE (R322, R332): a whole message; its bursts leave the partial count, but for a snapshot, which keeps its own count. One
for another engine is passed on, unchecked, under the engine's own REMOTE tags. While a reset drains, messages are discarded (R413). -/
def execTowMessage (msg : TowMsg) (env : RunEnv) (s : State) : Host.Outcome State Fault Refusal :=
  .next (if mainStopped s ∨ s.pwr.draining.isSome then s
    else
      let own := decide (msg.dest = ownPlace s)
      let s1 := if own ∧ msg.kind = 5 then s else rxWhole (towBursts msg) s
      if own then takeMsg msg env s1 else sendMsg msg none true s1)

/-! ## Timers and links (R325, R334) -/

/-- A hop was abandoned after the message's command had completed (R325, R335): the VOID messages that its row block sends, by the message's own
header (log entry 174). -/
def voidLate (m : TowMsg) (s : State) : State :=
  let note := fun (ret : Bool) (cp : Nat) (t : State) =>
    sendMsg { m with ret := ret, isVoid := true, reason := voidLink, payload := [], source := ownPlace t, dest := memberPlace t m.group cp } none false t
  let size := ((memberOf s m.group).getD (0, 1)).2
  let s1 := if 0 < m.senderCp then note true (m.senderCp - 1) s else s
  if !m.ret ∧ m.senderCp + 1 < size then note false (m.senderCp + 1) s1 else s1

/-- The row block of an abandoned message is voided with reason LINK (R325). A forward message that did not arrive has not left: the VOID toward
the tail goes in its place, also where the block had been voided behind it (R335). -/
def voidHop (rb : Nat) (m : TowMsg) (delta : Nat) (e : Entry) (s : State) : State :=
  if m.ret || m.isVoid then voidBlock rb voidLink true delta e s
  else
    let e1 := updTow rb (fun x => { x with sentFwd := false }) e
    let s1 := setEntry e1 s
    let p := placeOf s e
    if (towAt e rb).any (·.isVoid) && decide (p.1 + 1 < p.2) then sendTow e1 rb false true voidLink [] s1
    else voidBlock rb voidLink true delta e1 s1

/-- HOP_ABANDONED (R325): the message's tags return, LINK_FAIL is set, and its row block is voided. -/
def execHopAbandoned (id : Nat) (env : RunEnv) (s : State) : Host.Outcome State Fault Refusal :=
  .next (if mainStopped s then s else match s.tow.tx.find? (fun t => t.id == id) with
    | none => s
    | some t =>
      let s1 := nextSnapshot (pump { s with tow := { s.tow with tx := s.tow.tx.filter (fun x => x.id != id), linkFail := true } })
      match t.owner with
      | none => s1
      | some (b, q, rb) =>
        match findEntry s1 b q with
        | none => if t.msg.isVoid then s1 else voidLate t.msg s1
        | some e => settleRows (voidHop rb t.msg env.storeDelta e s1))

/-- TOWLINE_TIMER_EXPIRY (R334): a block without a final record is voided, and TOWLINE_TIMEOUT is raised once for the
command. For a block that the member had voided itself, the wait of R335 is over. -/
def timerExpiry (b rb : Nat) (env : RunEnv) (s : State) : State :=
  match (berthEntries s b).find? (fun e => (towAt e rb).any (·.timer)) with
  | none => s
  | some e =>
    match towAt e rb with
    | none => s
    | some t =>
      let e1 := updTow rb (fun x => { x with timer := false }) e
      if t.isVoid then setEntry e1 s
      else
        let s1 := if e.res.timeout then s
          else raise evTowlineTimeout (some (b, e.seq)) ((e.coll.getD (0, 0)).1 + rowBlockField e.desc rb * 2 ^ 16) 0 s
        voidBlock rb voidTimeout true env.storeDelta e1 (setEntry e1 s1)

/-- TOWLINE_TIMER_EXPIRY. -/
def execTowTimerExpiry (berth : BitVec 5) (rowBlock : Nat) (env : RunEnv) (s : State) : Host.Outcome State Fault Refusal :=
  .next (if mainStopped s then s else settleRows (timerExpiry berth.toNat rowBlock env s))

end Sys2Proof.Machine
end

