-- ==== Sys2Proof/Machine/Retriever.lean ====
section
/-! DEFINITION. The Retriever: requests in priority order, tags and the channel cap, responses, acknowledgements,
translation faults and their resolution (R286 to R304). -/

namespace Sys2Proof.Machine

/-- A request that could issue: kind, owner, address, length, operand slot, whether it is a first granule of a command not
yet issued, and the block of a write. -/
structure Cand where
  write : Bool
  owner : ReqOwner
  addr : Nat
  len : Nat
  slot : Nat
  prefetch : Bool
  block : Option WBlock
deriving DecidableEq, Repr, Inhabited

/-- The smallest aligned span of 1, 2, 4 or 8 sectors of a block that holds two of them: first sector and count (R290,
R297). -/
def blockSpan (lo hi : Nat) : Nat × Nat :=
  let n := ([1, 2, 4].find? (fun n => lo / n == hi / n)).getD 8
  (lo / n * n, n)

/-- Least and greatest of a list of sector numbers. -/
def bounds (xs : List Nat) : Nat × Nat := (xs.foldl min 7, xs.foldl max 0)

/-- Where a key is fetched: the region whose cache is filled, if it comes through one, and the block (address / 512). -/
def keyBlock (key : Nat) : Option Nat × Nat := (keyRegion key, keySector key / 8)

/-- The region whose cache a request fills. -/
def Req.region (q : Req) : Option Nat := match q.owner with | .fill x _ => some x | _ => none

/-- Whether a block is already requested, for whichever command (R290, R296). -/
def blockOut (s : State) (b : Option Nat × Nat) : Bool :=
  s.rtv.out.any (fun q => !q.write && q.region == b.1 && q.addr / 512 == b.2)

/-- Whether a read of a block has faulted for a command. -/
def blockFaulted (e : Entry) (b : Option Nat × Nat) : Bool := e.faults.any (fun f => !f.write && f.addr / 512 == b.2)

/-- A key that is neither in operand buffers nor in the cache that it comes through. -/
def missing (s : State) (e : Entry) (key : Nat) : Bool :=
  !(e.held.contains key) && (match keyRegion key with | some x => (cachedSector s x (keySector key)).isNone | none => true)

/-- Whether a block has served a granule that stays in the front of a command: it is not requested again (R290). -/
def blockServed (s : State) (b : Option Nat × Nat) (e : Entry) : Bool :=
  (frontOf s e (frontDepth s e)).any (fun g =>
    let ks := g.2.2.filter (fun x => keyBlock x.1 == b)
    !ks.isEmpty && ks.all (fun x => e.held.contains x.1))

/-- A command whose next granules nothing else could bring (log entry 168): it is under way, or nothing is and it comes first of those that are
fetched. -/
def urgent (es : List Entry) (e : Entry) : Bool := e.started || (!(es.any (·.started)) && es.head? == some e)

/-- What the front of a command still misses, in the order of R289. What a block has served in a front of the commands that are fetched is
missed only by a granule that its cluster issues next, of an urgent command (R290). -/
def frontMisses (s : State) (es : List Entry) (e : Entry) : Granule :=
  ((frontOf s e (frontDepth s e)).flatMap (fun g => g.2.2.filter (fun x =>
    missing s e x.1 && (g.2.1 == 0 && urgent es e || !(es.any (blockServed s (keyBlock x.1))))))).eraseDups

/-- The reads that a command needs, block by block, each over the smallest span of what all the fetched commands miss of it (R290); a vector's
blocks fill the caches of the regions that use it (R296). -/
def readCands (s : State) (es : List Entry) (e : Entry) : List Cand :=
  let all := es.flatMap (frontMisses s es)
  let need := frontMisses s es e
  ((need.map (fun x => keyBlock x.1)).eraseDups.filter (fun b => !(blockOut s b) && !(blockFaulted e b))).map (fun b =>
    let lh := bounds ((all.filter (fun x => keyBlock x.1 == b)).map (fun x => keySector x.1 % 8))
    let sp := blockSpan lh.1 lh.2
    { write := false, addr := 512 * b.2 + 64 * sp.1, len := 64 * sp.2, prefetch := !e.started, block := none,
      owner := match b.1 with
        | some x => .fill x (some (e.berth, e.seq))
        | none => .entry e.berth e.seq
      slot := ((need.find? (fun x => keyBlock x.1 == b)).map (·.2)).getD 0 })

/-- A write of one block: the smallest aligned span that holds what it writes (R297). -/
def writeCand (owner : ReqOwner) (b : WBlock) : Cand :=
  let lh := bounds (b.bytes.map (fun x => x.1 / 64) ++ b.poison)
  let sp := blockSpan lh.1 lh.2
  { write := true, owner := owner, addr := b.addr + 64 * sp.1, len := 64 * sp.2, slot := b.slot, prefetch := false,
    block := some b }

/-- What a write indicates for each sector of its span (R300). -/
def indications (c : Cand) : List (Nat × Indication) :=
  match c.block with
  | none => []
  | some b => (List.range (c.len / 64)).map (fun i =>
      let k := c.addr % 512 / 64 + i
      (k, if b.poison.contains k then .poisoned
        else if (List.range 64).all (fun j => b.bytes.any (fun x => x.1 == 64 * k + j)) then .clean else .none))

/-- The store-area writes of a command that can leave (R297, R358): no block that faulted. -/
def writeCands (e : Entry) : List Cand :=
  (((e.writes.filter (blockReady e)).map (writeCand (.entry e.berth e.seq))).filter (fun c =>
    !(e.faults.any (fun f => f.write && f.addr == c.addr))))

/-- Whether the first granules of a berth's head command may be fetched (R289 step 3): a command that passes its checks, of the current
landing, and that reads no bytes which a command before it has still to write (Table 11-6; log entries 65 and 188). -/
def mayPrefetch (s : State) (e : Entry) : Bool :=
  let d := groupedDesc s e
  decide (e.desc.kind ≠ .marker) && s.man.active.isSome && decide (s.crs.phase = .inSegment) &&
    s.crs.landing == e.desc.landing && !(s.cq.entries.any (heldReading s e)) &&
    (decide (0 < e.lookahead) || (fixedReasons e d e.vlen ++ liveReasons s e d).isEmpty)

/-- The berths after the issuing one, in round-robin order (R274, R289). -/
def berthsAfter (s : State) : List Nat :=
  let b := (s.cq.issuing <|> s.cq.lastBerth).getD 31
  ((List.range 32).map (fun i => (b + 1 + i) % 32)).filter (fun x => s.cq.issuing != some x)

/-- Bytes of operand buffer that hold granules, in each cluster (R288). -/
def granuleSpace : Nat := 163840

/-- Bytes that the front of the issuing command takes in the cluster that holds most of it, with the granule being issued. -/
def spaceUsed (s : State) (e : Entry) : Nat :=
  ((execClusters s).map (fun c =>
    min (frontDepth s e) ((granulesOf s e c).length - nextOf e c) + bit (decide (0 < nextOf e c)))).foldl max 0 * largestGranule e.desc

/-- The commands whose first granules there is room for, in order. -/
def withinSpace : Nat → List Entry → List Entry
  | _, [] => []
  | used, e :: es =>
    if used + largestGranule e.desc ≤ granuleSpace then e :: withinSpace (used + largestGranule e.desc) es else withinSpace used es

/-- The head commands of the other berths whose first granules are fetched (R289 step 3). -/
def prefetching (s : State) : List Entry :=
  withinSpace (match issuingEntry s with | some e => spaceUsed s e | none => 0)
    (((berthsAfter s).filterMap (headFor s)).filter (mayPrefetch s))

/-- The bursts that a table LOAD waits for and has not requested (R170, R289 step 4). -/
def loadCands (s : State) : List Cand :=
  match s.tbl.load with
  | none => []
  | some l => ((loadWants s l).filter (fun x => !(blockOut s (some x.1, l.addr / 512 + x.2)))).map (fun x =>
      { write := false, owner := .fill x.1 none, addr := l.addr + 512 * x.2, len := 512, slot := 0, prefetch := false, block := none })

/-- Every request that could issue, in the order of R289; the engine's own records follow the store areas. -/
def candidates (s : State) : List Cand :=
  let first := (issuingEntry s).toList
  let heads := prefetching s
  let es := first ++ heads
  first.flatMap (readCands s es) ++ s.cq.entries.flatMap writeCands ++ s.rtv.posts.map (fun p => writeCand p.1 p.2) ++
    heads.flatMap (readCands s es) ++ loadCands s

/-- READ and WRITE tags held. -/
def tagsOut (s : State) (write : Bool) : Nat := (s.rtv.out.filter (fun q => q.write == write)).length

/-- Whether a tag of a class is free (R291). -/
def tagFree (s : State) (write : Bool) : Bool :=
  decide (tagsOut s write < if write then s.rtv.writeTags else s.rtv.readTags)

/-- READ tags held by requests to a channel (R292). -/
def channelOut (s : State) (ch : Nat) : Nat := (s.rtv.out.filter (fun q => !q.write && q.channel == ch)).length

/-- Whether a channel is at the cap. -/
def capped (s : State) (ch : Nat) : Bool := decide (32 ≤ channelOut s ch)

/-- Take a request's source away: a block leaves the store area, a record the list of posts. -/
def takeSource (c : Cand) (s : State) : State :=
  match c.owner, c.block with
  | .entry b q, some w =>
    (match findEntry s b q with
      | some e => setEntry { e with writes := e.writes.erase w } s
      | none => s)
  | o, some w => { s with rtv := { s.rtv with posts := s.rtv.posts.erase (o, w) } }
  | _, none => s

/-- A request leaves with its tag. -/
def sendReq (c : Cand) (ch : Nat) (s : State) : State :=
  let s1 := takeSource c s
  let q : Req := { tag := s1.rtv.nextTag, write := c.write, owner := c.owner, addr := c.addr, len := c.len, pass := 0,
                   slot := c.slot, channel := ch, prefetch := c.prefetch, block := c.block, marks := indications c }
  { s1 with rtv := { s1.rtv with
      out := s1.rtv.out ++ [q], nextTag := s1.rtv.nextTag + 1, passed := s1.rtv.passed.filter (fun p => c.write || p.1 != c.addr) } }

/-- The channel that a read passed over waits for. -/
def passedChannel (s : State) (c : Cand) : Option Nat :=
  if c.write then none else (s.rtv.passed.find? (fun p => p.1 == c.addr)).map (·.2)

/-- The next memory request (R289, R291, R292): a request passed over whose channel has room goes first; otherwise the
first in order whose class has a tag, unless its channel is at the cap: then it is passed over. -/
def nextRequest (ch : Nat) (s : State) : State :=
  let cs := (candidates s).filter (fun c => tagFree s c.write)
  match cs.findSome? (fun c => (passedChannel s c).bind (fun x => if capped s x then none else some (c, x))) with
  | some x => sendReq x.1 x.2 s
  | none =>
    match cs.find? (fun c => (passedChannel s c).isNone) with
    | none => s
    | some c =>
      if !c.write && capped s ch then { s with rtv := { s.rtv with passed := s.rtv.passed ++ [(c.addr, ch)] } }
      else sendReq c ch s

/-- Whether the Retriever can send: the main side is up and clocked, and no reset drains (R406, R408, R413). -/
def rtvRuns (s : State) : Bool := !(mainStopped s) && !s.pwr.gated && s.pwr.draining.isNone

/-- RETRIEVER_REQUEST. The remote stream hands out REMOTE tags, which never enter the memory order. -/
def execRetrieverRequest (stream : ReqStream) (s : State) : Host.Outcome State Fault Refusal :=
  .next (if !(rtvRuns s) then s
    else match stream with
      | .memory ch => nextRequest ch s
      | .remote => pump s)

/-! ## Responses (R294, R300, R301) -/

/-- The outstanding request of a tag. -/
def reqOf (s : State) (tag : Nat) : Option Req := s.rtv.out.find? (fun q => q.tag == tag)

/-- A tag returns. -/
def dropReq (tag : Nat) (s : State) : State := { s with rtv := { s.rtv with out := s.rtv.out.filter (fun q => q.tag != tag) } }

/-- The sectors of a response, by number, job address / 64. -/
def responseSectors (q : Req) (sectors : List Sector) : List (Nat × Sector) :=
  (sectors.take (q.len / 64)).zipIdx.map (fun x => (q.addr / 64 + x.2, x.1))

/-- The sectors of a response that some granule of a command's front needs enter the operand buffers; it needs none of the rest (R290). -/
def deliver (s : State) (ys : List (Nat × Sector)) (e : Entry) : Entry :=
  let need := (frontNeeds s e).map (·.1)
  (ys.filter (fun y => need.contains y.1)).foldl (fun x y => x.take y.1 y.2) e

/-- The commands that a response can reach: those whose granules are fetched, and the one it was requested for. -/
def reached (s : State) (q : Req) : List Entry :=
  let es := (issuingEntry s).toList ++ ((berthsAfter s).filterMap (headFor s)).filter (mayPrefetch s)
  let own := match q.owner with
    | .entry b n | .fill _ (some (b, n)) => (findEntry s b n).toList
    | _ => []
  es ++ own.filter (fun e => !(es.any (fun x => x.berth == e.berth && x.seq == e.seq)))

/-- What came reaches commands; a granule that comes after the deadline is a late arrival (R62). -/
def reachWith (f : State → Entry → Entry) (es : List Entry) (s : State) : State :=
  es.foldl (fun t e =>
    let e1 := f t e
    if e1 = e then t
    else
      let x := if granuleCame t e e1 then lateCheck 0 e1 t else (e1, t)
      setEntry x.1 x.2) s

/-- A read's data: a fill enters its region's cache, from which commands and the table LOAD take it (R296); any other goes to the commands
whose granules hold bytes of it (R290). What a fill brings of a block that has been written since it was requested is requested again. -/
def takeResponse (q : Req) (sectors : List Sector) (s : State) : State :=
  let ys := responseSectors q sectors
  match q.owner with
  | .fill x _ =>
    if q.pass ≠ 0 then s else
    let s1 := fillCache x (q.addr / 512) (ys.map (fun y => (y.1 % 8, y.2))) s
    let s2 := { s1 with tbl := { s1.tbl with load := s1.tbl.load.map (loadHits s1) } }
    reachWith takeHits (reached s2 q) s2
  | .entry _ _ => reachWith (fun t e => deliver t ys e) (reached s q) s
  | _ => s

/-- READ_RESPONSE: the tag returns and the data enters. One that arrives while a reset drains is discarded (R413). -/
def execReadResponse (tag : Nat) (sectors : List Sector) (s : State) : Host.Outcome State Fault Refusal :=
  .next (if mainStopped s then s else match reqOf s tag with
    | none => s
    | some q =>
      if q.write then s
      else if s.pwr.draining.isSome then dropReq tag s
      else takeResponse q sectors (dropReq tag s))

/-- A block of job memory has been written: no region cache keeps what it held of it, nor takes it from a fill that was requested before
(R21; log entry 155). -/
def dropWritten (block : Nat) (s : State) : State :=
  { s with rtv := { s.rtv with
      cache := s.rtv.cache.filter (fun x => x.block != block)
      out := s.rtv.out.map (fun q => if q.region.isSome && q.addr / 512 == block then { q with pass := 1 } else q) } }

/-- WRITE_ACK: the tag returns (R297), and the region caches drop the block. -/
def execWriteAck (tag : Nat) (s : State) : Host.Outcome State Fault Refusal :=
  .next (if mainStopped s then s else match reqOf s tag with
    | none => s
    | some q => if q.write then dropWritten (q.addr / 512) (dropReq tag s) else s)

/-! ## Translation faults (R302 to R304) -/

/-- Record a fault, or hold it behind the recorded one; one record serves all faults of a command (R303). -/
def recordFault (f : FaultRec) (s : State) : State :=
  let same := fun (g : FaultRec) => g.berth == f.berth && g.seq == f.seq
  match s.rtv.fault with
  | none => { s with rtv := { s.rtv with fault := some f } }
  | some g =>
    if same g || s.rtv.faultQueue.any same then s
    else { s with rtv := { s.rtv with faultQueue := s.rtv.faultQueue ++ [f] } }

/-- A command's request has faulted: the granule stays incomplete or the block unwritten. A command past its last boundary has no later one
and is suspended at once. -/
def faultEntry (q : Req) (e : Entry) (s : State) : State :=
  let f : Faulted := ⟨q.write, q.addr, q.len, 0, q.slot, q.prefetch⟩
  let e1 := { e with
    faults := e.faults ++ [f], suspended := e.suspended || decide (e.life = .ran ∨ e.life = .stats)
    writes := match q.block with | some w => w :: e.writes | none => e.writes }
  recordFault ⟨e.berth, e.seq, q.slot, q.write, !q.write && !e.started, q.addr⟩ (setEntry e1 s)

/-- What a fault does to the request's owner (R302): a faulted burst of a LOAD fails the LOAD for the clusters of its region (R170); a digest
post sets POST_SKIPPED (R353); a trace record is lost; the certificate whose write it was fails (R392). -/
def faultOwner (q : Req) (s : State) : State :=
  match q.owner with
  | .entry b n | .fill _ (some (b, n)) => (match findEntry s b n with | some e => faultEntry q e s | none => s)
  | .fill x none =>
    { s with tbl := { s.tbl with load := s.tbl.load.map (fun l => { l with failed := if l.failed.contains x then l.failed else l.failed ++ [x] }) } }
  | .post => { s with dgst := { s.dgst with postSkipped := true } }
  | .trace _ _ => s
  | .cert n => if s.toll.cert.state = 3 ∧ n = s.toll.cert.serial then setCert { s.toll.cert with state := 5, cause := 3 } s else s

/-- TRANSLATION_FAULT (R302): the tag returns. -/
def execTranslationFault (tag : Nat) (s : State) : Host.Outcome State Fault Refusal :=
  .next (if mainStopped s then s else match reqOf s tag with
    | none => s
    | some q => faultOwner q (dropReq tag s))

/-- RETRY (R304): every faulted request of the recorded command is requested again, and the command is no longer
suspended. Without a record the write is ignored. -/
def retryOp (s : State) : State :=
  match s.rtv.fault with
  | none => s
  | some f =>
    let s1 := clearFault f.berth f.seq s
    match findEntry s1 f.berth f.seq with
    | some e => setEntry { e with faults := [], suspended := false } s1
    | none => s1

/-- RETRY; needs permission bit 3. -/
def execRetry (port : Port) (s : State) : Host.Outcome State Fault Refusal := .next (onMain port 3 retryOp s)

/-- FAIL (R304): the recorded command ends with FAULT_XLATE, its faulted slot in DETAIL. -/
def failOp (s : State) : State :=
  match s.rtv.fault with
  | none => s
  | some f =>
    match findEntry s f.berth f.seq with
    | some e =>
      let e1 := { e with crossing := if e.started then e.crossing else s.crs.crossing }
      clearFault f.berth f.seq (endEarly e1 { e.res with fault := some f.slot } s)
    | none => clearFault f.berth f.seq s

/-- FAIL; needs permission bit 3. -/
def execFail (port : Port) (s : State) : Host.Outcome State Fault Refusal := .next (onMain port 3 failOp s)

/-! ## Settings (R305) -/

/-- RTV_STATUS.BAD_WRITE is set. -/
def badWrite (s : State) : State := { s with rtv := { s.rtv with badWrite := true } }

/-- A write to RTV_LOOKAHEAD: bits 3 to 0, 1 to 8. -/
def lookaheadOp (v : Word64) (s : State) : State :=
  let n := v.toNat % 16
  if n = 0 ∨ 8 < n then badWrite s else latch llLookahead n s

/-- RTV_LOOKAHEAD_WRITE; needs permission bit 3. -/
def execRtvLookaheadWrite (port : Port) (value : Word64) (s : State) : Host.Outcome State Fault Refusal :=
  .next (onMain port 3 (lookaheadOp value) s)

/-- A write to RTV_LEASH: READ from 2,048 to 2,304 and WRITE from 512 to 768, together 2,816 (Table 3-5). -/
def leashOp (v : Word64) (s : State) : State :=
  let r := bitsOf v.toNat 15 0
  let w := bitsOf v.toNat 31 16
  if 2048 ≤ r ∧ r ≤ 2304 ∧ 512 ≤ w ∧ w ≤ 768 ∧ r + w = 2816 then latch llLeash (r + w * 2 ^ 16) s else badWrite s

/-- RTV_LEASH_WRITE; needs permission bit 3. -/
def execRtvLeashWrite (port : Port) (value : Word64) (s : State) : Host.Outcome State Fault Refusal :=
  .next (onMain port 3 (leashOp value) s)

/-- A write to TOW_BERTH_GROUP: a group of 17 to 31 is ignored (Table 14-8). -/
def berthGroupOp (b : Nat) (v : Word64) (s : State) : State :=
  let g := v.toNat % 32
  if 16 < g then s else latch (llBerthGroup b) g s

/-- TOW_BERTH_GROUP_WRITE; needs permission bit 4. -/
def execTowBerthGroupWrite (port : Port) (berth : BitVec 5) (value : Word64) (s : State) : Host.Outcome State Fault Refusal :=
  .next (onMain port 4 (berthGroupOp berth.toNat value) s)

/-- A write to TOW_MIRROR_RANGE: more than 128 pages are ignored (Table 14-8). -/
def mirrorRangeOp (v : Word64) (s : State) : State :=
  let pages := bitsOf v.toNat 39 32
  if 128 < pages then s else latch llMirror (bitsOf v.toNat 26 12 + pages * 2 ^ 15) s

/-- TOW_MIRROR_RANGE_WRITE; needs permission bit 4. -/
def execTowMirrorRangeWrite (port : Port) (value : Word64) (s : State) : Host.Outcome State Fault Refusal :=
  .next (onMain port 4 (mirrorRangeOp value) s)

/-- MULTICAST_DROP (R337): the dropped cluster reads its own copy, a hit that returns the same bits; only timing
changes. -/
def execMulticastDrop (_cluster : Nat) (s : State) : Host.Outcome State Fault Refusal := .next s

end Sys2Proof.Machine
end

