-- ==== Sys2Proof/Machine/Registers.lean ====
section
/-! DEFINITION. The register map (chapter 19): every register of Tables 19-2 and 19-3 with its offset, its read value, its
permission and what a write does; the byte windows; halves, captures and holds (R418, R421, R428); and the host's rows. -/

namespace Sys2Proof.Machine

/-! ## The map -/

/-- The registers of Tables 19-2 and 19-3; an array's registers carry their instance. -/
inductive Reg where
  | jqId | jqCtl | jqMacSlip | jqFault | jqFaultLog
  | tblCtl | tblStatus | tblAddr
  | dgstStatus | dgstClosed | dgstLaneLo | dgstLaneHi | dgstStoreLo | dgstStoreHi | traceCtl | traceAddr | traceLen
  | tblBank (i : Nat)
  | cqCtl | cqStatus | cqAckHost | cqAckMgr | cqVlen (i : Nat) | cqHead (i : Nat) | cqWin (i : Nat)
  | crsNow | crsBeacon | crsTide | crsAnnTide | crsBase | crsStatus
  | manCtl | manStatus | manApplyAt | manStagePage | manStagedInfo | manActiveTag | manStagedTag | manJobId
  | rtvLookahead | rtvLeash | rtvStatus | rtvFault | rtvFaultAddr | rtvCtl
  | towSelf | towMirrorRange | towCtl | towStatus | towPartner | towGroup (i : Nat) | towBerthGroup (i : Nat)
  | kenMap (i : Nat) | kenSpRegion (i : Nat) | kenSpLog | kenReq | kenStatus | kenCluster (i : Nat)
  | tollSelftest | certRange0 | certRange1 | certAddr | certStatus
  | pwrCtl | pwrStatus | pwrMon | sbpStatus | fuseState | fuseSerial | manKeptTag | crsKept | tollCmd | tollStatus
  | tollSlot (i : Nat)
  | evtStatus | evtPending | evtMask | evtLogWr | evtLogRd
  | ldgCommitted | ldgCtl | ldgAccepted (i : Nat) | ldgCompleted (i : Nat) | ldgCommitSeq (i : Nat)
  | ldgPriorAccepted (i : Nat) | ldgPriorCompleted (i : Nat)
deriving DecidableEq, Repr

/-- Blocks of single registers at steps of 8, by first offset (R422, R424). -/
def regBlocks : List (Nat × List Reg) :=
  [(0x0000, [.jqId, .jqCtl, .jqMacSlip, .jqFault, .jqFaultLog]),
   (0x0040, [.tblCtl, .tblStatus, .tblAddr]),
   (0x0080, [.dgstStatus, .dgstClosed, .dgstLaneLo, .dgstLaneHi, .dgstStoreLo, .dgstStoreHi, .traceCtl, .traceAddr,
     .traceLen]),
   (0x0200, [.cqCtl, .cqStatus, .cqAckHost, .cqAckMgr]),
   (0x1000, [.crsNow, .crsBeacon, .crsTide, .crsAnnTide, .crsBase, .crsStatus]),
   (0x1100, [.manCtl, .manStatus, .manApplyAt, .manStagePage, .manStagedInfo, .manActiveTag, .manStagedTag, .manJobId]),
   (0x1200, [.rtvLookahead, .rtvLeash, .rtvStatus, .rtvFault, .rtvFaultAddr, .rtvCtl]),
   (0x1300, [.towSelf, .towMirrorRange, .towCtl, .towStatus, .towPartner]),
   (0x1880, [.kenSpLog, .kenReq, .kenStatus]),
   (0x2000, [.tollSelftest, .certRange0, .certRange1, .certAddr, .certStatus]),
   (0xF000, [.pwrCtl, .pwrStatus, .pwrMon, .sbpStatus, .fuseState, .fuseSerial, .manKeptTag, .crsKept, .tollCmd,
     .tollStatus]),
   (0x1A000, [.evtStatus, .evtPending, .evtMask, .evtLogWr, .evtLogRd]),
   (0x1B000, [.ldgCommitted, .ldgCtl])]

/-- Arrays, by first offset and number of instances (R422, R424). -/
def regArrays : List (Nat × Nat × (Nat → Reg)) :=
  [(0x0100, Config.clusters, .tblBank), (0x0300, 32, .cqVlen), (0x0400, 32, .cqHead), (0x0800, 128, .cqWin),
   (0x1380, 16, .towGroup), (0x1400, 32, .towBerthGroup), (0x1800, Config.regions, .kenMap),
   (0x1840, Config.regions, .kenSpRegion), (0x1900, 5 * Config.regions, .kenCluster), (0xF080, 16, .tollSlot),
   (0x1B100, 32, .ldgAccepted), (0x1B200, 32, .ldgCompleted), (0x1B300, 32, .ldgCommitSeq),
   (0x1B400, 32, .ldgPriorAccepted), (0x1B500, 32, .ldgPriorCompleted)]

/-- The register at an offset that is a multiple of 8; none where the offset is reserved. -/
def regAt (off : Nat) : Option Reg :=
  if off % 8 ≠ 0 then none
  else
    (regBlocks.findSome? (fun b => if b.1 ≤ off then b.2[(off - b.1) / 8]? else none)) <|>
      (regArrays.findSome? (fun a => if a.1 ≤ off ∧ off < a.1 + 8 * a.2.1 then some (a.2.2 ((off - a.1) / 8)) else none))

/-- The Keep column: registers that answer while the main side is down (R423). -/
def Reg.keep : Reg → Bool
  | .pwrCtl | .pwrStatus | .pwrMon | .sbpStatus | .fuseState | .fuseSerial | .manKeptTag | .crsKept | .tollCmd
  | .tollStatus | .tollSlot _ | .ldgCommitted | .ldgCommitSeq _ | .ldgPriorAccepted _ | .ldgPriorCompleted _ => true
  | _ => false

/-- The byte areas of Tables 19-1 to 19-3. -/
inductive Area where
  | submit | submit64 | tollData | rings | log | staging | shadow | results
deriving DecidableEq, Repr

/-- The area an offset lies in, with the offset inside it; none for the reserved bytes of the shadow window (Table 7-3). -/
def areaAt (off : Nat) : Option (Area × Nat) :=
  if 0x0C00 ≤ off ∧ off < 0x0CC0 then some (.submit, off - 0x0C00)
  else if 0x0D00 ≤ off ∧ off < 0x0D80 then some (.submit64, off - 0x0D00)
  else if 0xF100 ≤ off ∧ off < 0xF200 then some (.tollData, off - 0xF100)
  else if 0x10000 ≤ off ∧ off < 0x18000 then some (.rings, off - 0x10000)
  else if 0x18000 ≤ off ∧ off < 0x1A000 then some (.log, off - 0x18000)
  else if 0x100000 ≤ off ∧ off < 0x200000 then some (.staging, off - 0x100000)
  else if 0x1000000 ≤ off ∧ off < 0x2000000 ∧ inImage (off - 0x1000000) then some (.shadow, off - 0x1000000)
  else if 0x8000000 ≤ off ∧ off < 0x10000000 then some (.results, off - 0x8000000)
  else none

/-- TOLL_DATA alone answers while the main side is down (R419, R423). -/
def Area.keep (a : Area) : Bool := a == .tollData

/-- Bytes of an area. -/
def Area.size : Area → Nat
  | .submit => 192 | .submit64 => 128 | .tollData => 256 | .rings => 0x8000 | .log => 0x2000 | .staging => 0x100000
  | .shadow => 0x1000000 | .results => 0x8000000

/-! ## Reading a register -/

/-- The value in force or pending of a landing-latched register (R8, R429). -/
def llRead (s : State) (reg inForce : Nat) : Nat := (pendingOf s reg).getD inForce

/-- CRS_STATUS.PHASE (Table 2-10). -/
def Phase.code : Phase → Nat
  | .notMoored => 0 | .waitBeacon => 1 | .inSegment => 2 | .fullLanding => 3 | .afterEnd => 4

def StageState.code : StageState → Nat
  | .empty => 0 | .opened => 1 | .verifying => 2 | .verified => 3 | .refused => 4

def ApplyState.code : ApplyState → Nat
  | .none => 0 | .armed => 1 | .applying => 2

/-- Table 16-5. -/
def ClState.code : ClState → Nat
  | .inService => 0 | .ready => 1 | .testing => 2 | .retired => 3 | .untested => 4

/-- The entry of the command that holds the issue. -/
def issuer (s : State) : Option Entry := s.cq.issuing.bind (berthNext s)

/-- CQ_STATUS (Table 11-11). A fused row command or an ATTN command bars other berths from its first lane issue to its
last (R274). -/
def readCqStatus (s : State) : Word64 :=
  let excl := match issuer s with
    | some e => e.started && (match e.desc.kind with
      | .chain | .fore | .matmul | .load | .store | .marker => false
      | _ => true)
    | none => false
  packFields [(0, 9, s.cq.entries.length), (16, 5, s.cq.issuing.getD 0), (21, 1, bit s.cq.issuing.isSome),
    (22, 1, bit excl)]

/-- CQ_HEAD. -/
def readHead (s : State) (b : Nat) : Word64 :=
  match berthHead s b with
  | some e => packFields [(0, 48, e.seq)]
  | none => packFields [(63, 1, 1)]

/-- CQ_ACK_HOST and CQ_ACK_MGR. -/
def readAck (j : Judged) : Word64 := packFields [(0, 48, j.seq), (48, 5, j.berth), (53, 3, j.code)]

/-- CQ_WIN. -/
def readWin (s : State) (i : Nat) : Word64 :=
  let w := sget default s.cq.wins i
  packFields [(0, 16, w.gen), (16, 2, w.st), (18, 5, w.berth), (32, 32, w.seqLow)]

/-- JQ_TBL_BANK (Table 7-7). -/
def readBank (s : State) (c : Nat) : Word64 :=
  let t := tblOf s c
  packFields [(0, 16, (t.valid t.phys).toNat), (16, 16, (t.valid (!t.phys)).toNat), (32, 16, t.gen), (48, 1, bit t.phys)]

/-- JQ_DGST_STATUS (Table 15-7). -/
def readDgst (s : State) : Word64 :=
  let d := s.dgst
  packFields [(0, 1, bit d.closedInvalid), (1, 1, bit d.ownDiffer), (2, 1, bit d.partnerDiffer), (3, 1, bit d.postSkipped),
    (4, 2, d.trace), (6, 1, bit d.missed), (7, 1, bit d.overflow), (8, 32, d.records)]

/-- MAN_STATUS (Table 3-10). -/
def readManStatus (s : State) : Word64 :=
  packFields [(0, 3, s.man.stage.code), (3, 2, s.man.apply.code), (5, 1, bit s.keep.keptTag.isSome),
    (6, 1, bit s.man.active.isSome), (7, 1, bit s.man.permDenied), (40, 8, s.man.reason)]

/-- The verified staged manifest, if any. -/
def stagedNow (s : State) : Option Manifest := if s.man.stage = .verified then s.man.stagedConf else none

/-- Channels at the cap of R292. -/
def cappedChannels (s : State) : Nat :=
  (((s.rtv.out.filter (fun q => !q.write)).map (·.channel)).eraseDups.filter (fun c => capped s c)).length

/-- RTV_STATUS (Table 12-7). -/
def readRtvStatus (s : State) : Word64 :=
  packFields [(6, 6, min 63 (cappedChannels s)), (12, 12, tagsOut s false), (24, 10, tagsOut s true),
    (34, 10, remoteOut s), (44, 4, match issuer s with | some e => e.lookahead | none => 0),
    (48, 1, bit (s.cq.entries.any (·.suspended))), (49, 1, bit s.rtv.badWrite)]

/-- RTV_FAULT (Table 12-8). -/
def readRtvFault (s : State) : Word64 :=
  match s.rtv.fault with
  | some f => packFields [(0, 48, f.seq), (53, 5, f.berth), (58, 1, bit f.prefetch), (59, 1, bit f.write), (60, 3, f.slot),
      (63, 1, 1)]
  | none => 0

/-- TOW_STATUS (Table 14-9). -/
def readTowStatus (s : State) : Word64 :=
  let left := ((s.tow.tx.filter (·.mirror)).map (fun t => t.left + t.out + t.waiting)).sum
  packFields [(35, 11, rxUsed s), (46, 12, left),
    (58, 2, if s.tow.reading.isSome then 1 else if mirrorSending s then 2 else 0), (60, 1, bit s.tow.linkFail),
    (61, 3, s.tow.restore)]

/-- TOW_PARTNER. -/
def readTowPartner (s : State) : Word64 :=
  match s.tow.slotCommitted with
  | some n => packFields [(0, 16, n.landing), (16, 48, n.crossing)]
  | none => BitVec.allOnes 64

/-- TOW_GROUP of group `g`, 1 to 16 (Table 14-7). -/
def readTowGroup (s : State) (g : Nat) : Word64 :=
  let coll := sget 0 s.tow.coll g
  match memberOf s g with
  | some (cp, p) => packFields [(0, 32, coll), (32, 12, cp), (46, 13, p), (59, 1, 1)]
  | none => packFields [(0, 32, coll)]

/-- KEN_MAP (Table 16-9). -/
def readKenMap (s : State) (x : Nat) : Word64 :=
  let m := mapRow s x
  let ret := fun (p : Nat) => (clusterOf s (5 * x + p)).st == .retired
  packFields [(0, 3, m.getD 0 0), (3, 3, m.getD 1 0), (6, 3, m.getD 2 0), (9, 3, m.getD 3 0), (12, 3, m.getD 4 4),
    (15, 1, bit (ret (m.getD 4 4))), (16, 1, bit (ret 0)), (17, 1, bit (ret 1)), (18, 1, bit (ret 2)),
    (19, 1, bit (ret 3)), (20, 1, bit (ret 4))]

/-- KEN_SP_REGION (Table 13-5). -/
def readSpRegion (s : State) (x : Nat) : Word64 :=
  let rep := s.keep.repair
  let served := fun (sb : Nat) => (rep.spares.find? (fun y => y.1 == x && y.2.1 == sb)).map (·.2.2)
  packFields [(0, 6, (served 0).getD 0), (8, 6, (served 1).getD 0), (14, 1, bit (served 0).isSome),
    (15, 1, bit (served 1).isSome), (32, 1, bit (s.sp.copies.any (fun c => c.region == x))),
    (33, 11, (rep.rows.filter (fun m => m.region == x)).length), (48, 16, sget 0 s.sp.ce x)]

/-- KEN_SP_LOG (Table 13-6). -/
def readSpLog (s : State) : Word64 :=
  let l := s.sp.log
  packFields [(0, 32, l.tide), (41, 2, l.remaps), (43, 8, l.row), (51, 6, l.bank), (57, 3, l.region), (60, 3, l.kind),
    (63, 1, bit l.valid)]

/-- KEN_STATUS (Table 16-11). -/
def readKenStatus (s : State) : Word64 :=
  packFields [(0, 1, bit s.ken.rotSkipped), (1, 1, bit s.ken.inlineRan), (2, 1, bit s.ken.deadlineForced),
    (3, 1, bit (s.ken.clusters.any (fun c => c.st == .testing))), (8, 3, s.ken.skipRegion)]

/-- TOLL_STATUS as a port sees it (Table 17-6). -/
def readTollStatus (s : State) (p : Port) : Word64 :=
  let v := tollPort s p
  packFields [(0, 4, v.result), (11, 1, bit (tollRunning s)), (12, 1, bit v.auth), (13, 1, bit s.toll.errorState),
    (14, 1, bit s.toll.zeroised), (15, 1, bit s.toll.approved)]

/-- PWR_STATUS (Table 18-13). -/
def readPwrStatus (s : State) : Word64 :=
  let p := s.pwr
  packFields [(3, 1, bit p.moorWait), (4, 1, bit p.switched), (5, 1, bit p.bOk), (6, 1, bit p.aOk), (7, 1, bit p.srcB),
    (8, 1, bit p.keepFail), (9, 1, bit p.mainDown), (10, 1, bit p.keepLost), (11, 1, bit p.thermTrip), (24, 1, bit p.gated),
    (25, 1, bit p.pending.isSome), (26, 2, p.capVolt), (28, 2, p.capTherm), (30, 2, p.step)]

/-- PWR_MON (Table 18-14): TEMP is signed. -/
def readPwrMon (s : State) : Word64 :=
  packFields [(0, 16, s.pwr.vkeepB), (16, 16, s.pwr.vkeepA), (32, 16, s.pwr.vcore), (48, 16, (BitVec.ofInt 16 s.pwr.temp).toNat)]

/-- EVT_STATUS (Table 19-9). -/
def readEvtStatus (s : State) : Word64 := packFields [(0, 9, unread s.evt), (16, 16, s.evt.lost)]

/-- A crossing and a landing in one word. -/
def crossLand (x : Nat × Nat) : Word64 := packFields [(0, 16, x.2), (16, 48, x.1)]

/-- What a read of a register returns to a port. Write-only fields read 0. MAN_JOB_ID reads the active manifest's JOB_ID, after a warm or replay
reset the kept one's (DESIGN CHOICE, log entry 183: Table 3-12 gives reset 0 and names no kind). -/
def readReg (s : State) (p : Port) : Reg → Word64
  | .jqId => packFields [(0, 16, 1), (16, 16, 8), (32, 8, 5), (40, 8, Config.regions), (48, 4, s.stepping.2),
      (52, 4, s.stepping.1)]
  | .jqCtl | .tblCtl | .cqCtl | .manCtl | .rtvCtl | .towCtl | .tollCmd | .ldgCtl => 0
  | .jqMacSlip => packFields [(0, 5, s.arr.holdA.getD 0), (5, 1, bit s.arr.holdA.isSome), (8, 5, s.arr.holdB.getD 0),
      (13, 1, bit s.arr.holdB.isSome)]
  | .jqFault => packFields [(0, 2, protection s), (2, 16, s.ken.csumErr), (18, 16, s.ken.pairErr)]
  | .jqFaultLog => s.ken.faultLog
  | .tblStatus => packFields [(0, 1, bit s.tbl.busy), (1, 3, s.tbl.lastOp), (4, 1, bit s.tbl.writeLocked),
      (8, 4, s.tbl.result), (16, 8, s.tbl.failCluster)]
  | .tblAddr => BitVec.ofNat 64 s.tbl.addr
  | .dgstStatus => readDgst s
  | .dgstClosed => crossLand (s.dgst.closedCrossing, s.dgst.closedLanding)
  | .dgstLaneLo => BitVec.ofNat 64 s.dgst.closedLane
  | .dgstLaneHi => BitVec.ofNat 64 (s.dgst.closedLane / 2 ^ 64)
  | .dgstStoreLo => BitVec.ofNat 64 s.dgst.closedStore
  | .dgstStoreHi => BitVec.ofNat 64 (s.dgst.closedStore / 2 ^ 64)
  | .traceCtl => crossLand (s.dgst.traceCrossing, s.dgst.traceLanding)
  | .traceAddr => BitVec.ofNat 64 s.dgst.traceAddr
  | .traceLen => BitVec.ofNat 64 s.dgst.traceLen
  | .tblBank i => readBank s i
  | .cqStatus => readCqStatus s
  | .cqAckHost => readAck s.cq.ackHost
  | .cqAckMgr => readAck s.cq.ackMgr
  | .cqVlen i => BitVec.ofNat 64 (sget 0xFFFFFF s.cq.vlen i)
  | .cqHead i => readHead s i
  | .cqWin i => readWin s i
  | .crsNow => crossLand (s.crs.crossing, s.crs.landing)
  | .crsBeacon => crossLand s.crs.ann
  | .crsTide => BitVec.ofNat 64 s.crs.tide
  | .crsAnnTide => BitVec.ofNat 64 s.crs.annTide
  | .crsBase => BitVec.ofNat 64 s.crs.deadlineBase
  | .crsStatus => packFields [(0, 3, s.crs.phase.code), (3, 1, bit (timedMode s)), (4, 1, bit s.crs.llDiscarded),
      (20, 16, s.crs.beaconErr)]
  | .manStatus => readManStatus s
  | .manApplyAt => crossLand s.man.applyAt
  | .manStagePage => BitVec.ofNat 64 s.man.page
  | .manStagedInfo => match stagedNow s with
    | some m => packFields [(0, 16, m.p1), (24, 24, m.length)]
    | none => 0
  | .manActiveTag => BitVec.ofNat 64 (activeTag s)
  | .manStagedTag => BitVec.ofNat 64 (stagedTag s)
  | .manJobId => match s.man.active with | some m => BitVec.ofNat 64 m.jobId | none => 0
  | .rtvLookahead => BitVec.ofNat 64 (llRead s llLookahead s.rtv.lookahead)
  | .rtvLeash =>
    let v := llRead s llLeash (s.rtv.readTags + s.rtv.writeTags * 2 ^ 16)
    packFields [(0, 16, v), (16, 16, v / 2 ^ 16), (32, 16, 512)]
  | .rtvStatus => readRtvStatus s
  | .rtvFault => readRtvFault s
  | .rtvFaultAddr => match s.rtv.fault with | some f => BitVec.ofNat 64 f.addr | none => 0
  | .towSelf => packFields [(0, 6, s.tow.position), (24, 17, s.tow.package)]
  | .towMirrorRange =>
    let v := llRead s llMirror (s.tow.mirrorBase + s.tow.mirrorPages * 2 ^ 15)
    packFields [(12, 15, v), (32, 8, v / 2 ^ 15)]
  | .towStatus => readTowStatus s
  | .towPartner => readTowPartner s
  | .towGroup i => readTowGroup s (i + 1)
  | .towBerthGroup i => BitVec.ofNat 64 (llRead s (llBerthGroup i) (sget 0 s.tow.berthGroup i))
  | .kenMap i => readKenMap s i
  | .kenSpRegion i => readSpRegion s i
  | .kenSpLog => readSpLog s
  | .kenReq => BitVec.ofNat 64 (llRead s llKenReq s.ken.req)
  | .kenStatus => readKenStatus s
  | .kenCluster i =>
    let c := clusterOf s i
    packFields [(0, 3, c.st.code), (3, 1, bit c.inline), (16, 48, c.lastPass)]
  | .tollSelftest => BitVec.ofNat 64 s.toll.selftest.toNat
  | .certRange0 => BitVec.ofNat 64 s.toll.cert.range0
  | .certRange1 => BitVec.ofNat 64 s.toll.cert.range1
  | .certAddr => BitVec.ofNat 64 s.toll.cert.addr
  | .certStatus => packFields [(0, 4, s.toll.cert.state), (4, 4, s.toll.cert.cause), (17, 7, s.toll.cert.lInHigh)]
  | .pwrCtl => packFields [(0, 2, s.pwr.target), (8, 1, bit s.pwr.gate)]
  | .pwrStatus => readPwrStatus s
  | .pwrMon => readPwrMon s
  | .sbpStatus => packFields [(0, 2, s.sb.lastVersion), (8, 8, s.sb.lastStatus), (16, 32, s.sb.frames), (48, 16, s.sb.crcErr)]
  | .fuseState => packFields [(0, 1, bit s.toll.fuses.lock), (1, 1, bit s.toll.fuses.revoke),
      (2, 1, bit s.toll.fuses.kwk.isSome)]
  | .fuseSerial => BitVec.ofNat 64 s.toll.fuses.serial
  | .manKeptTag => BitVec.ofNat 64 (s.keep.keptTag.getD 0)
  | .crsKept => crossLand (s.keep.crossCopy.getD (0, 0))
  | .tollStatus => readTollStatus s p
  | .tollSlot i =>
    let k := keySlot s i
    packFields [(0, 32, k.uses), (32, 1, bit (!k.key.isEmpty))]
  | .evtStatus => readEvtStatus s
  | .evtPending => BitVec.ofNat 64 s.evt.pending.toNat
  | .evtMask => BitVec.ofNat 64 s.evt.mask.toNat
  | .evtLogWr => BitVec.ofNat 64 s.evt.wr
  | .evtLogRd => BitVec.ofNat 64 s.evt.rd
  | .ldgCommitted => crossLand s.keep.committed
  | .ldgAccepted i => BitVec.ofNat 64 (ldgAccepted s i)
  | .ldgCompleted i => BitVec.ofNat 64 (ldgCompleted s i)
  | .ldgCommitSeq i => BitVec.ofNat 64 (ldgCommitSeq s i)
  | .ldgPriorAccepted i => BitVec.ofNat 64 (sget 0 s.keep.priorAccepted i)
  | .ldgPriorCompleted i => BitVec.ofNat 64 (sget 0 s.keep.priorCompleted i)

/-! ## Permission (Table 19-5) -/

/-- What a write to a register or area needs: nothing, since no field is writable; a permission bit; JQ_CTL's rule; the
Tollhouse's; and that of the certificate registers. -/
inductive Perm where
  | readOnly | bit (b : Nat) | jqCtl | toll | cert
deriving DecidableEq, Repr

/-- Table 19-5. -/
def Reg.perm : Reg → Perm
  | .cqCtl => .bit 0
  | .manCtl | .manApplyAt | .manStagePage | .manStatus => .bit 1
  | .kenReq | .kenSpLog | .kenStatus => .bit 2
  | .rtvLookahead | .rtvLeash | .rtvCtl | .rtvStatus => .bit 3
  | .towSelf | .towBerthGroup _ | .towMirrorRange | .towCtl | .towStatus => .bit 4
  | .pwrCtl | .pwrStatus => .bit 5
  | .evtPending | .evtMask | .evtLogRd | .ldgCtl | .dgstStatus | .traceCtl | .traceAddr | .traceLen | .jqFaultLog
  | .crsStatus => .bit 6
  | .tblCtl | .tblAddr | .tblStatus => .bit 7
  | .jqCtl => .jqCtl
  | .tollCmd => .toll
  | .certRange0 | .certRange1 | .certAddr | .certStatus => .cert
  | _ => .readOnly

/-- Whether a master may write. A write without a writable field is no refusal. -/
def Perm.allows (s : State) (p : Port) : Perm → Bool
  | .readOnly => true
  | .bit b => permitted p b s
  | .jqCtl => p == .mgr || permitted p 6 s
  | .toll => p == .mgr || permitted p 8 s
  | .cert => p == .host && permitted p 8 s

/-! ## Writing a register -/

/-- A W1C bit: a 1 clears it. -/
def w1c (old : Bool) (v b : Nat) : Bool := old && !v.testBit b

/-- A value and its place: bits [hi:16] and [15:0] of a crossing-landing register. -/
def splitLand (v : Nat) : Nat × Nat := (v / 2 ^ 16, v % 2 ^ 16)

/-- JQ_CTL (R414): COLD over WARM over REPLAY; the host never writes COLD. The keep check of a reset commanded so finds
the seals good (log entry 67). -/
def jqCtlOp (p : Port) (v : Nat) (s : State) : State :=
  if p = .mgr ∧ v.testBit 2 then coldOp .jqCtl false s
  else if v.testBit 1 then jqWarm s
  else if v.testBit 0 then jqReplay s
  else s

/-- JQ_TBL_CTL (Table 7-5): a write with OP 0 or 5 to 7 starts nothing; SWAP_IDLE takes no slot. -/
def tblCtlOp (v : Nat) (s : State) : State :=
  let op := v % 8
  if op = 0 ∨ 4 < op then s else startOp op (v / 2 ^ 32) (if op = 4 then 0 else bitsOf v 11 8) s

/-- MAN_CTL (Table 3-9): a write that sets more than one of bits 0 to 5 is ignored as a whole (R76). -/
def manCtlOp (p : Port) (v : Nat) (s : State) : State :=
  match v % 64 with
  | 1 => emptyStage .opened s
  | 2 => closeStage p s
  | 4 => applyNowOp s
  | 8 => emptyStage .empty s
  | 16 => disarmOp s
  | 32 => forgetOp s
  | _ => s

/-- CQ_CTL (Table 11-10): an abort and a release in one write are both performed. -/
def cqCtlOp (v : Nat) (s : State) : State :=
  let s1 := if v.testBit 8 then abortBerth (v % 32) s else s
  if v.testBit 24 then releaseWindow (bitsOf v 22 16) s1 else s1

/-- RTV_CTL (Table 12-8): a write that sets both bits is ignored (R304). -/
def rtvCtlOp (v : Nat) (s : State) : State :=
  match v % 4 with
  | 1 => retryOp s
  | 2 => failOp s
  | _ => s

/-- LDG_CTL (Table 16-13): a write with both RESUME and REBASE set is ignored (R272). -/
def ldgCtlOp (v : Nat) (s : State) : State :=
  if v.testBit 8 ∧ v.testBit 0 then s
  else if v.testBit 8 then rebaseBerth (bitsOf v 5 1) s
  else if v.testBit 0 then resumeOp s
  else s

/-- KEN_REQ: every field is landing-latched (R372, R429). -/
def kenReqOp (v : Nat) (s : State) : State := latch llKenReq (v % 128) s

/-- EVT_LOG_RD (R433): a move forward by no more than the unread entries is accepted. -/
def logRdOp (v : Nat) (s : State) : State :=
  let new := v % 2 ^ 16
  let old := s.evt.rd
  if (new + 2 ^ 16 - old) % 2 ^ 16 ≤ (s.evt.wr + 2 ^ 16 - old) % 2 ^ 16 then { s with evt := { s.evt with rd := new } } else s

/-- TOW_SELF.PACKAGE: ignored while a manifest is active (Table 14-7). -/
def towSelfOp (v : Nat) (s : State) : State :=
  if s.man.active.isSome then s else { s with tow := { s.tow with package := bitsOf v 40 24 } }

/-- The services of TOLL_CMD by code (Table 17-3); another code is BAD_ARG. GENKEY's pairwise consistency test passes on
this path (log entry 69). -/
def tollCmdOp (p : Port) (v : Nat) (s : State) : State :=
  match v % 256 with
  | 0x01 => tollStatusOp p s
  | 0x02 => tollNonceOp p s
  | 0x03 => tollAuthOp p s
  | 0x04 => tollLogoutOp p s
  | 0x05 => tollSelftestOp p s
  | 0x06 => tollReadPubkeyOp p (bitsOf v 15 8) s
  | 0x10 => tollLoadPubkeyOp p (bitsOf v 15 8) s
  | 0x11 => tollLoadWrappedOp p (bitsOf v 15 8) s
  | 0x12 => tollGenkeyOp p true s
  | 0x13 => tollClearSlotOp p (bitsOf v 15 8) s
  | 0x20 => tollZeroiseOp p false s
  | 0x21 => tollZeroiseOp p true s
  | 0x22 => tollFieldLockOp p s
  | 0x30 => certArmOp p s
  | 0x31 => certCancelOp p s
  | _ => service p ⟨none, false, true⟩ (tollResult 9 p) s

/-- The W1C registers and the plain fields, and the operations above: what a permitted 64-bit write does. -/
def regOp (p : Port) (r : Reg) (v : Nat) (s : State) : State :=
  match r with
  | .jqCtl => jqCtlOp p v s
  | .tblCtl => tblCtlOp v s
  | .tblStatus => { s with tbl := { s.tbl with writeLocked := w1c s.tbl.writeLocked v 4 } }
  | .tblAddr => { s with tbl := { s.tbl with addr := v } }
  | .jqFaultLog => { s with ken := { s.ken with faultLog := if v.testBit 63 then s.ken.faultLog &&& ~~~(1#64 <<< 63) else s.ken.faultLog } }
  | .dgstStatus => { s with dgst := { s.dgst with
      ownDiffer := w1c s.dgst.ownDiffer v 1, partnerDiffer := w1c s.dgst.partnerDiffer v 2,
      postSkipped := w1c s.dgst.postSkipped v 3, missed := w1c s.dgst.missed v 6, overflow := w1c s.dgst.overflow v 7 } }
  | .traceCtl => armTrace (splitLand v).1 (splitLand v).2 s
  | .traceAddr => { s with dgst := { s.dgst with traceAddr := v / 64 * 64 } }
  | .traceLen => { s with dgst := { s.dgst with traceLen := v % 2 ^ 32 } }
  | .cqCtl => cqCtlOp v s
  | .crsStatus => { s with crs := { s.crs with llDiscarded := w1c s.crs.llDiscarded v 4 } }
  | .manCtl => manCtlOp p v s
  | .manStatus => { s with man := { s.man with permDenied := w1c s.man.permDenied v 7 } }
  | .manApplyAt => armApply (splitLand v).1 (splitLand v).2 s
  | .manStagePage => { s with man := { s.man with page := v % 8 } }
  | .rtvLookahead => lookaheadOp (BitVec.ofNat 64 v) s
  | .rtvLeash => leashOp (BitVec.ofNat 64 v) s
  | .rtvStatus => { s with rtv := { s.rtv with badWrite := w1c s.rtv.badWrite v 49 } }
  | .rtvCtl => rtvCtlOp v s
  | .towSelf => towSelfOp v s
  | .towMirrorRange => mirrorRangeOp (BitVec.ofNat 64 v) s
  | .towCtl => if v.testBit 0 then restoreOp s else s
  | .towStatus => { s with tow := { s.tow with linkFail := w1c s.tow.linkFail v 60 } }
  | .towBerthGroup i => berthGroupOp i (BitVec.ofNat 64 v) s
  | .kenSpLog => { s with sp := { s.sp with log := { s.sp.log with valid := w1c s.sp.log.valid v 63 } } }
  | .kenReq => kenReqOp v s
  | .kenStatus => { s with ken := { s.ken with
      rotSkipped := w1c s.ken.rotSkipped v 0, inlineRan := w1c s.ken.inlineRan v 1,
      deadlineForced := w1c s.ken.deadlineForced v 2 } }
  | .certRange0 => { s with toll := { s.toll with cert := { s.toll.cert with range0 := v } } }
  | .certRange1 => { s with toll := { s.toll with cert := { s.toll.cert with range1 := v } } }
  | .certAddr => { s with toll := { s.toll with cert := { s.toll.cert with addr := v } } }
  | .certStatus => { s with toll := { s.toll with cert := { s.toll.cert with lInHigh := bitsOf v 23 17 } } }
  | .pwrCtl => setGate (v.testBit 8) (setTarget (v % 4) s)
  | .pwrStatus => { s with pwr := { s.pwr with switched := w1c s.pwr.switched v 4 } }
  | .evtPending => { s with evt := { s.evt with pending := s.evt.pending &&& ~~~(BitVec.ofNat 15 v) } }
  | .evtMask => { s with evt := { s.evt with mask := BitVec.ofNat 15 v &&& 0x7FFE#15 } }
  | .evtLogRd => logRdOp v s
  | .ldgCtl => ldgCtlOp v s
  | .tollCmd => tollCmdOp p v s
  | _ => s

/-- A 64-bit write to a register, with the permission of Table 19-5: ignored with PERM_DENIED set when refused (R427). A low half that the
port held is dropped (R428). A write to MAN_CTL without its bit that sets more than one of bits 0 to 5 sets PERM_DENIED (DESIGN CHOICE, log
entry 180: R71 sets the flag, R76 says that such a write sets none). While a thermal trip has stopped CLK_CORE the main side takes no write
but JQ_CTL's, whose cold reset ends the trip (R406). -/
def writeReg (p : Port) (r : Reg) (v : Nat) (s : State) : State :=
  let t := dropHeld p s
  if s.pwr.thermTrip && !r.keep && r != .jqCtl then t
  else if r.perm.allows s p then regOp p r (v % 2 ^ 64) t else deny t

/-! ## Byte areas -/

/-- One word of an event-log entry (Table 19-8). -/
def logWord (x : EvtEntry) : Nat → Word64
  | 0 => match x.cmd with
    | some (b, q) => packFields [(0, 8, x.code), (8, 5, b), (13, 1, 1), (16, 48, q)]
    | none => packFields [(0, 8, x.code)]
  | 1 => BitVec.ofNat 64 x.tide
  | 2 => BitVec.ofNat 64 x.d0
  | _ => BitVec.ofNat 64 x.d1

/-- A byte of a 64-bit word. -/
def byteOf (w : Word64) (i : Nat) : Byte := BitVec.ofNat 8 (w.toNat / 2 ^ (8 * i))

/-- One byte of the shadow table window (R169, Table 7-3). -/
def shadowByte (s : State) (off : Nat) : Byte :=
  let c := off / 0x20000
  if Config.clusters ≤ c ∨ imageBytes ≤ off % 0x2000 then 0
  else imageAt s c (!(tblOf s c).phys) (off / 0x2000 % 16) (off % 0x2000)

/-- One byte that a port reads in an area. A submission window reads zero (R422); result windows have an answer of their own (R284). A byte of
an emptied staged store that nothing has written since reads as 0, and verifies as 0 (DESIGN CHOICE, log entry 181: R75 says what is returned
of bytes written alone). -/
def areaByte (s : State) (p : Port) (a : Area) (off : Nat) : Byte :=
  match a with
  | .submit | .submit64 | .results => 0
  | .tollData => sget 0 (tollPort s p).data off
  | .rings => byteOf ((sget [] s.cq.rings (off / 32)).getD (off % 32 / 8) 0) (off % 8)
  | .log => match s.evt.log.find? (fun x => x.1 == off / 32) with
    | some (_, x) => byteOf (logWord x (off % 32 / 8)) (off % 8)
    | none => 0
  | .staging => sget 0 s.man.staged (s.man.page * 1048576 + off)
  | .shadow => shadowByte s off

/-- Permission for a write to an area. -/
def Area.perm : Area → Perm
  | .submit | .submit64 => .bit 0
  | .staging => .bit 1
  | .shadow => .bit 7
  | .tollData => .toll
  | .rings | .log | .results => .readOnly

/-- Bytes written into a port's TOLL_DATA. -/
def tollDataOp (p : Port) (off : Nat) (bytes : List Byte) (s : State) : State :=
  setTollPort p { tollPort s p with data := sblit 0 (tollPort s p).data off (bytes.take (256 - off)) } s

/-- A write of bytes into an area, by a port that finds it there (R421, R427). The submission windows have their own
rule for a refused write (R257). -/
def writeArea (p : Port) (a : Area) (off : Nat) (bytes : List Byte) (s : State) : State :=
  let t := dropHeld p s
  if s.pwr.thermTrip && a != .tollData then t
  else match a with
  | .submit => if portsOpen s then cqSubmitWrite p off bytes s else t
  | .submit64 => if portsOpen s then cqSubmit64Write p off bytes s else t
  | .staging => if a.perm.allows s p then stageWrite off bytes t else deny t
  | .shadow => if a.perm.allows s p then shadowWrite off bytes t else deny t
  | .tollData => if a.perm.allows s p then tollDataOp p off bytes t else deny t
  | .rings | .log | .results => t

/-- R421: an access of 1 to 64 bytes within one 64-byte block of an area. -/
def inOneBlock (a : Area) (off n : Nat) : Bool := oneBlock a.size off n

/-! ## Halves (R418, R421) -/

/-- The half of a word that a 4-byte read returns. -/
def lowHalf (w : Nat) : Nat := w % 2 ^ 32
def highHalf (w : Nat) : Nat := w / 2 ^ 32 % 2 ^ 32

/-- What a port has captured and holds: register offset with the register's value, and with its low half. -/
def portHold (s : State) : Port → Option (Nat × Nat) × Option (Nat × Nat)
  | .host => (s.hostp.capture, s.hostp.heldLow)
  | .mgr => (s.sb.capture, s.sb.heldLow)

/-- Replace a port's capture. -/
def setCapture (p : Port) (c : Option (Nat × Nat)) (s : State) : State :=
  match p with
  | .host => { s with hostp := { s.hostp with capture := c } }
  | .mgr => { s with sb := { s.sb with capture := c } }

/-- Hold a low half for a port. -/
def setHeld (p : Port) (c : Option (Nat × Nat)) (s : State) : State :=
  match p with
  | .host => { s with hostp := { s.hostp with heldLow := c } }
  | .mgr => { s with sb := { s.sb with heldLow := c } }

/-- A 4-byte read of one half of the register at an offset: the low half captures the whole register; a high half returns
the bits captured from that register, or else the live ones (R418, log entry 66). -/
def readHalf (p : Port) (off : Nat) (r : Reg) (high : Bool) (s : State) : Nat × State :=
  let live := (readReg s p r).toNat
  if !high then (lowHalf live, setCapture p (some (off, live)) s)
  else match (portHold s p).1 with
    | some (o, v) => if o = off then (highHalf v, setCapture p none s) else (highHalf live, s)
    | none => (highHalf live, s)

/-- A 4-byte write of one half: a permitted low half is held; a high half is written with the held low half of its register
as one 64-bit write. The spec states no low half where none is held: a free value (R418, log entry 66). -/
def writeHalf (p : Port) (off : Nat) (r : Reg) (high : Bool) (v : Nat) (s : State) : State :=
  if !high then
    let t := dropHeld p s
    if r.perm.allows s p then setHeld p (some (off, v % 2 ^ 32)) t else deny t
  else match (portHold s p).2 with
    | some (o, low) =>
      if o = off then writeReg p r (low + v % 2 ^ 32 * 2 ^ 32) s
      else writeReg p r ((Config.unheldLow s.free).toNat + v % 2 ^ 32 * 2 ^ 32) { s with free := s.free + 1 }
    | none => writeReg p r ((Config.unheldLow s.free).toNat + v % 2 ^ 32 * 2 ^ 32) { s with free := s.free + 1 }

/-! ## The host's rows -/

/-- KEN_REQ_WRITE; needs permission bit 2. -/
def execKenReqWrite (port : Port) (value : Word64) (s : State) : Host.Outcome State Fault Refusal :=
  .next (onMain port 2 (kenReqOp value.toNat) s)

/-- EVT_LOG_RD_WRITE; needs permission bit 6. -/
def execEvtLogRdWrite (port : Port) (value : BitVec 16) (s : State) : Host.Outcome State Fault Refusal :=
  .next (onMain port 6 (logRdOp value.toNat) s)

/-- Bytes and place of an access: 8 whole, or 4 in either half. -/
def accessSpan (off : Nat) : Access → Nat × Nat
  | .whole => (off, 8)
  | .low => (off, 4)
  | .high => (off + 4, 4)

/-- REGISTER_WRITE (R421, R427): a host write at an offset. A register takes it whole or by halves; an area takes the bytes
of the access; any other offset ignores it. The host window is not served while the main side is down or stopped (R406, R423). -/
def hostWrite (off : Nat) (access : Access) (v : Nat) (s : State) : State :=
  if mainStopped s then s
  else match regAt off with
    | some r => (match access with
      | .whole => writeReg .host r v s
      | .low => writeHalf .host off r false v s
      | .high => writeHalf .host off r true v s)
    | none =>
      let a := accessSpan off access
      match areaAt a.1 with
      | some (x, o) => if inOneBlock x o a.2 then writeArea .host x o (leBytes a.2 v) s else dropHeld .host s
      | none => dropHeld .host s

/-- The access to a register that 4 or 8 bytes at an offset make (R421): the register's offset and the half. -/
def bytesAccess (off n : Nat) : Option (Nat × Access) :=
  if n = 8 ∧ (regAt off).isSome then some (off, .whole)
  else if n = 4 ∧ (regAt off).isSome then some (off, .low)
  else if n = 4 ∧ 4 ≤ off ∧ (regAt (off - 4)).isSome then some (off - 4, .high)
  else none

/-- A host write of bytes (R421): into a register, into a byte window, or ignored. -/
def hostWriteBytes (off : Nat) (bs : List Byte) (s : State) : State :=
  match bytesAccess off bs.length with
  | some a => hostWrite a.1 a.2 (leNat bs) s
  | none =>
    if mainStopped s then s
    else match areaAt off with
      | some (x, o) => if inOneBlock x o bs.length then writeArea .host x o bs s else dropHeld .host s
      | none => dropHeld .host s

/-- REGISTER_WRITE. -/
def execRegisterWrite (off : BitVec 28) (access : Access) (value : Word64) (s : State) (bytes : Option (List Byte) := none) :
    Host.Outcome State Fault Refusal :=
  .next (match bytes with
    | none => hostWrite off.toNat access value.toNat s
    | some bs => hostWriteBytes off.toNat bs s)

/-- A host read of bytes of an area (R421): a result window answers by R284, and any other access returns zero. -/
def hostReadArea (off n : Nat) (s : State) : State :=
  match areaAt off with
  | some (x, o) =>
    if !(inOneBlock x o n) then readZero n s
    else if x = .results then readWindow o n .none s
    else { s with hostp := { s.hostp with data := (List.range n).map (fun i => areaByte s .host x (o + i)), code := 0, poison := false } }
  | none => readZero n s

/-- A host read at an offset: of a register, whole or by halves, or of an area. -/
def hostRead (off : Nat) (access : Access) (s : State) : State :=
  let give := fun (n : Nat) (x : Nat × State) => { x.2 with hostp := { x.2.hostp with data := leBytes n x.1, code := 0, poison := false } }
  match regAt off with
  | some r => (match access with
    | .whole => give 8 ((readReg s .host r).toNat, s)
    | .low => give 4 (readHalf .host off r false s)
    | .high => give 4 (readHalf .host off r true s))
  | none => hostReadArea (accessSpan off access).1 (accessSpan off access).2 s

/-- REGISTER_HALF_READ (R418, R421): the host port holds the answer, little-endian. -/
def execRegisterHalfRead (off : BitVec 28) (access : Access) (s : State) (len : Option Nat := none) : Host.Outcome State Fault Refusal :=
  .next (if s.pwr.mainDown then s
    else match len with
      | none => hostRead off.toNat access s
      | some n => match bytesAccess off.toNat n with
        | some a => hostRead a.1 a.2 s
        | none => hostReadArea off.toNat n s)

end Sys2Proof.Machine
end

