-- ==== Sys2Proof/Machine/Sideband.lean ====
section
/-! DEFINITION. The side-band port: frames of both versions, their checks and responses, and the accesses they carry
(R415 to R419, R425). -/

namespace Sys2Proof.Machine

/-- The 64 bits that a frame's CRC covers: CMD, ADDR, DATA (R416). -/
def frameWord (version op addr data : Nat) : Nat := ((version * 64 + op) * 2 ^ 24 + addr) * 2 ^ 32 + data

/-- The CRC-8 of a frame version (Table 18-9). -/
def frameCrc (version w : Nat) : Nat := if version = 0 then crc8v1 w else crc8v2 w

/-- The bits of a response frame under its CRC, and its CRC, which the request's version forms (R416). -/
def SbResp.word (r : SbResp) : Nat := (r.status * 2 ^ 24 + r.addr) * 2 ^ 32 + r.data
def SbResp.crc (r : SbResp) : Nat := frameCrc r.version r.word

/-- The response with nothing in it, which a frame shifts out when none waits (R416, log entry 71). -/
def SbResp.zero : SbResp := ⟨0, 0, 0, 0⟩

/-- Status codes (Table 18-10). -/
def sbOk : Nat := 0
def sbCrc : Nat := 1
def sbBadCmd : Nat := 2
def sbBadAddr : Nat := 3
def sbDenied : Nat := 4
def sbMainDown : Nat := 5
def sbBusy : Nat := 6

/-- A DATA field that the spec does not state: a free value (log entry 70). -/
def freeData (s : State) : Nat × State := ((Config.sbData s.free).toNat, { s with free := s.free + 1 })

/-- A whole request frame has come in: it is counted, and what waited is shifted out (R416). -/
def frameIn (s : State) : State :=
  { s with sb := { s.sb with
      frames := satInc (2 ^ 32 - 1) s.sb.frames, shifted := [s.sb.waiting.getD .zero], waiting := none } }

/-- Answer a frame: version 2 in the same frame, every other version during the next one (Table 18-9). -/
def respond (version status addr data : Nat) (s : State) : State :=
  let r : SbResp := ⟨status, addr, data, version⟩
  let sb := { s.sb with lastStatus := status }
  { s with sb := if version = 1 then { sb with shifted := sb.shifted ++ [r] } else { sb with waiting := some r } }

/-- Answer a frame that was not executed. -/
def refuseFrame (version status addr : Nat) (s : State) : State :=
  let d := freeData s
  respond version status addr d.1 d.2

/-- The checks of a frame before its operation (R416, R417): a reserved version or operation is BAD_CMD, and a request whose
CRC fails is counted and not executed. -/
def checkFrame (version op addr data crc : Nat) : Option Nat :=
  if 2 ≤ version then some sbBadCmd
  else if frameCrc version (frameWord version op addr data) ≠ crc then some sbCrc
  else if 3 ≤ op then some sbBadCmd
  else none

/-- A frame with a failed check is answered; one in error of CRC is counted. -/
def failFrame (version status addr : Nat) (s : State) : State :=
  let s1 := if status = sbCrc then { s with sb := { s.sb with crcErr := satInc 0xFFFF s.sb.crcErr } } else s
  refuseFrame version status addr s1

/-- An executed frame is noted (Table 18-11). -/
def executed (version : Nat) (s : State) : State := { s with sb := { s.sb with lastVersion := version } }

/-- SB_NOP: the checks, and a response with nothing done. -/
def execSbNop (version : BitVec 2) (op : BitVec 6) (addr : BitVec 24) (data : BitVec 32) (crc : Byte) (s : State) :
    Host.Outcome State Fault Refusal :=
  let v := version.toNat
  let s1 := frameIn s
  .next (match checkFrame v op.toNat addr.toNat data.toNat crc.toNat with
    | some e => failFrame v e addr.toNat s1
    | none =>
      if op.toNat = 0 then refuseFrame v sbOk addr.toNat (executed v s1) else failFrame v sbBadCmd addr.toNat s1)

/-! ## Addresses (R425) -/

/-- Table 19-4: the host offset of a side-band address. -/
def sbOffset (a : Nat) : Option Nat :=
  if a < 0x20000 then some a
  else if 0x100000 ≤ a ∧ a < 0x200000 then some a
  else if 0x400000 ≤ a ∧ a < 0x800000 then some (a + 0xC00000)
  else none

/-- What a side-band address reaches: one half of a register, with the register's offset, or 4 bytes of an area. -/
inductive SbTarget where
  | half (off : Nat) (r : Reg) (high : Bool)
  | bytes (a : Area) (off : Nat)
deriving DecidableEq, Repr

/-- Whether a target answers while the main side is down (R419, R423). -/
def SbTarget.keep : SbTarget → Bool
  | .half _ r _ => r.keep
  | .bytes a _ => a.keep

/-- The target of an aligned host offset; none where it is reserved. -/
def sbTargetAt (off : Nat) : Option SbTarget :=
  match regAt (off / 8 * 8) with
  | some r => some (.half (off / 8 * 8) r (off % 8 == 4))
  | none => match areaAt off with
    | some (a, o) => some (.bytes a o)
    | none => none

/-- The target of an address, or the status that ends the frame: an address that is unaligned or outside Table 19-4, or
reserved, is BAD_ADDR; while the main side is down every offset but those of the keep island is MAIN_DOWN (R423). -/
def sbTarget (s : State) (addr : Nat) : Except Nat SbTarget :=
  match if addr % 4 = 0 then sbOffset addr else none with
  | none => .error sbBadAddr
  | some off => match sbTargetAt off with
    | some t => if s.pwr.mainDown && !t.keep then .error sbMainDown else .ok t
    | none => .error (if s.pwr.mainDown then sbMainDown else sbBadAddr)

/-- BUSY: a main-side access of a version-2 frame that does not end in 8 bit times (Table 18-10). -/
def sbLate (version : Nat) (late : Bool) (t : SbTarget) : Bool := version == 1 && late && !t.keep

/-! ## READ -/

/-- The 4 bytes or the half that a READ returns, and the state after it. -/
def sbReadAt (t : SbTarget) (s : State) : Nat × State :=
  match t with
  | .half off r high => readHalf .mgr off r high s
  | .bytes a off => (leNat ((List.range 4).map (fun i => areaByte s .mgr a (off + i))), s)

/-- SB_READ. One that answers BUSY returns no data and consumes nothing (R417). -/
def execSbRead (version : BitVec 2) (addr : BitVec 24) (data : BitVec 32) (crc : Byte) (late : Bool) (s : State) :
    Host.Outcome State Fault Refusal :=
  let v := version.toNat
  let a := addr.toNat
  let s1 := frameIn s
  .next (match checkFrame v 1 a data.toNat crc.toNat with
    | some e => failFrame v e a s1
    | none => match sbTarget s a with
      | .error e => refuseFrame v e a s1
      | .ok t =>
        let r := sbReadAt t s1
        if sbLate v late t then refuseFrame v sbBusy a (executed v s1)
        else respond v sbOk a r.1 (executed v r.2))

/-! ## WRITE -/

/-- Whether the manager may write a target. -/
def SbTarget.allows (s : State) : SbTarget → Bool
  | .half _ r _ => r.perm.allows s .mgr
  | .bytes a _ => a.perm.allows s .mgr

/-- The write that a frame carries. -/
def sbWriteAt (t : SbTarget) (data : Nat) (s : State) : State :=
  match t with
  | .half off r high => writeHalf .mgr off r high data s
  | .bytes a off => writeArea .mgr a off (leBytes 4 data) s

/-- A service of the other port, refused by the Tollhouse with RESULT ROLE (R379), is DENIED on the side-band. -/
def tollDenied (t : SbTarget) (before after : State) : Bool :=
  match t with
  | .half _ .tollCmd true =>
    (match before.sb.heldLow with
      | some (0xF040, low) => low % 256 == 0x30 || low % 256 == 0x31
      | _ => false) && after.toll.mgr.result == 1
  | _ => false

/-- SB_WRITE. A refused write is not executed (Table 18-10). -/
def execSbWrite (version : BitVec 2) (addr : BitVec 24) (data : BitVec 32) (crc : Byte) (late : Bool) (s : State) :
    Host.Outcome State Fault Refusal :=
  let v := version.toNat
  let a := addr.toNat
  let s1 := frameIn s
  .next (match checkFrame v 2 a data.toNat crc.toNat with
    | some e => failFrame v e a s1
    | none => match sbTarget s a with
      | .error e => refuseFrame v e a s1
      | .ok t =>
        let s2 := sbWriteAt t data.toNat s1
        if !t.allows s || tollDenied t s1 s2 then refuseFrame v sbDenied a s2
        else if sbLate v late t then refuseFrame v sbBusy a (executed v s2)
        else respond v sbOk a 0 (executed v s2))

/-- SB_FRAME_CUT (R417): the frame is discarded, counted in CRC_ERR, and gets no response; a response that waits goes on
waiting (log entry 71). -/
def execSbFrameCut (s : State) : Host.Outcome State Fault Refusal :=
  .next { s with sb := { s.sb with crcErr := satInc 0xFFFF s.sb.crcErr } }

end Sys2Proof.Machine
end

