-- ==== Sys2Proof/Machine/Startup.lean ====
section
/-! DEFINITION. The end of the start-up self-test: retired clusters, and rows and banks of the scratchpad repaired under R315 to R317 (R411
step 8). -/

namespace Sys2Proof.Machine

/-- The start-up map of a region after its test: the kennel is untested until the test passes; a failed cluster is
RETIRED (R366, R411 step 8). -/
def testedClusters (failed : List Nat) (cs : List ClusterRec) : List ClusterRec :=
  cs.zipIdx.map (fun x =>
    if failed.contains x.2 then { x.1 with st := .retired }
    else if x.1.st = .untested then { x.1 with st := .ready } else x.1)

/-- The logical bank that a physical bank of a region serves; none: a bank that has been replaced, or a spare bank not in service. -/
def bankServed (s : State) (region phys : Nat) : Option Nat :=
  let on := s.keep.repair.spares.filter (fun x => x.1 == region)
  if phys < 64 then (if on.any (fun x => x.2.2 == phys) then none else some phys)
  else (on.find? (fun x => x.2.1 + 64 == phys)).map (·.2.2)

/-- A state, and the events that the cycle raises: code and DETAIL0. -/
abbrev Raising := State × List (Nat × Nat)

/-- R316, R317 at start-up: the first free spare bank of the region serves a logical bank at once, since no line holds data; with none free,
SHARD_MIGRATE, once for the bank. -/
def startupReplace (region bank : Nat) (a : Raising) : Raising :=
  let s := a.1
  let rep := s.keep.repair
  match [0, 1].find? (fun sb => !((spareBanks s region).contains sb)) with
  | some sb =>
    (journal [.repair] { s.keep with repair := { rep with
        spares := rep.spares.filter (fun x => !(x.1 == region && x.2.2 == bank)) ++ [(region, sb, bank)]
        worn := rep.worn ++ (rep.spares.filter (fun x => x.1 == region && x.2.2 == bank)).map (fun x => (x.1, x.2.1)) } } s,
      a.2 ++ [(evRepairDone, region + 8 * bank + 2 ^ 17)] ++ (if sb = 1 then [(evSpareExhausted, region + 8 + 32 * bank)] else []))
  | none =>
    if s.sp.noSpare.contains (region, bank) then a
    else ({ s with sp := { s.sp with noSpare := s.sp.noSpare ++ [(region, bank)] } }, a.2 ++ [(evShardMigrate, 1 + 4 * region + 32 * bank)])

/-- A row that failed, by physical bank: its next spare row serves it at once; a row remapped three times, or one in a bank with no free spare
row, has its bank replaced (R315, R316). In a bank that found no spare bank a row that fails again is not remapped (R317). -/
def startupRow (a : Raising) (r : Nat × Nat × Nat) : Raising :=
  let s := a.1
  let n := remapsOf s r.1 r.2.1 r.2.2
  let used := sparesUsed s r.1 r.2.1
  match bankServed s r.1 r.2.1 with
  | none => if 3 ≤ n ∨ 16 ≤ used then a else (addRow r.1 r.2.1 r.2.2 used s, a.2)
  | some bank =>
    if 3 ≤ n ∨ 16 ≤ used then startupReplace r.1 bank a
    else if s.sp.noSpare.contains (r.1, bank) ∧ 0 < n then a
    else
      let s1 := addRow r.1 r.2.1 r.2.2 used s
      (s1, a.2 ++ [(evRepairDone, r.1 + 8 * bank + 512 * r.2.2 + 2 ^ 18 * remapsOf s1 r.1 r.2.1 r.2.2)] ++
        (if used = 15 then [(evSpareExhausted, r.1 + 8 * 2 + 32 * bank)] else []))

/-- A spare bank that failed and serves nothing is in service no more. -/
def startupSpare (a : Raising) (b : Nat × Nat) : Raising :=
  let rep := a.1.keep.repair
  if 64 ≤ b.2 ∧ (bankServed a.1 b.1 b.2).isNone ∧ ¬(spareBanks a.1 b.1).contains (b.2 - 64) then
    (journal [.repair] { a.1.keep with repair := { rep with worn := rep.worn ++ [(b.1, b.2 - 64)] } } a.1, a.2)
  else a

/-- A bank that failed and serves: replaced. -/
def startupBank (a : Raising) (b : Nat × Nat) : Raising :=
  match bankServed a.1 b.1 b.2 with
  | some bank => startupReplace b.1 bank a
  | none => a

/-- The repairs of R411 step 8: failed spare banks first, so that none of them is chosen, then banks, then the rows. -/
def startupRepair (found : SelfTest) (s : State) : Raising :=
  found.rows.foldl startupRow (found.banks.foldl startupBank (found.banks.foldl startupSpare (s, [])))

/-- STARTUP_SELF_TEST_END (R411 steps 7 and 8, after the mooring of step 6): failed clusters are RETIRED, failed rows and banks repaired,
with their events in ascending code order (R430), the Tollhouse's pass bits recorded, and PHASE becomes WAIT_BEACON. KEN_SP_LOG, which
records failures of R314, stays (log entry 172). A test that failed puts the Tollhouse into the error state, which ends an armed
certificate (R386). -/
def execStartupSelfTestEnd (found : SelfTest) (s : State) : Host.Outcome State Fault Refusal :=
  .next (if mainStopped s ∨ s.pwr.tested ∨ ¬s.crs.moored then s
    else
      let r := startupRepair found s
      let s0 := (sortByKey (·.1) r.2).foldl (fun t x => raise x.1 none x.2 0 t) r.1
      let rep := s0.keep.repair
      let retired := rep.retired ++ found.clusters.filter (fun c => !rep.retired.contains c)
      let pass := if s.toll.health.failed then found.toll &&& 0xFF#9 else found.toll
      let s1 := journal [.repair] { s0.keep with repair := { rep with retired := retired } } { s0 with
        ken := { s0.ken with clusters := testedClusters found.clusters s0.ken.clusters, startupPass := true }
        toll := { s0.toll with selftest := pass }
        pwr := { s0.pwr with tested := true } }
      settle (if pass = 0x1FF#9 then s1 else tollError s1))

end Sys2Proof.Machine
end

