-- ==== Sys2Proof/Machine/Dispatch.lean ====
section
/-! DEFINITION. The dispatch of every command to its meaning, one arm per constructor. -/

namespace Sys2Proof.Machine

def exec (i : Instr) (s : State) : Host.Outcome State Fault Refusal :=
  match i with
  | .coldReset cause keepBad => Sys2Proof.Machine.execColdReset cause keepBad s
  | .warmReset cause => Sys2Proof.Machine.execWarmReset cause s
  | .replayReset port => Sys2Proof.Machine.execReplayReset port s
  | .resetDrainEnd => Sys2Proof.Machine.execResetDrainEnd s
  | .fabReady => Sys2Proof.Machine.execFabReady s
  | .startupSelfTestEnd found => Sys2Proof.Machine.execStartupSelfTestEnd found s
  | .mainSideUp keepBad => Sys2Proof.Machine.execMainSideUp s keepBad
  | .beaconFrame nibbles => Sys2Proof.Machine.execBeaconFrame nibbles s
  | .beaconFrameEffect => Sys2Proof.Machine.execBeaconFrameEffect s
  | .moorWait => Sys2Proof.Machine.execMoorWait s
  | .railOrderViolation => Sys2Proof.Machine.execRailOrderViolation s
  | .keepSupplyALow => Sys2Proof.Machine.execKeepSupplyALow s
  | .keepSupplyReturn => Sys2Proof.Machine.execKeepSupplyReturn s
  | .keepIslandFailing torn => Sys2Proof.Machine.execKeepIslandFailing torn s
  | .keepSupplyRestored supplyB => Sys2Proof.Machine.execKeepSupplyRestored supplyB s
  | .keepSealCheckEnd failed => Sys2Proof.Machine.execKeepSealCheckEnd failed s
  | .vddCoreBelowMin mv => Sys2Proof.Machine.execVddCoreBelowMin s mv
  | .vddCoreAboveNext mv => Sys2Proof.Machine.execVddCoreAboveNext s mv
  | .vddCoreCollapse => Sys2Proof.Machine.execVddCoreCollapse s
  | .thermalSample temp vcore vkeepA vkeepB torn => Sys2Proof.Machine.execThermalSample temp vcore vkeepA vkeepB s torn
  | .pwrCtlTarget port step => Sys2Proof.Machine.execPwrCtlTarget port step s
  | .pwrCtlGate port gate => Sys2Proof.Machine.execPwrCtlGate port gate s
  | .throttleSwitch => Sys2Proof.Machine.execThrottleSwitch s
  | .clockGate => Sys2Proof.Machine.execClockGate s
  | .clockWake => Sys2Proof.Machine.execClockWake s
  | .sbNop version op addr data crc => Sys2Proof.Machine.execSbNop version op addr data crc s
  | .sbRead version addr data crc late => Sys2Proof.Machine.execSbRead version addr data crc late s
  | .sbWrite version addr data crc late => Sys2Proof.Machine.execSbWrite version addr data crc late s
  | .sbFrameCut => Sys2Proof.Machine.execSbFrameCut s
  | .coreSubmit fmt data scalar => Sys2Proof.Machine.execCoreSubmit fmt data scalar s
  | .cqSubmit port off bytes => Sys2Proof.Machine.execCqSubmit port off bytes s
  | .cqSubmit64 port off bytes => Sys2Proof.Machine.execCqSubmit64 port off bytes s
  | .submissionResponse => Sys2Proof.Machine.execSubmissionResponse s
  | .abortBerth port berth => Sys2Proof.Machine.execAbortBerth port berth s
  | .winRelease port window => Sys2Proof.Machine.execWinRelease port window s
  | .resultWindowRead off len err => Sys2Proof.Machine.execResultWindowRead off len s err
  | .chain berth env => Sys2Proof.Machine.execChain berth env s
  | .forerunnerChain berth env => Sys2Proof.Machine.execForerunnerChain berth env s
  | .normFwd berth env => Sys2Proof.Machine.execNormFwd berth env s
  | .rmsFwd berth env => Sys2Proof.Machine.execRmsFwd berth env s
  | .normBwd berth env => Sys2Proof.Machine.execNormBwd berth env s
  | .rmsBwd berth env => Sys2Proof.Machine.execRmsBwd berth env s
  | .smaxFwd berth env => Sys2Proof.Machine.execSmaxFwd berth env s
  | .smaxBwd berth env => Sys2Proof.Machine.execSmaxBwd berth env s
  | .matmul berth env => Sys2Proof.Machine.execMatmul berth env s
  | .load berth env => Sys2Proof.Machine.execLoad berth env s
  | .store berth env => Sys2Proof.Machine.execStore berth env s
  | .attn berth env => Sys2Proof.Machine.execAttn berth env s
  | .landingMarker berth => Sys2Proof.Machine.execLandingMarker berth s
  | .tileBoundary env => Sys2Proof.Machine.execTileBoundary env s
  | .tileSignatureCompare berth secondary => Sys2Proof.Machine.execTileSignatureCompare berth secondary s
  | .durationCapExpiry berth => Sys2Proof.Machine.execDurationCapExpiry s berth
  | .commandComplete berth => Sys2Proof.Machine.execCommandComplete berth s
  | .statisticsReady rowBlock => Sys2Proof.Machine.execStatisticsReady rowBlock s
  | .finisherRowAccept => Sys2Proof.Machine.execFinisherRowAccept s
  | .finisherRowDeliver env => Sys2Proof.Machine.execFinisherRowDeliver env s
  | .retrieverRequest stream => Sys2Proof.Machine.execRetrieverRequest stream s
  | .readResponse tag sectors => Sys2Proof.Machine.execReadResponse tag sectors s
  | .writeAck tag => Sys2Proof.Machine.execWriteAck tag s
  | .translationFault tag => Sys2Proof.Machine.execTranslationFault tag s
  | .retry port => Sys2Proof.Machine.execRetry port s
  | .fail port => Sys2Proof.Machine.execFail port s
  | .rtvLookaheadWrite port value => Sys2Proof.Machine.execRtvLookaheadWrite port value s
  | .rtvLeashWrite port value => Sys2Proof.Machine.execRtvLeashWrite port value s
  | .towBerthGroupWrite port berth value => Sys2Proof.Machine.execTowBerthGroupWrite port berth value s
  | .towMirrorRangeWrite port value => Sys2Proof.Machine.execTowMirrorRangeWrite port value s
  | .kenReqWrite port value => Sys2Proof.Machine.execKenReqWrite port value s
  | .landingReached => Sys2Proof.Machine.execLandingReached s
  | .landingGateOpen => Sys2Proof.Machine.execLandingGateOpen s
  | .crossingOpen => Sys2Proof.Machine.execCrossingOpen s
  | .landingCommitted => Sys2Proof.Machine.execLandingCommitted s
  | .kennelStaticCopyEnd region => Sys2Proof.Machine.execKennelStaticCopyEnd region s
  | .inlineTestEnd cluster pass => Sys2Proof.Machine.execInlineTestEnd cluster pass s
  | .outOfLineTestEnd cluster pass => Sys2Proof.Machine.execOutOfLineTestEnd cluster pass s
  | .manOpen port => Sys2Proof.Machine.execManOpen port s
  | .manClose port => Sys2Proof.Machine.execManClose port s
  | .manDiscard port => Sys2Proof.Machine.execManDiscard port s
  | .manDisarm port => Sys2Proof.Machine.execManDisarm port s
  | .manApplyNow port => Sys2Proof.Machine.execManApplyNow port s
  | .manForget port => Sys2Proof.Machine.execManForget port s
  | .manApplyAt port crossing landing => Sys2Proof.Machine.execManApplyAt port crossing landing s
  | .stagingApertureWrite port off bytes => Sys2Proof.Machine.execStagingApertureWrite port off bytes s
  | .manifestVerificationEnd => Sys2Proof.Machine.execManifestVerificationEnd s
  | .applicationPhase1End notReady => Sys2Proof.Machine.execApplicationPhase1End notReady s
  | .applicationPhase2End => Sys2Proof.Machine.execApplicationPhase2End s
  | .shadowWindowWrite port off bytes => Sys2Proof.Machine.execShadowWindowWrite port off bytes s
  | .tblCommit port mask slot => Sys2Proof.Machine.execTblCommit port mask slot s
  | .tblClear port mask slot => Sys2Proof.Machine.execTblClear port mask slot s
  | .tblLoad port mask slot => Sys2Proof.Machine.execTblLoad port mask slot s
  | .tblLoadFetchEnd lost => Sys2Proof.Machine.execTblLoadFetchEnd lost s
  | .swapIdle port mask => Sys2Proof.Machine.execSwapIdle port mask s
  | .towBurstReceived burst => Sys2Proof.Machine.execTowBurstReceived s burst
  | .burstAck id => Sys2Proof.Machine.execBurstAck id s
  | .burstRefused id => Sys2Proof.Machine.execBurstRefused id s
  | .burstResend id => Sys2Proof.Machine.execBurstResend id s
  | .towMessage msg env => Sys2Proof.Machine.execTowMessage msg env s
  | .hopAbandoned id env => Sys2Proof.Machine.execHopAbandoned id env s
  | .towTimerExpiry berth rowBlock env => Sys2Proof.Machine.execTowTimerExpiry berth rowBlock env s
  | .mirrorSnapshotReadEnd err => Sys2Proof.Machine.execMirrorSnapshotReadEnd s err
  | .mirrorReceived snap => Sys2Proof.Machine.execMirrorReceived snap s
  | .restore port => Sys2Proof.Machine.execRestore port s
  | .restoreReq tag crossing landing => Sys2Proof.Machine.execRestoreReq tag crossing landing s
  | .restoreData slot tag crossing place => Sys2Proof.Machine.execRestoreData slot s tag crossing place
  | .multicastDrop cluster => Sys2Proof.Machine.execMulticastDrop cluster s
  | .rowCopyEnd region bank row err => Sys2Proof.Machine.execRowCopyEnd region bank row s err
  | .bankCopyEnd region bank err => Sys2Proof.Machine.execBankCopyEnd region bank s err
  | .traceArm port crossing landing => Sys2Proof.Machine.execTraceArm port crossing landing s
  | .evtLogRdWrite port value => Sys2Proof.Machine.execEvtLogRdWrite port value s
  | .resume port => Sys2Proof.Machine.execResume port s
  | .rebase port berth => Sys2Proof.Machine.execRebase port berth s
  | .tollStatus port => Sys2Proof.Machine.execTollStatus port s
  | .tollNonce port => Sys2Proof.Machine.execTollNonce port s
  | .tollAuth port => Sys2Proof.Machine.execTollAuth port s
  | .tollLogout port => Sys2Proof.Machine.execTollLogout port s
  | .tollSelftest port => Sys2Proof.Machine.execTollSelftest port s
  | .tollSelftestEnd pass => Sys2Proof.Machine.execTollSelftestEnd pass s
  | .tollReadPubkey port slot => Sys2Proof.Machine.execTollReadPubkey port slot s
  | .tollLoadPubkey port slot => Sys2Proof.Machine.execTollLoadPubkey port slot s
  | .tollLoadWrapped port slot => Sys2Proof.Machine.execTollLoadWrapped port slot s
  | .tollGenkey port consistent => Sys2Proof.Machine.execTollGenkey port consistent s
  | .tollClearSlot port slot => Sys2Proof.Machine.execTollClearSlot port slot s
  | .tollZeroise port => Sys2Proof.Machine.execTollZeroise port s
  | .tollZeroisePermanent port => Sys2Proof.Machine.execTollZeroisePermanent port s
  | .zeroiseEnd => Sys2Proof.Machine.execZeroiseEnd s
  | .tollFieldLock port => Sys2Proof.Machine.execTollFieldLock port s
  | .certArm port => Sys2Proof.Machine.execCertArm port s
  | .certCancel port => Sys2Proof.Machine.execCertCancel port s
  | .certificateWritten fault => Sys2Proof.Machine.execCertificateWritten fault s
  | .debugInstrumentEnable => Sys2Proof.Machine.execDebugInstrumentEnable s
  | .registerWrite off access value bytes => Sys2Proof.Machine.execRegisterWrite off access value s bytes
  | .registerHalfRead off access len => Sys2Proof.Machine.execRegisterHalfRead off access s len

end Sys2Proof.Machine
end

