-- ==== Sys2Proof/Machine/Tick.lean ====
section
/-! DEFINITION. What one CLK_REF rising edge does by itself (R34). -/

namespace Sys2Proof.Machine

/-- One CLK_REF edge with no command waiting: the moored engine's tide count advances by one (R34), and while the main side is down that of
the keep island (Table 19-8). -/
def tick (s : State) : State :=
  if s.pwr.mainDown then { s with isl := { s.isl with tide := (s.isl.tide + 1) % 2 ^ 64 } }
  else if s.crs.moored then { s with crs := { s.crs with tide := (s.crs.tide + 1) % 2 ^ 64 } } else s

end Sys2Proof.Machine
end

