-- ==== Sys2Proof/Safety.lean ====
section
/-! DEFINITION. What counts as a sound state of the engine: the scratchpad's bytes in their one canonical form, the queue
within its 256 entries (R260), the event log within its 256 unread entries with its pointers and its lost count in their
fields (R430, Table 19-9); and the conditions and frames that the statements speak of. -/

namespace Sys2Proof.Machine

/-- The canonical form of a byte store: addresses strictly rising, and no listed byte equal to what an unlisted address
reads as (log entry 3). -/
abbrev Memory.wf (m : List Host.Cell) : Prop := (m.map Prod.fst).Pairwise (· < ·) ∧ ∀ p ∈ m, p.2 ≠ 0

/-- The event unit within its fields (Tables 19-9 and 19-10, R430). -/
abbrev EvtUnit.ok (e : EvtUnit) : Prop := e.wr < 2 ^ 16 ∧ e.rd < 2 ^ 16 ∧ unread e ≤ 256 ∧ e.lost ≤ 0xFFFF

/-- A sound state. -/
structure Sound (s : State) : Prop where
  mem : Memory.wf s.sp.mem
  queue : s.cq.entries.length ≤ 256
  log : s.evt.ok

/-- A write of a port to a main-side register is served (R71, R406, R419, R427): the main side is up, its clock is not stopped by the thermal
trip, and the port holds the register's permission bit. -/
def Served (p : Port) (b : Nat) (s : State) : Prop := mainStopped s = false ∧ permitted p b s = true

/-- Every byte of the scratchpad reads as before. -/
def SameMemory (s t : State) : Prop := ∀ a, spByte t a = spByte s a

/-- Only the queue's entry of one command differs, in its place. -/
structure OnlyEntry (b q : Nat) (s t : State) : Prop where
  rest : t = { s with cq := { s.cq with entries := t.cq.entries } }
  others : ∀ b' q', (b', q') ≠ (b, q) → findEntry t b' q' = findEntry s b' q'

/-- From `s` to `t` a write by a port made a landing-latched value pending (R49): it is the last value written to the
register, other registers' pending values stay, and every setting in force stays. -/
structure Latched (p : Port) (reg v : Nat) (s t : State) : Prop where
  last : pendingOf t reg = some v
  others : ∀ r, r ≠ reg → llValue t.crs.pendingLL r = llValue s.crs.pendingLL r
  rest : t = { dropHeld p s with crs := { s.crs with pendingLL := t.crs.pendingLL } }

/-- The port of a write that needs one permission bit of Table 19-5, with that bit: the writes to registers and windows of
the main side. -/
def neededBit (c : Instr) : Option (Port × Nat) :=
  match c with
  | .abortBerth p _ | .winRelease p _ => some (p, 0)
  | .manOpen p | .manClose p | .manDiscard p | .manDisarm p | .manApplyNow p | .manForget p => some (p, 1)
  | .manApplyAt p _ _ | .stagingApertureWrite p _ _ => some (p, 1)
  | .kenReqWrite p _ => some (p, 2)
  | .retry p | .fail p | .rtvLookaheadWrite p _ | .rtvLeashWrite p _ => some (p, 3)
  | .towBerthGroupWrite p _ _ | .towMirrorRangeWrite p _ | .restore p => some (p, 4)
  | .traceArm p _ _ | .evtLogRdWrite p _ | .resume p | .rebase p _ => some (p, 6)
  | .shadowWindowWrite p _ _ | .tblCommit p _ _ | .tblClear p _ _ | .tblLoad p _ _ | .swapIdle p _ => some (p, 7)
  | _ => none

/-- A write of bytes into a window keeps within one 64-byte block of it and names no reserved offset (R421, Table 7-3). -/
def wellPlaced (c : Instr) : Bool :=
  match c with
  | .stagingApertureWrite _ off bytes => oneBlock 0x100000 off bytes.length
  | .shadowWindowWrite _ off bytes => oneBlock 0x1000000 off bytes.length && inImage off
  | _ => true

/-- A service of the Tollhouse asked for by a port can run (R379, R381, R386, R389): the main side is up, nothing else
runs, no test has failed; the host holds permission bit 8, and for the manager slot 0x0F holds a key. -/
structure Admitted (p : Port) (s : State) : Prop where
  up : mainStopped s = false
  good : s.toll.errorState = false
  idle : tollRunning s = false
  host : p = .host → permitted .host 8 s = true
  mgr : p = .mgr → (keySlot s 0x0F).key ≠ []

/-- From `s` to `t` a service of the Tollhouse ended with a RESULT for its port and changed nothing else. -/
def EndsWith (r : Nat) (p : Port) (s t : State) : Prop := t = tollResult r p (dropHeld p s)

/-- The rows that may write the scratchpad: the commands of the array and the events that let one form outputs, a restore, what lets a
held restore go on, and whatever can begin a cold reset. -/
def mayWriteScratchpad (c : Instr) : Bool :=
  match c with
  | .chain _ _ | .forerunnerChain _ _ | .matmul _ _ | .load _ _ | .store _ _ | .attn _ _ => true
  | .normFwd _ _ | .rmsFwd _ _ | .normBwd _ _ | .rmsBwd _ _ | .smaxFwd _ _ | .smaxBwd _ _ => true
  | .tileBoundary _ | .statisticsReady _ | .finisherRowDeliver _ | .tileSignatureCompare _ _ => true
  | .towMessage _ _ | .hopAbandoned _ _ | .towTimerExpiry _ _ _ | .restoreData _ _ _ => true
  | .crossingOpen | .applicationPhase2End => true
  | .coldReset _ _ | .warmReset _ | .replayReset _ | .mainSideUp _ | .vddCoreCollapse => true
  | .sbWrite _ _ _ _ _ | .registerWrite _ _ _ _ | .zeroiseEnd | .debugInstrumentEnable => true
  | _ => false

/-- The row that offers the issue to the head command of a berth, by the command's kind. -/
def issueRow (k : Kind) (b : BitVec 5) (env : RunEnv) : Instr :=
  match k with
  | .chain => .chain b env
  | .fore => .forerunnerChain b env
  | .normFwd => .normFwd b env
  | .rmsFwd => .rmsFwd b env
  | .normBwd => .normBwd b env
  | .rmsBwd => .rmsBwd b env
  | .smaxFwd => .smaxFwd b env
  | .smaxBwd => .smaxBwd b env
  | .matmul => .matmul b env
  | .load => .load b env
  | .store => .store b env
  | .attn => .attn b env
  | .marker => .landingMarker b

/-- The head command `e` of a berth has been taken and has passed its checks, and nothing holds back its first lane issue
(R3, R40, R274, R275): the engine takes commands, the command's landing is reached and its gate open, no earlier command
holds its bytes, blocks or slipways, no suspended command holds the issue (R302), and the issue is free. -/
structure ReadyToStart (s : State) (b : BitVec 5) (e : Entry) : Prop where
  up : mayTake s = true
  head : berthNext s b.toNat = some e
  listed : findEntry s b.toNat e.seq = some e
  taken : e.life = .taken
  fresh : e.started = false
  bound : 0 < e.lookahead
  start : mayStart s e = true
  issue : issueOpen s e.berth = true
  held : issueHeld s = false

/-- The command at its first lane issue: it is bound to the crossing in progress and to its deadline (R42, R61). -/
def startedEntry (s : State) (e : Entry) : Entry :=
  { e with started := true, life := .taken, crossing := s.crs.crossing, deadline := deadlineOf s e.desc }

/-- The state at the first lane issue: the berth holds the issue (R274), and a command of the segment has been taken. -/
def startedState (s : State) (e : Entry) : State :=
  noteTaken s.crs.crossing e.desc.landing
    { s with cq := { s.cq with issuing := some e.berth, lastBerth := some e.berth, chosen := none } }

/-- The state in which a command makes its first step: it stands started in the queue, and the entries that a chain clears are cleared
(R195). -/
def firstStepState (s : State) (e : Entry) : State :=
  let e1 := startedEntry s e
  let s1 := startedState s e
  setEntry e1 (if e.desc.kind = .chain ∨ e.desc.kind = .fore then chainStart e1 s1 else s1)

/-- Whether a step of a command at its place meets neither a detected error (R359) nor the cap (R281). -/
def StepClean (s : State) (e : Entry) (env : RunEnv) : Prop := errorOf s e env = none ∧ overCap env e = false

/-- Another command of a berth than `q` has issued and not formed its outputs. -/
def othersIssue (s : State) (b q : Nat) : Bool :=
  (berthEntries s b).any (fun y => y.seq != q && y.started && decide (y.life = .taken))

/-- The reads of a step meet no error and its outputs none on the way. -/
def QuietEnv (env : RunEnv) : Prop := env.corrected = [] ∧ env.uncorrectable = [] ∧ env.rest = []

/-- The command's deadline has not passed, where it has one (R60, R61). -/
def OnTime (s : State) (e : Entry) : Prop := ∀ d, deadlineNow s e = some d → s.crs.tide ≤ d

/-- A command without a group has passed the checks of its descriptor (R135, R278), and its rows in the finisher and in the array are rows of
its shape. -/
structure Checked (e : Entry) : Prop where
  passed : fixedReasons e e.desc e.vlen = []
  alone : e.coll = none
  rows : ∀ f ∈ e.fin, f.1 / 16 < e.desc.shape.rowBlocks ∧ (e.desc.shape.blockRow (f.1 / 16)).i1 + f.1 % 16 < e.desc.n1
  widths : ∀ x ∈ e.rows, x.2.o.length = e.desc.nx

/-- What a step of a command writes, issued in `s` (R128, R212, R243). -/
def workEmits (w : Work) (e : Entry) (s : State) : List Emit :=
  match w with
  | .chain t => chainEmits e.desc t (runTile (readerIn s e e.desc.shape t.cluster) e.desc.chainStages t)
  | .product t n =>
    let old := sget [] s.arr.slips (slipKey t.cluster (slipOf e.desc.slip n))
    if (mparam e.desc).drain then (drainEmits t (slipWrite (matmulCells s e t old).1 old) e.desc.shapeC e s).1 else []
  | .store l => (drainEmits (slipTileOf l) (sget [] s.arr.slips (slipKey l (slipOf e.desc.slip 0))) slipShape e s).1
  | .pass true t => (passTwoEmits t e s).1
  | _ => []

/-- In `t` the scratchpad holds the bytes that outputs write, formed in `s` (R91, R96, R128): the elements and scales of each slice at the
addresses of R263, where each slice begins on a byte. -/
def Holds (s : State) (e : Entry) (ms : List Emit) (t : State) : Prop :=
  ∀ m ∈ ms, (e.desc.slot m.slot).job = false → (∀ r ∈ emitRuns s e m, r.low = 0) →
    ∀ r ∈ emitRuns s e m, ∀ i, i < r.bytes.length → spByte t (r.addr + i) = r.bytes.getD i 0

/-- An element of an output in the scratchpad, in a format of whole bytes that is not MX, reads as a value converted (R96, R97, R101, R108). -/
def ElementReads (s : State) (e : Entry) (x : Slot) (h : Shape) (stage : Nat) (c : Coord) (v : OutVal) (t : State) : Prop :=
  ∀ f, fmtOfCode x.fmt = some f → codeIsMx x.fmt = false → codeBits x.fmt % 8 = 0 → x.job = false →
    let n := codeBits x.fmt / 8
    let mode := modeOf s x.rmode
    let bits := (storeElement s x f mode (drawAt s mode e.crossing x.stride0 stage h c) v).1.1
    ∀ k, k < n → spByte t (x.base + n * elemOffset x h 1 c + k) = BitVec.ofNat 8 (bits / 2 ^ (8 * k))

/-- A shape of one tile (R111). -/
structure OneTile (h : Shape) : Prop where
  cols : 1 ≤ h.n0 ∧ h.n0 ≤ 64
  rows : 1 ≤ h.n1 ∧ h.n1 ≤ 16
  planes : h.n2 = 1 ∧ h.n3 = 1

/-- The first tile of a shape. -/
def firstTile : Tile := ⟨0, 0, 0, ⟨0, 0, 0, 0⟩, 0⟩

/-- The value of cell (i1, j) of a MATMUL (R235, R240): the groups of its products in ascending k onto its initial value. -/
def productCell (s : State) (e : Entry) (old : SlipTile) (i1 j : Nat) : Word32 × Bool :=
  let d := e.desc
  let ks := List.range (contributing e d)
  (cellValue (numCfg s).ftz (gMac s) (initialCell s e d old ⟨0, 0, i1, j⟩).1
    (mapNotes (fun k => productOperand s e d.in0 d.shape ⟨0, 0, i1, k⟩) ks).1
    (mapNotes (fun k => productOperand s e d.in1 d.shapeB ⟨0, 0, j, k⟩) ks).1).1

/-- An address lies outside the bytes of the outputs with SPACE 0 that a command writes, from BASE over the span of R263. -/
def OutsideOutputs (d : Desc) (a : Nat) : Prop :=
  ∀ i < 2, d.writesOut i = true → (d.slot (4 + i)).job = false →
    a < (d.slot (4 + i)).base ∨
      (d.slot (4 + i)).base + spanBytes (d.slot (4 + i)) (lastOffset (d.slot (4 + i)) (outShape d i) 1) ≤ a

/-- From `s` to `t` the command `e` without a group formed its outputs: it waits in the queue with its writes, the issue is free, and every
unit that its outputs do not concern is as it was. Of the scratchpad, no byte below the bases of its outputs changed; no byte at all where
it writes none with SPACE 0; and none outside its outputs, of a command that has passed its checks, or of a MATMUL or a STORE that has its OUT0
at a line (R241, R242, R263). -/
structure Formed (s : State) (e : Entry) (t : State) : Prop where
  entry : ∃ y, findEntry t e.berth e.seq = some y ∧ y.life = .ran ∧ y.bytes = e.bytes ∧ y.crossing = e.crossing
  others : ∀ b q, (b, q) ≠ (e.berth, e.seq) → findEntry t b q = findEntry s b q
  issue : t.cq.issuing = none
  below : ∀ a, (∀ i < 2, (e.desc.slot (4 + i)).job = false → a < (e.desc.slot (4 + i)).base) → spByte t a = spByte s a
  unwritten : (∀ i < 2, (e.desc.slot (4 + i)).job = true ∨ e.desc.writesOut i = false) → SameMemory s t
  outside : (Checked e ∨ ((e.desc.kind = .matmul ∨ e.desc.kind = .store) ∧ (e.desc.slot 4).base % 64 = 0)) →
    ∀ a, OutsideOutputs e.desc a → spByte t a = spByte s a
  pending : t.pending = s.pending
  man : t.man = s.man
  crs : t.crs = s.crs
  tow : t.tow = s.tow
  ken : t.ken = s.ken
  toll : t.toll = s.toll
  pwr : t.pwr = s.pwr
  hostp : t.hostp = s.hostp
  sb : t.sb = s.sb
  wins : t.cq.wins = s.cq.wins
  rings : t.cq.rings = s.cq.rings
  vlen : t.cq.vlen = s.cq.vlen

end Sys2Proof.Machine
end

