-- ==== Sys2Proof/Certificates/Slice0/Obligations.lean ====
section
/-! DEFINITION. The statements for the provers. -/

open Sys2Proof Sys2Proof.Machine

/-! ## The step and the queue -/

/-- The command at the front of the queue runs on the state with the queue's rest. That the ports' commands, which R395 lists by port, share
one queue, first in first out, is the model's choice (log entries 5 and 23). -/
def Obligations.FrontCommandRuns : Prop :=
  ∀ (c : Instr) (rest : List Instr) (s : State),
    step { s with pending := c :: rest } = exec c { s with pending := rest }

/-- On an empty queue one CLK_REF edge passes: a moored engine's tide count goes on by one, modulo 2^64 (R34), or, while the
main side is down, that of the keep island; that this is what an idle step does is the model's choice (log entry 2). -/
def Obligations.IdleStepIsOneTick : Prop :=
  ∀ s : State, s.pending = [] →
    (s.pwr.mainDown = true → step s = .next { s with isl := { s.isl with tide := (s.isl.tide + 1) % 2 ^ 64 } }) ∧
    (s.pwr.mainDown = false → s.crs.moored = true →
      step s = .next { s with crs := { s.crs with tide := (s.crs.tide + 1) % 2 ^ 64 } }) ∧
    (s.pwr.mainDown = false → s.crs.moored = false → step s = .next s)

/-! ## Reset values and invariants -/

/-- What the registers read right after a power-on reset, from the tables of the units. That CRS_TIDE, which mooring loads, reads 0, and that
clusters 0 to 3 show IN_SERVICE and the kennel's UNTESTED before the start-up test, is the model's choice (log entry 22). -/
def Obligations.RegistersAtReset : Prop :=
  let s := State.reset
  readReg s .host .rtvLookahead = 4#64 ∧ readReg s .host .rtvLeash = packFields [(0, 16, 2048), (16, 16, 768), (32, 16, 512)] ∧
  readReg s .host .rtvStatus = 0#64 ∧ readReg s .host .rtvFault = 0#64 ∧
  readReg s .host .tblStatus = packFields [(16, 8, 0xFF)] ∧ readReg s .host (.tblBank 0) = 0#64 ∧
  readReg s .host (.cqVlen 0) = 0xFFFFFF#64 ∧ readReg s .host (.cqVlen 31) = 0xFFFFFF#64 ∧
  readReg s .host (.cqHead 0) = packFields [(63, 1, 1)] ∧ readReg s .host .cqAckHost = 0#64 ∧
  readReg s .host (.cqWin 0) = 0#64 ∧ readReg s .host (.cqWin 127) = 0#64 ∧
  readReg s .host .crsNow = 0#64 ∧ readReg s .host .crsTide = 0#64 ∧ readReg s .host .crsStatus = 0#64 ∧
  readReg s .host .manStatus = 0#64 ∧ readReg s .host .manActiveTag = 0#64 ∧
  readReg s .host .dgstStatus = 0#64 ∧ readReg s .host .evtStatus = 0#64 ∧ readReg s .host .evtMask = 0#64 ∧
  readReg s .host .jqFault = 0#64 ∧ readReg s .host .jqFaultLog = 0#64 ∧ readReg s .host .jqMacSlip = 0#64 ∧
  readReg s .host .towPartner = BitVec.allOnes 64 ∧ readReg s .host (.towBerthGroup 3) = 0#64 ∧
  readReg s .host (.kenMap 0) = packFields [(3, 3, 1), (6, 3, 2), (9, 3, 3), (12, 3, 4)] ∧
  readReg s .host (.kenCluster 4) = packFields [(0, 3, 4)] ∧ readReg s .host (.kenCluster 0) = 0#64 ∧
  readReg s .host .pwrCtl = 0#64 ∧ readReg s .host (.ldgAccepted 5) = 0#64 ∧ readReg s .host .certStatus = 0#64 ∧
  readReg s .mgr .tollStatus = packFields [(14, 1, 1), (15, 1, 1)]

/-- The state after reset is sound. -/
def Obligations.ResetIsSound : Prop := Sound State.reset

/-- From a sound state every step, whatever command stands in front, answers a next state, and it is sound: the scratchpad
stays in its canonical form, the queue within 256 entries, the event log within its 256 unread entries. -/
def Obligations.StepKeepsSound : Prop := ∀ s : State, Sound s → ∃ t, step s = .next t ∧ Sound t

/-! ## Resets (R402, R411 to R414) -/

/-- COLD_RESET and VDD_CORE_COLLAPSE (R402, R407, R411). Keep state is lost at power-on, where the keep check finds it so, or
where the retention latch holds a loss: every main-side unit and every journal holds its reset value; the fuses, the free
counter and the queue stay. Any other cold reset keeps the island: the ledger keeps what was committed, with the counts of
before as prior ones; the repair table, the kept tag, the keys and the island's event records stay; sessions end; the main
side is at its reset values and down. JQ_CTL.COLD is ignored while a cold reset is under way (R414). -/
def Obligations.ColdResetsClearTheMainSide : Prop :=
  ∀ s : State,
    let cleared := fun (t : State) =>
      t.man = .cold ∧ t.crs = .cold ∧ t.cq = .cold ∧ t.rtv = .cold ∧ t.sp = .cold ∧ t.tbl = .cold ∧ t.arr = .cold ∧
      t.dgst = .cold ∧ t.hostp = .zero ∧ t.tow = .cold s.tow.position ∧ t.evt.log = [] ∧ t.pwr.mainDown = true ∧
      t.pwr.tested = false ∧ t.toll.fuses = s.toll.fuses ∧ t.toll.shadow = s.toll.fuses ∧ t.toll.host.auth = false ∧
      t.toll.mgr.auth = false ∧ t.toll.errorState = false ∧ t.isl.shadow = none ∧ t.pending = s.pending ∧
      t.stepping = s.stepping ∧ t.free = s.free
    let lost := fun (t : State) =>
      cleared t ∧ t.sb = .lost ∧ t.keep = .lost s.toll.fuses.factory ∧ t.toll.slots = [] ∧ t.evt.kept = [] ∧
      t.pwr.keepLost = true
    let kept := fun (t : State) =>
      cleared t ∧ t.toll.slots = s.toll.slots ∧ t.evt.kept = s.evt.kept ∧ t.pwr.keepLost = false ∧
      t.keep = { s.keep with priorAccepted := s.keep.accepted, priorCompleted := s.keep.completed,
                             accepted := s.keep.commitSeq, completed := s.keep.commitSeq }
    (∀ (cause : ColdCause) (bad : Bool), (cause = .jqCtl → s.pwr.mainDown = false ∧ s.pwr.tested = true) →
      ((cause = .powerOn ∨ bad = true ∨ s.pwr.latch = true) → ∃ t, exec (.coldReset cause bad) s = .next t ∧ lost t) ∧
      (cause ≠ .powerOn → bad = false → s.pwr.latch = false → ∃ t, exec (.coldReset cause bad) s = .next t ∧ kept t ∧
        t.sb = { s.sb with heldLow := if cause = .jqCtl then none else s.sb.heldLow })) ∧
    (∀ bad : Bool, (s.pwr.mainDown = true ∨ s.pwr.tested = false) →
      exec (.coldReset .jqCtl bad) s = .next { s with sb := { s.sb with heldLow := none } }) ∧
    (s.pwr.latch = true → ∃ t, exec .vddCoreCollapse s = .next t ∧ lost t) ∧
    (s.pwr.latch = false → ∃ t, exec .vddCoreCollapse s = .next t ∧ kept t ∧ t.sb = s.sb)

/-- RAIL_ORDER_VIOLATION: a rail that breaks the order makes the next reset a cold reset (R397): a warm reset by the pin, and
a warm or replay reset by a port that may ask for one, then do what the cold reset of a VDD_CORE collapse does. -/
def Obligations.BrokenRailOrderMakesNextResetCold : Prop :=
  (∀ s : State, exec .railOrderViolation s = .next { s with pwr := { s.pwr with coldNext := true } }) ∧
  (∀ s : State, s.pwr.coldNext = true → s.pwr.mainDown = false →
    exec (.warmReset .pin) s = exec .vddCoreCollapse s) ∧
  (∀ (s : State) (p : Port), s.pwr.coldNext = true → s.pwr.mainDown = false → s.pwr.tested = true → s.pwr.warmTest = false →
    s.pwr.draining = none → (p = .mgr ∨ Served .host 6 s) →
    exec (.warmReset (.jqCtl p)) s = exec .vddCoreCollapse (dropHeld p s) ∧
    exec (.replayReset p) s = exec .vddCoreCollapse (dropHeld p s))

/-- WARM_RESET by the pin or by JQ_CTL.WARM from a port that may write it, REPLAY_RESET and RESET_DRAIN_END (R412 to R414).
Issue stops, the queue is empty, the ledger is set back to what is committed, and the reset drains; the scratchpad's bytes,
the repair table and the kennel map stay. A warm reset unmoors, and its Tollhouse self-tests are still to come; a replay
reset keeps the mooring. A request during a reset of equal or higher precedence is ignored, and a replay reset during any
reset (R414). When every tag has returned the reset sequence continues; until then nothing changes. That the completion rings stay is read by
inference (log entry 8), and that a warm reset lasts until its self-tests have ended is the model's choice (log entry 127). -/
def Obligations.WarmAndReplayResetsSetBack : Prop :=
  (∀ s : State, s.pwr.mainDown = false → s.pwr.coldNext = false →
      let back := fun (k : ResetKind) (t : State) =>
        t.pwr.draining = some k ∧ t.cq.entries = [] ∧ t.cq.issuing = none ∧ t.cq.rings = s.cq.rings ∧
        t.keep.accepted = s.keep.commitSeq ∧ t.keep.completed = s.keep.commitSeq ∧ t.keep.priorAccepted = s.keep.accepted ∧
        t.keep.priorCompleted = s.keep.completed ∧ t.keep.repair = s.keep.repair ∧ t.keep.committed = s.keep.committed ∧
        t.sp.mem = s.sp.mem ∧ t.sp.clean = s.sp.clean ∧ t.rtv.out = s.rtv.out ∧ t.man.active = s.man.active ∧
        t.arr = .cold ∧ t.dgst = .cold ∧ t.ken.map = s.ken.map ∧ t.toll.slots = s.toll.slots ∧
        t.toll.host.auth = false ∧ t.toll.mgr.auth = false
      (∃ t, exec (.warmReset .pin) s = .next t ∧ back .warm t ∧ t.pwr.warmTest = true ∧ t.crs.moored = false ∧ t.crs.phase = .notMoored) ∧
      (s.pwr.tested = true → s.pwr.warmTest = false → ∀ p, (p = .mgr ∨ Served .host 6 s) →
        (s.pwr.draining ≠ some .warm → ∃ t, exec (.warmReset (.jqCtl p)) s = .next t ∧ back .warm t ∧
          t.pwr.warmTest = true ∧ t.crs.moored = false) ∧
        (s.pwr.draining = none → ∃ t, exec (.replayReset p) s = .next t ∧ back .replay t ∧
          t.crs.moored = s.crs.moored ∧ t.crs.tide = s.crs.tide))) ∧
  (∀ (s : State) (p : Port), s.pwr.mainDown = false → (p = .mgr ∨ Served .host 6 s) →
    ((s.pwr.tested = false ∨ s.pwr.warmTest = true ∨ s.pwr.draining = some .warm) →
      exec (.warmReset (.jqCtl p)) s = .next (dropHeld p s)) ∧
    ((s.pwr.tested = false ∨ s.pwr.warmTest = true ∨ s.pwr.draining.isSome = true) →
      exec (.replayReset p) s = .next (dropHeld p s))) ∧
  (∀ (s : State) (k : ResetKind), s.pwr.draining = some k → mainStopped s = false →
      (s.rtv.out = [] → s.tow.tx = [] → exec .resetDrainEnd s = .next { s with pwr := { s.pwr with draining := none } }) ∧
      ((s.rtv.out ≠ [] ∨ s.tow.tx ≠ []) → exec .resetDrainEnd s = .next s))

/-- The start-up sequence of Table 18-6: main side up (records of the island raised in order of their tides, the shadow of the
journals taken, the step of PWR_CTL.TARGET in force where no cap is below it, and the DRBG seeded afresh; with a keep check that finds keep
state lost, from the state of that loss), FAB_READY, MOOR_WAIT once no warm reset drains, and the self-test of a moored engine, after which
PHASE is WAIT_BEACON where no crossing has opened. A failed bank that serves gets the region's first free spare bank, with REPAIR_DONE, and
SPARE_EXHAUSTED for the second; with none free, SHARD_MIGRATE (R316, R317). Bit 8 of the pass bits is 0 once a continuous test of the noise
source has failed (R385). The model's choices: that the DRBG is seeded at this step (log entries 13 and 149), and what is lost where the keep
check fails (log entries 33 and 67). -/
def Obligations.StartUpRuns : Prop :=
  (∀ (s : State) (bad : Bool), s.pwr.mainDown = true →
    let up := fun (u t : State) =>
      t.pwr = { u.pwr with mainDown := false, zeroisePending := false, step := t.pwr.step, pending := t.pwr.pending } ∧
      (max u.pwr.capTherm u.pwr.capVolt ≤ u.pwr.target → t.pwr.step = u.pwr.target ∧ t.pwr.pending = none) ∧
      (u.pwr.target < max u.pwr.capTherm u.pwr.capVolt → t.pwr.step = u.pwr.step ∧ t.pwr.pending = u.pwr.pending) ∧ t.keep = u.keep ∧
      t.isl = { u.isl with shadow := some u.keep } ∧ t.toll.slots = u.toll.slots ∧ t.toll.drbg.count = 0 ∧
      t.toll.drbg.seeds = u.toll.drbg.seeds + 1 ∧ t.man = u.man ∧ t.sp = u.sp ∧ t.cq = u.cq ∧
      t.evt = (sortByKey (·.tide) u.evt.kept).foldl logEvent { u.evt with kept := [] }
    (s.pwr.zeroisePending = false → (s.pwr.keepLost = true ∨ (bad = false ∧ s.pwr.latch = false)) →
      ∃ t, exec (.mainSideUp bad) s = .next t ∧ up s t) ∧
    (s.pwr.zeroisePending = false → s.pwr.keepLost = false → (bad = true ∨ s.pwr.latch = true) →
      ∃ t, exec (.mainSideUp bad) s = .next t ∧ up (coldReset true s) t ∧ t.keep = .lost s.toll.fuses.factory ∧
        t.pwr.keepLost = true) ∧
    (s.pwr.zeroisePending = true → s.pwr.keepLost = false → bad = false → s.pwr.latch = false →
      ∃ t, exec (.mainSideUp bad) s = .next t ∧ up (coldReset false s) t ∧ t.man = .cold)) ∧
  (∀ (s : State) (bad : Bool), s.pwr.mainDown = false → exec (.mainSideUp bad) s = .next s) ∧
  (∀ s : State, (mainStopped s = false → exec .fabReady s = .next { s with pwr := { s.pwr with fabReady := true } }) ∧
    (mainStopped s = true → exec .fabReady s = .next s)) ∧
  (∀ s : State, (s.pwr.fabReady = true → s.crs.moored = false → s.pwr.draining ≠ some .warm →
      exec .moorWait s = .next { s with pwr := { s.pwr with moorWait := true } }) ∧
    ((s.pwr.fabReady = false ∨ s.crs.moored = true ∨ s.pwr.draining = some .warm) → exec .moorWait s = .next s)) ∧
  (∀ (s : State) (f : SelfTest), (mainStopped s = true ∨ s.pwr.tested = true ∨ s.crs.moored = false) →
    exec (.startupSelfTestEnd f) s = .next s) ∧
  (∀ (s : State) (f : SelfTest), mainStopped s = false → s.pwr.tested = false → s.crs.moored = true →
    let pass := if s.toll.health.failed = true then f.toll &&& 0xFF#9 else f.toll
    ∃ t, exec (.startupSelfTestEnd f) s = .next t ∧ t.pwr = { s.pwr with tested := true } ∧ t.toll.selftest = pass ∧
      t.toll.errorState = (s.toll.errorState || pass != 0x1FF#9) ∧ SameMemory s t ∧ t.cq = s.cq ∧ t.man = s.man ∧
      (s.pwr.warmTest = false → s.crs.phase = .notMoored → s.crs.firstOpen = true → t.crs.phase = .waitBeacon) ∧
      (f.rows = [] → f.banks = [] → t.sp = s.sp ∧ t.evt = s.evt ∧ t.keep.repair.rows = s.keep.repair.rows ∧
        t.keep.repair.spares = s.keep.repair.spares) ∧
      (∀ r b k, f.rows = [] → f.banks = [(r, b)] → bankServed s r b = some k →
        (∀ sb, [0, 1].find? (fun x => !((spareBanks s r).contains x)) = some sb →
          t.keep.repair.spares = s.keep.repair.spares.filter (fun x => !(x.1 == r && x.2.2 == k)) ++ [(r, sb, k)] ∧
          t.evt.pending = s.evt.pending ||| BitVec.ofNat 15 (if sb = 1 then 2 ^ 6 + 2 ^ 7 else 2 ^ 7)) ∧
        (0 ∈ spareBanks s r → 1 ∈ spareBanks s r → (r, k) ∉ s.sp.noSpare →
          t.keep.repair.spares = s.keep.repair.spares ∧ (r, k) ∈ t.sp.noSpare ∧
          t.evt.pending = s.evt.pending ||| BitVec.ofNat 15 (2 ^ 3))) ∧
      (∀ c, c < s.ken.clusters.length → f.clusters.contains c = true → (t.ken.clusters[c]?).map (·.st) = some .retired ∧
        t.keep.repair.retired.contains c = true))

/-! ## The beacon (R32 to R36, R409, R410) -/

/-- BEACON_FRAME: while mooring or moored, and no warm reset drains (Table 18-7), 56 nibbles await their effect edge; a frame cut short is
discarded, and counted in BEACON_ERR when the engine is moored (R409). BEACON_FRAME_EFFECT on an unmoored engine: the first frame that
passes the SYNC, TYPE and CRC checks moors it. CRS_TIDE takes FRAME_TIDE and MOOR_WAIT ends (R410); that the mooring frame's announcement is
recorded too, and that it does not open a crossing, is the model's reading (log entries 42 and 165). -/
def Obligations.FramesQueueAndMoor : Prop :=
  (∀ (s : State) (ns : List (BitVec 4)), mainStopped s = false → s.pwr.fabReady = true → s.pwr.draining ≠ some .warm →
      (56 ≤ ns.length → exec (.beaconFrame ns) s = .next { s with crs := { s.crs with frames := s.crs.frames ++ [ns.take 56] } }) ∧
      (ns.length < 56 → s.crs.moored = true →
        exec (.beaconFrame ns) s = .next { s with crs := { s.crs with beaconErr := min 0xFFFF (s.crs.beaconErr + 1) } }) ∧
      (ns.length < 56 → s.crs.moored = false → exec (.beaconFrame ns) s = .next s)) ∧
  (∀ (s : State) (ns : List (BitVec 4)), (mainStopped s = true ∨ s.pwr.fabReady = false ∨ s.pwr.draining = some .warm) →
      exec (.beaconFrame ns) s = .next s) ∧
  (∀ s : State, (mainStopped s = true ∨ s.pwr.draining = some .warm ∨ s.crs.frames = []) → exec .beaconFrameEffect s = .next s) ∧
  (∀ (s : State) (f : BeaconBits) (rest : List BeaconBits), mainStopped s = false → s.pwr.draining ≠ some .warm → s.crs.frames = f :: rest →
      s.crs.moored = false → s.crs.annSeen = false → frameOk (frameNat f) = true →
      ∃ t, exec .beaconFrameEffect s = .next t ∧ t.crs.moored = true ∧ t.crs.tide = bitsOf (frameNat f) 79 16 ∧
        t.crs.ann = (bitsOf (frameNat f) 207 160, bitsOf (frameNat f) 159 144) ∧ t.crs.ann0New = false ∧
        t.crs.annTide = bitsOf (frameNat f) 143 80 ∧ t.crs.frames = rest ∧ t.crs.beaconErr = 0 ∧
        t.pwr = { s.pwr with moorWait := false } ∧ t.cq = s.cq ∧ t.man = s.man ∧ t.sp = s.sp ∧ t.evt = s.evt ∧
        (s.pwr.tested = true → s.pwr.warmTest = false → s.crs.phase = .notMoored → s.crs.firstOpen = true →
          t.crs.phase = .waitBeacon))

/-- A discarded frame changes no state except the counter BEACON_ERR, and no event is raised for it (R35): its checks fail,
its FRAME_TIDE differs from CRS_TIDE, or its announcement is lower than the recorded one. Before mooring, when BEACON_ERR
does not count yet, a frame whose checks fail changes nothing. (The frame also leaves the pipeline that carries it to its
effect edge, which an engine in a draining warm reset does not watch: Table 18-7.) -/
def Obligations.DiscardedFrameOnlyCounts : Prop :=
  (∀ (s : State) (f : BeaconBits) (rest : List BeaconBits), mainStopped s = false → s.pwr.draining ≠ some .warm →
    s.crs.frames = f :: rest → s.crs.moored = false → frameOk (frameNat f) = false → exec .beaconFrameEffect s = .next { s with crs := { s.crs with frames := rest } }) ∧
  ∀ (s : State) (f : BeaconBits) (rest : List BeaconBits), mainStopped s = false → s.pwr.draining ≠ some .warm →
    s.crs.frames = f :: rest → s.crs.moored = true →
    let w := frameNat f
    let a := (bitsOf w 207 160, bitsOf w 159 144)
    (frameOk w = false ∨ bitsOf w 79 16 ≠ s.crs.tide ∨
      (s.crs.annSeen = true ∧ (a.1 < s.crs.ann.1 ∨ (a.1 = s.crs.ann.1 ∧ a.2 < s.crs.ann.2)))) →
    exec .beaconFrameEffect s =
      .next { s with crs := { s.crs with frames := rest, beaconErr := min 0xFFFF (s.crs.beaconErr + 1) } }

/-- A frame that holds on its effect edge and announces a later landing is recorded: CRS_BEACON and CRS_ANN_TIDE take it,
and a landing-0 announcement is kept for T_open (R36). -/
def Obligations.NewAnnouncementIsRecorded : Prop :=
  ∀ (s : State) (f : BeaconBits) (rest : List BeaconBits), mainStopped s = false → s.pwr.draining ≠ some .warm →
    s.crs.frames = f :: rest → s.crs.moored = true →
    let w := frameNat f
    let a := (bitsOf w 207 160, bitsOf w 159 144)
    frameOk w = true → bitsOf w 79 16 = s.crs.tide →
    (s.crs.annSeen = false ∨ s.crs.ann.1 < a.1 ∨ (s.crs.ann.1 = a.1 ∧ s.crs.ann.2 < a.2)) →
    exec .beaconFrameEffect s = .next { s with crs := { s.crs with
      frames := rest, ann := a, annTide := bitsOf w 143 80, annSeen := true,
      ann0 := (if a.2 = 0 then some (a.1, bitsOf w 143 80) else s.crs.ann0),
      ann0New := s.crs.ann0New || decide (a.2 = 0) } }
/-! ## Supplies of the keep island (R398 to R402) -/

/-- KEEP_SUPPLY_A_LOW, KEEP_SUPPLY_RETURN, KEEP_ISLAND_FAILING, KEEP_SUPPLY_RESTORED, KEEP_SEAL_CHECK_END. With B good the
island goes to B, and it returns once A is good: each switch raises KEEP_SWITCHOVER with the supply left, the supply taken
and the tide of the decision, and no other state of any path changes (R398, R399); the 1 ms for which A must stay good starts anew when it falls
low. With no supply and no write torn,
KEEP_FAIL is set and KEEP_SWITCHOVER is raised with no supply taken (code 3); then a supply returns, which is a switch where
it is not the one that fed the island (R399); and the seal check ends: a block whose seal fails is rewritten from the main
side's shadow, and with no shadow the retention latch holds the loss (R401, R402; log entry 33). -/
def Obligations.KeepSuppliesSwitchAndFail : Prop :=
  ∀ s : State,
    let record := fun (d0 : Nat) => if s.pwr.mainDown = true
      then { s.evt with kept := s.evt.kept ++ [⟨0x04, none, s.isl.tide, d0, s.isl.tide % 2 ^ 64⟩] }
      else logEvent s.evt ⟨0x04, none, s.crs.tide, d0, s.crs.tide % 2 ^ 64⟩
    ((s.pwr.srcB = false → s.pwr.bOk = true → exec .keepSupplyALow s = .next { s with
        pwr := { s.pwr with aOk := false, srcB := true, switched := true }, isl := { s.isl with goodA := 0 }, evt := record 4 }) ∧
      ((s.pwr.srcB = true ∨ s.pwr.bOk = false) → exec .keepSupplyALow s = .next { s with
        pwr := { s.pwr with aOk := false }, isl := { s.isl with goodA := 0 } })) ∧
    ((s.pwr.srcB = true → exec .keepSupplyReturn s = .next { s with
        pwr := { s.pwr with aOk := true, srcB := false, switched := true }, isl := { s.isl with goodA := 100 }, evt := record 1 }) ∧
      (s.pwr.srcB = false → exec .keepSupplyReturn s = .next { s with
        pwr := { s.pwr with aOk := true }, isl := { s.isl with goodA := 100 } })) ∧
    (exec (.keepIslandFailing Torn.none) s = .next { s with
      pwr := { s.pwr with keepFail := true, aOk := false, bOk := false }
      isl := { s.isl with goodA := 0, goodB := 0 }
      evt := record (bit s.pwr.srcB + 12) }) ∧
    (∀ b : Bool,
      let good := { s.isl with goodA := (if b = true then s.isl.goodA else 100), goodB := (if b = true then 100 else s.isl.goodB) }
      (s.pwr.keepFail = false → exec (.keepSupplyRestored b) s = .next { s with
        pwr := { s.pwr with aOk := s.pwr.aOk || !b, bOk := s.pwr.bOk || b }, isl := good }) ∧
      (s.pwr.keepFail = true → s.pwr.srcB = b → exec (.keepSupplyRestored b) s = .next { s with
        pwr := { s.pwr with keepFail := false, sealCheck := true, aOk := s.pwr.aOk || !b, bOk := s.pwr.bOk || b }, isl := good }) ∧
      (s.pwr.keepFail = true → s.pwr.srcB ≠ b → exec (.keepSupplyRestored b) s = .next { s with
        pwr := { s.pwr with keepFail := false, sealCheck := true, srcB := b, switched := true,
                            aOk := s.pwr.aOk || !b, bOk := s.pwr.bOk || b }
        isl := good
        evt := record (bit s.pwr.srcB + 4 * bit b) })) ∧
    (∀ failed : List KeepBlock,
      (s.pwr.sealCheck = true → (s.isl.shadow = none ∨ failed = []) → exec (.keepSealCheckEnd failed) s = .next { s with
        pwr := { s.pwr with sealCheck := false, latch := s.pwr.latch || !failed.isEmpty } }) ∧
      (∀ k, s.pwr.sealCheck = true → s.isl.shadow = some k → ∃ t, exec (.keepSealCheckEnd failed) s = .next t ∧
        t.keep = failed.foldl (fun x b => copyBlock b k x) s.keep ∧ t.isl.other = s.isl.other ∧ t.isl.shadow = some k ∧
        t = { s with keep := t.keep, isl := t.isl, pwr := { s.pwr with sealCheck := false } }) ∧
      (s.pwr.sealCheck = false → exec (.keepSealCheckEnd failed) s = .next s))

/-- An acceptance whose ledger write was torn receives FULL, with every later submission of its berth that waits for its
answer, and its entry is withdrawn; LDG_ACCEPTED stays at the last acceptance whose write completed (R259, R401): one torn
acceptance. A torn write of another block leaves the earlier copy of that block as the current one, and of no other (R401). -/
def Obligations.TornAcceptanceReceivesFull : Prop :=
  (∀ (s : State) (j : Judged) (later : List Judged), s.cq.responses = j :: later → j.code = 1 → (∀ x ∈ later, x.code ≠ 1) →
    ∃ t, exec (.keepIslandFailing ⟨1, []⟩) s = .next t ∧
      t.cq.responses = { j with code := 4 } :: later.map (fun x => if x.berth = j.berth then { x with code := 4 } else x) ∧
      findEntry t j.berth j.seq = none ∧ (0 < j.seq → ldgAccepted t j.berth < j.seq) ∧ t.pwr.keepFail = true ∧
      t.sp = s.sp ∧ t.man = s.man ∧ t.keep.completed = s.keep.completed ∧ t.keep.commitSeq = s.keep.commitSeq) ∧
  (∀ (s : State) (b : KeepBlock), (∀ n, b ≠ .accepted n) → ∃ t, exec (.keepIslandFailing ⟨0, [b]⟩) s = .next t ∧
      t.keep = copyBlock b s.isl.other s.keep ∧ t.isl.other = copyBlock b s.keep s.isl.other ∧ t.cq = s.cq ∧
      t.sp = s.sp ∧ t.man = s.man ∧ t.pwr.keepFail = true)

/-! ## Throttle steps and clocks (R404 to R408) -/

/-- A VDD_CORE below the minimum of the step in force (Table 18-4) moves the voltage cap one step down, and one at least
10 mV above that of the next higher step moves it one step up, within steps 0 to 3 (that "the next step" is the cap's is
log entry 158); nothing but the power unit changes, and the step in force stays until the switch (R404, R407).
THERMAL_SAMPLE: the monitor registers take the sample; at 105 °C the thermal cap moves down one step, at most once every 10
samples; after 100 consecutive samples below 95 °C it moves up one step; otherwise it stays. At 120 °C the trip is set, and
a trip set before stays (R406); a keep supply is good after 100 samples at or above 0.72 V (R398). PWR_CTL: TARGET and GATE,
written with permission bit 5 (R404, R408); a write without the permission is ignored and sets PERM_DENIED (R71, R427). -/
def Obligations.StepsFollowVoltageHeatAndTarget : Prop :=
  (∀ (s : State) (mv : Nat),
    let low := fun (n : Nat) => if n = 0 then 740 else if n = 1 then 720 else 700
    let moved := fun (c : Instr) (cap : Nat) => ∃ t, exec c s = .next t ∧ t.pwr.capVolt = cap ∧ t.pwr.step = s.pwr.step ∧
      t = { s with pwr := t.pwr } ∧ (t.pwr.pending = none → max s.pwr.target (max s.pwr.capTherm t.pwr.capVolt) = s.pwr.step)
    (mv < low s.pwr.step → moved (.vddCoreBelowMin mv) (min 3 (s.pwr.capVolt + 1))) ∧
    (low s.pwr.step ≤ mv → exec (.vddCoreBelowMin mv) s = .next s) ∧
    (low (s.pwr.capVolt - 1) + 10 ≤ mv → moved (.vddCoreAboveNext mv) (s.pwr.capVolt - 1)) ∧
    (mv < low (s.pwr.capVolt - 1) + 10 → exec (.vddCoreAboveNext mv) s = .next s)) ∧
  (∀ (s : State) (temp : Int) (a b c : Nat) (torn : Torn), ∃ t, exec (.thermalSample temp a b c torn) s = .next t ∧
      t.pwr.temp = temp ∧ t.pwr.vcore = a ∧ t.pwr.vkeepA = b ∧ t.pwr.vkeepB = c ∧
      t.pwr.step = s.pwr.step ∧ t.pwr.thermTrip = (s.pwr.thermTrip || decide (1920 ≤ temp)) ∧
      (1680 ≤ temp → 9 ≤ s.pwr.hot → s.pwr.capTherm < 3 → t.pwr.capTherm = s.pwr.capTherm + 1 ∧ t.pwr.hot = 0) ∧
      (1520 ≤ temp → (temp < 1680 ∨ s.pwr.hot < 9 ∨ 3 ≤ s.pwr.capTherm) →
        t.pwr.capTherm = s.pwr.capTherm ∧ t.pwr.cool = 0) ∧
      (temp < 1520 → s.pwr.cool = 99 → t.pwr.capTherm = s.pwr.capTherm - 1 ∧ t.pwr.cool = 0) ∧
      (temp < 1520 → s.pwr.cool < 99 → t.pwr.capTherm = s.pwr.capTherm ∧ t.pwr.cool = s.pwr.cool + 1) ∧
      t.isl.goodA = (if b < 720 then 0 else if s.isl.goodA < 100 then s.isl.goodA + 1 else 100) ∧
      t.isl.goodB = (if c < 720 then 0 else if s.isl.goodB < 100 then s.isl.goodB + 1 else 100) ∧
      (t.pwr.aOk = true ↔ 100 ≤ t.isl.goodA) ∧ (t.pwr.bOk = true ↔ 100 ≤ t.isl.goodB) ∧
      ((temp < 1920 ∨ mainStopped s = true ∨ torn = Torn.none) → t = { s with pwr := t.pwr, isl := t.isl })) ∧
  ((∀ (s : State) (p : Port), (p = .host → mainStopped s = false) → permitted p 5 s = true →
      (∀ n : BitVec 2, ∃ t, exec (.pwrCtlTarget p n) s = .next t ∧ t.pwr.target = n.toNat ∧ t.pwr.step = s.pwr.step ∧
        t.pwr.capTherm = s.pwr.capTherm ∧ t.pwr.capVolt = s.pwr.capVolt ∧ t = { dropHeld p s with pwr := t.pwr } ∧
        (t.pwr.pending = none → max n.toNat (max s.pwr.capTherm s.pwr.capVolt) = s.pwr.step)) ∧
      (∀ g : Bool, exec (.pwrCtlGate p g) s = .next { dropHeld p s with pwr := { s.pwr with gate := g } })) ∧
    (∀ (s : State) (p : Port) (n : BitVec 2) (g : Bool), (p = .host → mainStopped s = false) → permitted p 5 s = false →
      exec (.pwrCtlTarget p n) s = .next { dropHeld p s with man := { s.man with permDenied := true } } ∧
      exec (.pwrCtlGate p g) s = .next { dropHeld p s with man := { s.man with permDenied := true } }))

/-- THROTTLE_SWITCH: the pending step comes into force, none is pending, and THROTTLE is raised at the switch, with the old
step, the new step and the cause (R404); with no step pending nothing changes. CLOCK_GATE: with GATE set, CLK_CORE stops when
the queue is empty, no landing is in progress, no mirror snapshot is being read, and no out-of-line test, table operation or
Tollhouse service runs; while any of them holds nothing changes (R408). That a landing decided and not reached holds it off too is read by
inference (log entry 134). From the gating on EVT_IRQ keeps its level (R434). A CLK_CORE that a thermal trip has stopped does not switch
(R406). CLOCK_WAKE restarts the clocks, and a submission that
waits reaches the engine then; with no wake under way nothing changes. -/
def Obligations.SwitchesThrottleAndGate : Prop :=
  (∀ (s : State) (n cause : Nat), s.pwr.thermTrip = false → s.pwr.pending = some (n, cause) → s.pwr.step < 4 → n < 4 → cause < 3 →
    exec .throttleSwitch s = .next { s with
      pwr := { s.pwr with step := n, pending := none }
      evt := if s.pwr.mainDown = true
        then { s.evt with kept := s.evt.kept ++ [⟨0x0C, none, s.isl.tide, s.pwr.step + 4 * n + 16 * cause, 0⟩] }
        else logEvent s.evt ⟨0x0C, none, s.crs.tide, s.pwr.step + 4 * n + 16 * cause, 0⟩ }) ∧
  (∀ s : State, (s.pwr.pending = none ∨ s.pwr.thermTrip = true) → exec .throttleSwitch s = .next s) ∧
  ((∀ s : State, s.pwr.gate = true → s.pwr.gated = false → s.cq.entries = [] → s.cq.asleep = [] → s.crs.run = none →
      s.crs.decided = [] → s.tow.reading = none → (∀ c ∈ s.ken.clusters, c.st ≠ .testing) → s.tbl.busy = false →
      s.toll.busy = .none → s.man.stage ≠ .verifying → s.man.apply ≠ .applying → mainStopped s = false →
      exec .clockGate s = .next { s with pwr := { s.pwr with gated := true, waking := false }, evt := { s.evt with held := evtIrq s } }) ∧
    (∀ s : State, s.pwr.gated = true → evtIrq s = s.evt.held) ∧
    (∀ s : State, (s.pwr.gate = false ∨ s.pwr.gated = true ∨ s.cq.entries ≠ [] ∨ s.cq.asleep ≠ [] ∨ s.crs.run.isSome = true ∨
        s.crs.decided ≠ [] ∨ s.tow.reading.isSome = true ∨ (∃ c ∈ s.ken.clusters, c.st = .testing) ∨ s.tbl.busy = true ∨
        s.toll.busy ≠ .none ∨ s.man.stage = .verifying ∨ s.man.apply = .applying ∨ mainStopped s = true) →
      exec .clockGate s = .next s) ∧
    (∀ s : State, s.pwr.waking = true → mainStopped s = false → s.cq.asleep = [] →
      exec .clockWake s = .next { s with pwr := { s.pwr with gated := false, waking := false } }) ∧
    (∀ (s : State) (a : Asleep) (rest : List Asleep), s.pwr.waking = true → mainStopped s = false → s.cq.asleep = a :: rest →
      ∃ t, exec .clockWake s = .next t ∧
        t.pwr = { s.pwr with gated := false, waking := false } ∧ t.cq.asleep = [] ∧ t.sp = s.sp ∧ t.man = s.man ∧
        t.cq.responses.length = s.cq.responses.length + rest.length + 1) ∧
    (∀ s : State, (s.pwr.waking = false ∨ mainStopped s = true) → exec .clockWake s = .next s))
/-! ## The side-band (R415 to R419) -/

/-- A frame of version 1 or 2 whose CRC fails is not executed: it is answered with status CRC and counted, and nothing
outside the side-band port and the free counter changes (R416, R417). The DATA of the answer is a free value (log entry 70).
A frame of a reserved version is answered BAD_CMD, and one whose address reaches nothing with the status that says so.
SB_NOP, SB_READ and SB_WRITE complete with status OK: a NOP does nothing; a read of the low half of a register answers its
low 32 bits and captures the register; a write of the low half is held and that of the high half writes the register with
both (R416, R418); an area is read and written by 4 bytes; a write without permission is DENIED. A version-1 answer waits for
the next frame, a version-2 answer is shifted out in its own frame. That a version-2 frame with nothing waiting shifts zeros first (log entry
71), and that MAIN_DOWN comes before BAD_ADDR (log entry 131), is read by inference. -/
def Obligations.SidebandFramesAreJudged : Prop :=
  (∀ (s : State) (v : BitVec 2) (op : BitVec 6) (a : BitVec 24) (d : BitVec 32) (c : Byte) (late : Bool), v.toNat < 2 →
      let bad := fun (o : Nat) => (if v.toNat = 0 then crc8v1 (frameWord v.toNat o a.toNat d.toNat)
        else crc8v2 (frameWord v.toNat o a.toNat d.toNat)) ≠ c.toNat
      let after := fun (t : State) => t = { s with sb := t.sb, free := s.free + 1 } ∧ t.sb.lastStatus = 1 ∧
        t.sb.crcErr = min 0xFFFF (s.sb.crcErr + 1) ∧ t.sb.frames = min (2 ^ 32 - 1) (s.sb.frames + 1) ∧
        t.sb.lastVersion = s.sb.lastVersion ∧ t.sb.heldLow = s.sb.heldLow ∧ t.sb.capture = s.sb.capture
      (bad op.toNat → ∃ t, exec (.sbNop v op a d c) s = .next t ∧ after t) ∧
      (bad 1 → ∃ t, exec (.sbRead v a d c late) s = .next t ∧ after t) ∧
      (bad 2 → ∃ t, exec (.sbWrite v a d c late) s = .next t ∧ after t)) ∧
  (∀ (s : State) (v : BitVec 2) (op : BitVec 6) (a : BitVec 24) (d : BitVec 32) (c : Byte) (late : Bool), 2 ≤ v.toNat →
      ∀ i ∈ [Instr.sbNop v op a d c, .sbRead v a d c late, .sbWrite v a d c late], ∃ t, exec i s = .next t ∧
        t = { s with sb := t.sb, free := s.free + 1 } ∧ t.sb.lastStatus = 2 ∧ t.sb.crcErr = s.sb.crcErr) ∧
  (∀ (s : State) (v : BitVec 2) (a : BitVec 24) (d : BitVec 32) (c : Byte) (off : Nat) (r : Reg), v.toNat < 2 →
      let good := fun (o : Nat) => (if v.toNat = 0 then crc8v1 (frameWord v.toNat o a.toNat d.toNat)
        else crc8v2 (frameWord v.toNat o a.toNat d.toNat)) = c.toNat
      let answered := fun (t : State) (data : Nat) =>
        (v.toNat = 0 → t.sb.waiting = some ⟨0, a.toNat, data, 0⟩) ∧
        (v.toNat = 1 → t.sb.waiting = none ∧ t.sb.shifted = [s.sb.waiting.getD ⟨0, 0, 0, 0⟩, ⟨0, a.toNat, data, 1⟩])
      (good 0 → ∃ t, exec (.sbNop v 0#6 a d c) s = .next t ∧ t = { s with sb := t.sb, free := s.free + 1 } ∧
        t.sb.lastStatus = 0 ∧ t.sb.lastVersion = v.toNat) ∧
      (good 1 → sbTarget s a.toNat = .ok (.half off r false) → ∃ t, exec (.sbRead v a d c false) s = .next t ∧
        answered t ((readReg (frameIn s) .mgr r).toNat % 2 ^ 32) ∧
        t.sb.capture = some (off, (readReg (frameIn s) .mgr r).toNat) ∧ t = { s with sb := t.sb } ∧ t.sb.lastStatus = 0) ∧
      (good 2 → sbTarget s a.toNat = .ok (.half off r false) → r.perm.allows s .mgr = true → r ≠ .tollCmd →
        ∃ t, exec (.sbWrite v a d c false) s = .next t ∧ answered t 0 ∧ t.sb.heldLow = some (off, d.toNat) ∧
          t = { s with sb := t.sb } ∧ t.sb.lastStatus = 0) ∧
      (good 2 → ∀ low, sbTarget s a.toNat = .ok (.half off r true) → r.perm.allows s .mgr = true → r ≠ .tollCmd → r ≠ .jqCtl →
        s.sb.heldLow = some (off, low) → low < 2 ^ 32 → ∃ t, exec (.sbWrite v a d c false) s = .next t ∧
          answered t 0 ∧ t.sb.lastStatus = 0 ∧ t = { writeReg .mgr r (low + d.toNat * 2 ^ 32) (frameIn s) with sb := t.sb }) ∧
      (good 2 → ∀ high, sbTarget s a.toNat = .ok (.half off r high) → r.perm.allows s .mgr = false → r ≠ .jqCtl → high = false →
        ∃ t, exec (.sbWrite v a d c false) s = .next t ∧ t.sb.lastStatus = 4 ∧
          t = { s with sb := t.sb, free := s.free + 1, man := { s.man with permDenied := true } }) ∧
      (∀ (area : Area) (o : Nat), sbTarget s a.toNat = .ok (.bytes area o) →
        (good 1 → ∃ t, exec (.sbRead v a d c false) s = .next t ∧ t = { s with sb := t.sb } ∧ t.sb.lastStatus = 0 ∧
          answered t (leNat ((List.range 4).map (fun i => areaByte (frameIn s) .mgr area (o + i))))) ∧
        (good 2 → area.perm.allows s .mgr = true → ∃ t, exec (.sbWrite v a d c false) s = .next t ∧ t.sb.lastStatus = 0 ∧
          t = { writeArea .mgr area o (leBytes 4 d.toNat) (frameIn s) with sb := t.sb })) ∧
      (∀ e late, sbTarget s a.toNat = .error e →
        (good 1 → ∃ t, exec (.sbRead v a d c late) s = .next t ∧ t = { s with sb := t.sb, free := s.free + 1 } ∧
          t.sb.lastStatus = e) ∧
        (good 2 → ∃ t, exec (.sbWrite v a d c late) s = .next t ∧ t = { s with sb := t.sb, free := s.free + 1 } ∧
          t.sb.lastStatus = e)))

/-- A frame cut short is discarded, counted in CRC_ERR, and receives no response (R417). -/
def Obligations.CutFrameIsOnlyCounted : Prop :=
  ∀ s : State, exec .sbFrameCut s = .next { s with sb := { s.sb with crcErr := min 0xFFFF (s.sb.crcErr + 1) } }

/-! ## Submission (R257 to R260, R266, R267) -/

/-- CORE_SUBMIT, native or forerunner (R258, R259, R267): the submission is judged by Table 11-1 against LDG_ACCEPTED of its
berth, in the order DENIED, GAP for 0, DUPLICATE, GAP above, FULL, ACCEPTED; its response waits. An accepted one is
journaled and queued at once with its bank and with nothing reported; any other one leaves the queue and the ledger as they
were. A gated engine wakes, and the submission waits for the clocks (R408). While the ports are not open nothing changes (read by inference, log
entry 31). SUBMISSION_RESPONSE: the oldest judged submission receives its response in its master's CQ_ACK register, with its
berth and sequence number, or on CORE_SUB_RESP; nothing else changes. -/
def Obligations.CoreSubmissionsAreJudgedAndAnswered : Prop :=
  (∀ (s : State) (fmt : Bool) (data : List Byte) (scalar : List Word64), portsOpen s = true → s.pwr.gated = false →
      let bs := if fmt then data.take 64 else data.take 128
      let b := if fmt then (foreDesc bs 0).berth else (nativeDesc bs).berth
      let q := if fmt then (foreDesc bs (ldgAccepted s b + 1)).seq else (nativeDesc bs).seq
      let a := ldgAccepted s b
      let answer := fun (c : Nat) => exec (.coreSubmit fmt data scalar) s =
        .next { s with cq := { s.cq with responses := s.cq.responses ++ [⟨.core, c, b, q⟩] } }
      (permitted .host 0 s = false → answer 5) ∧
      (permitted .host 0 s = true →
        (q = 0 → answer 3) ∧ (1 ≤ q → q ≤ a → answer 2) ∧ (a + 1 < q → answer 3) ∧
        (q = a + 1 → q < 2 ^ 48 → (256 ≤ s.cq.entries.length ∨ s.pwr.keepFail = true ∨ s.pwr.sealCheck = true) → answer 4) ∧
        (q = a + 1 → q < 2 ^ 48 → s.cq.entries.length < 256 → s.pwr.keepFail = false → s.pwr.sealCheck = false →
          ∃ t e, exec (.coreSubmit fmt data scalar) s = .next t ∧ t.cq.responses = s.cq.responses ++ [⟨.core, 1, b, q⟩] ∧
            t.cq.entries = s.cq.entries ++ [e] ∧ e.berth = b ∧ e.seq = q ∧ e.bytes = bs ∧ e.fore = fmt ∧ e.life = .queued ∧
            e.bank = (List.range 16).map (fun j => (scalar.getD j 0).setWidth 32) ∧ e.res = .zero ∧
            ldgAccepted t b = q ∧ (∀ b', b' ≠ b → ldgAccepted t b' = ldgAccepted s b') ∧
            t.keep.completed = s.keep.completed ∧ t.keep.commitSeq = s.keep.commitSeq ∧ t.sp = s.sp ∧ t.man = s.man ∧
            t.crs = s.crs ∧ t.evt = s.evt ∧ t.rtv = s.rtv))) ∧
  (∀ (s : State) (fmt : Bool) (data : List Byte) (scalar : List Word64),
    (portsOpen s = true → s.pwr.gated = true → ∃ t a, exec (.coreSubmit fmt data scalar) s = .next t ∧
      t.cq.asleep = s.cq.asleep ++ [a] ∧ a.path = .core ∧ a.fore = fmt ∧ a.bytes = (if fmt then data.take 64 else data.take 128) ∧
      t = { s with cq := { s.cq with asleep := t.cq.asleep }, pwr := { s.pwr with waking := true } }) ∧
    (portsOpen s = false → exec (.coreSubmit fmt data scalar) s = .next s)) ∧
  (∀ s : State, s.cq.responses = [] → exec .submissionResponse s = .next s) ∧
  (∀ (s : State) (j : Judged) (rest : List Judged), mainStopped s = false → s.cq.responses = j :: rest →
      (j.path = .core → exec .submissionResponse s = .next { s with cq := { s.cq with responses := rest, ackCore := j.code } }) ∧
      (j.path = .host → exec .submissionResponse s = .next { s with cq := { s.cq with responses := rest, ackHost := j } }) ∧
      (j.path = .mgr → exec .submissionResponse s = .next { s with cq := { s.cq with responses := rest, ackMgr := j } }))

/-- CQ_SUBMIT and CQ_SUBMIT64 (R257, R266). Bytes of a window write stay in the port's own buffer, where bytes not written
keep their earlier values; a write that does not cover the last descriptor byte (127, or 63) submits nothing. One that
covers it is a submission of its port's buffer, with the berth and sequence number that the buffered descriptor holds; it is
ACCEPTED exactly when it is the next of its berth, an entry is free and the keep island takes it. The sequence number of a
forerunner lies within 2^31 of the next one and has the 32 bits given. Without permission bit 0 the write is ignored, and a
submission receives DENIED (R257, R427). A write that is not of 1 to 64 bytes within one 64-byte block is ignored (R421). While the ports are not
open nothing changes (read by inference, log entry 31). -/
def Obligations.WindowWritesSubmit : Prop :=
  (∀ (s : State) (p : Port) (off : Nat) (bytes : List Byte), portsOpen s = true → permitted p 0 s = true →
      (oneBlock 192 off bytes.length = true → (off + bytes.length ≤ 127 ∨ 128 ≤ off) → ∃ t, exec (.cqSubmit p off bytes) s = .next t ∧
        (∀ i, sget 0 (match p with | .host => t.cq.bufHost | .mgr => t.cq.bufMgr) i =
          if off ≤ i ∧ i < off + bytes.length then bytes.getD (i - off) 0
          else sget 0 (match p with | .host => s.cq.bufHost | .mgr => s.cq.bufMgr) i) ∧
        t.cq.entries = s.cq.entries ∧ t.cq.responses = s.cq.responses ∧ t.keep = s.keep ∧ t.sp = s.sp ∧ t.man = s.man) ∧
      (oneBlock 128 off bytes.length = true → (off + bytes.length ≤ 63 ∨ 64 ≤ off) → ∃ t, exec (.cqSubmit64 p off bytes) s = .next t ∧
        (∀ i, sget 0 (match p with | .host => t.cq.buf64Host | .mgr => t.cq.buf64Mgr) i =
          if off ≤ i ∧ i < off + bytes.length then bytes.getD (i - off) 0
          else sget 0 (match p with | .host => s.cq.buf64Host | .mgr => s.cq.buf64Mgr) i) ∧
        t.cq.entries = s.cq.entries ∧ t.cq.responses = s.cq.responses ∧ t.keep = s.keep ∧ t.sp = s.sp ∧ t.man = s.man)) ∧
  (∀ (s : State) (p : Port) (off : Nat) (bytes : List Byte), portsOpen s = true → permitted p 0 s = true → s.pwr.gated = false →
      off ≤ 127 → 127 < off + bytes.length → oneBlock 192 off bytes.length = true →
      ∃ t c, exec (.cqSubmit p off bytes) s = .next t ∧
        let d := nativeDesc ((List.range 128).map (sget 0 (match p with | .host => t.cq.bufHost | .mgr => t.cq.bufMgr)))
        t.cq.responses = s.cq.responses ++ [⟨(match p with | .host => .host | .mgr => .mgr), c, d.berth, d.seq⟩] ∧
        (c = 1 ↔ d.seq = ldgAccepted s d.berth + 1 ∧ s.cq.entries.length < 256 ∧ s.pwr.keepFail = false ∧
          s.pwr.sealCheck = false) ∧
        (c = 1 → ldgAccepted t d.berth = d.seq ∧ t.cq.entries.length = s.cq.entries.length + 1) ∧
        (c ≠ 1 → t.keep = s.keep ∧ t.cq.entries = s.cq.entries) ∧ t.sp = s.sp ∧ t.man = s.man) ∧
  (∀ (s : State) (p : Port) (off : Nat) (bytes : List Byte), portsOpen s = true → permitted p 0 s = true → s.pwr.gated = false →
      off ≤ 63 → 63 < off + bytes.length → oneBlock 128 off bytes.length = true →
      ∃ t c, exec (.cqSubmit64 p off bytes) s = .next t ∧
        let bs := (List.range 64).map (sget 0 (match p with | .host => t.cq.buf64Host | .mgr => t.cq.buf64Mgr))
        let b := (foreDesc bs 0).berth
        let q := (foreDesc bs (ldgAccepted s b + 1)).seq
        t.cq.responses = s.cq.responses ++ [⟨(match p with | .host => .host | .mgr => .mgr), c, b, q⟩] ∧
        (2 ^ 31 ≤ ldgAccepted s b + 1 → q % 2 ^ 32 = bitsOf (bytesAt bs 0 8) 31 0 ∧ ldgAccepted s b + 1 ≤ q + 2 ^ 31 ∧
          q < ldgAccepted s b + 1 + 2 ^ 31) ∧
        (c = 1 → q = ldgAccepted s b + 1 ∧ ldgAccepted t b = q ∧ t.cq.entries.length = s.cq.entries.length + 1) ∧
        (c ≠ 1 → t.keep = s.keep ∧ t.cq.entries = s.cq.entries) ∧ t.sp = s.sp ∧ t.man = s.man) ∧
  (∀ (s : State) (p : Port) (off : Nat) (bytes : List Byte), portsOpen s = true → permitted p 0 s = false → s.pwr.gated = false →
      let denied := fun (last size : Nat) (c : Instr) => oneBlock size off bytes.length = true →
        ((off + bytes.length ≤ last ∨ last < off) → exec c s = .next { dropHeld p s with man := { s.man with permDenied := true } }) ∧
        (off ≤ last → last < off + bytes.length → ∃ t b q, exec c s = .next t ∧
          t.cq.responses = s.cq.responses ++ [⟨(match p with | .host => .host | .mgr => .mgr), 5, b, q⟩] ∧
          t = { dropHeld p s with cq := { s.cq with responses := t.cq.responses }, man := { s.man with permDenied := true } })
      denied 127 192 (.cqSubmit p off bytes) ∧ denied 63 128 (.cqSubmit64 p off bytes)) ∧
  (∀ (s : State) (p : Port) (off : Nat) (bytes : List Byte), portsOpen s = true →
      (oneBlock 192 off bytes.length = false → exec (.cqSubmit p off bytes) s = .next (dropHeld p s)) ∧
      (oneBlock 128 off bytes.length = false → exec (.cqSubmit64 p off bytes) s = .next (dropHeld p s))) ∧
  (∀ (s : State) (p : Port) (off : Nat) (bytes : List Byte), portsOpen s = false →
      exec (.cqSubmit p off bytes) s = .next s ∧ exec (.cqSubmit64 p off bytes) s = .next s)

/-! ## Completion, abort, cap (R269, R277 to R281) -/

/-- COMMAND_COMPLETE (R269, R277 to R279): the oldest command of a berth, its outputs formed, its writes in storage and its comparisons and
group over, completes: its record stands in slot SEQ mod 32 of its ring, LDG_COMPLETED takes its number, its entry is free, the window it
bound becomes READY, and its completion is kept for the landing's commitment. With no poison consumed, no clamp and no full mask, no event
is raised; consumed poison raises POISON_CONSUMED with its lowest address (R301). The younger command does not complete with it unless it
was refused. Until then nothing changes. The status that a record reports is the highest-ranked of Table 11-9, and DETAIL is that of Table
11-8. -/
def Obligations.CompletionWritesRecordAndLedger : Prop :=
  (∀ (s : State) (b : BitVec 5) (e : Entry) (rest : List Entry), mainStopped s = false → berthEntries s b.toNat = e :: rest →
      (∀ x ∈ rest, x.seq ≠ e.seq) → (∀ x ∈ rest.head?, x.res.refused = none) → mayComplete s e = true →
      ∃ t, exec (.commandComplete b) s = .next t ∧
        sget [] t.cq.rings (32 * b.toNat + e.seq % 32) = completionRecord s e ∧ ldgCompleted t b.toNat = e.seq ∧
        (∀ b', b' ≠ b.toNat → ldgCompleted t b' = ldgCompleted s b') ∧ berthEntries t b.toNat = rest ∧
        t.keep.accepted = s.keep.accepted ∧ t.keep.commitSeq = s.keep.commitSeq ∧
        t.cq.hist = s.cq.hist ++ [(b.toNat, e.seq, e.crossing, e.desc.landing)] ∧
        (e.desc.window < 128 → e.res.refused = none →
          let w := sget default s.cq.wins e.desc.window
          w.st = 1 → w.berth = b.toNat → w.seqLow = e.seq % 2 ^ 32 →
            sget default t.cq.wins e.desc.window = { w with st := 2 }) ∧
        (e.res.refused.isSome = true → t.cq.wins = s.cq.wins ∧ t.evt = s.evt) ∧
        (e.res.consumed = none → e.res.vneg = 0 → e.res.masked = 0 → t.evt = s.evt) ∧
        (∀ a, e.res.consumed = some a → e.res.refused = none → e.res.vneg = 0 → e.res.masked = 0 →
          t.evt = logEvent s.evt ⟨0x08, some (e.berth, e.seq), s.crs.tide, a % 2 ^ 64, 0⟩) ∧
        t.sp = s.sp ∧ t.man = s.man ∧ t.crs = s.crs ∧ t.rtv = s.rtv ∧ t.dgst = s.dgst) ∧
  (∀ (s : State) (b : BitVec 5), (∀ e, berthHead s b.toNat = some e → mayComplete s e = false) →
      exec (.commandComplete b) s = .next s) ∧
  (∀ r : Result,
      (∀ n, r.refused = some n → r.status = 7 ∧ r.detail = n) ∧
      (r.refused = none → r.abort ≠ 0 → r.status = 5 ∧ r.detail = r.abort) ∧
      (∀ n, r.refused = none → r.abort = 0 → r.fault = some n → r.status = 4 ∧ r.detail = n) ∧
      (r.refused = none → r.abort = 0 → r.fault = none → r.detail = 0 ∧
        r.status = if r.cap then 6 else if r.mismatch then 2 else if r.poisonOut then 1 else if r.late then 3 else 0))

/-- ABORT_BERTH: every command of the berth that has not formed its outputs, or is suspended at a fault, ends with ABORT,
DETAIL 1, but for the one that holds the issue, which goes on to its next tile boundary (R280); the request changes no other
berth and no ledger count; a berth with nothing accepted ignores it. DURATION_CAP_EXPIRY: the berth's oldest command to which
cycles are charged (that it is the oldest is the model's choice, log entry 166) ends with CAP_EXCEEDED and 2^22 cycles charged, its outputs are
marked, its segment is INVALID, or that of the next crossing once it opens where the command belongs there (log entry 85), and the issue is free
of the berth unless another command of it holds the issue (R281). -/
def Obligations.AbortsAndCapsEndCommands : Prop :=
  (∀ (s : State) (p : Port) (b : BitVec 5), Served p 0 s →
      ∃ t, exec (.abortBerth p b) s = .next t ∧
        (∀ e ∈ s.cq.entries, e.berth = b.toNat → (∀ y ∈ s.cq.entries, y.berth = e.berth → y.seq = e.seq → y = e) →
          (holdsIssue s e = true → findEntry t b.toNat e.seq = some { e with stop := true } ∧ t.cq.issuing = s.cq.issuing) ∧
          (holdsIssue s e = false → (e.life ≠ .ran ∨ e.suspended = true) → ∃ x, findEntry t b.toNat e.seq = some x ∧
            x.life = .ran ∧ x.suspended = false ∧ x.res.abort = 1 ∧ x.res.status = (if x.res.refused.isSome then 7 else 5)) ∧
          (e.life = .ran → e.suspended = false → findEntry t b.toNat e.seq = some e)) ∧
        (∀ b' q, b' ≠ b.toNat → findEntry t b' q = findEntry s b' q) ∧ t.keep = s.keep ∧
        (s.cq.issuing ≠ some b.toNat → t.cq.issuing = s.cq.issuing) ∧
        (berthEntries s b.toNat = [] → t = dropHeld p s) ∧ t.sp.mem = s.sp.mem ∧ t.man = s.man ∧ t.evt = s.evt) ∧
  (∀ (s : State) (b : BitVec 5) (e : Entry), mainStopped s = false → (berthEntries s b.toNat).find? charged = some e →
      findEntry s b.toNat e.seq = some e →
      ∃ t x, exec (.durationCapExpiry b) s = .next t ∧ findEntry t b.toNat e.seq = some x ∧ x.life = .ran ∧ x.res.cap = true ∧
        x.res.charged = 2 ^ 22 ∧ (s.cq.issuing ≠ some b.toNat → t.cq.issuing = s.cq.issuing) ∧
        (s.cq.issuing = some b.toNat → t.cq.issuing =
          if (berthEntries s b.toNat).any (fun y => y.seq != e.seq && y.started && decide (y.life = .taken)) = true then some b.toNat else none) ∧
        t.keep = s.keep ∧ t.sp.mem = s.sp.mem ∧
        (ofNext s e = false → (sget .zero t.dgst.segs e.desc.landing).invalid = true) ∧
        (ofNext s e = true → e.desc.landing ∈ t.dgst.nextInvalid) ∧
        (∀ i u, i < 2 → (e.desc.slot (4 + i)).job = false → u ∈ outUnits e.desc i → lineMarked t u = true)) ∧
  (∀ (s : State) (b : BitVec 5), (berthEntries s b.toNat).find? charged = none → exec (.durationCapExpiry b) s = .next s)

/-! ## Result windows (R282 to R285) -/

/-- WIN_RELEASE raises GEN by one and makes the window EMPTY; other windows stay. A warm reset by the pin or by JQ_CTL, and a replay reset, do the
same for every window, and every cold reset (by its cause, by a VDD_CORE collapse, by a broken rail order, at the end of a zeroisation or before
instruments) sets every window EMPTY with GEN 0 (R285). Without permission bit 0 the write is ignored and
PERM_DENIED is set (R71, R427). RESULT_WINDOW_READ: STALE when G differs from GEN mod 16, NOT_READY while the
window is EMPTY or NOT_READY, otherwise the bound bytes as stored, zero beyond OUT0's span, with the poison indication of a
marked line, or of one that the read itself finds uncorrectable (R284, R312); an access that is not within one 64-byte block returns zeros
(R421). A read consumes nothing: where it meets no error only the host port's answer changes. -/
def Obligations.ResultWindowsAnswer : Prop :=
  (∀ (s : State) (p : Port) (w : BitVec 7),
      (Served p 0 s → ∃ t, exec (.winRelease p w) s = .next t ∧
        (sget default t.cq.wins w.toNat).gen = ((sget default s.cq.wins w.toNat).gen + 1) % 2 ^ 16 ∧
        (sget default t.cq.wins w.toNat).st = 0 ∧ (∀ w', w' ≠ w.toNat → sget default t.cq.wins w' = sget default s.cq.wins w') ∧
        t = { dropHeld p s with cq := { s.cq with wins := t.cq.wins } }) ∧
      (mainStopped s = false → permitted p 0 s = false →
        exec (.winRelease p w) s = .next { dropHeld p s with man := { s.man with permDenied := true } })) ∧
  (∀ (s : State) (w : Nat), w < 128 → s.pwr.mainDown = false →
      let raised := fun (t : State) => sget default t.cq.wins w = ⟨((sget default s.cq.wins w).gen + 1) % 2 ^ 16, 0, 0, 0, 0, 0⟩
      let zeroed := fun (c : Instr) => ∃ t, exec c s = .next t ∧ sget default t.cq.wins w = ⟨0, 0, 0, 0, 0, 0⟩
      (s.pwr.coldNext = false → ∃ t, exec (.warmReset .pin) s = .next t ∧ raised t) ∧
      (∀ p, (p = .mgr ∨ Served .host 6 s) → s.pwr.coldNext = false → s.pwr.tested = true → s.pwr.warmTest = false →
        (s.pwr.draining ≠ some .warm → ∃ t, exec (.warmReset (.jqCtl p)) s = .next t ∧ raised t) ∧
        (s.pwr.draining = none → ∃ t, exec (.replayReset p) s = .next t ∧ raised t)) ∧
      (∀ cause bad, (cause = .jqCtl → s.pwr.tested = true) → zeroed (.coldReset cause bad)) ∧ zeroed .vddCoreCollapse ∧
      (s.pwr.coldNext = true → zeroed (.warmReset .pin)) ∧
      (∀ perm, s.toll.busy = .zeroise perm → mainStopped s = false → zeroed .zeroiseEnd) ∧
      (s.toll.shadow.lock = false → zeroed .debugInstrumentEnable)) ∧
  (∀ (s : State) (off : BitVec 27) (len : Nat) (err : ReadErr), mainStopped s = false → oneBlock (2 ^ 27) off.toNat len = false →
      exec (.resultWindowRead off len err) s =
        .next { s with hostp := { s.hostp with data := List.replicate len 0, code := 0, poison := false } }) ∧
  (∀ (s : State) (off : BitVec 27) (len : Nat) (err : ReadErr), mainStopped s = false → oneBlock (2 ^ 27) off.toNat len = true →
      let w := sget default s.cq.wins (off.toNat / 2 ^ 20)
      let g := off.toNat / 2 ^ 16 % 16
      let b := off.toNat % 2 ^ 16
      ∃ t, exec (.resultWindowRead off len err) s = .next t ∧
        t.hostp.heldLow = s.hostp.heldLow ∧ t.hostp.capture = s.hostp.capture ∧ SameMemory s t ∧ t.cq = s.cq ∧
        (err = ReadErr.none → t = { s with hostp := t.hostp }) ∧
        (g ≠ w.gen % 16 → t.hostp.code = 2 ∧ t.hostp.data = [] ∧ t = { s with hostp := t.hostp }) ∧
        (g = w.gen % 16 → w.st ≠ 2 → t.hostp.code = 1 ∧ t.hostp.data = [] ∧ t = { s with hostp := t.hostp }) ∧
        (g = w.gen % 16 → w.st = 2 → t.hostp.code = 0 ∧ t.hostp.data.length = len ∧
          (∀ i, i < len → t.hostp.data.getD i 0 = if b + i < w.span then spByte s (w.base + b + i) else 0) ∧
          (t.hostp.poison = true ↔ ∃ i, i < len ∧ b + i < w.span ∧ lineMarked t ((w.base + b + i) / 64) = true))) ∧
  (∀ (s : State) (off : BitVec 27) (len : Nat) (err : ReadErr), mainStopped s = true →
      exec (.resultWindowRead off len err) s = .next s)

/-! ## The ledger (R272, R376) -/

/-- REBASE: a berth with no uncompleted command whose LDG_COMMIT_SEQ equals its LDG_ACCEPTED has the three counts set to 0;
its prior counts do not change, nor does any other berth. Any other REBASE is ignored (R272). RESUME loads CRS_NOW from the
crossing copy and CRS_DEADLINE_BASE from the base kept with it, only when a manifest is active, its tag is the kept one and
no command has been taken for issue since the reset; otherwise it is ignored (R376). The phase that follows and T_open after a
cold reset are the model's (log entries 32 and 152). -/
def Obligations.LedgerIsRebasedAndResumed : Prop :=
  (∀ (s : State) (p : Port) (b : BitVec 5), Served p 6 s →
      (berthHead s b.toNat = none → ldgCommitSeq s b.toNat = ldgAccepted s b.toNat →
        ∃ t, exec (.rebase p b) s = .next t ∧ ldgAccepted t b.toNat = 0 ∧ ldgCompleted t b.toNat = 0 ∧
          ldgCommitSeq t b.toNat = 0 ∧ t.keep.priorAccepted = s.keep.priorAccepted ∧
          t.keep.priorCompleted = s.keep.priorCompleted ∧
          (∀ b', b' ≠ b.toNat → ldgAccepted t b' = ldgAccepted s b' ∧ ldgCompleted t b' = ldgCompleted s b' ∧
            ldgCommitSeq t b' = ldgCommitSeq s b') ∧ t = { dropHeld p s with keep := t.keep, isl := t.isl }) ∧
      ((berthHead s b.toNat ≠ none ∨ ldgCommitSeq s b.toNat ≠ ldgAccepted s b.toNat) →
        exec (.rebase p b) s = .next (dropHeld p s))) ∧
  (∀ (s : State) (p : Port), Served p 6 s →
      (∀ m c l, s.man.active = some m → s.keep.keptTag = some m.tag → s.keep.crossCopy = some (c, l) →
        s.cq.takenSinceReset = false →
        ∃ t, exec (.resume p) s = .next t ∧ t.crs.crossing = c ∧ t.crs.landing = l ∧ t.crs.deadlineBase = s.keep.crossBase ∧
          (s.crs.firstOpen = false → t.crs.tOpen = s.crs.tOpen) ∧ t.crs.firstOpen = false ∧
          t.crs.tide = s.crs.tide ∧ t.crs.ann = s.crs.ann ∧ t.cq = s.cq ∧ t.keep = s.keep ∧ t.man = s.man ∧ t.sp = s.sp) ∧
      ((s.man.active = none ∨ s.keep.crossCopy = none ∨ s.cq.takenSinceReset = true ∨ (∃ m, s.man.active = some m ∧ s.keep.keptTag ≠ some m.tag)) →
        exec (.resume p) s = .next (dropHeld p s)))

/-! ## Issue (R37 to R43, R86, R240 to R242, R265, R274, R275) -/

/-- CHAIN, FORERUNNER_CHAIN, MATMUL, LOAD and STORE start: the command is bound to the crossing in progress (Table 11-8, R61, R101) and makes its
first lane issue (R274, R275). One that reads job memory waits for its granules, and one whose store areas are full for room (log entry 163).
Otherwise it makes its first step; where it writes no job memory either and no boundary is asked for, it runs to its outputs, which are formed
with it (that no boundary stands between is the model's choice, log entry 64). A chain of one tile then has stored its lanes, with their values
after the last stage, and a MATMUL of one tile holds its products in its slipway, drained into OUT0 where it asks for it. A detected error ends
it with ABORT, DETAIL 2 (R359), and the cap, judged before each step (the model's choice, log entry 166), with CAP_EXCEEDED (R281). -/
def Obligations.InStepCommandsRun : Prop :=
  ∀ (s : State) (b : BitVec 5) (e : Entry) (env : RunEnv), ReadyToStart s b e → runsApart e.desc = false →
    e.desc.kind ≠ .marker →
    let e1 := startedEntry s e
    let s1 := firstStepState s e
    let ex := charge env e1
    let started := fun (t : State) (y : Entry) =>
      exec (issueRow e.desc.kind b env) s = .next t ∧ findEntry t b.toNat e.seq = some y ∧ y.bytes = e.bytes ∧
      y.started = true ∧ y.crossing = s.crs.crossing ∧ t.cq.lastBerth = some b.toNat ∧ t.cq.takenSinceReset = s.cq.takenSinceReset ∧
      t.man = s.man ∧ t.crs = s.crs ∧ t.keep.accepted = s.keep.accepted ∧ t.keep.completed = s.keep.completed ∧
      t.keep.commitSeq = s.keep.commitSeq
    (∃ t y, started t y) ∧
    (((readsJob e.desc = true ∧ allPast (planOf s1 e1) e1 = false) ∨ areasFull s1 e1 = true) → ∃ t, started t e1 ∧
      t.cq.issuing = some b.toNat ∧ t = { s with cq := t.cq, dgst := t.dgst, arr := t.arr }) ∧
    ((readsJob e.desc = false ∨ allPast (planOf s1 e1) e1 = true) → areasFull s1 e1 = false →
      (StepClean s e env → e.coll = none → writesJob e.desc = false → env.stepwise = false →
        ∃ t, exec (issueRow e.desc.kind b env) s = .next t ∧ Formed s e1 t ∧
          (Checked e1 → QuietEnv env → OnTime s e1 → e.pos = 0 →
            (e.desc.kind = .chain ∨ e.desc.kind = .fore → OneTile e.desc.shape → Holds s1 ex (workEmits (.chain firstTile) ex s1) t) ∧
            (e.desc.kind = .matmul → OneTile e.desc.shapeC →
              let key := slipKey 0 (slipOf e.desc.slip 0)
              (∀ i j, i < e.desc.n1 → j < e.desc.nx →
                slipCell (sget [] t.arr.slips key) (64 * i + j) = productCell s1 ex (sget [] s.arr.slips key) i j) ∧
              Holds s1 ex (workEmits (.product firstTile 0) ex s1) t ∧
              ((mparam e.desc).drain = true → epilogueOf e.desc = [] → ∀ i j, i < e.desc.n1 → j < e.desc.nx →
                let v := productCell s1 ex (sget [] s.arr.slips key) i j
                ElementReads s1 ex (e.desc.slot 4) e.desc.shapeC 0 ⟨0, 0, i, j⟩ (.of ⟨.fp v.1, v.2⟩) t)))) ∧
      (StepClean s e env → (writesJob e.desc = true ∨ env.stepwise = true) →
        (planOf s e1).any (fun x => decide (e.pos + 1 < x.2.length)) = true → ∃ t y, started t y ∧ y.life = .taken ∧
          y.pos = e.pos + 1 ∧ t.cq.issuing = some b.toNat) ∧
      (∀ x, errorOf s e env = some x → ∃ t y, started t y ∧ y.life = .ran ∧ y.res.abort = 2 ∧ y.res.mismatch = true ∧
        t.cq.issuing = if othersIssue s b.toNat e.seq = true then some b.toNat else none) ∧
      (errorOf s e env = none → overCap env e = true → ∃ t y, started t y ∧ y.life = .ran ∧ y.res.cap = true ∧
        y.res.charged = 2 ^ 22 ∧ t.cq.issuing = if othersIssue s b.toNat e.seq = true then some b.toNat else none))

/-- LOAD and STORE (R241, R242). Below full redundancy, where they are refused (R357), a LOAD of a
tensor in the scratchpad, whose reads meet no error, leaves in the selected
slipway of every cluster `l` the elements of column tile `l`, converted to FP32, and the slipway is held by the command's
berth; the other slipway and its hold stay, and no byte of the scratchpad changes. A STORE changes no slipway; a hold that
its berth has on the selected slipway ends; without an epilogue the elements of its output in column tile `l` read as the selected slipway of
cluster `l`, converted into the output's format. -/
def Obligations.LoadAndStoreMoveSlipways : Prop :=
  ∀ (s : State) (b : BitVec 5) (e : Entry) (env : RunEnv), ReadyToStart s b e → protection s ≠ 2 → readsJob e.desc = false →
    areasFull (firstStepState s e) (startedEntry s e) = false →
    StepClean s e env → env.stepwise = false → env.rest = [] → e.pos = 0 →
    let w := slipOf e.desc.slip 0
    let s1 := firstStepState s e
    let ex := charge env (startedEntry s e)
    (e.desc.kind = .load → env.corrected = [] → env.uncorrectable = [] → ∃ t, exec (.load b env) s = .next t ∧
      (∀ l i, l < Config.clusters → i < 1024 → slipCell (sget [] t.arr.slips (slipKey l w)) i =
        (toFp32 (elementAt s e e.desc.in0 slipShape ⟨0, 0, i / 64, 64 * l + i % 64⟩)).1) ∧
      (∀ l, sget [] t.arr.slips (slipKey l (1 - w)) = sget [] s.arr.slips (slipKey l (1 - w))) ∧
      holdOf t w = some b.toNat ∧ holdOf t (1 - w) = holdOf s (1 - w) ∧ t.arr.accs = s.arr.accs ∧ SameMemory s t) ∧
    (e.desc.kind = .store → writesJob e.desc = false → ∃ t, exec (.store b env) s = .next t ∧
      t.arr.slips = s.arr.slips ∧ t.arr.accs = s.arr.accs ∧
      holdOf t w = (if holdOf s w = some b.toNat then none else holdOf s w) ∧ holdOf t (1 - w) = holdOf s (1 - w) ∧
      (Checked (startedEntry s e) → epilogueOf e.desc = [] → ∀ l, l < Config.clusters →
        Holds s1 ex (workEmits (.store l) ex s1) t ∧
        ∀ i j, i < 16 → j < 64 →
          let v := slipCell (sget [] s.arr.slips (slipKey l w)) (64 * i + j)
          ElementReads s1 ex (e.desc.slot 4) slipShape 0 ⟨0, 0, i, 64 * l + j⟩ (.of ⟨.fp v.1, v.2⟩) t))

/-- A command of NORM_FWD, RMS_FWD, NORM_BWD, RMS_BWD, SMAX_FWD, SMAX_BWD or ATTN, offered by its own row, takes the issue and starts,
bound to the crossing in progress. With a step of every row block ahead, nothing else happens: its lane issues follow at tile boundaries. -/
def Obligations.ApartCommandsStart : Prop :=
  ∀ (s : State) (b : BitVec 5) (e : Entry) (env : RunEnv), ReadyToStart s b e → runsApart e.desc = true →
    let e1 := startedEntry s e
    let p := planOf s e1
    (∃ t y, exec (issueRow e.desc.kind b env) s = .next t ∧ findEntry t b.toNat e.seq = some y ∧ y.bytes = e.bytes ∧
      y.started = true ∧ y.crossing = s.crs.crossing ∧ t.cq.lastBerth = some b.toNat ∧ t.man = s.man ∧ t.crs = s.crs) ∧
    (e.fin = [] → (∀ rb, rb < e.desc.shape.rowBlocks → rb ∈ blocksAhead p e1) → allPast p e1 = false →
      ∃ t, exec (issueRow e.desc.kind b env) s = .next t ∧ findEntry t b.toNat e.seq = some e1 ∧
        t.cq.issuing = some b.toNat ∧ t = { s with cq := t.cq, dgst := t.dgst } ∧ t.cq.wins = s.cq.wins ∧
        t.cq.rings = s.cq.rings ∧ t.cq.vlen = s.cq.vlen ∧ t.dgst.segs = s.dgst.segs)

/-- LANDING_MARKER (R38, R265): a marker of the landing in progress, at the head of its berth, that passes its checks ends at
once; one of a later landing waits for it; one whose landing has passed is refused with 0x02; a marker that fails a check is
refused with that reason, and completes as soon as nothing stands before it. None writes CQ_VLEN, a window or the
scratchpad, nor raises an event. Read by inference: one accepted before the decision point of a later landing is waited for and not refused (log entry
164), and a bad one behind another command is judged when it is taken and completes as soon as nothing stands before it (log entry 81). -/
def Obligations.MarkerEndsAtItsLanding : Prop :=
  ∀ (s : State) (b : BitVec 5) (e : Entry), mayTake s = true → issueBarred s = false → berthNext s b.toNat = some e →
    findEntry s b.toNat e.seq = some e → e.desc.kind = .marker → e.life = .queued → s.man.active.isSome = true →
    inCrossing s = true →
    let check := lowest (fixedReasons { e with life := .taken, taken := true, vlen := vlenOf s b.toNat } e.desc (vlenOf s b.toNat))
    let refused := fun (t : State) (r : Nat) =>
      (∀ x, berthHead s b.toNat = some x → x.seq ≠ e.seq → x.res.refused = none →
        ∃ y, findEntry t b.toNat e.seq = some y ∧ y.life = .ran ∧ y.res.refused = some r ∧ y.crossing = s.crs.crossing) ∧
      (berthEntries s b.toNat = [e] → writesOpen s e = false → ldgCompleted t b.toNat = e.seq ∧ berthEntries t b.toNat = [])
    let quiet := fun (t : State) => t.cq.vlen = s.cq.vlen ∧ t.cq.wins = s.cq.wins ∧ SameMemory s t ∧ t.evt = s.evt ∧
      t.arr = s.arr ∧ t.crs.landing = s.crs.landing ∧ t.keep.accepted = s.keep.accepted
    (landingPassed s e = true → ∃ t, exec (.landingMarker b) s = .next t ∧ refused t 2 ∧ quiet t ∧ t.man = s.man) ∧
    (landingPassed s e = false → e.desc.landing = s.crs.landing → s.crs.landing ≤ lastDecided s →
      ∃ t, exec (.landingMarker b) s = .next t ∧ quiet t ∧ t.man = s.man ∧
        (check = none → ∃ y, findEntry t b.toNat e.seq = some y ∧ y.life = .ran ∧ y.res = e.res ∧
          y.crossing = s.crs.crossing) ∧
        (∀ r, check = some r → refused t r)) ∧
    (landingPassed s e = false → e.desc.landing ≠ s.crs.landing → check = none →
      ∃ t y, exec (.landingMarker b) s = .next t ∧ findEntry t b.toNat e.seq = some y ∧ y.life = .taken ∧ y.res = e.res ∧
        t.cq.vlen = s.cq.vlen ∧ t.cq.wins = s.cq.wins ∧ SameMemory s t)

/-- TILE_BOUNDARY (R274, R280, R281, R302). A command whose berth was aborted ends there with ABORT. While a fused row or ATTN command is
suspended nothing is issued. What the region caches hold enters the operand buffers; a granule that this completes after the deadline is late
(R62). When the next granule of every cluster is complete, and the store areas of the clusters that issue have room (the model's choice, log entry
163), a command whose clusters run in step issues it: one position further, the reported cycles charged (the cap is judged before each step: log
entry 166); after the last position it forms its outputs. Where one cluster alone issues, the scratchpad then holds what its tile writes. A
granule that has faulted suspends the command and frees the issue. Otherwise the command stands aside for the first berth after it that could take
the issue (log entry 84), or waits. A command whose clusters run on their own issues one step in each cluster that can, keeps the issue
when it is suspended, and waits where none can. -/
def Obligations.TileBoundaryIssues : Prop :=
  (∀ (s : State) (env : RunEnv) (e0 : Entry), mainStopped s = false → islandFailing s = false → issuingEntry s = some e0 →
    findEntry s e0.berth e0.seq = some e0 →
    let e := (hitGranules e0 s).1
    let s1 := (hitGranules e0 s).2
    let tile := e0.pos % stepsPerTile e0 = 0
    let faulted := (nextGranules s1 e).any (granuleFaulted e) = true
    let ready := (nextGranules s1 e).all (granuleDone e) = true
    let goes := fun (t : State) (y : Entry) =>
      exec (.tileBoundary env) s = .next t ∧ findEntry t e.berth e.seq = some y ∧ y.bytes = e.bytes
    let waits := ∃ t, goes t e ∧ OnlyEntry e.berth e.seq s1 t
    let others := othersAfter e.berth
    let ex := charge env e
    (e0.stop = true → tile → ∃ t y, goes t y ∧ y.life = .ran ∧ y.res.abort = 1 ∧
      t.cq.issuing = (if othersIssue s e0.berth e0.seq = true then s.cq.issuing else none) ∧ t.keep = s.keep) ∧
    ((e0.stop = false ∨ ¬tile) → (e0.suspended = true ∨ issueHeld s = true) → exec (.tileBoundary env) s = .next s) ∧
    ((granuleCame s e0 (takeHits s e0) = false ∨ OnTime s e0 ∨ e0.res.late = true) → e = takeHits s e0 ∧ s1 = s) ∧
    (∀ d, granuleCame s e0 (takeHits s e0) = true → deadlineNow s e0 = some d → d < s.crs.tide → e0.res.late = false →
      e.res.late = true ∧ s1 = { s with evt := logEvent s.evt ⟨0x01, some (e0.berth, e0.seq), s.crs.tide, s.crs.tide % 2 ^ 64, 0⟩ }) ∧
    ((e0.stop = false ∨ ¬tile) → e0.suspended = false → issueHeld s = false → runsApart e.desc = false →
      (((tile ∧ writeFaulted e = true) ∨ faulted) → ∃ t, goes t { e with suspended := true, aside := true } ∧
        t.cq.issuing = none ∧ t = { s1 with cq := t.cq } ∧ t.cq.wins = s.cq.wins ∧ t.cq.rings = s.cq.rings) ∧
      (¬(tile ∧ writeFaulted e = true) → ¬faulted →
        (¬ready → (¬tile ∨ ∀ b ∈ others, couldIssue s1 b = false) → waits) ∧
        (¬ready → tile → ∀ b, others.find? (couldIssue s1) = some b → ∃ t, goes t { e with aside := true } ∧
          t.cq.issuing = none ∧ t.cq.chosen = some b ∧ t = { s1 with cq := t.cq }) ∧
        (ready → areasFull s1 e = true → waits) ∧
        (ready → areasFull s1 e = false →
          (StepClean s1 e env → (planOf s1 e).any (fun x => decide (e.pos + 1 < x.2.length)) = true → ∃ t y, goes t y ∧
            y.pos = e.pos + 1 ∧ y.life = .taken ∧ y.res.charged = e.res.charged + env.cycles ∧ t.cq.issuing = s.cq.issuing ∧
            t.crs = s.crs ∧ t.man = s.man) ∧
          (StepClean s1 e env → (planOf s1 e).any (fun x => decide (e.pos + 1 < x.2.length)) = false → e.coll = none →
            ∃ t, exec (.tileBoundary env) s = .next t ∧ Formed s1 e t) ∧
          (StepClean s1 e env → Checked e → ∃ t, exec (.tileBoundary env) s = .next t ∧
            (∀ a, OutsideOutputs e.desc a → spByte t a = spByte s a) ∧
            (∀ c g w, nextWorks (planOf s1 e) e = [(c, g, w)] → QuietEnv env → (readsJob e.desc = true ∨ OnTime s1 e) →
              Holds s1 ex (workEmits w ex s1) t)) ∧
          (∀ x, errorOf s1 e env = some x → ∃ t y, goes t y ∧ y.life = .ran ∧ y.res.abort = 2 ∧ y.res.mismatch = true) ∧
          (errorOf s1 e env = none → overCap env e = true → ∃ t y, goes t y ∧ y.life = .ran ∧ y.res.cap = true)))) ∧
    ((e0.stop = false ∨ ¬tile) → e0.suspended = false → issueHeld s = false → runsApart e.desc = true →
      let go := (planOf s1 e).filter (fun x => stepReady s1 e x && !(areaFull s1 e x.1))
      ((writeFaulted e = true ∨ faulted) → ∃ t, goes t { e with suspended := true } ∧ OnlyEntry e.berth e.seq s1 t) ∧
      (writeFaulted e = false → ¬faulted →
        (go = [] → waits) ∧
        (go ≠ [] → StepClean s1 e env → ∃ t y, goes t y ∧
          (∀ c, sget 0 y.front c = sget 0 e.front c + if c ∈ go.map (·.1) then 1 else 0) ∧ t.crs = s.crs ∧ t.man = s.man ∧
          (Checked e → (∀ a, OutsideOutputs e.desc a → spByte t a = spByte s a) ∧
            (∀ x g w, go = [x] → x.2[nextOf e x.1]? = some (g, w) → QuietEnv env → (readsJob e.desc = true ∨ OnTime s1 e) →
              Holds s1 ex (workEmits w ex s1) t)))))) ∧
  (∀ (s : State) (env : RunEnv), (mainStopped s = true ∨ islandFailing s = true ∨ issuingEntry s = none) →
    exec (.tileBoundary env) s = .next s)

/-- TILE_SIGNATURE_COMPARE (R358, R359): equal signatures let the berth's oldest command that waits go on by one tile, whose
blocks no longer wait for it (that the tiles are compared in the order of issue, and what a signature covers, is the model's choice, log entry
153); different ones are a detected error by the pair comparison: the command ends with ABORT,
DETAIL 2, MISMATCH is raised with source 4, the pair error count rises and the command's segment is INVALID. The finisher
(R202, R213): the first row whose inputs are final is accepted, the oldest accepted row is delivered: a fused row has the statistics that the
finisher forms of its record, and an ATTN row is stored as its O, with its log-sum-exp where STATS asks for it; nothing outside the outputs
changes. The last row of an ATTN command ends it, and delivered statistics of a block of the issuing fused row command reach its clusters. With
no such row nothing changes. -/
def Obligations.SignaturesAndRowsPass : Prop :=
  (∀ (s : State) (b : BitVec 5) (d : Nat) (e : Entry) (x : TileSig) (rest : List TileSig), mainStopped s = false →
      (berthEntries s b.toNat).find? (fun x => !x.sigs.isEmpty) = some e → findEntry s b.toNat e.seq = some e →
      e.sigs = x :: rest →
      let passed := { e with sigs := rest, writes := e.writes.map (fun w => { w with held := w.held.filter (fun i => i != x.id) }) }
      (d % digP = x.sum → ∃ t y, exec (.tileSignatureCompare b d) s = .next t ∧ findEntry t b.toNat e.seq = some y ∧
        y.bytes = e.bytes ∧ (e.own = [] → y = passed ∧ OnlyEntry b.toNat e.seq s t)) ∧
      (d % digP ≠ x.sum → ∃ t y, exec (.tileSignatureCompare b d) s = .next t ∧ findEntry t b.toNat e.seq = some y ∧
        y.life = .ran ∧ y.res = { e.res with abort := 2, mismatch := true } ∧ y.sigs = [] ∧
        t.ken.pairErr = min 0xFFFF (s.ken.pairErr + 1) ∧ t.ken.csumErr = s.ken.csumErr ∧
        (ofNext s e = false → (sget .zero t.dgst.segs e.desc.landing).invalid = true) ∧
        t.evt.pending = s.evt.pending ||| BitVec.ofNat 15 (2 ^ 2) ∧
        (∃ d1, t.evt = logEvent s.evt ⟨0x02, some (b.toNat, e.seq), s.crs.tide, 4, d1⟩) ∧
        SameMemory s t ∧ t.arr = s.arr ∧ t.crs = s.crs ∧ t.man = s.man ∧ t.keep = s.keep)) ∧
  (∀ (s : State) (b : BitVec 5) (d : Nat), (berthEntries s b.toNat).find? (fun x => !x.sigs.isEmpty) = none →
      exec (.tileSignatureCompare b d) s = .next s) ∧
  ((∀ (s : State) (e : Entry) (row : Nat), mainStopped s = false → finEntry s .ready = some (e, row) →
      findEntry s e.berth e.seq = some e →
      ∃ t y, exec .finisherRowAccept s = .next t ∧ OnlyEntry e.berth e.seq s t ∧ findEntry t e.berth e.seq = some y ∧
        (row, .inFin) ∈ y.fin ∧ (∀ r g, r ≠ row → ((r, g) ∈ y.fin ↔ (r, g) ∈ e.fin)) ∧ y.res = e.res ∧ y.life = e.life) ∧
    (∀ (s : State) (env : RunEnv) (e : Entry) (row : Nat), mainStopped s = false → finEntry s .inFin = some (e, row) →
      findEntry s e.berth e.seq = some e →
      (StepClean s e env → ∃ t y, exec (.finisherRowDeliver env) s = .next t ∧ findEntry t e.berth e.seq = some y ∧
        y.bytes = e.bytes ∧ t.man = s.man ∧ t.crs = s.crs ∧ (e.coll = none → (row, .done) ∈ y.fin ∧
          (∀ r g, r ≠ row → (r, g) ∈ e.fin → (r, g) ∈ y.fin)) ∧
        (e.desc.kind = .attn → e.coll = none → allPast (planOf s e) e = true → (∀ f ∈ e.fin, f.1 ≠ row → f.2 = .done) →
          e.fin.length = e.desc.shape.n1 * e.desc.shape.n2 * e.desc.shape.n3 →
          (∀ rb, rb < e.desc.shape.rowBlocks → ∃ f ∈ e.fin, f.1 / 16 = rb) →
          y.life = .ran ∧ t.cq.issuing ≠ some e.berth) ∧
        (Checked e → (∀ a, OutsideOutputs e.desc a → spByte t a = spByte s a) ∧
          (e.desc.kind = .attn → QuietEnv env → row ∉ e.emitted → (∀ f ∈ e.fin, f.2 = .done → f.1 ∈ e.emitted) →
            Holds s e (attnEmits (row / 16) (rowCoord e.desc.shape row) e s).1 t) ∧
          (e.desc.kind ≠ .attn → QuietEnv env → voided e (row / 16) = false → allPast (planOf s e) e = false →
            rowStatOf y (row / 16) (rowCoord e.desc.shape row) =
              some (finishRow s e (rowRecNow e (row / 16) (rowCoord e.desc.shape row)))))) ∧
      (∀ x, errorOf s e env = some x → ∃ t y, exec (.finisherRowDeliver env) s = .next t ∧ findEntry t e.berth e.seq = some y ∧
        y.life = .ran ∧ y.res = { e.res with abort := 2, mismatch := true })) ∧
    (∀ (s : State) (env : RunEnv), (finEntry s .ready = none → exec .finisherRowAccept s = .next s) ∧
      (finEntry s .inFin = none → exec (.finisherRowDeliver env) s = .next s)) ∧
    (∀ (s : State) (e : Entry) (rb : Nat), mainStopped s = false → issuingEntry s = some e → findEntry s e.berth e.seq = some e →
      (e.desc.kind ≠ .attn → blockDone e rb = true → rb ∉ e.stats → ∃ t, exec (.statisticsReady rb) s = .next t ∧
        OnlyEntry e.berth e.seq s t ∧ findEntry t e.berth e.seq = some { e with stats := e.stats ++ [rb] }) ∧
      ((e.desc.kind = .attn ∨ blockDone e rb = false ∨ rb ∈ e.stats) → exec (.statisticsReady rb) s = .next s)))

/-! ## The Retriever (R289 to R304) -/

/-- RETRIEVER_REQUEST. With nothing passed over, the first request in the order of R289 whose class has a free tag leaves
with the next tag, or, a read whose channel holds 32 tags, is passed over (R291, R292). A request passed over whose channel has
room goes before all others. No request takes a class over its tag limit or a channel over 32 READ tags; the remote stream takes
no more than 512 REMOTE tags, and hands them out in the order of the messages. While the Retriever does not run, or no request
has a tag, nothing changes. -/
def Obligations.RequestsKeepTagsAndCap : Prop :=
  let sent := fun (s t : State) (c : Cand) (ch : Nat) =>
    ∃ q, t.rtv.out = s.rtv.out ++ [q] ∧ q.tag = s.rtv.nextTag ∧ q.write = c.write ∧ q.addr = c.addr ∧ q.len = c.len ∧
      q.owner = c.owner ∧ q.slot = c.slot ∧ q.channel = ch ∧ t.rtv.nextTag = s.rtv.nextTag + 1 ∧ SameMemory s t ∧
      t.arr = s.arr ∧ t.crs = s.crs ∧ t.man = s.man ∧ t.keep = s.keep ∧ t.evt = s.evt
  let open' := fun (s : State) => (candidates s).filter (fun c => tagFree s c.write)
  let resumed := fun (s : State) => (open' s).findSome? (fun c =>
    (passedChannel s c).bind (fun x => if capped s x then none else some (c, x)))
  (∀ (s : State) (ch : Nat) (c : Cand), rtvRuns s = true → s.rtv.passed = [] → (open' s).head? = some c →
    ((c.write = true ∨ channelOut s ch < 32) → ∃ t, exec (.retrieverRequest (.memory ch)) s = .next t ∧ sent s t c ch) ∧
    (c.write = false → 32 ≤ channelOut s ch → exec (.retrieverRequest (.memory ch)) s =
      .next { s with rtv := { s.rtv with passed := [(c.addr, ch)] } })) ∧
  (∀ (s : State) (ch : Nat) (x : Cand × Nat), rtvRuns s = true → resumed s = some x →
    ∃ t, exec (.retrieverRequest (.memory ch)) s = .next t ∧ sent s t x.1 x.2 ∧ channelOut s x.2 < 32 ∧ x.1.write = false) ∧
  (∀ (s t : State) (ch : Nat), exec (.retrieverRequest (.memory ch)) s = .next t →
    (tagsOut s false ≤ s.rtv.readTags → tagsOut t false ≤ s.rtv.readTags) ∧
    (tagsOut s true ≤ s.rtv.writeTags → tagsOut t true ≤ s.rtv.writeTags) ∧
    (∀ h, channelOut s h ≤ 32 → channelOut t h ≤ 32)) ∧
  (∀ (s : State) (ch : Nat), rtvRuns s = true → open' s = [] → exec (.retrieverRequest (.memory ch)) s = .next s) ∧
  (∀ s : State, rtvRuns s = true → ∃ t, exec (.retrieverRequest .remote) s = .next t ∧
    t = { s with tow := { s.tow with tx := t.tow.tx } } ∧ (remoteOut s ≤ 512 → remoteOut t ≤ 512) ∧
    t.tow.tx.map (fun x => (x.id, x.left + x.out)) = s.tow.tx.map (fun x => (x.id, x.left + x.out)) ∧
    remoteOut s ≤ remoteOut t ∧
    (∀ x rest, s.tow.tx = x :: rest → 0 < x.left → remoteOut s < 512 → remoteOut s < remoteOut t)) ∧
  (∀ (s : State) (x : ReqStream), rtvRuns s = false → exec (.retrieverRequest x) s = .next s)

/-- READ_RESPONSE returns the tag. Each sector that the fetch front of a fetched command still needs enters its operand buffers
with its data and its poison, whichever command asked for it, and no other sector of the command changes (R290, R294, R300); a
response for a region's cache enters that cache, and from it the commands (R296). Where its block has been written since it was
requested, only the tag returns, and the block is requested again (the model's choice, log entry 155). One that comes while a reset
drains is discarded (R413). WRITE_ACK returns the tag of a write (R297), and no region cache keeps what it held of the block, nor takes
it from a request that is out (log entry 155). A tag that is not outstanding, and a stopped main side, change nothing. -/
def Obligations.ResponsesReturnTags : Prop :=
  let returned := fun (s : State) (tag : Nat) => s.rtv.out.filter (fun r => r.tag != tag)
  let alone := fun (s : State) (q : Req) (e : Entry) => e ∈ reached s q ∧
    (∃ x, findEntry s e.berth e.seq = some x ∧ e = { x with vlen := e.vlen }) ∧
    ∀ x ∈ reached s q, (x.berth, x.seq) = (e.berth, e.seq) → x = e
  (∀ (s : State) (tag : Nat) (xs : List Sector) (q : Req), mainStopped s = false → reqOf s tag = some q → q.write = false →
    s.pwr.draining.isSome = true → exec (.readResponse tag xs) s = .next { s with rtv := { s.rtv with out := returned s tag } }) ∧
  (∀ (s : State) (tag : Nat) (xs : List Sector) (q : Req), mainStopped s = false → reqOf s tag = some q → q.write = false →
    s.pwr.draining = none → q.addr + q.len ≤ 2 ^ 64 →
    ∃ t, exec (.readResponse tag xs) s = .next t ∧ t.rtv.out = returned s tag ∧ SameMemory s t ∧ t.arr = s.arr ∧
      t.crs = s.crs ∧ t.man = s.man ∧ t.keep = s.keep ∧
      (∀ b n, q.owner = .entry b n → t.rtv = { s.rtv with out := returned s tag } ∧ ∀ e, alone s q e →
        ∃ y, findEntry t e.berth e.seq = some y ∧ y.life = e.life ∧ y.pos = e.pos ∧ y.writes = e.writes ∧ y.bytes = e.bytes ∧
          (∀ i, i < q.len / 64 → i < xs.length → q.addr / 64 + i ∈ (frontNeeds s e).map (·.1) →
            q.addr / 64 + i ∈ y.held ∧ sget default y.got (q.addr / 64 + i) = xs.getD i default) ∧
          (∀ k, (∀ i, i < q.len / 64 → i < xs.length → k = q.addr / 64 + i → k ∉ (frontNeeds s e).map (·.1)) →
            (k ∈ y.held ↔ k ∈ e.held) ∧ sget default y.got k = sget default e.got k)) ∧
      (∀ x o, q.owner = .fill x o → q.pass ≠ 0 → t = { s with rtv := { s.rtv with out := returned s tag } }) ∧
      (∀ x o, q.owner = .fill x o → q.pass = 0 → q.addr / 64 % 8 + q.len / 64 ≤ 8 →
        (∀ i, i < q.len / 64 → i < xs.length → cachedSector t x (q.addr / 64 + i) = some (xs.getD i default)) ∧
        (∀ g k, g ≠ x → cachedSector t g k = cachedSector s g k) ∧
        (∀ e, alone s q e → ∃ y, findEntry t e.berth e.seq = some y ∧ y.life = e.life ∧ y.pos = e.pos ∧ y.writes = e.writes ∧
          (∀ i, i < q.len / 64 → i < xs.length → cacheKey x (q.addr / 64 + i) ∈ (frontNeeds s e).map (·.1) →
            cacheKey x (q.addr / 64 + i) ∈ y.held))) ∧
      ((∀ b n, q.owner ≠ .entry b n) → (∀ x o, q.owner ≠ .fill x o) →
        t = { s with rtv := { s.rtv with out := returned s tag } })) ∧
  (∀ (s : State) (tag : Nat) (xs : List Sector) (q : Req), mainStopped s = false → reqOf s tag = some q →
    (q.write = true → exec (.readResponse tag xs) s = .next s ∧ exec (.writeAck tag) s = .next { s with rtv := { s.rtv with
      cache := s.rtv.cache.filter (fun x => x.block != q.addr / 512)
      out := (returned s tag).map (fun r =>
        if r.region.isSome && r.addr / 512 == q.addr / 512 then { r with pass := 1 } else r) } }) ∧
    (q.write = false → exec (.writeAck tag) s = .next s)) ∧
  (∀ (s : State) (tag : Nat) (xs : List Sector), (mainStopped s = true ∨ reqOf s tag = none) →
    exec (.readResponse tag xs) s = .next s ∧ exec (.writeAck tag) s = .next s ∧ exec (.translationFault tag) s = .next s)

/-- TRANSLATION_FAULT, RETRY and FAIL (R170, R302 to R304, R353, R392). A faulted request returns its tag. One of a command is noted with it,
and a write's block stays with it; the first faulted command is recorded, and nothing is written; a command past its last boundary
is suspended at once. One of a table LOAD fails the LOAD for the clusters of its region; a digest post is skipped; the certificate that is
being written fails, and the fault of a cancelled one changes no other. RETRY takes the recorded command's faults away and lets it go on;
FAIL ends it with FAULT_XLATE and the recorded slot in DETAIL, its segment is INVALID (that of the next crossing, where the command belongs
to it: the model's choice, log entry 85), and the issue of its berth is free, unless a younger command of the berth holds it. Both clear the
record, and the next fault held behind it is recorded. Without a record both are ignored. -/
def Obligations.FaultsAreRecordedAndResolved : Prop :=
  (∀ (s : State) (tag : Nat) (q : Req), mainStopped s = false → reqOf s tag = some q →
    let s1 := { s with rtv := { s.rtv with out := s.rtv.out.filter (fun r => r.tag != tag) } }
    (∀ b n e, (q.owner = .entry b n ∨ ∃ x, q.owner = .fill x (some (b, n))) → findEntry s b n = some e →
      ∃ t, exec (.translationFault tag) s = .next t ∧
        findEntry t b n = some { e with
          faults := e.faults ++ [⟨q.write, q.addr, q.len, 0, q.slot, q.prefetch⟩]
          suspended := e.suspended || decide (e.life = .ran ∨ e.life = .stats)
          writes := match q.block with | some w => w :: e.writes | none => e.writes } ∧
        (s.rtv.fault = none → t.rtv.fault = some ⟨b, n, q.slot, q.write, !q.write && !e.started, q.addr⟩) ∧
        (∀ f, s.rtv.fault = some f → t.rtv.fault = some f) ∧
        t = { s1 with rtv := { s1.rtv with fault := t.rtv.fault, faultQueue := t.rtv.faultQueue }, cq := t.cq } ∧
        OnlyEntry b n { s1 with rtv := t.rtv } t) ∧
    (∀ b n, (q.owner = .entry b n ∨ ∃ x, q.owner = .fill x (some (b, n))) → findEntry s b n = none →
      exec (.translationFault tag) s = .next s1) ∧
    (∀ x, q.owner = .fill x none → ∃ t, exec (.translationFault tag) s = .next t ∧
      t = { s1 with tbl := { s1.tbl with load := t.tbl.load } } ∧
      ∀ l, s.tbl.load = some l → ∃ l', t.tbl.load = some l' ∧ x ∈ l'.failed ∧ l' = { l with failed := l'.failed } ∧
        ∀ y, y ≠ x → (y ∈ l'.failed ↔ y ∈ l.failed)) ∧
    (q.owner = .post → exec (.translationFault tag) s = .next { s1 with dgst := { s1.dgst with postSkipped := true } }) ∧
    (∀ a b, q.owner = .trace a b → exec (.translationFault tag) s = .next s1) ∧
    (∀ n, q.owner = .cert n → (s.toll.cert.state ≠ 3 ∨ n ≠ s.toll.cert.serial) → exec (.translationFault tag) s = .next s1) ∧
    (∀ n, q.owner = .cert n → s.toll.cert.state = 3 → n = s.toll.cert.serial → exec (.translationFault tag) s =
      .next { s1 with toll := { s1.toll with cert := { s.toll.cert with state := 5, cause := 3 } } })) ∧
  (∀ (s : State) (p : Port), Served p 3 s → s.rtv.fault = none →
    exec (.retry p) s = .next (dropHeld p s) ∧ exec (.fail p) s = .next (dropHeld p s)) ∧
  (∀ (s : State) (p : Port) (f : FaultRec) (e : Entry), Served p 3 s → s.rtv.fault = some f →
    findEntry s f.berth f.seq = some e →
    let next := (s.rtv.faultQueue.filter (fun x => !(x.berth == f.berth && x.seq == f.seq))).head?
    (∃ t, exec (.retry p) s = .next t ∧ findEntry t f.berth f.seq = some { e with faults := [], suspended := false } ∧
      t.rtv.fault = next ∧ t.rtv.out = s.rtv.out ∧ SameMemory s t ∧ t.keep = s.keep ∧ t.man = s.man ∧ t.crs = s.crs ∧
      t.evt = s.evt) ∧
    (∃ t y, exec (.fail p) s = .next t ∧ findEntry t f.berth f.seq = some y ∧ y.life = .ran ∧
      y.res = { e.res with fault := some f.slot } ∧ y.crossing = (if e.started then e.crossing else s.crs.crossing) ∧
      t.rtv.fault = next ∧
      t.cq.issuing = (if othersIssue s f.berth f.seq = false ∧ s.cq.issuing = some f.berth then none else s.cq.issuing) ∧
      (ofNext s e = false → (sget .zero t.dgst.segs e.desc.landing).invalid = true ∧ t.dgst.nextInvalid = s.dgst.nextInvalid) ∧
      (ofNext s e = true → e.desc.landing ∈ t.dgst.nextInvalid ∧ t.dgst.segs = s.dgst.segs) ∧ SameMemory s t ∧ t.keep = s.keep ∧ t.man = s.man ∧
      t.crs = s.crs ∧ t.evt = s.evt)) ∧
  (∀ (s : State) (p : Port) (f : FaultRec), Served p 3 s → s.rtv.fault = some f → findEntry s f.berth f.seq = none →
    let next := (s.rtv.faultQueue.filter (fun x => !(x.berth == f.berth && x.seq == f.seq))).head?
    (∃ t, exec (.retry p) s = .next t ∧ t.rtv.fault = next ∧ t.cq = s.cq) ∧
    (∃ t, exec (.fail p) s = .next t ∧ t.rtv.fault = next ∧ t.cq = s.cq))

/-! ## Landing-latched registers and permissions (R49, R71, R305, R427, R429) -/

/-- A legal write to RTV_LOOKAHEAD, RTV_LEASH, TOW_BERTH_GROUP, TOW_MIRROR_RANGE or KEN_REQ becomes pending, the last one
winning, and no setting in force changes; an illegal RTV_ write sets BAD_WRITE alone, and an illegal TOW_ write is ignored.
-/
def Obligations.LatchedWritesWait : Prop :=
  ∀ (s : State) (p : Port) (v : Word64),
    let bad : Host.Outcome State Fault Refusal := .next { dropHeld p s with rtv := { s.rtv with badWrite := true } }
    let n := v.toNat
    (Served p 3 s →
      (1 ≤ n % 16 → n % 16 ≤ 8 → ∃ t, exec (.rtvLookaheadWrite p v) s = .next t ∧ Latched p 0 (n % 16) s t) ∧
      ((n % 16 = 0 ∨ 8 < n % 16) → exec (.rtvLookaheadWrite p v) s = bad) ∧
      (let r := bitsOf n 15 0
       let w := bitsOf n 31 16
       (2048 ≤ r → r ≤ 2304 → 512 ≤ w → w ≤ 768 → r + w = 2816 →
         ∃ t, exec (.rtvLeashWrite p v) s = .next t ∧ Latched p 1 (r + w * 2 ^ 16) s t) ∧
       ((r < 2048 ∨ 2304 < r ∨ w < 512 ∨ 768 < w ∨ r + w ≠ 2816) → exec (.rtvLeashWrite p v) s = bad))) ∧
    (Served p 4 s →
      (∀ b : BitVec 5,
        (n % 32 ≤ 16 → ∃ t, exec (.towBerthGroupWrite p b v) s = .next t ∧ Latched p (32 + b.toNat) (n % 32) s t) ∧
        (16 < n % 32 → exec (.towBerthGroupWrite p b v) s = .next (dropHeld p s))) ∧
      (bitsOf n 39 32 ≤ 128 → ∃ t, exec (.towMirrorRangeWrite p v) s = .next t ∧
        Latched p 2 (bitsOf n 26 12 + bitsOf n 39 32 * 2 ^ 15) s t) ∧
      (128 < bitsOf n 39 32 → exec (.towMirrorRangeWrite p v) s = .next (dropHeld p s))) ∧
    (Served p 2 s → ∃ t, exec (.kenReqWrite p v) s = .next t ∧ Latched p 3 (n % 128) s t)

/-- A write that needs a permission bit of Table 19-5 which its port does not hold is ignored: nothing changes but
MAN_STATUS.PERM_DENIED, and a low half that the port held is dropped. A write of bytes that leaves its 64-byte block or its window, or
names a reserved offset, is ignored with no flag (R421). While the main side is down or its clock is stopped nothing there answers (R406,
R419). -/
def Obligations.RefusedWritesAreIgnored : Prop :=
  ∀ (s : State) (c : Instr) (p : Port) (b : Nat), neededBit c = some (p, b) →
    (mainStopped s = false → wellPlaced c = true → permitted p b s = false →
      exec c s = .next { dropHeld p s with man := { s.man with permDenied := true } }) ∧
    (mainStopped s = false → wellPlaced c = false → exec c s = .next (dropHeld p s)) ∧
    (mainStopped s = true → exec c s = .next s)

/-! ## Landings and crossings (R39 to R48, R265, R268, R270, R327) -/

/-- LANDING_REACHED (R39, R45): the first decided landing is reached once no command accepted before its decision point
holds it back: CRS_NOW and the ledger's landing record take it, its markers end (R265), the digests of the segment that ended are closed
(R351; that the registers show that segment at a crossing's end too is the model's choice, log entry 41), and the landing waits for its
commitment. A full landing without an application stands at its gate, and a landing that is not full is over at once; an application begins
its phase 1. While a command holds it back nothing changes. While a static copy that it needs has not ended, the copies begin and the landing
waits for them (R367), with the slots that a LOAD loses to them (when a copy begins, and that it ends such a LOAD: the model's choice, log
entry 108). -/
def Obligations.LandingIsReached : Prop :=
  (∀ (s : State) (d : Decided) (rest : List Decided), mainStopped s = false → s.crs.decided = d :: rest → s.crs.phase = .inSegment → s.crs.run = none →
    (s.cq.entries.any (holdsBack s d) = true → exec .landingReached s = .next s) ∧
    (s.cq.entries.any (holdsBack s d) = false → copiesReady s d = false → ∃ t, exec .landingReached s = .next t ∧
      t = { s with ken := { s.ken with copying := t.ken.copying }, tbl := { s.tbl with
        lockedSlots := t.tbl.lockedSlots, load := t.tbl.load, busy := t.tbl.busy, result := t.tbl.result, failCluster := t.tbl.failCluster } } ∧
      (s.tbl.load = none → t.tbl = s.tbl) ∧ (∀ l, t.tbl.load = some l → s.tbl.load = some l ∧ t.tbl.busy = s.tbl.busy) ∧
      ∀ r ∈ plannedRotations s d.landing (llValue d.ll llKenReq),
        4 * r.region + r.position ∈ t.ken.copying ∨ 4 * r.region + r.position ∈ t.ken.copied) ∧
    (s.cq.entries.any (holdsBack s d) = false → copiesReady s d = true → ∃ t, exec .landingReached s = .next t ∧
      t.crs.crossing = s.crs.crossing ∧ t.crs.landing = d.landing ∧ t.crs.decided = rest ∧
      t.keep.landing = (s.crs.crossing, d.landing) ∧ t.keep.accepted = s.keep.accepted ∧
      t.keep.commitSeq = s.keep.commitSeq ∧ t.man.active = s.man.active ∧ t.crs.tide = s.crs.tide ∧ SameMemory s t ∧
      (∀ e ∈ s.cq.entries, e.desc.kind = .marker → e.life = .taken → e.desc.landing = d.landing →
        ∃ y ∈ t.cq.entries, y.berth = e.berth ∧ y.seq = e.seq ∧ y.life = .ran ∧ y.crossing = s.crs.crossing) ∧
      (d.landing ≠ 0 → sget .zero t.dgst.segs s.crs.landing = .zero ∧ t.dgst.closedCrossing = s.crs.crossing ∧
        t.dgst.closed = s.dgst.closed ++ [(s.crs.landing, sget .zero s.dgst.segs s.crs.landing)] ∧
        t.dgst.closedLanding = s.crs.landing ∧ t.dgst.closedInvalid = (sget .zero s.dgst.segs s.crs.landing).invalid) ∧
      (d.applies = true → t.crs.phase = .fullLanding ∧ t.crs.uncommitted = s.crs.uncommitted ∧
        (t.crs.run.map (fun r => (r.landing, r.stage)) = some (d.landing, .phase1))) ∧
      (d.applies = false →
        (∃ u, t.crs.uncommitted = s.crs.uncommitted ++ [u] ∧ u.crossing = s.crs.crossing ∧ u.landing = d.landing ∧
          u.prot = protection s ∧ u.colls = s.tow.coll ∧ u.deadlineBase = t.crs.deadlineBase ∧
          u.closes = if d.landing = 0 then none else some s.crs.landing) ∧
        (d.full = true → t.crs.phase = .fullLanding ∧
          t.crs.run.map (fun r => (r.landing, r.stage)) = some (d.landing, .closing)) ∧
        (d.full = false → t.crs.phase = .inSegment ∧ t.crs.run = none)))) ∧
  (∀ s : State, (mainStopped s = true ∨ s.crs.decided = [] ∨ s.crs.phase ≠ .inSegment ∨ s.crs.run ≠ none) →
    exec .landingReached s = .next s)

/-- LANDING_GATE_OPEN (R40, R46) and CROSSING_OPEN (R36, R40, R41, R327, R367, R443). The gate opens once no in-line test and no copy
that the landing waits for runs: the segment goes on, or after a crossing end the engine waits for its commitments and the
beacon; the gate of an APPLY_NOW leaves the phase. The next crossing opens when every landing is committed, the beacon condition holds and
some command has been taken, of whichever landing (the model's choice, log entry 88). T_open is the ANN_TIDE of the kept announcement of its
landing 0; where none is kept it is CRS_TIDE (the model's choice, log entry 89). Collective numbers restart, the segments whose commands ended
before it opened are INVALID (the model's choice, log entry 85), and its landing 0 is decided, and reached and recorded at once where no
rotation is planned at it. -/
def Obligations.GatesAndCrossingsOpen : Prop :=
  (∀ (s : State) (r : LandingRun), mainStopped s = false → s.crs.run = some r → r.stage = .closing → r.tests = [] →
    (∀ c ∈ s.sp.copies, c.row = none ∧ r.landing ≠ 0xFFFF) →
    exec .landingGateOpen s = .next { s with
      man := { s.man with applyNow := false }
      crs := { s.crs with run := none, phase := if s.man.applyNow then s.crs.phase else
        if r.landing ≠ 0xFFFF then .inSegment else if s.crs.uncommitted = [] then .waitBeacon else .afterEnd } }) ∧
  (∀ (s : State) (r : LandingRun), s.crs.run = some r →
    (r.stage ≠ .closing ∨ r.tests ≠ [] ∨ (∃ c ∈ s.sp.copies, c.row ≠ none ∨ r.landing = 0xFFFF)) →
    exec .landingGateOpen s = .next s) ∧
  (∀ s : State, (mainStopped s = true ∨ s.crs.run = none) → exec .landingGateOpen s = .next s) ∧
  (∀ (s : State) (c : Nat), mainStopped s = false → s.crs.phase = .waitBeacon → s.crs.run = none → s.crs.uncommitted = [] →
    (∃ e ∈ s.cq.entries, e.life = .taken) →
    ((s.crs.firstOpen = true ∧ s.crs.ann0New = true ∧ ∃ a, s.crs.ann0 = some (c, a)) ∨
      (s.crs.firstOpen = false ∧ s.crs.annSeen = true ∧ c = s.crs.crossing + 1 ∧ c ≤ s.crs.ann.1)) →
    ∃ t, exec .crossingOpen s = .next t ∧ t.crs.crossing = c ∧ t.crs.landing = 0 ∧ t.crs.firstOpen = false ∧
      t.crs.tOpen = (match s.crs.ann0 with | some (a, at') => if a = c then at' else s.crs.tide | none => s.crs.tide) ∧
      (∀ k ∈ s.dgst.nextInvalid, (sget .zero t.dgst.segs k).invalid = true) ∧ t.dgst.nextInvalid = [] ∧ t.tow.coll = [] ∧ (t.crs.phase = .inSegment ∨ t.crs.phase = .fullLanding) ∧
      t.man.active = s.man.active ∧ t.keep.accepted = s.keep.accepted ∧ (s.tow.heldRestore = [] → SameMemory s t) ∧
      (t.keep.landing = (c, 0) ∨ (t.keep.landing = s.keep.landing ∧ t.crs.phase = .inSegment ∧
        ∃ d, t.crs.decided.head? = some d ∧ d.landing = 0)) ∧
      ((∀ m, s.man.active = some m → ∀ x ∈ m.times, x.matches c 0 = true → x.action ≠ 3 ∧ x.action ≠ 4) →
        llValue s.crs.pendingLL llKenReq = none → t.keep.landing = (c, 0))) ∧
  (∀ s : State, (mainStopped s = true ∨ s.crs.phase ≠ .waitBeacon ∨ s.crs.run ≠ none ∨ s.crs.uncommitted ≠ [] ∨ heldEntries s = [] ∨
      nextCrossing s = none) → exec .crossingOpen s = .next s)

/-- LANDING_COMMITTED (R48, R268, R270, Table 2-3): landings commit in order, so that only the first uncommitted one may (the model's
choice, log entry 87). Once its comparison has matched it commits: the
ledger's committed pair and crossing copy take it with its deadline base and collective numbers, LDG_COMMIT_SEQ of each
berth covers every completed command that came before the landing and never falls, and no other count changes. Under the
unprotected level the landings commit together with their crossing's end. A landing that may not commit changes nothing. -/
def Obligations.LandingsCommitInOrder : Prop :=
  (∀ (s : State) (u : Uncommitted) (rest : List Uncommitted), mainStopped s = false → s.crs.uncommitted = u :: rest →
    (mayCommit s u = false → exec .landingCommitted s = .next s) ∧
    (mayCommit s u = true → u.prot ≠ 0 → ∃ t, exec .landingCommitted s = .next t ∧
      t.keep.committed = (u.crossing, u.landing) ∧ t.keep.crossCopy = some (u.crossing, u.landing) ∧
      t.keep.crossBase = u.deadlineBase ∧ t.keep.colls = u.colls ∧ t.crs.uncommitted = rest ∧
      (∀ b, ldgCommitSeq s b ≤ ldgCommitSeq t b) ∧
      (∀ b q c l, (b, q, c, l) ∈ s.cq.hist → (c < u.crossing ∨ (c = u.crossing ∧ l < u.landing)) → q ≤ ldgCommitSeq t b) ∧
      (∀ b, ldgCommitSeq t b = ldgCommitSeq s b ∨ ∃ c l, (b, ldgCommitSeq t b, c, l) ∈ s.cq.hist ∧
        (c < u.crossing ∨ (c = u.crossing ∧ l < u.landing))) ∧
      t.keep.accepted = s.keep.accepted ∧ t.keep.completed = s.keep.completed ∧ t.crs.landing = s.crs.landing ∧
      t.man = s.man ∧ SameMemory s t ∧
      (s.crs.phase = .afterEnd → rest = [] → t.crs.phase = .waitBeacon) ∧
      (s.crs.phase ≠ .afterEnd → t.crs.phase = s.crs.phase)) ∧
    (mayCommit s u = true → u.prot = 0 → ∃ t, exec .landingCommitted s = .next t ∧
      (∃ done, s.crs.uncommitted = done ++ t.crs.uncommitted ∧ (∀ v ∈ done, v.prot = 0) ∧
        (∀ v, done.getLast? = some v → t.keep.committed = (v.crossing, v.landing) ∧ t.keep.crossBase = v.deadlineBase)) ∧
      (∀ v ∈ t.crs.uncommitted.head?, v.prot ≠ 0) ∧ t.keep.accepted = s.keep.accepted ∧
      t.keep.completed = s.keep.completed ∧ t.man = s.man ∧ SameMemory s t)) ∧
  (∀ s : State, (mainStopped s = true ∨ s.crs.uncommitted = []) → exec .landingCommitted s = .next s)

/-! ## Kennel and repair (R313 to R318, R337, R367 to R371) -/

/-- The kennel's rows: the end of a static copy, which comes while the main side is clocked; an in-line test that passes gives the cluster
the crossing in progress, one that fails raises SHARD_MIGRATE and TEST_FAIL and leaves it in service; an out-of-line test makes the tested
cluster READY, or RETIRED for good with TEST_FAIL and SPARE_EXHAUSTED. -/
def Obligations.ClustersAreTested : Prop :=
  (∀ (s : State) (x : Nat), mainStopped s = true → exec (.kennelStaticCopyEnd x) s = .next s) ∧
  (∀ (s : State) (x : Nat), mainStopped s = false → ∃ t, exec (.kennelStaticCopyEnd x) s = .next t ∧
    (∀ c, c ∈ t.ken.copying ↔ c ∈ s.ken.copying ∧ c / 4 ≠ x) ∧
    (∀ c, c ∈ t.ken.copied ↔ c ∈ s.ken.copied ∨ (c ∈ s.ken.copying ∧ c / 4 = x)) ∧
    t = { s with ken := { s.ken with copying := t.ken.copying, copied := t.ken.copied } }) ∧
  (∀ (s : State) (c : Nat) (r : LandingRun) (k : ClusterRec), s.crs.run = some r → r.stage = .closing → c ∈ r.tests →
    s.ken.clusters[c]? = some k → mainStopped s = false →
    (∃ t, exec (.inlineTestEnd c true) s = .next t ∧ t.ken.clusters[c]? = some ⟨k.st, s.crs.crossing, true⟩ ∧
      t.crs.run = some { r with tests := r.tests.filter (· != c) } ∧ t.ken.inlineRan = true ∧ t.evt = s.evt ∧
      t.ken.map = s.ken.map ∧ t.keep = s.keep ∧ t.sp = s.sp) ∧
    (∃ t, exec (.inlineTestEnd c false) s = .next t ∧ t.ken.clusters[c]? = some ⟨k.st, k.lastPass, true⟩ ∧
      t.crs.run = some { r with tests := r.tests.filter (· != c) } ∧
      t.evt.pending = s.evt.pending ||| BitVec.ofNat 15 (2 ^ 3 + 2 ^ 5) ∧ t.ken.map = s.ken.map ∧ t.keep = s.keep ∧
      t.sp = s.sp)) ∧
  (∀ (s : State) (c : Nat) (k : ClusterRec), s.ken.clusters[c]? = some k → k.st = .testing → mainStopped s = false →
    (∃ t, exec (.outOfLineTestEnd c true) s = .next t ∧ t.ken.clusters[c]? = some ⟨.ready, s.crs.crossing, false⟩ ∧
      t = { s with ken := { s.ken with clusters := t.ken.clusters } }) ∧
    (∃ t, exec (.outOfLineTestEnd c false) s = .next t ∧ t.ken.clusters[c]? = some ⟨.retired, k.lastPass, false⟩ ∧
      t.keep = { s.keep with repair := { s.keep.repair with retired := s.keep.repair.retired ++ [c] } } ∧
      t.evt.pending = s.evt.pending ||| BitVec.ofNat 15 (2 ^ 5 + 2 ^ 6) ∧ t.ken.map = s.ken.map ∧ t.sp = s.sp)) ∧
  (∀ (s : State) (c : Nat) (pass : Bool), (mainStopped s = true ∨ (clusterOf s c).st ≠ .testing) →
    exec (.outOfLineTestEnd c pass) s = .next s) ∧
  (∀ (s : State) (c : Nat) (pass : Bool), (mainStopped s = true ∨ s.crs.run = none ∨
    ∃ r, s.crs.run = some r ∧ (r.stage ≠ .closing ∨ c ∉ r.tests)) → exec (.inlineTestEnd c pass) s = .next s)

/-- ROW_COPY_END and BANK_COPY_END (R315, R316, R318): the spare serves from then on, which the repair table holds and
REPAIR_DONE reports; a spare bank that it replaces is in service no longer; a line that the copy read with an uncorrectable error is marked,
and no byte of the scratchpad changes. The bank's 16th spare row, and the region's second spare bank, raise SPARE_EXHAUSTED too. The end of a
copy that does not run changes nothing. MULTICAST_DROP changes timing only (R337). -/
def Obligations.CopiesEndInTheRepairTable : Prop :=
  (∀ (s : State) (x b w : Nat) (c : Copy) (err : ReadErr),
    s.sp.copies.find? (fun c => c.region == x && c.bank == b && c.row == some w) = some c → mainStopped s = false →
    ∃ t, exec (.rowCopyEnd x b w err) s = .next t ∧
      t.keep = { s.keep with repair := { s.keep.repair with
        rows := s.keep.repair.rows ++ [⟨x, physBank s x b, w, c.spare⟩] } } ∧
      (∀ k ∈ t.sp.copies, ¬(k.region = x ∧ k.bank = b ∧ k.row = some w)) ∧
      t.evt.pending = s.evt.pending ||| BitVec.ofNat 15 (if c.spare = 15 then 2 ^ 6 + 2 ^ 7 else 2 ^ 7) ∧ SameMemory s t ∧
      (∀ a ∈ err.lost, rowOf a = rowKey x b w → lineMarked t (a / 64) = true) ∧
      (∀ k, (∀ a ∈ err.lost, rowOf a = rowKey x b w → a / 64 ≠ k) → lineMarked t k = lineMarked s k) ∧
      t.cq = s.cq ∧ t.crs = s.crs ∧ t.man = s.man) ∧
  (∀ (s : State) (x b : Nat) (c : Copy) (err : ReadErr),
    s.sp.copies.find? (fun c => c.region == x && c.bank == b && c.row.isNone) = some c → mainStopped s = false →
    ∃ t, exec (.bankCopyEnd x b err) s = .next t ∧ t.keep.repair.rows = s.keep.repair.rows ∧
      t.keep.repair.spares = s.keep.repair.spares.filter (fun y => !(y.1 == x && y.2.2 == b)) ++ [(x, c.spare, b)] ∧
      t.keep = { s.keep with repair := t.keep.repair } ∧
      (∀ k ∈ t.sp.copies, ¬(k.region = x ∧ k.bank = b)) ∧
      t.evt.pending = s.evt.pending ||| BitVec.ofNat 15 (if c.spare = 1 then 2 ^ 6 + 2 ^ 7 else 2 ^ 7) ∧ SameMemory s t ∧
      (∀ a ∈ err.lost, spRegion a = x → spBank a = b → lineMarked t (a / 64) = true) ∧
      ((∀ r, s.crs.run = some r → r.landing ≠ 0xFFFF) →
        ∀ k, (∀ a ∈ err.lost, spRegion a = x → spBank a = b → a / 64 ≠ k) → lineMarked t k = lineMarked s k) ∧
      (∀ k, lineMarked s k = true → lineMarked t k = true) ∧ (∀ k, inBank x b k = false → (∀ a ∈ err.lost, a / 64 ≠ k) →
        lineMarked t k = lineMarked s k) ∧ t.cq = s.cq ∧ t.crs = s.crs ∧ t.man = s.man) ∧
  (∀ (s : State) (x b w : Nat) (err : ReadErr),
    (mainStopped s = true ∨ s.sp.copies.find? (fun c => c.region == x && c.bank == b && c.row == some w) = none →
      exec (.rowCopyEnd x b w err) s = .next s) ∧
    (mainStopped s = true ∨ s.sp.copies.find? (fun c => c.region == x && c.bank == b && c.row.isNone) = none →
      exec (.bankCopyEnd x b err) s = .next s)) ∧
  (∀ (s : State) (c : Nat), exec (.multicastDrop c) s = .next s)

/-! ## Manifests (R75 to R87) -/

/-- The staging operations (R75, R76): OPEN and DISCARD empty the staged store, abandoning a verification, unless an
application holds it; CLOSE of an open store starts the verification and notes the closer's session, and is ignored otherwise (the model's
choice, log entry 141); a STAGING_APERTURE write within one 64-byte block lands in the page selected of an open store, and is ignored
otherwise (R421). Nothing here changes what is in force. -/
def Obligations.StagingIsWrittenAndClosed : Prop :=
  ∀ (s : State) (p : Port), Served p 1 s →
    (s.man.apply ≠ .applying →
      (∃ t, exec (.manOpen p) s = .next t ∧
        t = { dropHeld p s with man := { s.man with stage := .opened, staged := [], stagedConf := none }, toll := t.toll } ∧
        (s.man.stage ≠ .verifying → t.toll = s.toll)) ∧
      (∃ t, exec (.manDiscard p) s = .next t ∧
        t = { dropHeld p s with man := { s.man with stage := .empty, staged := [], stagedConf := none }, toll := t.toll } ∧
        (s.man.stage ≠ .verifying → t.toll = s.toll))) ∧
    (s.man.apply = .applying →
      exec (.manOpen p) s = .next (dropHeld p s) ∧ exec (.manDiscard p) s = .next (dropHeld p s)) ∧
    (s.man.stage = .opened →
      exec (.manClose p) s = .next { dropHeld p s with man := { s.man with
        stage := .verifying, closeAuth := match p with | .host => s.toll.host.auth | .mgr => s.toll.mgr.auth } } ∧
      (∀ (off : Nat) (bytes : List Byte), oneBlock 0x100000 off bytes.length = true → ∃ t,
        exec (.stagingApertureWrite p off bytes) s = .next t ∧ t = { dropHeld p s with man := { s.man with staged := t.man.staged } } ∧
        (∀ i, i < bytes.length → sget 0 t.man.staged (s.man.page * 2 ^ 20 + off + i) = bytes.getD i 0) ∧
        (∀ a, (a < s.man.page * 2 ^ 20 + off ∨ s.man.page * 2 ^ 20 + off + bytes.length ≤ a) →
          sget 0 t.man.staged a = sget 0 s.man.staged a))) ∧
    (∀ (off : Nat) (bytes : List Byte), oneBlock 0x100000 off bytes.length = false →
      exec (.stagingApertureWrite p off bytes) s = .next (dropHeld p s)) ∧
    (s.man.stage ≠ .opened → exec (.manClose p) s = .next (dropHeld p s) ∧
      ∀ (off : Nat) (bytes : List Byte), exec (.stagingApertureWrite p off bytes) s = .next (dropHeld p s))

/-- The requests (R79, R86, R87): MAN_APPLY_AT arms a request for a landing still to come and drops one for a landing past,
with REASON EXPIRED; written while an application is in progress it only takes the value (the model's choice, log entry 142). DISARM takes an
armed request away. FORGET, with no manifest active, clears MAN_KEPT_TAG, and LDG_COMMITTED and the crossing copy keep their values (the
model's choice, log entry 145). APPLY_NOW, with none active and a verified manifest that agrees with MAN_KEPT_TAG, begins phase 1 of its
application; with a manifest active, with none verified and against MAN_KEPT_TAG it is refused with the reason of each; while an APPLY_NOW
already runs it is ignored (the model's choice, log entry 144). -/
def Obligations.ApplicationsAreRequested : Prop :=
  ∀ (s : State) (p : Port), Served p 1 s →
    (∀ (c : BitVec 48) (l : BitVec 16), s.man.apply ≠ .applying →
      (landingPast s c.toNat l.toNat = false → exec (.manApplyAt p c l) s =
        .next { dropHeld p s with man := { s.man with applyAt := (c.toNat, l.toNat), apply := .armed } }) ∧
      (landingPast s c.toNat l.toNat = true → ∃ t, exec (.manApplyAt p c l) s = .next t ∧
        t = { dropHeld p s with man := { s.man with applyAt := (c.toNat, l.toNat), apply := .none, reason := 0x0D },
                                evt := t.evt } ∧
        t.evt.pending = s.evt.pending ||| BitVec.ofNat 15 (2 ^ 0x0A))) ∧
    (∀ (c : BitVec 48) (l : BitVec 16), s.man.apply = .applying → exec (.manApplyAt p c l) s =
      .next { dropHeld p s with man := { s.man with applyAt := (c.toNat, l.toNat) } }) ∧
    (s.man.apply = .armed → exec (.manDisarm p) s = .next { dropHeld p s with man := { s.man with apply := .none } }) ∧
    (s.man.apply ≠ .armed → exec (.manDisarm p) s = .next (dropHeld p s)) ∧
    (s.man.active = none → ∃ t, exec (.manForget p) s = .next t ∧
      t = { dropHeld p s with keep := { s.keep with keptTag := none, keptPermMgr := 0 }, isl := t.isl } ∧
      t.isl.tide = s.isl.tide ∧ t.isl.shadow = some t.keep) ∧
    (s.man.active ≠ none → exec (.manForget p) s = .next (dropHeld p s)) ∧
    (let refused := fun (r : Nat) => ∃ t, exec (.manApplyNow p) s = .next t ∧
        t = { dropHeld p s with man := { s.man with reason := r }, evt := t.evt } ∧
        t.evt.pending = s.evt.pending ||| BitVec.ofNat 15 (2 ^ 0x0A)
     (s.man.active ≠ none → refused 0x11) ∧
     (s.man.active = none → s.man.stage ≠ .verified → refused 0x0B) ∧
     (s.man.active = none → s.man.stage = .verified → s.keep.keptTag ≠ none → s.keep.keptTag ≠ some (stagedTag s) →
       refused 0x0F) ∧
     (s.man.active = none → s.man.stage = .verified → (s.keep.keptTag = none ∨ s.keep.keptTag = some (stagedTag s)) →
       s.crs.run = none → ∃ t, exec (.manApplyNow p) s = .next t ∧ t.man.apply = .applying ∧ t.man.applyNow = true ∧
         t.man.active = none ∧ t.crs.run.map (fun r => (r.landing, r.stage)) = some (s.crs.landing, .phase1) ∧
         (∀ c, (tblOf t c).phys = (tblOf s c).phys) ∧ SameMemory s t ∧ t.evt = s.evt ∧ t.keep = s.keep) ∧
     (s.man.active = none → s.man.stage = .verified → (s.keep.keptTag = none ∨ s.keep.keptTag = some (stagedTag s)) →
       s.crs.run ≠ none → exec (.manApplyNow p) s = .next (dropHeld p s)))

/-- MANIFEST_VERIFICATION_END and the two ends of an application's phases (R77, R82 to R84). A verification ends verified or
refused with the first failing check's reason, judged after the generator's reseeding (that the reseeding of R385 comes before its checks:
the model's choice, log entry 149): a staged manifest that passes every check is verified, unless the samples of that reseeding fail a
continuous test, which is TOLL_ERROR (R386). One that waits for a running service does not end (R389). Phase 1 with every region ready goes on to
phase 2; a region that is not ready aborts the application: the staged manifest is refused, what was active stays, and APPLY_STATE is none,
even where a later request had been armed (the model's choice, log entry 143). Phase 2 puts every setting of the
staged manifest in force, keeps its tag, and raises MANIFEST_APPLIED. -/
def Obligations.ManifestsAreVerifiedAndApplied : Prop :=
  (∀ s : State, mainStopped s = false → s.man.stage = .verifying → s.toll.busy = .none →
    (∀ r, verifyStaged (reseedDrbg s) = .error r → ∃ t, exec .manifestVerificationEnd s = .next t ∧ t.man.stage = .refused ∧
      t.man.reason = r ∧ t.man.active = s.man.active ∧ t.man.stagedConf = none ∧
      t.evt = logEvent s.evt ⟨0x0A, none, s.crs.tide, r % 2 ^ 64, 0⟩ ∧ SameMemory s t ∧ t.keep = s.keep) ∧
    (∀ m, verifyStaged s = .ok m → ∃ t, exec .manifestVerificationEnd s = .next t ∧ t.man.active = s.man.active ∧
      SameMemory s t ∧ t.keep = s.keep ∧
      ((reseedDrbg s).toll.errorState = false → t.man.stage = .verified ∧ t.man.stagedConf = some m ∧ stagedTag t = m.tag ∧ t.evt = s.evt) ∧
      ((reseedDrbg s).toll.errorState = true → t.man.stage = .refused ∧ t.man.reason = 0x12 ∧ t.man.stagedConf = none ∧
        t.evt = logEvent s.evt ⟨0x0A, none, s.crs.tide, 0x12, 0⟩))) ∧
  (∀ s : State, (mainStopped s = true ∨ s.man.stage ≠ .verifying ∨ s.toll.busy ≠ .none) → exec .manifestVerificationEnd s = .next s) ∧
  (∀ (s : State) (r : LandingRun) (xs : List Nat), mainStopped s = false → s.crs.run = some r → r.stage = .phase1 →
    ((∀ x ∈ xs, Config.regions ≤ x) → exec (.applicationPhase1End xs) s =
      .next { s with crs := { s.crs with run := some { r with stage := .phase2 } } }) ∧
    ((∃ x ∈ xs, x < Config.regions) → ∃ t, exec (.applicationPhase1End xs) s = .next t ∧ t.man.stage = .refused ∧
      t.man.reason = 0x0E ∧ t.man.active = s.man.active ∧ t.man.apply = .none ∧
      t.crs.run.map (fun r => (r.landing, r.stage)) = some (r.landing, .closing) ∧
      SameMemory s t)) ∧
  (∀ (s : State) (r : LandingRun) (m : Manifest), mainStopped s = false → s.crs.run = some r → r.stage = .phase2 → s.man.stagedConf = some m →
    ∃ t, exec .applicationPhase2End s = .next t ∧ t.man.active = some m ∧ t.man.stage = .empty ∧ t.man.staged = [] ∧
      t.man.stagedConf = none ∧ t.man.apply = .none ∧ t.man.held = [] ∧ t.keep.keptTag = some m.tag ∧
      t.keep.keptPermMgr = m.permMgr ∧ t.rtv.lookahead = m.lookahead ∧ t.rtv.readTags = m.readTags ∧
      t.rtv.writeTags = m.writeTags ∧ t.ken.map = m.topo ∧ t.tow.berthGroup = [] ∧ t.tow.mirrorPages = 0 ∧
      t.crs.pendingLL = [] ∧ t.crs.llDiscarded = true ∧ t.cq.takenSinceApply = false ∧
      t.crs.run.map (fun r => (r.landing, r.stage)) = some (r.landing, .closing) ∧
      t.rtv.cache = [] ∧ t.evt.pending.getLsbD 9 = true ∧ t.keep.accepted = s.keep.accepted ∧
      (s.tow.heldRestore = [] → SameMemory s t)) ∧
  (∀ (s : State) (xs : List Nat), mainStopped s = true ∨ s.crs.run = none →
    exec (.applicationPhase1End xs) s = .next s ∧ exec .applicationPhase2End s = .next s) ∧
  (∀ (s : State) (xs : List Nat) (r : LandingRun), s.crs.run = some r →
    (r.stage ≠ .phase1 → exec (.applicationPhase1End xs) s = .next s) ∧
    (r.stage ≠ .phase2 → exec .applicationPhase2End s = .next s))

/-! ## Table banks (R168 to R174) -/

/-- TBL_COMMIT, TBL_CLEAR and SWAP_IDLE outside an application (R170, R173, R174). COMMIT makes the masked shadow slots
valid where their images pass the checks and empty where not; CLEAR empties them; a cluster that refuses writes keeps its
slot and reports LOCKED. The first cluster that failed is reported. SWAP_IDLE exchanges the banks of the masked clusters and
raises their swap counts when a manifest is active and no command has been taken since, invalidating the caches of their regions (R21, R173),
and reports NOT_IDLE otherwise. While an operation runs all four are ignored. -/
def Obligations.TableSlotsAreCommitted : Prop :=
  (∀ (s : State) (p : Port) (mask : BitVec 32) (slot : BitVec 4), Served p 7 s → s.tbl.busy = true →
    exec (.tblCommit p mask slot) s = .next (dropHeld p s) ∧ exec (.tblClear p mask slot) s = .next (dropHeld p s) ∧
    exec (.tblLoad p mask slot) s = .next (dropHeld p s) ∧ exec (.swapIdle p mask) s = .next (dropHeld p s)) ∧
  ∀ (s : State) (p : Port) (mask : BitVec 32) (slot : BitVec 4), Served p 7 s → s.tbl.busy = false → installing s = false →
    let cs := maskClusters (pairMask s mask.toNat)
    let shadow := fun (t : State) (c : Nat) => (tblOf t c).valid (!(tblOf t c).phys)
    let code := fun (c : Nat) => if refusing s c then 3 else shadowCheck s slot.toNat c
    (∃ t, exec (.tblCommit p mask slot) s = .next t ∧ t.tbl.busy = false ∧ t.tbl.lastOp = 1 ∧
      t.tbl.images = s.tbl.images ∧
      (∀ c ∈ cs, refusing s c = false → shadow t c =
        if shadowCheck s slot.toNat c = 0 then shadow s c ||| slotBit slot.toNat else shadow s c &&& ~~~ slotBit slot.toNat) ∧
      (∀ c, (c ∉ cs ∨ refusing s c = true) → tblOf t c = tblOf s c) ∧
      ((∀ c ∈ cs, code c = 0) → t.tbl.result = 0 ∧ t.tbl.failCluster = 0xFF) ∧
      (∀ c, cs.find? (fun x => code x != 0) = some c → t.tbl.result = code c ∧ t.tbl.failCluster = c) ∧
      t = { dropHeld p s with tbl := t.tbl }) ∧
    (∃ t, exec (.tblClear p mask slot) s = .next t ∧ t.tbl.busy = false ∧ t.tbl.lastOp = 2 ∧
      t.tbl.images = s.tbl.images ∧
      (∀ c ∈ cs, refusing s c = false → shadow t c = shadow s c &&& ~~~ slotBit slot.toNat) ∧
      (∀ c, (c ∉ cs ∨ refusing s c = true) → tblOf t c = tblOf s c) ∧
      ((∀ c ∈ cs, refusing s c = false) → t.tbl.result = 0 ∧ t.tbl.failCluster = 0xFF) ∧
      (∀ c, cs.find? (fun x => refusing s x) = some c → t.tbl.result = 3 ∧ t.tbl.failCluster = c) ∧
      t = { dropHeld p s with tbl := t.tbl }) ∧
    (s.man.active ≠ none → s.cq.takenSinceApply = false → ∃ t, exec (.swapIdle p mask) s = .next t ∧ t.tbl.busy = false ∧
      t.tbl.result = 0 ∧ (∀ c ∈ cs, tblOf t c = { tblOf s c with phys := !(tblOf s c).phys, gen := ((tblOf s c).gen + 1) % 2 ^ 16 }) ∧
      (∀ c, c ∉ cs → tblOf t c = tblOf s c) ∧ t.tbl.images = s.tbl.images ∧
      (∀ x, x ∈ t.rtv.cache ↔ x ∈ s.rtv.cache ∧ ∀ c ∈ cs, c / 4 ≠ x.region) ∧
      t = { dropHeld p s with tbl := t.tbl, rtv := { s.rtv with cache := t.rtv.cache } }) ∧
    ((s.man.active = none ∨ s.cq.takenSinceApply = true) → ∃ t, exec (.swapIdle p mask) s = .next t ∧ t.tbl.busy = false ∧
      t.tbl.result = 6 ∧ t.tbl.clusters = s.tbl.clusters ∧ t = { dropHeld p s with tbl := t.tbl })

/-- SHADOW_WINDOW_WRITE, TBL_LOAD and TBL_LOAD_FETCH_END (R169, R170, R172, R289, R296). A window write within one 64-byte block puts its
bytes into the shadow slot it names and marks the slot empty, or, where the cluster refuses writes, sets WRITE_LOCKED alone; at a reserved
offset, or beyond its block, it is ignored (R421). A LOAD of aligned
data empties the masked slots that accept writes, takes what the region caches hold and waits for the rest, which a response of 512 bytes to
its region brings; a cluster that is locked waits for none. Once nothing is awaited each cluster takes its image, valid where it
passes the checks, or reports FAULT, POISON or LOCKED and keeps its image; the first cluster that failed is reported. During an application
the operations and the window's writes are held, and the end of a LOAD that runs waits (how such a LOAD is held: the model's choice, log
entry 109). -/
def Obligations.TableImagesAreLoaded : Prop :=
  (∀ (s : State) (p : Port) (c slot b : Nat) (bytes : List Byte), Served p 7 s → installing s = false → c < Config.clusters →
    slot < 16 → b < imageBytes → oneBlock 0x1000000 (c * 0x20000 + slot * 0x2000 + b) bytes.length = true → protection s ≠ 2 →
    let off := c * 0x20000 + slot * 0x2000 + b
    let sh := !(tblOf s c).phys
    (refusing s c = true → exec (.shadowWindowWrite p off bytes) s =
      .next { dropHeld p s with tbl := { s.tbl with writeLocked := true } }) ∧
    (refusing s c = false → (sget [] s.tbl.images (imageKey c sh slot)).length ∈ [0, imageBytes] →
      ∃ t, exec (.shadowWindowWrite p off bytes) s = .next t ∧
        (∀ i, i < imageBytes → imageAt t c sh slot i =
          if b ≤ i ∧ i < b + bytes.length then bytes.getD (i - b) 0 else imageAt s c sh slot i) ∧
        (∀ c' sh' slot' i, slot' < 16 → (c', sh', slot') ≠ (c, sh, slot) → imageAt t c' sh' slot' i = imageAt s c' sh' slot' i) ∧
        tblOf t c = (tblOf s c).setValid sh ((tblOf s c).valid sh &&& ~~~ slotBit slot) ∧
        (∀ c', c' ≠ c → tblOf t c' = tblOf s c') ∧ t = { dropHeld p s with tbl := t.tbl } ∧ SameMemory s t)) ∧
  (∀ (s : State) (p : Port) (off : Nat) (bytes : List Byte), mainStopped s = false →
    (oneBlock 0x1000000 off bytes.length && inImage off) = false → exec (.shadowWindowWrite p off bytes) s = .next (dropHeld p s)) ∧
  (∀ (s : State) (p : Port) (mask : BitVec 32) (slot : BitVec 4), Served p 7 s → s.tbl.busy = false → installing s = false →
    let cs := maskClusters (pairMask s mask.toNat)
    (s.tbl.addr % 512 = 0 → (∃ c ∈ cs, refusing s c = false) → ∃ t, exec (.tblLoad p mask slot) s = .next t ∧
      t.tbl.busy = true ∧ t.tbl.lastOp = 3 ∧
      t.tbl.load = some (loadHits s ⟨pairMask s mask.toNat, slot.toNat, s.tbl.addr, [], []⟩) ∧
      t.tbl.images = s.tbl.images ∧ t.tbl.lockedSlots = cs.filter (refusing s) ∧
      (∀ c ∈ cs, refusing s c = false → tblOf t c = (tblOf s c).setValid (!(tblOf s c).phys)
        ((tblOf s c).valid (!(tblOf s c).phys) &&& ~~~ slotBit slot.toNat)) ∧
      (∀ c, (c ∉ cs ∨ refusing s c = true) → tblOf t c = tblOf s c) ∧ t = { dropHeld p s with tbl := t.tbl }) ∧
    ((s.tbl.addr % 512 ≠ 0 ∨ ∀ c ∈ cs, refusing s c = true) → ∃ t, exec (.tblLoad p mask slot) s = .next t ∧ t.tbl.busy = false ∧
      t.tbl.load = none ∧ (∀ c, cs.head? = some c → t.tbl.failCluster = c ∧ t.tbl.result = if refusing s c then 3 else 2) ∧
      t = { dropHeld p s with tbl := t.tbl })) ∧
  (∀ (s : State) (tag : Nat) (xs : List Sector) (q : Req) (l : TblLoad) (x i : Nat) (o : Option (Nat × Nat)),
    mainStopped s = false → s.pwr.draining = none → reqOf s tag = some q → q.write = false → q.owner = .fill x o → q.pass = 0 →
    s.tbl.load = some l → x ∈ maskRegions l.mask → i < imageBlocks → q.addr = 512 * (l.addr / 512 + i) → q.len = 512 → xs.length = 8 →
    ∃ t l', exec (.readResponse tag xs) s = .next t ∧ t.tbl.load = some l' ∧ (x, i) ∉ loadWants t l' ∧
      (∀ w, w ∈ loadWants t l' → w ∈ loadWants s l) ∧ t.tbl = { s.tbl with load := some l' }) ∧
  (∀ (s : State) (l : TblLoad) (lost : List (Nat × Nat)), mainStopped s = false → s.tbl.load = some l → l.slot < 16 → installing s = false →
    loadWants s l = [] →
    let locked := fun (c : Nat) => s.tbl.lockedSlots.contains c || refusing s c
    let code := fun (c : Nat) => if locked c then 3 else if (loadData l c).fault then 4 else if (loadData l c).poison then 5
      else imgResult (fun i => (loadData l c).bytes.getD i 0)
    let cs := maskClusters l.mask
    ∃ t, exec (.tblLoadFetchEnd lost) s = .next t ∧ t.tbl.busy = false ∧ t.tbl.load = none ∧ t = { s with tbl := t.tbl } ∧
      (∀ c ∈ cs, locked c = false → (loadData l c).fault = false → (loadData l c).poison = false →
        sget [] t.tbl.images (imageKey c (!(tblOf s c).phys) l.slot) = (loadData l c).bytes ∧
        ((tblOf t c).valid (!(tblOf s c).phys) &&& slotBit l.slot ≠ 0 ↔
          (tblOf s c).valid (!(tblOf s c).phys) &&& slotBit l.slot ≠ 0 ∨ code c = 0)) ∧
      (∀ c, (c ∉ cs ∨ locked c = true ∨ (loadData l c).fault = true ∨ (loadData l c).poison = true) →
        tblOf t c = tblOf s c ∧ ∀ sh sl, sl < 16 → sget [] t.tbl.images (imageKey c sh sl) = sget [] s.tbl.images (imageKey c sh sl)) ∧
      ((∀ c ∈ cs, code c = 0) → t.tbl.result = 0 ∧ t.tbl.failCluster = 0xFF) ∧
      (∀ c, cs.find? (fun x => code x != 0) = some c → t.tbl.result = code c ∧ t.tbl.failCluster = c)) ∧
  (∀ (s : State) (lost : List (Nat × Nat)), (mainStopped s = true ∨ s.tbl.load = none ∨ installing s = true ∨ ∃ l, s.tbl.load = some l ∧ loadWants s l ≠ []) →
    exec (.tblLoadFetchEnd lost) s = .next s) ∧
  (∀ (s : State) (p : Port) (mask : BitVec 32) (slot : BitVec 4), Served p 7 s → s.tbl.busy = false → installing s = true →
    let held := fun (k sl : Nat) => { dropHeld p s with
      tbl := { s.tbl with busy := true, lastOp := k, result := 0, failCluster := 0xFF }
      man := { s.man with held := s.man.held ++ [.op k (pairMask s mask.toNat) sl] } }
    exec (.tblCommit p mask slot) s = .next (held 1 slot.toNat) ∧ exec (.tblClear p mask slot) s = .next (held 2 slot.toNat) ∧
    exec (.tblLoad p mask slot) s = .next (held 3 slot.toNat) ∧ exec (.swapIdle p mask) s = .next (held 4 0)) ∧
  (∀ (s : State) (p : Port) (off : Nat) (bytes : List Byte), Served p 7 s → installing s = true →
    (oneBlock 0x1000000 off bytes.length && inImage off) = true → exec (.shadowWindowWrite p off bytes) s =
      .next { dropHeld p s with man := { s.man with held := s.man.held ++ [.window off bytes] } })

/-! ## The towline (R322, R323, R325, R328 to R336) -/

/-- TOWLINE_BURST_RECEIVED, BURST_ACK, BURST_REFUSED and BURST_RESEND (R323, R333, R341, R374). A burst is acknowledged into the receive
buffer while fewer than 1,024 bursts are used, and refused otherwise; the bursts of a snapshot that has been let through or refused take no
buffer, those of one held do, and those of no snapshot are discarded (the model's choice, log entry 191). A header of the active or the prior
tag, at most one crossing away, opens PENDING for its snapshot; one of another crossing or of a strange tag is refused with MISMATCH. An
acknowledgement returns the burst's REMOTE tag, and the message whose last burst it was is through; a refusal returns the tag and the burst
waits, but while a reset drains nothing is sent again; a resend waits for a free tag. The tags that are free go to the messages with bursts
still to send, in their order, and a snapshot's read begins once the one before it is through (R340). While the main side is down or stopped,
or a reset drains, nothing arrives. -/
def Obligations.BurstsTakeAndReturnTags : Prop :=
  (∀ s : State, mainStopped s = false → s.pwr.draining = none →
    (rxUsed s < 1024 → exec (.towBurstReceived .part) s = .next { s with tow := { s.tow with rxPartial := s.tow.rxPartial + 1 } }) ∧
    (1024 ≤ rxUsed s → exec (.towBurstReceived .part) s = .next s) ∧
    (s.tow.rxHead = none → exec (.towBurstReceived .mirrorPart) s = .next s) ∧
    (∀ r, s.tow.rxHead = some r →
      (r.fate ≠ .hold ∨ 1024 ≤ rxUsed s → exec (.towBurstReceived .mirrorPart) s = .next s) ∧
      (r.fate = .hold → rxUsed s < 1024 → exec (.towBurstReceived .mirrorPart) s = .next { s with tow := { s.tow with
        rxPartial := s.tow.rxPartial + 1, rxHead := some { r with parts := r.parts + 1 } } })) ∧
    (∀ h : SnapHead,
      let s0 : State := match s.tow.rxHead with
        | some r => { s with tow := { s.tow with rxPartial := s.tow.rxPartial - r.parts, rxHead := none } }
        | none => s
      let check := tagCheck s h.tag h.crossing h.landing
      let refused := ∃ t, exec (.towBurstReceived (.mirrorHead h)) s = .next t ∧
        t = { s0 with tow := { s0.tow with rxHead := some ⟨h, .drop, 0⟩ }, evt := t.evt } ∧
        t.evt.pending = s.evt.pending ||| BitVec.ofNat 15 (2 ^ 2)
      (check = .hold →
        (rxUsed s0 < 1024 → exec (.towBurstReceived (.mirrorHead h)) s = .next { s0 with tow := { s0.tow with
          rxPartial := s0.tow.rxPartial + 1, rxHead := some ⟨h, .hold, 1⟩ } }) ∧
        (1024 ≤ rxUsed s0 → exec (.towBurstReceived (.mirrorHead h)) s = .next s)) ∧
      (check = .refuse → refused) ∧
      (check = .go ∨ check = .prior →
        (h.crossing = s.crs.crossing ∨ h.crossing + 1 = s.crs.crossing → ∃ t, exec (.towBurstReceived (.mirrorHead h)) s = .next t ∧
          t.tow.rxHead = some ⟨h, .take, 0⟩ ∧ t.tow.slotPending = none ∧ t.tow.rxPartial = s0.tow.rxPartial ∧ t.keep = s.keep ∧
          t.crs = s.crs ∧ SameMemory s t ∧ ∀ r, snapshotRecord s h = some r →
            ((r.differ = false ∧ r.invalid = false ∧ (∀ x, h.cross = some x → x.differ = false ∧ x.invalid = false)) →
              recClean h.crossing h.landing t.tow.partnerRecs = true ∧ t.evt = s.evt ∧ t.dgst = s.dgst) ∧
            ((r.differ = true ∨ r.invalid = true) → t.dgst.partnerDiffer = true ∧
              t.evt.pending = s.evt.pending ||| BitVec.ofNat 15 (2 ^ 2))) ∧
        (h.crossing = s.crs.crossing + 1 → exec (.towBurstReceived (.mirrorHead h)) s = .next { s0 with tow :=
          { s0.tow with rxHead := some ⟨h, .take, 0⟩, slotPending := none, waitRecs := s.tow.waitRecs ++ [h] } }) ∧
        (h.crossing + 1 < s.crs.crossing ∨ s.crs.crossing + 1 < h.crossing → refused)))) ∧
  (∀ (s : State) (x : Burst), (mainStopped s = true ∨ s.pwr.draining ≠ none) → exec (.towBurstReceived x) s = .next s) ∧
  (∀ (s : State) (m : TxMsg) (pre post : List TxMsg), mainStopped s = false → s.tow.tx = pre ++ m :: post →
    (∀ x ∈ pre ++ post, x.id ≠ m.id) →
    let after := fun (c : Instr) (free : Nat) (m' : TxMsg) => ∃ t, exec c s = .next t ∧
      t = { s with tow := { s.tow with tx := t.tow.tx, reading := t.tow.reading, snapQueued := t.tow.snapQueued } } ∧
      t.tow.tx = pumpTx free ((pre ++ m' :: post).filter (fun x => !txDone x)) ∧
      remoteOut t = min 512 ((pre.map (·.out)).sum + m'.out + (post.map (·.out)).sum + (pre.map (·.left)).sum + m'.left + (post.map (·.left)).sum) ∧
      (∀ xs x ys, t.tow.tx = xs ++ x :: ys → 0 < x.left → remoteOut t = 512 ∧ ∀ y ∈ ys, ∃ z ∈ pre ++ m' :: post, y = z) ∧
      (s.tow.reading = none → (∀ x ∈ t.tow.tx, x.mirror = false) →
        t.tow.reading = s.tow.snapQueued.head? ∧ t.tow.snapQueued = s.tow.snapQueued.tail) ∧
      ((s.tow.reading ≠ none ∨ ∃ x ∈ t.tow.tx, x.mirror = true) → t.tow.reading = s.tow.reading ∧ t.tow.snapQueued = s.tow.snapQueued)
    remoteOut s ≤ 512 →
      (0 < m.out → after (.burstAck m.id) (513 - remoteOut s) { m with out := m.out - 1 } ∧
        (s.pwr.draining = none → after (.burstRefused m.id) (513 - remoteOut s) { m with out := m.out - 1, waiting := m.waiting + 1 }) ∧
        (s.pwr.draining ≠ none → after (.burstRefused m.id) (513 - remoteOut s) { m with out := m.out - 1 })) ∧
      (0 < m.waiting → after (.burstResend m.id) (512 - remoteOut s) { m with waiting := m.waiting - 1, left := m.left + 1 })) ∧
  (∀ (s : State) (id : Nat), mainStopped s = true →
    exec (.burstAck id) s = .next s ∧ exec (.burstRefused id) s = .next s ∧ exec (.burstResend id) s = .next s)

/-- TOWLINE_MESSAGE (R322, R328, R331, R332, R336). A message for another engine is passed on under this engine's REMOTE tags, and a mirror or
restore message is taken as its own row takes it. One of the active tag and the crossing in progress for an open row block of a collective
already taken: a forward message waits for the member's own record, or is combined with it and sent on; the tail's combination, and a return
message, are the final record, sent on toward the head; a VOID voids the block and travels on. One that does not match its block is refused:
MISMATCH, and the block is voided. One for a completed or voided block is discarded; so is one that fits a block with its final record, or
comes from a side without a neighbour (the model's choice, log entry 120). One of the next crossing, or of a collective not yet taken, is held;
one of another crossing, or of a tag that no rule lets through, is refused. Then the rows that have become final or void are written, which
changes nothing while no fused row or ATTN command is under way. -/
def Obligations.MessagesReachTheirBlocks : Prop :=
  (∀ (s : State) (m : TowMsg) (env : RunEnv), mainStopped s = false → s.pwr.draining = none →
    let s0 := rxWhole (towBursts m) s
    let ends := fun (u : State) => exec (.towMessage m env) s = .next (settleRows u)
    let payloadFits := fun (e : Entry) (b : TowBlock) => m.kind = towKind e.desc ∧ m.rows = b.rows ∧
      m.payload.length = (if m.isVoid then 0 else if isChain e.desc then towRowBytes e.desc else b.rows * towRowBytes e.desc)
    let mine := fun (e : Entry) => s.man.active ≠ none ∧ m.tag = activeTag s ∧ m.crossing = s.crs.crossing ∧
      m.coll < sget 0 s.tow.coll m.group ∧ towEntry s m = some e ∧ findEntry s e.berth e.seq = some e
    let held := ends { s0 with tow := { s0.tow with held := s.tow.held ++ [m] } }
    let refused :=
      (towEntry s m = none → ∃ u, ends u ∧ u = { s0 with evt := u.evt } ∧ u.evt.pending = s.evt.pending ||| BitVec.ofNat 15 (2 ^ 2)) ∧
      (∀ e, towEntry s m = some e → findEntry s e.berth e.seq = some e →
        let loud := fun (u : State) => u.evt.pending = if e.res.refusedMsg then s.evt.pending else s.evt.pending ||| BitVec.ofNat 15 (2 ^ 2)
        (∀ b, towBlockOf e m = some b → towAt e b.rowBlock = some b → b.isVoid = false → ∃ u y v, ends u ∧
          findEntry u e.berth e.seq = some y ∧ y.res.refusedMsg = true ∧ y.res.mismatch = true ∧ y.life = e.life ∧
          towAt y b.rowBlock = some v ∧ v.isVoid = true ∧ v.reason = 1 ∧ u.crs = s.crs ∧ u.man = s.man ∧
          (isChain e.desc = false → b.final = none → SameMemory s u ∧ u.arr = s.arr ∧ loud u)) ∧
        ((towBlockOf e m = none ∨ ∃ b, towBlockOf e m = some b ∧ towAt e b.rowBlock = some b ∧ b.isVoid = true) → ∃ u, ends u ∧
          findEntry u e.berth e.seq = some { e with res := { e.res with refusedMsg := true, mismatch := true } } ∧
          OnlyEntry e.berth e.seq { s0 with evt := u.evt } u ∧ loud u))
    (m.dest ≠ ownPlace s → ∃ t x, exec (.towMessage m env) s = .next t ∧ t = { s0 with tow := t.tow } ∧
      t.tow.tx.getLast? = some x ∧ x.id = s.tow.nextId ∧ x.msg = m ∧ x.relay = true ∧ x.left + x.out = towBursts m ∧
      t.tow.held = s.tow.held ∧ (remoteOut s ≤ 512 → remoteOut t ≤ 512)) ∧
    (m.dest = ownPlace s →
      (∀ n, m.kind = 5 → m.snap = some n → exec (.towMessage m env) s = exec (.mirrorReceived n) s) ∧
      (m.kind = 6 → exec (.towMessage m env) s = .next (receiveReq m s0)) ∧
      (m.kind = 7 → exec (.towMessage m env) s = .next (receiveData m s0))) ∧
    (m.dest = ownPlace s → m.kind < 5 →
      (∀ (e : Entry) (b : TowBlock), mine e → endedEarly e = false → towBlockOf e m = some b → towAt e b.rowBlock = some b →
        b.isVoid = false → b.final = none → payloadFits e b →
        let p := placeOf s e
        let g := (e.coll.getD (0, 0)).1
        let final := fun (bs : List Byte) => ∃ u y, ends u ∧ findEntry u e.berth e.seq = some y ∧
          towAt y b.rowBlock = some { b with final := some bs, timer := false, fwdHeld := none } ∧
          (p.1 = 0 → u.tow.tx = s.tow.tx) ∧
          (0 < p.1 → ∃ x, u.tow.tx.getLast? = some x ∧ x.msg.payload = bs ∧ x.msg.dest = memberPlace s g (p.1 - 1) ∧
            x.msg.ret = true ∧ x.msg.isVoid = false) ∧ u.crs = s.crs ∧ u.man = s.man ∧ (isChain e.desc = false → SameMemory s u ∧ u.arr = s.arr)
        (m.isVoid = false →
          (m.ret = false → 0 < p.1 → b.own = none → ∃ u y, ends u ∧
            findEntry u e.berth e.seq = some y ∧ towAt y b.rowBlock = some { b with fwdHeld := some m.payload } ∧
            y.life = e.life ∧ u.tow.tx = s.tow.tx ∧ u.arr = s.arr ∧ u.crs = s.crs ∧ u.man = s.man ∧ SameMemory s u) ∧
          (m.ret = false → 0 < p.1 → p.1 + 1 < p.2 → ∀ o, b.own = some o → ∃ u y x, ends u ∧
            findEntry u e.berth e.seq = some y ∧ towAt y b.rowBlock = some { b with sentFwd := true, fwdHeld := none } ∧
            u.tow.tx.getLast? = some x ∧ x.msg.payload = (combinePayload s e b.rows m.payload o).1 ∧
            x.msg.dest = memberPlace s g (p.1 + 1) ∧ x.msg.ret = false ∧ x.msg.isVoid = false ∧ x.msg.coll = (e.coll.getD (0, 0)).2 ∧
            u.arr = s.arr ∧ u.crs = s.crs ∧ u.man = s.man ∧ SameMemory s u) ∧
          (m.ret = false → 0 < p.1 → p.1 + 1 = p.2 → ∀ o, b.own = some o → final (combinePayload s e b.rows m.payload o).1) ∧
          (m.ret = true → p.1 + 1 < p.2 → final m.payload)) ∧
        (m.isVoid = true → (m.ret = true → p.1 + 1 < p.2) → (m.ret = false → 0 < p.1) → ∃ u y v, ends u ∧
          findEntry u e.berth e.seq = some y ∧ y.life = e.life ∧ towAt y b.rowBlock = some v ∧ v.isVoid = true ∧ v.reason = m.reason ∧
          v.fwdHeld = none ∧ v.selfVoided = false ∧ v.timer = false ∧
          (0 < p.1 → ∃ x ∈ u.tow.tx, x.msg.isVoid = true ∧ x.msg.ret = true ∧ x.msg.reason = m.reason ∧ x.msg.dest = memberPlace s g (p.1 - 1)) ∧
          (p.1 + 1 < p.2 → b.sentFwd = false → ∃ x ∈ u.tow.tx, x.msg.isVoid = true ∧ x.msg.ret = false ∧ x.msg.reason = m.reason ∧
            x.msg.dest = memberPlace s g (p.1 + 1)) ∧
          u.crs = s.crs ∧ u.man = s.man ∧ (isChain e.desc = false → SameMemory s u ∧ u.arr = s.arr)) ∧
        ((m.ret = true ∧ p.1 + 1 = p.2 ∨ m.ret = false ∧ p.1 = 0) → ends s0)) ∧
      (∀ (e : Entry) (b : TowBlock), mine e → endedEarly e = false → towBlockOf e m = some b →
        (b.isVoid = true → ends s0) ∧ (b.isVoid = false → payloadFits e b → b.final ≠ none → ends s0) ∧
        (b.isVoid = false → ¬payloadFits e b → refused)) ∧
      (∀ e : Entry, mine e → (endedEarly e = true → ends s0) ∧ (endedEarly e = false → towBlockOf e m = none → refused)) ∧
      (s.man.active ≠ none → m.tag = activeTag s →
        (m.crossing = s.crs.crossing → m.coll < sget 0 s.tow.coll m.group → towEntry s m = none → ends s0) ∧
        ((m.crossing = s.crs.crossing ∧ sget 0 s.tow.coll m.group ≤ m.coll) ∨ m.crossing = s.crs.crossing + 1 → held) ∧
        (m.crossing < s.crs.crossing ∨ s.crs.crossing + 1 < m.crossing → refused)) ∧
      ((s.man.active = none ∨ m.tag ≠ activeTag s) →
        (stagedTagHeld s m.tag = true → held) ∧
        (stagedTagHeld s m.tag = false → priorTagOk s m.tag m.crossing m.landing = true → ends s0) ∧
        (stagedTagHeld s m.tag = false → priorTagOk s m.tag m.crossing m.landing = false → refused)))) ∧
  (∀ (s : State) (m : TowMsg) (env : RunEnv), (mainStopped s = true ∨ s.pwr.draining ≠ none) →
    exec (.towMessage m env) s = .next s) ∧
  (∀ s : State, (∀ e ∈ s.cq.entries, runsApart e.desc = true → e.started = true → e.life = .ran) → settleRows s = s)

/-- HOP_ABANDONED and TOWLINE_TIMER_EXPIRY (R325, R334, R335). An abandoned hop sets LINK_FAIL and its message is gone; its row block is voided
with the reason LINK, a VOID leaves toward the head, and toward the tail unless a forward message has left and was not the one abandoned; a
block that had been voided behind its forward message sends the VOID toward the tail now. Where the member holds the final record, what may have
been written is written again as poisoned (how, and that the digests keep what they took: the model's choice, log entry 174). Where the command
has completed, the VOID messages leave by the message's own header (log entry 174). A timer that expires voids an open block with the reason
TIMEOUT and raises TOWLINE_TIMEOUT once for its command; for a block that the member had voided, the wait is over. Then the rows that have
become void are written. A hop that is not under way and a timer that does not run change nothing. -/
def Obligations.BlocksAreVoided : Prop :=
  let voids := fun (u : State) (ret : Bool) (place : TowPlace) =>
    ∃ x ∈ u.tow.tx, x.msg.isVoid = true ∧ x.msg.ret = ret ∧ x.msg.reason = 3 ∧ x.msg.dest = place
  (∀ (s : State) (id : Nat) (env : RunEnv) (m : TxMsg), mainStopped s = false → s.tow.tx.find? (fun t => t.id == id) = some m →
    ((m.owner = none ∨ m.msg.isVoid = true ∧ ∃ b q rb, m.owner = some (b, q, rb) ∧ findEntry s b q = none) →
      ∃ t, exec (.hopAbandoned id env) s = .next t ∧ t.tow.linkFail = true ∧
        (∀ x ∈ t.tow.tx, x.id ≠ id) ∧ t = { s with tow := t.tow } ∧ t.tow.held = s.tow.held) ∧
    (∀ b q rb, m.owner = some (b, q, rb) → findEntry s b q = none → m.msg.isVoid = false → ∃ t, exec (.hopAbandoned id env) s = .next t ∧
      t.tow.linkFail = true ∧ (id < s.tow.nextId → ∀ x ∈ t.tow.tx, x.id ≠ id) ∧ t = { s with tow := t.tow } ∧
      (0 < m.msg.senderCp → voids t true (memberPlace s m.msg.group (m.msg.senderCp - 1))) ∧
      (m.msg.ret = false → m.msg.senderCp + 1 < ((memberOf s m.msg.group).getD (0, 1)).2 →
        voids t false (memberPlace s m.msg.group (m.msg.senderCp + 1)))) ∧
    (∀ b q rb e k, m.owner = some (b, q, rb) → findEntry s b q = some e → towAt e rb = some k →
      let lost := m.msg.ret = false ∧ m.msg.isVoid = false
      let g := (e.coll.getD (0, 0)).1
      let p := placeOf s e
      (k.isVoid = false → ∃ u y v, exec (.hopAbandoned id env) s = .next (settleRows u) ∧ u.tow.linkFail = true ∧
        findEntry u b q = some y ∧ towAt y rb = some v ∧ v.isVoid = true ∧ v.reason = 3 ∧ v.fwdHeld = none ∧ y.life = e.life ∧
        (0 < p.1 → voids u true (memberPlace s g (p.1 - 1))) ∧
        (p.1 + 1 < p.2 → (lost ∨ k.sentFwd = false) → voids u false (memberPlace s g (p.1 + 1))) ∧
        u.crs = s.crs ∧ u.man = s.man ∧ (isChain e.desc = false → k.final = none → SameMemory s u ∧ u.arr = s.arr) ∧
        (k.final ≠ none → ∃ y0 w, w.sp = s.sp ∧ w.man = s.man ∧ findEntry w b q = some y0 ∧ voided y0 rb = true ∧ y0.desc = e.desc ∧
          y0.emitted = e.emitted ∧ y0.life = e.life ∧ u = poisonBlock rb y0 w ∧ (writtenEmits rb y0 w ≠ [] → y.res.poisonOut = true) ∧
          (∀ x r, writtenEmits rb y0 w = [x] → (e.desc.slot x.slot).job = false → emitRuns w y0 x = [r] →
            ∀ l ∈ unitsOf r.addr r.bytes.length, l ∈ r.bad → lineMarked u l = true))) ∧
      (k.isVoid = true → ∃ u, exec (.hopAbandoned id env) s = .next (settleRows u) ∧ u.tow.linkFail = true ∧
        OnlyEntry b q { s with tow := u.tow } u ∧
        (lost → findEntry u b q = some (updTow rb (fun x => { x with sentFwd := false }) e)) ∧ (¬lost → findEntry u b q = some e) ∧
        (lost → p.1 + 1 < p.2 → voids u false (memberPlace s g (p.1 + 1)))))) ∧
  (∀ (s : State) (id : Nat) (env : RunEnv), (mainStopped s = true ∨ s.tow.tx.find? (fun t => t.id == id) = none) →
    exec (.hopAbandoned id env) s = .next s) ∧
  (∀ (s : State) (b : BitVec 5) (rb : Nat) (env : RunEnv) (e : Entry) (k : TowBlock), mainStopped s = false →
    (berthEntries s b.toNat).find? (fun x => (towAt x rb).any (·.timer)) = some e → findEntry s b.toNat e.seq = some e →
    towAt e rb = some k →
    (k.isVoid = true → ∃ u y, exec (.towTimerExpiry b rb env) s = .next (settleRows u) ∧ findEntry u b.toNat e.seq = some y ∧
      towAt y rb = some { k with timer := false } ∧ OnlyEntry b.toNat e.seq s u) ∧
    (k.isVoid = false → ∃ u y v, exec (.towTimerExpiry b rb env) s = .next (settleRows u) ∧
      findEntry u b.toNat e.seq = some y ∧ towAt y rb = some v ∧ v.isVoid = true ∧ v.reason = 2 ∧ (k.final = none → v.timer = false) ∧
      y.res.timeout = true ∧ u.crs = s.crs ∧ u.man = s.man ∧
      (isChain e.desc = false → k.final = none → SameMemory s u ∧ u.arr = s.arr ∧ (e.res.timeout = true → u.evt = s.evt) ∧
        (e.res.timeout = false → u.evt.pending = s.evt.pending ||| BitVec.ofNat 15 (2 ^ 0x0B))))) ∧
  (∀ (s : State) (b : BitVec 5) (rb : Nat) (env : RunEnv),
    (mainStopped s = true → exec (.towTimerExpiry b rb env) s = .next s) ∧
    (mainStopped s = false → (berthEntries s b.toNat).find? (fun x => (towAt x rb).any (·.timer)) = none →
      exec (.towTimerExpiry b rb env) s = .next (settleRows s)))

/-! ## The partner mirror (R339 to R342) -/

/-- MIRROR_SNAPSHOT_READ_END sends the snapshot read to the partner, with a line marked that was read with an uncorrectable error;
MIRROR_RECEIVED stores a partner's snapshot whose header was, or is now, let through, holds one of the staged tag, or refuses one with
MISMATCH, and discards one whose header was refused; RESTORE_REQ of the active tag is answered by one message to the partner, with the
COMMITTED slot where it is of the landing asked for, and without a snapshot but with the slot's place where it is of another (the model's
choice, log entry 171); one of the staged tag is held, one of the prior tag is discarded, and any other is refused (R312, R332, R336, R339 to
R342). How many bursts a snapshot makes is the model's choice too (log entries 115 and 156). -/
def Obligations.SnapshotsAreExchanged : Prop :=
  (∀ (s : State) (n : Snapshot) (err : ReadErr), mainStopped s = false → s.tow.reading = some n →
    let bad := (err.lost.filter (fun a => n.range.any (fun x => x.addr / 64 == a / 64))).map (· / 64)
    ∃ t x, exec (.mirrorSnapshotReadEnd err) s = .next t ∧ t.tow.reading = none ∧ t.tow.nextId = s.tow.nextId + 1 ∧
      t.tow.tx.getLast? = some x ∧ x.id = s.tow.nextId ∧ x.relay = false ∧ x.msg.kind = 5 ∧ x.msg.dest = partnerPlace s ∧
      x.msg.snap = some { n with range := n.range.map (fun l => { l with mark := l.mark || bad.contains (l.addr / 64) }) } ∧
      x.left + x.out = ceilDiv (snapBytes n) 512 ∧ x.waiting = 0 ∧ (remoteOut s ≤ 512 → remoteOut t ≤ 512) ∧ SameMemory s t ∧
      (∀ l ∈ bad, lineMarked t l = true) ∧ t.cq = s.cq ∧ t.crs = s.crs ∧ (err = .none → t = { s with tow := t.tow })) ∧
  (∀ (s : State) (err : ReadErr), (mainStopped s = true ∨ s.tow.reading = none) → exec (.mirrorSnapshotReadEnd err) s = .next s) ∧
  (∀ (s : State) (n : Snapshot), mainStopped s = false → s.pwr.draining = none →
    let check := tagCheck s n.tag n.crossing n.landing
    let near := n.crossing ≤ s.crs.crossing + 1 ∧ s.crs.crossing ≤ n.crossing + 1
    let came := fun (f : SnapFate) => ∃ r, s.tow.rxHead = some r ∧ r.head = n.head ∧ r.fate = f
    let alone := ∀ r, s.tow.rxHead = some r → r.head ≠ n.head
    let parts := match s.tow.rxHead with | some r => r.parts | none => 0
    (came .take ∨ (alone ∧ (check = .go ∨ check = .prior) ∧ near) → ∃ t, exec (.mirrorReceived n) s = .next t ∧
      (t.tow.slotPending = some n ∨ (t.tow.slotCommitted = some n ∧ t.tow.slotPending = none)) ∧ t.tow.rxHead = none ∧
      t.keep = s.keep ∧ t.crs = s.crs ∧ t.cq = s.cq ∧ t.arr = s.arr ∧ SameMemory s t) ∧
    (came .hold ∨ (alone ∧ check = .hold) → exec (.mirrorReceived n) s = .next { s with tow := { s.tow with
      rxPartial := s.tow.rxPartial - parts, rxHead := none, heldSnaps := s.tow.heldSnaps ++ [n] } }) ∧
    (came .drop → exec (.mirrorReceived n) s = .next { s with tow := { s.tow with rxPartial := s.tow.rxPartial - parts, rxHead := none } }) ∧
    (alone → (check = .refuse ∨ ((check = .go ∨ check = .prior) ∧ ¬near)) → ∃ t, exec (.mirrorReceived n) s = .next t ∧
      t = { s with tow := { s.tow with rxPartial := s.tow.rxPartial - parts, rxHead := none }, evt := t.evt } ∧
      t.evt.pending = s.evt.pending ||| BitVec.ofNat 15 (2 ^ 2))) ∧
  (∀ (s : State) (n : Snapshot) (tag c l : Nat), (mainStopped s = true ∨ s.pwr.draining ≠ none) →
    exec (.mirrorReceived n) s = .next s ∧ exec (.restoreReq tag c l) s = .next s) ∧
  (∀ (s : State) (tag c l : Nat), mainStopped s = false → s.pwr.draining = none →
    (tagCheck s tag c l = .go → ∃ t x, exec (.restoreReq tag c l) s = .next t ∧ t = { s with tow := t.tow } ∧
      t.tow.tx.getLast? = some x ∧ x.id = s.tow.nextId ∧ x.msg.kind = 7 ∧ x.msg.dest = partnerPlace s ∧ x.relay = false ∧
      x.msg.snap = s.tow.slotCommitted.filter (fun n => n.crossing == c && n.landing == l) ∧
      x.msg.crossing = s.crs.crossing ∧ x.msg.place = s.tow.slotCommitted.map (fun n => (n.crossing, n.landing)) ∧
      x.left + x.out = (match x.msg.snap with
        | some n => ceilDiv (snapBytes n + 64) 512
        | none => 1)) ∧
    (tagCheck s tag c l = .hold → ∃ t m, exec (.restoreReq tag c l) s = .next t ∧ t = { s with tow := t.tow } ∧
      t.tow.heldRestore = s.tow.heldRestore ++ [m] ∧ m.kind = 6 ∧ m.tag = tag ∧ m.crossing = c ∧ m.landing = l ∧
      m.place = some (c, l) ∧ t.tow.tx = s.tow.tx) ∧
    (tagCheck s tag c l = .prior → exec (.restoreReq tag c l) s = .next (rxWhole 1 s)) ∧
    (tagCheck s tag c l = .refuse → ∃ t, exec (.restoreReq tag c l) s = .next t ∧ t = { rxWhole 1 s with evt := t.evt } ∧
      t.evt.pending = s.evt.pending ||| BitVec.ofNat 15 (2 ^ 2)))

/-- RESTORE and RESTORE_DATA (R332, R342, Tables 2-6, 14-3 and 14-9): an idle engine asks its partner, with its own crossing in the header and
its LDG_COMMITTED in the message (that the message has it beside the header is the model's choice, log entry 171), and RESTORE_RESULT is
running; any other is NOT_IDLE. Of the active tag and of the crossing in progress or the one before (as of a message of the partner: the model's
choice, log entry 114), an answer of an empty slot is NONE, one of a slot of another landing than the committed one is LANDING; otherwise the
accumulators, the held slipways, the holds and the lines of the range are restored, with the lines' marks, and every other byte
stays. No ledger count and no table changes. One of the next crossing or of the staged tag is held, one of the prior tag discarded, any other
refused with MISMATCH; one that nothing waits for changes nothing. -/
def Obligations.RestoreBringsTheSnapshot : Prop :=
  (∀ (s : State) (p : Port), Served p 4 s →
    (s.man.active ≠ none → s.cq.takenSinceApply = false → ∃ t x, exec (.restore p) s = .next t ∧
      t = { dropHeld p s with tow := t.tow } ∧ t.tow.restore = 1 ∧ t.tow.tx.getLast? = some x ∧ x.left + x.out = 1 ∧
      x.msg.kind = 6 ∧ x.msg.dest = partnerPlace s ∧ x.msg.tag = activeTag s ∧ x.msg.crossing = s.crs.crossing ∧
      x.msg.landing = s.keep.committed.2 ∧ x.msg.place = some s.keep.committed) ∧
    ((s.man.active = none ∨ s.cq.takenSinceApply = true) →
      exec (.restore p) s = .next { dropHeld p s with tow := { s.tow with restore := 5 } })) ∧
  (∀ (s : State) (tag c : Nat) (slot : Option Snapshot) (place : Option (Nat × Nat)), mainStopped s = false → s.pwr.draining = none →
    let m : TowMsg := { partnerMsg s tag c ((slot.map (·.landing)).getD 0) 7 slot with
      source := partnerPlace s, dest := ownPlace s, place := place }
    let s0 := rxWhole (towBursts m) s
    let check := tagCheck s tag c m.landing
    let result := fun (r : Nat) => exec (.restoreData slot tag c place) s = .next { s0 with tow := { s0.tow with restore := r } }
    (check = .go → (c = s.crs.crossing ∨ c + 1 = s.crs.crossing) →
      (s.tow.restore ≠ 1 → exec (.restoreData slot tag c place) s = .next s0) ∧
      (s.tow.restore = 1 → slot = none → result (if place = none then 3 else 4)) ∧
      (∀ n, s.tow.restore = 1 → slot = some n → (n.crossing, n.landing) ≠ s.keep.committed → result 4) ∧
      (∀ n, s.tow.restore = 1 → slot = some n → (n.crossing, n.landing) = s.keep.committed →
        ∃ t, exec (.restoreData slot tag c place) s = .next t ∧
        ((n.accs.map (·.1)).Pairwise (· < ·) → ∀ k, sget ⟨0, 0, 0, 0⟩ t.arr.accs k = sget ⟨0, 0, 0, 0⟩ n.accs k) ∧
        (∀ k, k < 64 → sget [] t.arr.slips k =
          if (n.holds.getD (k % 2) none).isSome then sget [] n.slips k else sget [] s.arr.slips k) ∧
        t.arr.holdA = n.holds.getD 0 none ∧
        t.arr.holdB = n.holds.getD 1 none ∧ t.tow.restore = (if n.tables = tableNames s then 2 else 6) ∧
        (∀ a, (∀ x ∈ n.range, a < x.addr ∨ x.addr + x.bytes.length ≤ a) → spByte t a = spByte s a) ∧
        (n.range.Pairwise (fun x y => x.addr + x.bytes.length ≤ y.addr) → ∀ x ∈ n.range, ∀ i, i < x.bytes.length →
          spByte t (x.addr + i) = x.bytes.getD i 0) ∧
        (n.range.Pairwise (fun x y => x.addr / 64 ≠ y.addr / 64) → ∀ x ∈ n.range, lineMarked t (x.addr / 64) = x.mark) ∧
        t.keep = s.keep ∧ t.tbl = s.tbl ∧ t.cq = s.cq ∧ t.man = s.man ∧ t.crs = s.crs)) ∧
    ((check = .hold ∨ (check = .go ∧ c = s.crs.crossing + 1)) →
      exec (.restoreData slot tag c place) s = .next { s0 with tow := { s0.tow with heldRestore := s.tow.heldRestore ++ [m] } }) ∧
    (check = .prior → exec (.restoreData slot tag c place) s = .next s0) ∧
    ((check = .refuse ∨ (check = .go ∧ (c + 1 < s.crs.crossing ∨ s.crs.crossing + 1 < c))) →
      ∃ t, exec (.restoreData slot tag c place) s = .next t ∧ t = { s0 with evt := t.evt } ∧
        t.evt.pending = s.evt.pending ||| BitVec.ofNat 15 (2 ^ 2))) ∧
  (∀ (s : State) (tag c : Nat) (x : Option Snapshot) (place : Option (Nat × Nat)), (mainStopped s = true ∨ s.pwr.draining ≠ none) →
    exec (.restoreData x tag c place) s = .next s)

/-! ## Traces, the event log, debug access (R355, R393, R394, R433) -/

/-- TRACE_ARM (R355): a segment of which no command has been taken is armed, with no records; one of which some have is
missed; landing 0xFFFF arms nothing. EVT_LOG_RD_WRITE (R433): the pointer moves forward by no more than the unread entries,
and any other write of it is ignored. -/
def Obligations.TracesArmAndTheLogIsRead : Prop :=
  ∀ (s : State) (p : Port), Served p 6 s →
    (∀ (c : BitVec 48) (l : BitVec 16),
      (l = 0xFFFF#16 → exec (.traceArm p c l) s = .next (dropHeld p s)) ∧
      (l ≠ 0xFFFF#16 → (c.toNat, l.toNat) ∉ s.dgst.taken → exec (.traceArm p c l) s = .next { dropHeld p s with dgst :=
        { s.dgst with traceCrossing := c.toNat, traceLanding := l.toNat, trace := 1, records := 0 } }) ∧
      (l ≠ 0xFFFF#16 → (c.toNat, l.toNat) ∈ s.dgst.taken → exec (.traceArm p c l) s = .next { dropHeld p s with dgst :=
        { s.dgst with traceCrossing := c.toNat, traceLanding := l.toNat, trace := 0, missed := true } })) ∧
    (∀ v : BitVec 16,
      let ahead := (v.toNat + 2 ^ 16 - s.evt.rd) % 2 ^ 16
      (ahead ≤ unread s.evt → exec (.evtLogRdWrite p v) s = .next { dropHeld p s with evt := { s.evt with rd := v.toNat } }) ∧
      (unread s.evt < ahead → exec (.evtLogRdWrite p v) s = .next (dropHeld p s)))

/-- DEBUG_INSTRUMENT_ENABLE (R387, R393, R394, R402): with the field lock in the fuse shadow it has no effect; otherwise the key slots, the
generator's state, the sessions, the nonces, the certificate captures and the digest keys with their manifest are erased first, APPROVED is
cleared, and the main side starts again from its reset values; the ledger and the repair table stay unless the retention latch holds a loss of
the island. -/
def Obligations.DebugAccessErasesTheKeys : Prop :=
  ∀ s : State,
    (s.toll.shadow.lock = true → exec .debugInstrumentEnable s = .next s) ∧
    (s.toll.shadow.lock = false → ∃ t, exec .debugInstrumentEnable s = .next t ∧ t.toll.slots = [] ∧
      t.toll.approved = false ∧ t.toll.zeroised = true ∧ t.toll.host.auth = false ∧ t.toll.mgr.auth = false ∧
      t.toll.host.nonce = none ∧ t.toll.mgr.nonce = none ∧ t.toll.drbg = .blank s.toll.drbg.seeds ∧
      t.toll.cert = { CertUnit.zero with state := t.toll.cert.state, cause := t.toll.cert.cause, serial := t.toll.cert.serial } ∧
      t.pwr.mainDown = true ∧ t.sp = .cold ∧ t.man = .cold ∧ t.dgst = .cold ∧ t.crs = .cold ∧ t.rtv = .cold ∧ t.tbl = .cold ∧
      t.cq = .cold ∧ t.arr = .cold ∧ (s.pwr.latch = false → t.keep.committed = s.keep.committed ∧
        t.keep.commitSeq = s.keep.commitSeq ∧ t.keep.repair = s.keep.repair))

/-! ## The Tollhouse (R379 to R387, R394) -/

/-- STATUS, NONCE, AUTH, LOGOUT (R379, R380): STATUS ends OK; a nonce is the generator's next 48 bytes, which TOLL_DATA then holds, and where
a reseeding that was due failed its continuous tests it ends with ERROR (R385, R386); AUTH
with the HMAC of the nonce and the port's role byte under the port's key opens the session, any other one is AUTH_FAIL, and
the nonce is used up either way; LOGOUT ends the session. Only the port's own view and the key's use count change. -/
def Obligations.SessionsAreAuthenticated : Prop :=
  ∀ (s : State) (p : Port), Admitted p s →
    (∃ t, exec (.tollStatus p) s = .next t ∧ EndsWith 0 p s t) ∧
    (let s0 := drbgDue s
     let fresh := drbgBytes s0 48
     (s0.toll.errorState = false → ∃ t, exec (.tollNonce p) s = .next t ∧ (tollPort t p).nonce = some fresh ∧
       (tollPort t p).result = 0 ∧ (∀ i, i < fresh.length → sget 0 (tollPort t p).data i = fresh.getD i 0) ∧
       (∀ i, fresh.length ≤ i → sget 0 (tollPort t p).data i = sget 0 (tollPort s p).data i) ∧
       (tollPort t p).auth = (tollPort s p).auth ∧ t.toll.drbg = (drbgNext 48 s0).toll.drbg ∧ t.toll.slots = s.toll.slots ∧
       t = { dropHeld p s with toll := t.toll, rtv := t.rtv } ∧ (s.toll.drbg.count < 2 ^ 20 → t.rtv = s.rtv)) ∧
     (s0.toll.errorState = true → ∃ t, exec (.tollNonce p) s = .next t ∧ (tollPort t p).result = 6 ∧ t.toll.errorState = true ∧
       (tollPort t p).nonce = (tollPort s p).nonce ∧ t.toll.slots = s.toll.slots ∧
       t = { dropHeld p s with toll := t.toll, rtv := t.rtv })) ∧
    (let key := (keySlot s (authSlot p)).key
     let good := ∃ n, (tollPort s p).nonce = some n ∧ key ≠ [] ∧ tollInput s p 48 = hmac384 key (n ++ [roleByte p])
     (good → ∃ t, exec (.tollAuth p) s = .next t ∧ (tollPort t p).auth = true ∧ (tollPort t p).nonce = none ∧
       (tollPort t p).result = 0 ∧ (keySlot t (authSlot p)).key = key ∧
       (keySlot t (authSlot p)).uses = min (2 ^ 32 - 1) ((keySlot s (authSlot p)).uses + 1) ∧
       (∀ k, k ≠ authSlot p → keySlot t k = keySlot s k) ∧ t = { dropHeld p s with toll := t.toll }) ∧
     (¬good → ∃ t, exec (.tollAuth p) s = .next t ∧ (tollPort t p).auth = (tollPort s p).auth ∧
       (tollPort t p).nonce = none ∧ (tollPort t p).result = 2 ∧ t = { dropHeld p s with toll := t.toll })) ∧
    (∃ t, exec (.tollLogout p) s = .next t ∧ (tollPort t p).auth = false ∧ (tollPort t p).result = 0 ∧
      t.toll.slots = s.toll.slots ∧ t = { dropHeld p s with toll := t.toll })

/-- SELFTEST and its end, and READ_PUBKEY (R383, R386): a self-test that is asked for with a session runs; all nine tests
passed leave the error state, and one failed enters it, which fails a certificate under way. The end of the self-tests that
follow the mooring of a warm reset does the same, and the reset is over (log entry 127). A self-test asked for while a verification runs
waits for it (R389). The end of tests that do not run changes nothing, and none end while the main side is down or its clock stopped (log
entry 176). A public key slot, or the
public key of slot 0x0C, is read into TOLL_DATA; any other slot is BAD_ARG. -/
def Obligations.SelfTestsAndPublicKeys : Prop :=
  (∀ (s : State) (p : Port), Admitted p s → s.toll.waitSelftest = none →
    ((tollPort s p).auth = true →
      exec (.tollSelftest p) s = .next { dropHeld p s with toll := { (dropHeld p s).toll with busy := .selftest p } }) ∧
    ((tollPort s p).auth = false → ∃ t, exec (.tollSelftest p) s = .next t ∧ EndsWith 2 p s t)) ∧
  (∀ (s : State) (pass : BitVec 9), mainStopped s = true → exec (.tollSelftestEnd pass) s = .next s) ∧
  (∀ (s : State) (p : Port) (pass : BitVec 9), mainStopped s = false → s.toll.busy = .selftest p → ∃ t, exec (.tollSelftestEnd pass) s = .next t ∧
    t.toll.busy = .none ∧ t.toll.selftest = pass ∧ t.toll.slots = s.toll.slots ∧ t = { s with toll := t.toll, rtv := t.rtv } ∧
    (pass = 0x1FF#9 → t.toll.errorState = false ∧ (tollPort t p).result = 0 ∧ t.toll.cert = s.toll.cert ∧ t.rtv = s.rtv) ∧
    (pass ≠ 0x1FF#9 → t.toll.errorState = true ∧ (tollPort t p).result = 6 ∧
      (s.toll.cert.state ∈ [1, 2, 3] → t.toll.cert.state = 5 ∧ t.toll.cert.cause = 5))) ∧
  (∀ (s : State) (p : Port), mainStopped s = false → (p = .host → permitted .host 8 s = true) →
    (p = .mgr → (keySlot s 0x0F).key ≠ []) → s.toll.waitSelftest = none → s.toll.busy = .none → s.man.stage = .verifying →
    (tollPort s p).auth = true →
    exec (.tollSelftest p) s = .next { dropHeld p s with toll := { (dropHeld p s).toll with waitSelftest := some p } }) ∧
  (∀ (s : State) (pass : BitVec 9), (∀ p, s.toll.busy ≠ .selftest p) →
    (s.pwr.warmTest = false ∨ s.pwr.draining ≠ none ∨ s.crs.moored = false) → exec (.tollSelftestEnd pass) s = .next s) ∧
  (∀ (s : State) (pass : BitVec 9), mainStopped s = false → s.toll.busy = .none → s.pwr.warmTest = true → s.pwr.draining = none →
    s.crs.moored = true → ∃ t, exec (.tollSelftestEnd pass) s = .next t ∧ t.pwr = { s.pwr with warmTest := false } ∧
      t.toll.selftest = pass ∧ t.toll.slots = s.toll.slots ∧ t.toll.errorState = decide (pass ≠ 0x1FF#9) ∧
      t.cq = s.cq ∧ t.sp = s.sp ∧ t.man = s.man ∧ (s.crs.phase ≠ .notMoored → t.crs = s.crs) ∧
      (pass = 0x1FF#9 → t.toll.cert = s.toll.cert) ∧
      (pass ≠ 0x1FF#9 → s.toll.cert.state ∈ [1, 2, 3] → t.toll.cert.state = 5 ∧ t.toll.cert.cause = 5)) ∧
  (∀ (s : State) (p : Port) (slot : Byte), Admitted p s →
    let key := (keySlot s slot.toNat).key
    (key ≠ [] → (slot.toNat < 8 ∨ slot = 0x0C#8) → ∃ t, exec (.tollReadPubkey p slot) s = .next t ∧
      (tollPort t p).result = 0 ∧ t.toll.slots = s.toll.slots ∧ t = { dropHeld p s with toll := t.toll } ∧
      (let out := if slot = 0x0C#8 then p384Public (beNat key) else key
       ∀ i, i < out.length → sget 0 (tollPort t p).data i = out.getD i 0)) ∧
    ((key = [] ∨ ¬(slot.toNat < 8 ∨ slot = 0x0C#8)) → ∃ t, exec (.tollReadPubkey p slot) s = .next t ∧ EndsWith 9 p s t))

/-- The key services, which the manager's session alone may use (R381 to R383, R394): a public key on the curve, a wrapped
key whose tag holds, a key that the reseeded generator draws (R385), an emptied slot, and the field lock, asked for with 0x4B43_4F4C in
TOLL_DATA, its low byte first (the model's choice, log entry 129). A key that is refused changes no slot: BAD_KEY, BAD_WRAP, BAD_ARG, BUSY of a
slot that signs (R389), and REVOKED after a permanent zeroisation; where several apply, BAD_ARG for the slot comes first, then REVOKED, then
BUSY (the model's choice, log entry 43). The host is refused with ROLE. -/
def Obligations.KeysAreEntered : Prop :=
  (∀ (s : State) (slot : Byte), Admitted .mgr s → s.toll.mgr.auth = true →
    let n := slot.toNat
    let entered := fun (c : Instr) (key : List Byte) => ∃ t, exec c s = .next t ∧ keySlot t n = ⟨key, 0⟩ ∧
      (∀ k, k ≠ n → keySlot t k = keySlot s k) ∧ t.toll.zeroised = false ∧ t.toll.mgr.result = 0 ∧
      t = { dropHeld .mgr s with toll := t.toll }
    let ends := fun (c : Instr) (r : Nat) => ∃ t, exec c s = .next t ∧ EndsWith r .mgr s t
    (let k := tollInput s .mgr 96
     let x := beNat (k.take 48)
     let y := beNat (k.drop 48)
     (n < 8 → x < p384P → y < p384P → onP384 x y = true → entered (.tollLoadPubkey .mgr slot) k) ∧
     (n < 8 → ¬(x < p384P ∧ y < p384P ∧ onP384 x y = true) → ends (.tollLoadPubkey .mgr slot) 4) ∧
     (8 ≤ n → ends (.tollLoadPubkey .mgr slot) 9)) ∧
    (let m := wrappedSize n
     let w := tollInput s .mgr (28 + m)
     let opened := fun (k : List Byte) => gcmOpen k (w.take 12) [slot, BitVec.ofNat 8 m, 0, 0] (slice w 12 (12 + m)) (w.drop (12 + m))
     (m = 0 → ends (.tollLoadWrapped .mgr slot) 9) ∧
     (m ≠ 0 → s.toll.fuses.revoke = true → ends (.tollLoadWrapped .mgr slot) 8) ∧
     (m ≠ 0 → s.toll.fuses.revoke = false → slotSigning s n = false → ∀ kwk, s.toll.fuses.kwk = some kwk →
       (∀ key, opened kwk = some key → entered (.tollLoadWrapped .mgr slot) key) ∧
       (opened kwk = none → ends (.tollLoadWrapped .mgr slot) 3)) ∧
     (m ≠ 0 → s.toll.fuses.revoke = false → slotSigning s n = true → ends (.tollLoadWrapped .mgr slot) 5) ∧
     (m ≠ 0 → s.toll.fuses.revoke = false → slotSigning s n = false → s.toll.fuses.kwk = none →
       ends (.tollLoadWrapped .mgr slot) 3)) ∧
    (n < 16 → slotSigning s n = false → ∃ t, exec (.tollClearSlot .mgr slot) s = .next t ∧ keySlot t n = default ∧
      (∀ k, k ≠ n → keySlot t k = keySlot s k) ∧ t.toll.mgr.result = 0) ∧
    (n < 16 → slotSigning s n = true → ends (.tollClearSlot .mgr slot) 5) ∧
    (16 ≤ n → ends (.tollClearSlot .mgr slot) 9)) ∧
  (∀ s : State, Admitted .mgr s → s.toll.mgr.auth = true →
    (let s0 := reseedDrbg s
     (slotSigning s 0x0C = false → ∀ g, ∃ t, exec (.tollGenkey .mgr g) s = .next t ∧ (∀ k, k ≠ 0x0C → keySlot t k = keySlot s k) ∧
       (s0.toll.errorState = false → g = true → keySlot t 0x0C = ⟨beBytes 48 (drbgScalar s0), 0⟩ ∧
         t.toll.drbg = (scalarNext s0).toll.drbg ∧ t.toll.mgr.result = 0 ∧ t.toll.errorState = false) ∧
       (s0.toll.errorState = false → g = false → keySlot t 0x0C = default ∧ t.toll.errorState = true ∧ t.toll.mgr.result = 6) ∧
       (s0.toll.errorState = true → t.toll.slots = s.toll.slots ∧ t.toll.mgr.result = 6 ∧ t.toll.errorState = true)) ∧
     (slotSigning s 0x0C = true → ∀ g, ∃ t, exec (.tollGenkey .mgr g) s = .next t ∧ EndsWith 5 .mgr s t)) ∧
    (leNat (tollInput s .mgr 4) = 0x4B434F4C → ∃ t, exec (.tollFieldLock .mgr) s = .next t ∧ t.toll.fuses.lock = true ∧
      t.toll.mgr.result = 0 ∧ t.toll.shadow = s.toll.shadow ∧ t.toll.slots = s.toll.slots) ∧
    (leNat (tollInput s .mgr 4) ≠ 0x4B434F4C → ∃ t, exec (.tollFieldLock .mgr) s = .next t ∧ EndsWith 9 .mgr s t)) ∧
  (∀ (s : State) (slot : Byte) (g : Bool), Admitted .host s →
    ∀ c ∈ [Instr.tollLoadPubkey .host slot, .tollLoadWrapped .host slot, .tollGenkey .host g, .tollClearSlot .host slot,
      .tollFieldLock .host], ∃ t, exec c s = .next t ∧ EndsWith 1 .host s t)

/-- ZEROISE, ZEROISE_PERMANENT and their end (R387, R419). The manager's zeroisation ends what runs, erases every slot,
session and nonce at once and is busy; a permanent one needs a session and sets the revocation fuse. While the main side is down, or its
clock stopped (the model's choice, log entry 176), ZEROISE erases the keys and leaves its cold reset to the start-up. At the end the main side
has a cold reset, and the ledger and the repair table stay unless the retention latch holds a loss of the island (R402). One in the error state
ends with ERROR; one while slot 0x0F is empty, and so one while another zeroisation runs, with AUTH_FAIL (R381; that AUTH_FAIL is its RESULT, and
the order of the two, are the model's choice, log entries 130 and 43). -/
def Obligations.ZeroisationErasesEveryKey : Prop :=
  (∀ s : State, mainStopped s = false → s.toll.errorState = false → (keySlot s 0x0F).key ≠ [] →
    let erased := fun (perm : Bool) (t : State) => t.toll.slots = [] ∧ t.toll.busy = .zeroise perm ∧
      t.toll.zeroised = true ∧ t.toll.host.auth = false ∧ t.toll.mgr.auth = false ∧ t.toll.host.nonce = none ∧
      t.toll.mgr.nonce = none ∧ t.toll.mgr.result = 0 ∧ t.toll.fuses.revoke = (s.toll.fuses.revoke || perm) ∧
      t.man.stage ≠ .verifying ∧ t.keep = s.keep ∧ t.sp = s.sp ∧ t.cq = s.cq
    (∃ t, exec (.tollZeroise .mgr) s = .next t ∧ erased false t) ∧
    (s.toll.mgr.auth = true → ∃ t, exec (.tollZeroisePermanent .mgr) s = .next t ∧ erased true t) ∧
    (s.toll.mgr.auth = false → ∃ t, exec (.tollZeroisePermanent .mgr) s = .next t ∧ EndsWith 2 .mgr s t)) ∧
  (∀ s : State, mainStopped s = false →
    let ends := fun (r : Nat) => (∃ t, exec (.tollZeroise .mgr) s = .next t ∧ EndsWith r .mgr s t) ∧
      (s.toll.mgr.auth = true → ∃ t, exec (.tollZeroisePermanent .mgr) s = .next t ∧ EndsWith r .mgr s t)
    (s.toll.errorState = true → ends 6) ∧
    (s.toll.errorState = false → (keySlot s 0x0F).key = [] → ends 2) ∧
    (∀ perm, s.toll.errorState = false → s.toll.busy = .zeroise perm → s.toll.slots = [] → ends 2)) ∧
  (∀ s : State, mainStopped s = true → (keySlot s 0x0F).key ≠ [] → ∃ t, exec (.tollZeroise .mgr) s = .next t ∧
    t.toll.slots = [] ∧ t.pwr.zeroisePending = true ∧ t.toll.mgr.result = 0 ∧ t.keep = s.keep) ∧
  (∀ s : State, mainStopped s = true → (∃ t, exec (.tollZeroisePermanent .mgr) s = .next t ∧ EndsWith 5 .mgr s t) ∧
    exec (.tollZeroise .host) s = .next s ∧ exec (.tollZeroisePermanent .host) s = .next s) ∧
  (∀ s : State, Admitted .host s → (∃ t, exec (.tollZeroise .host) s = .next t ∧ EndsWith 1 .host s t) ∧
    (∃ t, exec (.tollZeroisePermanent .host) s = .next t ∧ EndsWith 1 .host s t)) ∧
  (∀ (s : State) (perm : Bool), mainStopped s = false → s.toll.busy = .zeroise perm → ∃ t, exec .zeroiseEnd s = .next t ∧ t.toll.slots = [] ∧
    t.toll.busy = .none ∧ t.toll.zeroised = true ∧ t.pwr.mainDown = true ∧ t.sp = .cold ∧ t.cq = .cold ∧ t.man = .cold ∧
    (s.pwr.latch = false → t.keep.committed = s.keep.committed ∧ t.keep.commitSeq = s.keep.commitSeq ∧
      t.keep.repair = s.keep.repair)) ∧
  (∀ s : State, (mainStopped s = true ∨ ∀ perm, s.toll.busy ≠ .zeroise perm) → exec .zeroiseEnd s = .next s)

/-- CERT_ARM, CERT_CANCEL and CERTIFICATE_WRITTEN (R390, R392): the host's session arms a certificate for crossings still to
open with a key for its mode; anything else is BAD_ARG. One under way can be cancelled, and what waits to be written of it is not (one whose
write has left counts in the serial as written: the model's choice, log entry 150); cancelling with none under way is BAD_ARG (the model's
choice, log entry 130). Once its write is through a signed certificate is written, with the next serial, or has failed with CAUSE WRITE. The
manager is refused with ROLE. -/
def Obligations.CertificatesAreArmedAndWritten : Prop :=
  (∀ s : State, Admitted .host s → s.toll.host.auth = true →
    let c := s.toll.cert
    let c0 := c.range0 / 2 ^ 16
    let c1 := c.range1 / 2 ^ 16
    let may := (s.crs.firstOpen = true ∨ s.crs.crossing < c0) ∧ c0 ≤ c1 ∧ c.state ∉ [1, 2, 3] ∧
      ∃ m, s.man.active = some m ∧ (keySlot s (if m.certHmac then 0x0D else 0x0C)).key ≠ []
    (may → ∃ t, exec (.certArm .host) s = .next t ∧ t.toll.cert.state = 1 ∧ t.toll.cert.cause = 0 ∧ t.toll.cert.c0 = c0 ∧
      t.toll.cert.c1 = c1 ∧ t.toll.cert.captured = none ∧ t.toll.cert.serial = c.serial ∧ t.toll.host.result = 0 ∧
      t.toll.slots = s.toll.slots ∧ t = { dropHeld .host s with toll := t.toll }) ∧
    (¬may → ∃ t, exec (.certArm .host) s = .next t ∧ EndsWith 9 .host s t) ∧
    (c.state ∈ [1, 2, 3] → ∃ t, exec (.certCancel .host) s = .next t ∧ t.toll.cert = { c with
        state := 6, cause := 0, serial := c.serial + if c.state = 3 ∧ (s.rtv.posts.any (fun x => x.1.isCert)) = false then 1 else 0 } ∧
      (∀ x, x ∈ t.rtv.posts ↔ x ∈ s.rtv.posts ∧ x.1.isCert = false) ∧ t.rtv.out = s.rtv.out ∧
      t.toll.host.result = 0 ∧ t.toll.slots = s.toll.slots) ∧
    (c.state ∉ [1, 2, 3] → ∃ t, exec (.certCancel .host) s = .next t ∧ EndsWith 9 .host s t)) ∧
  (∀ s : State, Admitted .mgr s → (∃ t, exec (.certArm .mgr) s = .next t ∧ EndsWith 1 .mgr s t) ∧
    (∃ t, exec (.certCancel .mgr) s = .next t ∧ EndsWith 1 .mgr s t)) ∧
  (∀ s : State, mainStopped s = false → s.toll.cert.state = 3 → (∀ x ∈ s.rtv.posts, x.1 ≠ .cert s.toll.cert.serial) →
    (∀ q ∈ s.rtv.out, q.owner ≠ .cert s.toll.cert.serial) →
    exec (.certificateWritten false) s = .next { s with toll := { s.toll with cert :=
      { s.toll.cert with state := 4, serial := s.toll.cert.serial + 1 } } } ∧
    exec (.certificateWritten true) s = .next { s with toll := { s.toll with cert :=
      { s.toll.cert with state := 5, cause := 3 } } }) ∧
  (∀ (s : State) (f : Bool), (mainStopped s = true ∨ s.toll.cert.state ≠ 3 ∨ (∃ x ∈ s.rtv.posts, x.1 = .cert s.toll.cert.serial) ∨
      (∃ q ∈ s.rtv.out, q.owner = .cert s.toll.cert.serial)) →
    exec (.certificateWritten f) s = .next s)

/-! ## The host's registers (R418, R421, R427, R428) -/

/-- REGISTER_WRITE: a permitted write of a low half and then of the high half of the same register has the effect of one
64-bit write, whatever register it is (R418, R421). A write that is not permitted is ignored and sets PERM_DENIED (R427),
and one to an offset where nothing lies changes nothing but a held half. While the main side is down or stopped no write is served
(R406, R423). W1C bits clear where a 1 is written. A write of bytes is one of a register where it has 8 bytes, or 4 of a half of it; any
other that lies in one 64-byte block of a window is one of that window, and the rest are ignored (R421). -/
def Obligations.RegisterWritesTakeEffect : Prop :=
  (∀ (s : State) (off : BitVec 28) (a : Access) (v : Word64) (bs : Option (List Byte)), mainStopped s = true →
    exec (.registerWrite off a v bs) s = .next s) ∧
  (∀ (s : State) (off : BitVec 28) (a : Access) (v : Word64) (bs : List Byte), mainStopped s = false →
    let write := exec (.registerWrite off a v (some bs)) s
    let n := BitVec.ofNat 64 (leNat bs)
    (bs.length = 8 → regAt off.toNat ≠ none → write = exec (.registerWrite off .whole n) s) ∧
    (bs.length = 4 → regAt off.toNat ≠ none → write = exec (.registerWrite off .low n) s) ∧
    (bs.length = 4 → ∀ o : BitVec 28, off.toNat = o.toNat + 4 → regAt o.toNat ≠ none → write = exec (.registerWrite o .high n) s) ∧
    (bytesAccess off.toNat bs.length = none →
      (areaAt off.toNat = none → write = .next (dropHeld .host s)) ∧
      (∀ x o, areaAt off.toNat = some (x, o) →
        (inOneBlock x o bs.length = false ∨ x = .rings ∨ x = .log ∨ x = .results → write = .next (dropHeld .host s)) ∧
        (inOneBlock x o bs.length = true →
          (x = .staging → write = exec (.stagingApertureWrite .host o bs) s) ∧
          (x = .shadow → write = exec (.shadowWindowWrite .host o bs) s) ∧
          (x = .submit → portsOpen s = true → write = exec (.cqSubmit .host o bs) s) ∧
          (x = .submit64 → portsOpen s = true → write = exec (.cqSubmit64 .host o bs) s) ∧
          (x = .tollData → permitted .host 8 s = true → ∃ t, write = .next t ∧
            t = { dropHeld .host s with toll := { s.toll with host := { s.toll.host with data := t.toll.host.data } } } ∧
            ∀ i, sget 0 t.toll.host.data i = if o ≤ i ∧ i < o + bs.length then bs.getD (i - o) 0 else sget 0 s.toll.host.data i) ∧
          (x = .tollData → permitted .host 8 s = false →
            write = .next { dropHeld .host s with man := { s.man with permDenied := true } }))))) ∧
  ∀ (s : State) (off : BitVec 28), mainStopped s = false →
    (∀ (r : Reg) (lo hi : Word64), regAt off.toNat = some r → r.perm.allows s .host = true →
      ∃ t u, exec (.registerWrite off .low lo) s = .next t ∧ t = { s with hostp := { s.hostp with
          heldLow := some (off.toNat, lo.toNat % 2 ^ 32) } } ∧
        exec (.registerWrite off .high hi) t = .next u ∧
        exec (.registerWrite off .whole (BitVec.ofNat 64 (lo.toNat % 2 ^ 32 + hi.toNat % 2 ^ 32 * 2 ^ 32))) s = .next u) ∧
    (∀ (r : Reg) (a : Access) (v : Word64), regAt off.toNat = some r → r.perm.allows s .host = false → a ≠ .high →
      exec (.registerWrite off a v) s = .next { dropHeld .host s with man := { s.man with permDenied := true } }) ∧
    (∀ (a : Access) (v : Word64), regAt off.toNat = none → areaAt (accessSpan off.toNat a).1 = none →
      exec (.registerWrite off a v) s = .next (dropHeld .host s)) ∧
    (∀ (a : Access) (v : Word64) (o : Nat), regAt off.toNat = none → areaAt (accessSpan off.toNat a).1 = some (.tollData, o) →
      permitted .host 8 s = true → inOneBlock .tollData o (accessSpan off.toNat a).2 = true →
      ∃ t, exec (.registerWrite off a v) s = .next t ∧
        t = { dropHeld .host s with toll := { s.toll with host := { s.toll.host with data := t.toll.host.data } } } ∧
        (∀ i, i < (accessSpan off.toNat a).2 → sget 0 t.toll.host.data (o + i) = byteOf v i) ∧
        (∀ i, (i < o ∨ o + (accessSpan off.toNat a).2 ≤ i) → sget 0 t.toll.host.data i = sget 0 s.toll.host.data i)) ∧
    (∀ v : Word64, permitted .host 6 s = true →
      (regAt off.toNat = some .evtPending → exec (.registerWrite off .whole v) s = .next { dropHeld .host s with
        evt := { s.evt with pending := s.evt.pending &&& ~~~(v.setWidth 15) } }) ∧
      (regAt off.toNat = some .evtMask → exec (.registerWrite off .whole v) s = .next { dropHeld .host s with
        evt := { s.evt with mask := v.setWidth 15 &&& 0x7FFE#15 } })) ∧
    (∀ v : Word64, permitted .host 1 s = true → regAt off.toNat = some .manStatus →
      exec (.registerWrite off .whole v) s = .next { dropHeld .host s with
        man := { s.man with permDenied := s.man.permDenied && !v.getLsbD 7 } })

/-- REGISTER_HALF_READ (R418, R421): a read answers with the register's value, little-endian; the low half captures the
whole register, and the high half of the same register then answers from what was captured, whatever the register holds by
then. Only the host port changes. A read of bytes is one of a register where it has 8 bytes, or 4 of a half of it; any other that lies in
one 64-byte block of an area returns the area's bytes, a result window answering as R284 says (R426), and the rest return zero. -/
def Obligations.RegisterReadsAnswer : Prop :=
  (∀ (s : State) (off : BitVec 28) (a : Access) (n : Option Nat), s.pwr.mainDown = true → exec (.registerHalfRead off a n) s = .next s) ∧
  (∀ (s : State) (off : BitVec 28) (a : Access) (n : Nat), s.pwr.mainDown = false →
    let read := exec (.registerHalfRead off a (some n)) s
    let zero : Host.Outcome State Fault Refusal := .next { s with hostp := { s.hostp with data := List.replicate n 0, code := 0, poison := false } }
    (n = 8 → regAt off.toNat ≠ none → read = exec (.registerHalfRead off .whole) s) ∧
    (n = 4 → regAt off.toNat ≠ none → read = exec (.registerHalfRead off .low) s) ∧
    (n = 4 → ∀ o : BitVec 28, off.toNat = o.toNat + 4 → regAt o.toNat ≠ none → read = exec (.registerHalfRead o .high) s) ∧
    (bytesAccess off.toNat n = none →
      (areaAt off.toNat = none → read = zero) ∧
      (∀ x o, areaAt off.toNat = some (x, o) →
        (inOneBlock x o n = false → read = zero) ∧
        (inOneBlock x o n = true → x ≠ .results → read = .next { s with hostp := { s.hostp with
          data := (List.range n).map (fun i => areaByte s .host x (o + i)), code := 0, poison := false } }) ∧
        (inOneBlock x o n = true → x = .results → mainStopped s = false → read = exec (.resultWindowRead (BitVec.ofNat 27 o) n) s)))) ∧
  (∀ (s : State) (off : BitVec 28) (a : Access), s.pwr.mainDown = false → regAt off.toNat = none →
    let n := (accessSpan off.toNat a).2
    ∀ o : BitVec 28, o.toNat = (accessSpan off.toNat a).1 → bytesAccess o.toNat n = none →
      exec (.registerHalfRead off a) s = exec (.registerHalfRead o a (some n)) s) ∧
  ∀ (s : State) (off : BitVec 28) (r : Reg), s.pwr.mainDown = false → regAt off.toNat = some r →
    let v := (readReg s .host r).toNat
    exec (.registerHalfRead off .whole) s =
      .next { s with hostp := { s.hostp with data := leBytes 8 v, code := 0, poison := false } } ∧
    exec (.registerHalfRead off .low) s = .next { s with hostp := { s.hostp with
      capture := some (off.toNat, v), data := leBytes 4 (v % 2 ^ 32), code := 0, poison := false } } ∧
    (∀ w, s.hostp.capture = some (off.toNat, w) → exec (.registerHalfRead off .high) s = .next { s with hostp :=
      { s.hostp with capture := none, data := leBytes 4 (w / 2 ^ 32 % 2 ^ 32), code := 0, poison := false } }) ∧
    ((∀ w, s.hostp.capture ≠ some (off.toNat, w)) → exec (.registerHalfRead off .high) s = .next { s with hostp :=
      { s.hostp with data := leBytes 4 (v / 2 ^ 32 % 2 ^ 32), code := 0, poison := false } })

/-! ## What leaves the scratchpad alone -/

/-- Every command but those of the array, the events that let one form its outputs, a restore and what can begin a cold
reset leaves every byte of the scratchpad as it was. -/
def Obligations.QuietCommandsKeepScratchpad : Prop :=
  ∀ (c : Instr) (s t : State), mayWriteScratchpad c = false → exec c s = .next t → SameMemory s t
end

