-- ==== Sys2Proof/Laws/Memory.lean ====
section
/-! SUPPORT. Sparse maps: reading after writing, and every write keeps the canonical form. -/

namespace Sys2Proof.Machine

variable {α : Type}

theorem sget_of_above {d : α} {m : List (Nat × α)} {k : Nat} (h : ∀ p ∈ m, k < p.1) : sget d m k = d := by
  induction m with
  | nil => rfl
  | cons p rest ih =>
    obtain ⟨k', v⟩ := p
    have hk : k < k' := h (k', v) (by simp)
    simp only [sget, if_neg (Nat.ne_of_gt hk)]
    exact ih (fun q hq => h q (by simp [hq]))

theorem mem_sput {m : List (Nat × α)} {k : Nat} {v : Option α} {p : Nat × α} (h : p ∈ sput m k v) :
    p ∈ m ∨ (p.1 = k ∧ v = some p.2) := by
  induction m with
  | nil => cases v <;> simp_all [sput]
  | cons q rest ih =>
    obtain ⟨k', a'⟩ := q
    simp only [sput] at h
    split at h
    · rcases List.mem_cons.1 h with h | h
      · exact .inl (by simp [h])
      · rcases ih h with h | h
        · exact .inl (by simp [h])
        · exact .inr h
    · cases v with
      | none => exact .inl (List.mem_of_mem_filter h)
      | some a =>
        rcases List.mem_cons.1 h with h | h
        · subst h; exact .inr ⟨rfl, rfl⟩
        · exact .inl (List.mem_of_mem_filter h)

theorem sput_sorted {m : List (Nat × α)} {k : Nat} {v : Option α} (h : (m.map Prod.fst).Pairwise (· < ·)) :
    ((sput m k v).map Prod.fst).Pairwise (· < ·) := by
  induction m with
  | nil => cases v <;> simp [sput]
  | cons q rest ih =>
    obtain ⟨k', a'⟩ := q
    have hs : ((((k', a') :: rest).filter (fun p => p.1 != k)).map Prod.fst).Pairwise (· < ·) :=
      h.sublist (List.filter_sublist.map _)
    simp only [List.map_cons, List.pairwise_cons, List.mem_map] at h
    simp only [sput]
    split
    · rename_i hlt
      simp only [List.map_cons, List.pairwise_cons, List.mem_map]
      refine ⟨?_, ih h.2⟩
      rintro _ ⟨p, hp, rfl⟩
      rcases mem_sput hp with hp | hp
      · exact h.1 _ ⟨p, hp, rfl⟩
      · omega
    · rename_i hge
      cases v with
      | none => exact hs
      | some a =>
        refine List.pairwise_cons.2 ⟨?_, hs⟩
        intro x hx
        obtain ⟨p, hp, rfl⟩ := List.mem_map.1 hx
        have hne : p.1 ≠ k := by simpa using List.of_mem_filter hp
        rcases List.mem_cons.1 (List.mem_of_mem_filter hp) with rfl | hq
        · show k < k'
          have : k' ≠ k := hne
          omega
        · have : k' < p.1 := h.1 _ ⟨p, hq, rfl⟩
          show k < p.1
          omega

/-- A key dropped from a list reads as the default there, and every other key as before. -/
theorem sget_without (d : α) (m : List (Nat × α)) (k j : Nat) :
    sget d (m.filter (fun p => p.1 != k)) j = if j = k then d else sget d m j := by
  induction m with
  | nil => simp [sget]
  | cons q rest ih =>
    obtain ⟨k', a'⟩ := q
    by_cases hk : k' = k
    · subst hk
      simp only [List.filter_cons, bne_self_eq_false, Bool.false_eq_true, ↓reduceIte, ih, sget]
      split
      · rfl
      · rename_i hj; rw [if_neg (Ne.symm hj)]
    · have : ((k', a').1 != k) = true := by simpa using hk
      simp only [List.filter_cons, this, ↓reduceIte, sget, ih]
      split
      · rename_i hj; subst hj; rw [if_neg hk]
      · rfl

/-- Writing an entry leaves every other key as it was, and the key reads as written. -/
theorem sget_sput (d : α) (m : List (Nat × α)) (k : Nat) (v : Option α) (j : Nat) :
    sget d (sput m k v) j = if j = k then v.getD d else sget d m j := by
  induction m with
  | nil => cases v <;> simp [sput, sget, eq_comm]
  | cons q rest ih =>
    obtain ⟨k', a'⟩ := q
    simp only [sput]
    split
    · simp only [sget, ih]
      split <;> split <;> first | rfl | omega
    · cases v with
      | none => rw [sget_without]; rfl
      | some a =>
        simp only [sget, sget_without, Option.getD_some]
        by_cases hj : j = k
        · subst hj; simp
        · simp [hj, Ne.symm hj]

@[simp] theorem sget_sset [DecidableEq α] (d : α) (m : List (Nat × α)) (k : Nat) (v : α) (j : Nat) :
    sget d (sset d m k v) j = if j = k then v else sget d m j := by
  rw [sset, sget_sput d]
  split
  · split <;> simp_all
  · rfl

/-- A write keeps the canonical form. -/
theorem sset_wf [DecidableEq α] (d : α) {m : List (Nat × α)} (h : swf d m) (k : Nat) (v : α) : swf d (sset d m k v) := by
  refine ⟨sput_sorted h.1, fun p hp => ?_⟩
  rcases mem_sput hp with hp | ⟨_, hp⟩
  · exact h.2 p hp
  · split at hp
    · cases hp
    · rename_i hv; cases hp; exact hv

theorem zipIdx_keys {vs : List α} {off : Nat} :
    ((vs.zipIdx off).map (fun x => (x.2, x.1))).map Prod.fst = (List.range' off vs.length) := by
  rw [List.map_map]
  simp [Function.comp_def, List.zipIdx_map_snd]

theorem sblit_sorted [DecidableEq α] (d : α) {m : List (Nat × α)} (h : (m.map Prod.fst).Pairwise (· < ·)) (off : Nat)
    (vs : List α) : ((sblit d m off vs).map Prod.fst).Pairwise (· < ·) := by
  have hm : m.Pairwise (fun p q => p.1 < q.1) := List.pairwise_map.1 h
  have hz : ((vs.zipIdx off).map (fun x => (x.2, x.1))).Pairwise (fun p q : Nat × α => p.1 < q.1) := by
    rw [← List.pairwise_map (f := Prod.fst) (R := (· < ·)), zipIdx_keys]
    exact List.pairwise_lt_range'
  have hzk : ∀ p ∈ (vs.zipIdx off).map (fun x => (x.2, x.1)), off ≤ p.1 ∧ p.1 < off + vs.length := by
    intro p hp
    have : p.1 ∈ ((vs.zipIdx off).map (fun x => (x.2, x.1))).map Prod.fst := List.mem_map_of_mem hp
    rw [zipIdx_keys] at this
    simpa [List.mem_range'_1] using this
  rw [List.pairwise_map, sblit, List.pairwise_append, List.pairwise_append]
  refine ⟨⟨hm.filter _, hz.filter _, ?_⟩, hm.filter _, ?_⟩
  · intro p hp q hq
    have := hzk q (List.mem_of_mem_filter hq)
    have h2 := (List.mem_filter.1 hp).2
    simp at h2; omega
  · intro p hp q hq
    have h2 := (List.mem_filter.1 hq).2
    simp at h2
    rcases List.mem_append.1 hp with hp | hp
    · have h1 := (List.mem_filter.1 hp).2
      simp at h1; omega
    · have := hzk p (List.mem_of_mem_filter hp); omega

/-- A run of writes keeps the canonical form. -/
theorem sblit_wf [DecidableEq α] (d : α) {m : List (Nat × α)} (h : swf d m) (off : Nat) (vs : List α) :
    swf d (sblit d m off vs) := by
  refine ⟨sblit_sorted d h.1 off vs, fun p hp => ?_⟩
  simp only [sblit, List.mem_append, List.mem_filter] at hp
  rcases hp with (hp | hp) | hp
  · exact h.2 p hp.1
  · simpa using hp.2
  · exact h.2 p hp.1

theorem sget_append_left {d : α} {xs ys : List (Nat × α)} {a : Nat} (h : ∀ p ∈ xs, p.1 ≠ a) :
    sget d (xs ++ ys) a = sget d ys a := by
  induction xs with
  | nil => rfl
  | cons p rest ih =>
    obtain ⟨k, v⟩ := p
    have : k ≠ a := h (k, v) (by simp)
    simp only [List.cons_append, sget, if_neg this]
    exact ih (fun q hq => h q (by simp [hq]))

theorem sget_append_right {d : α} {xs ys : List (Nat × α)} {a : Nat} (h : ∀ p ∈ ys, p.1 ≠ a) :
    sget d (xs ++ ys) a = sget d xs a := by
  induction xs with
  | nil =>
    induction ys with
    | nil => rfl
    | cons p rest ih =>
      obtain ⟨k, v⟩ := p
      have : k ≠ a := h (k, v) (by simp)
      simp only [List.nil_append, sget, if_neg this]
      exact ih (fun q hq => h q (by simp [hq]))
  | cons p rest ih =>
    obtain ⟨k, v⟩ := p
    simp only [List.cons_append, sget]
    split
    · rfl
    · exact ih

theorem sget_filter {d : α} {m : List (Nat × α)} {f : Nat → Bool} {a : Nat} (h : f a = true) :
    sget d (m.filter (fun p => f p.1)) a = sget d m a := by
  induction m with
  | nil => rfl
  | cons p rest ih =>
    obtain ⟨k, v⟩ := p
    simp only [List.filter_cons]
    by_cases hk : k = a
    · subst hk; simp [h, sget]
    · split
      · simp [sget, hk, ih]
      · simp [sget, hk, ih]

/-- Outside a run of writes every key reads as before. -/
theorem sget_sblit_outside [DecidableEq α] (d : α) (m : List (Nat × α)) (off : Nat) (vs : List α) (a : Nat)
    (h : a < off ∨ off + vs.length ≤ a) : sget d (sblit d m off vs) a = sget d m a := by
  have hz : ∀ p ∈ ((vs.zipIdx off).map (fun x => (x.2, x.1))).filter (fun p => decide (p.2 ≠ d)), p.1 ≠ a := by
    intro p hp
    have hp' := List.mem_of_mem_filter hp
    have : p.1 ∈ ((vs.zipIdx off).map (fun x => (x.2, x.1))).map Prod.fst := List.mem_map_of_mem hp'
    rw [zipIdx_keys] at this
    have := List.mem_range'_1.1 this
    omega
  rw [sblit]
  rcases h with h | h
  · rw [sget_append_right, sget_append_right hz]
    · exact sget_filter (f := fun k => decide (k < off)) (by simpa using h)
    · intro p hp
      have := (List.mem_filter.1 hp).2
      simp at this; omega
  · rw [sget_append_left]
    · exact sget_filter (f := fun k => decide (off + vs.length ≤ k)) (by simpa using h)
    · intro p hp
      rcases List.mem_append.1 hp with hp | hp
      · have := (List.mem_filter.1 hp).2
        simp at this; omega
      · exact hz p hp

/-- Reading a run of writes gives the bytes written. -/
theorem sget_sblit_inside [DecidableEq α] (d : α) (m : List (Nat × α)) (off : Nat) (vs : List α) (i : Nat)
    (h : i < vs.length) : sget d (sblit d m off vs) (off + i) = vs.getD i d := by
  have hlow : ∀ p ∈ m.filter (fun p => decide (p.1 < off)), p.1 ≠ off + i := by
    intro p hp
    have := (List.mem_filter.1 hp).2
    simp at this; omega
  have hhigh : ∀ p ∈ m.filter (fun p => decide (off + vs.length ≤ p.1)), p.1 ≠ off + i := by
    intro p hp
    have := (List.mem_filter.1 hp).2
    simp at this; omega
  rw [sblit, sget_append_right hhigh, sget_append_left hlow]
  clear hlow hhigh
  induction vs generalizing off i with
  | nil => simp at h
  | cons v vs ih =>
    simp only [List.zipIdx_cons, List.map_cons, List.filter_cons]
    cases i with
    | zero =>
      split
      · simp [sget]
      · rename_i hv
        simp at hv
        subst hv
        simp only [Nat.add_zero, List.getD_cons_zero]
        apply sget_of_above
        intro p hp
        have : p.1 ∈ ((vs.zipIdx (off + 1)).map (fun x => (x.2, x.1))).map Prod.fst :=
          List.mem_map_of_mem (List.mem_of_mem_filter hp)
        rw [zipIdx_keys] at this
        have := List.mem_range'_1.1 this
        omega
    | succ i =>
      have := ih (off + 1) i (by simpa using h)
      have e : off + 1 + i = off + (i + 1) := by omega
      rw [e] at this
      split
      · simp only [sget]
        rw [if_neg (by omega)]
        simpa using this
      · simpa using this

theorem memory_wf_iff (m : List Host.Cell) : Memory.wf m ↔ swf (0 : Byte) m := Iff.rfl

theorem reset_memory_wf : Memory.wf State.reset.sp.mem := by decide

/-- The value at an index of a list that holds one entry per index. -/
theorem sget_map_range' {α : Type} (d : α) (f : Nat → α) (a n w : Nat) (h : a ≤ w) (k : w < a + n) :
    sget d ((List.range' a n).map (fun i => (i, f i))) w = f w := by
  induction n generalizing a with
  | zero => omega
  | succ n ih =>
    simp only [List.range'_succ, List.map_cons, sget]
    split
    · rename_i e; rw [e]
    · exact ih (a + 1) (by omega) (by omega)

theorem sget_map_range {α : Type} (d : α) (f : Nat → α) (n w : Nat) (k : w < n) :
    sget d ((List.range n).map (fun i => (i, f i))) w = f w := by
  rw [List.range_eq_range']
  exact sget_map_range' d f 0 n w (Nat.zero_le _) (by omega)

end Sys2Proof.Machine
end

