-- ==== Sys2Proof/Laws/State.lean ====
section
/-! SUPPORT. One small lemma per field of the state and per update: what each shared update leaves as it was, and what
it sets, so that no proof unfolds a record update. -/

namespace Sys2Proof.Machine

variable (s : State)

/-! ## `deny` -/

@[simp] theorem deny_pending : (deny s).pending = s.pending := rfl
@[simp] theorem deny_crs : (deny s).crs = s.crs := rfl
@[simp] theorem deny_cq : (deny s).cq = s.cq := rfl
@[simp] theorem deny_keep : (deny s).keep = s.keep := rfl
@[simp] theorem deny_isl : (deny s).isl = s.isl := rfl
@[simp] theorem deny_rtv : (deny s).rtv = s.rtv := rfl
@[simp] theorem deny_sp : (deny s).sp = s.sp := rfl
@[simp] theorem deny_tbl : (deny s).tbl = s.tbl := rfl
@[simp] theorem deny_arr : (deny s).arr = s.arr := rfl
@[simp] theorem deny_ken : (deny s).ken = s.ken := rfl
@[simp] theorem deny_tow : (deny s).tow = s.tow := rfl
@[simp] theorem deny_dgst : (deny s).dgst = s.dgst := rfl
@[simp] theorem deny_toll : (deny s).toll = s.toll := rfl
@[simp] theorem deny_pwr : (deny s).pwr = s.pwr := rfl
@[simp] theorem deny_sb : (deny s).sb = s.sb := rfl
@[simp] theorem deny_hostp : (deny s).hostp = s.hostp := rfl
@[simp] theorem deny_evt : (deny s).evt = s.evt := rfl
@[simp] theorem deny_stepping : (deny s).stepping = s.stepping := rfl
@[simp] theorem deny_free : (deny s).free = s.free := rfl

/-! ## `dropHeld` -/

@[simp] theorem dropHeld_pending (p : Port) : (dropHeld p s).pending = s.pending := by cases p <;> rfl
@[simp] theorem dropHeld_man (p : Port) : (dropHeld p s).man = s.man := by cases p <;> rfl
@[simp] theorem dropHeld_crs (p : Port) : (dropHeld p s).crs = s.crs := by cases p <;> rfl
@[simp] theorem dropHeld_cq (p : Port) : (dropHeld p s).cq = s.cq := by cases p <;> rfl
@[simp] theorem dropHeld_keep (p : Port) : (dropHeld p s).keep = s.keep := by cases p <;> rfl
@[simp] theorem dropHeld_isl (p : Port) : (dropHeld p s).isl = s.isl := by cases p <;> rfl
@[simp] theorem dropHeld_rtv (p : Port) : (dropHeld p s).rtv = s.rtv := by cases p <;> rfl
@[simp] theorem dropHeld_sp (p : Port) : (dropHeld p s).sp = s.sp := by cases p <;> rfl
@[simp] theorem dropHeld_tbl (p : Port) : (dropHeld p s).tbl = s.tbl := by cases p <;> rfl
@[simp] theorem dropHeld_arr (p : Port) : (dropHeld p s).arr = s.arr := by cases p <;> rfl
@[simp] theorem dropHeld_ken (p : Port) : (dropHeld p s).ken = s.ken := by cases p <;> rfl
@[simp] theorem dropHeld_tow (p : Port) : (dropHeld p s).tow = s.tow := by cases p <;> rfl
@[simp] theorem dropHeld_dgst (p : Port) : (dropHeld p s).dgst = s.dgst := by cases p <;> rfl
@[simp] theorem dropHeld_toll (p : Port) : (dropHeld p s).toll = s.toll := by cases p <;> rfl
@[simp] theorem dropHeld_pwr (p : Port) : (dropHeld p s).pwr = s.pwr := by cases p <;> rfl
@[simp] theorem dropHeld_evt (p : Port) : (dropHeld p s).evt = s.evt := by cases p <;> rfl
@[simp] theorem dropHeld_stepping (p : Port) : (dropHeld p s).stepping = s.stepping := by cases p <;> rfl
@[simp] theorem dropHeld_free (p : Port) : (dropHeld p s).free = s.free := by cases p <;> rfl

/-! ## `raise` -/

@[simp] theorem raise_pending (k : Nat) (c : Option (Nat × Nat)) (d0 d1 : Nat) : (raise k c d0 d1 s).pending = s.pending := by unfold raise; split <;> rfl
@[simp] theorem raise_man (k : Nat) (c : Option (Nat × Nat)) (d0 d1 : Nat) : (raise k c d0 d1 s).man = s.man := by unfold raise; split <;> rfl
@[simp] theorem raise_crs (k : Nat) (c : Option (Nat × Nat)) (d0 d1 : Nat) : (raise k c d0 d1 s).crs = s.crs := by unfold raise; split <;> rfl
@[simp] theorem raise_cq (k : Nat) (c : Option (Nat × Nat)) (d0 d1 : Nat) : (raise k c d0 d1 s).cq = s.cq := by unfold raise; split <;> rfl
@[simp] theorem raise_keep (k : Nat) (c : Option (Nat × Nat)) (d0 d1 : Nat) : (raise k c d0 d1 s).keep = s.keep := by unfold raise; split <;> rfl
@[simp] theorem raise_isl (k : Nat) (c : Option (Nat × Nat)) (d0 d1 : Nat) : (raise k c d0 d1 s).isl = s.isl := by unfold raise; split <;> rfl
@[simp] theorem raise_rtv (k : Nat) (c : Option (Nat × Nat)) (d0 d1 : Nat) : (raise k c d0 d1 s).rtv = s.rtv := by unfold raise; split <;> rfl
@[simp] theorem raise_sp (k : Nat) (c : Option (Nat × Nat)) (d0 d1 : Nat) : (raise k c d0 d1 s).sp = s.sp := by unfold raise; split <;> rfl
@[simp] theorem raise_tbl (k : Nat) (c : Option (Nat × Nat)) (d0 d1 : Nat) : (raise k c d0 d1 s).tbl = s.tbl := by unfold raise; split <;> rfl
@[simp] theorem raise_arr (k : Nat) (c : Option (Nat × Nat)) (d0 d1 : Nat) : (raise k c d0 d1 s).arr = s.arr := by unfold raise; split <;> rfl
@[simp] theorem raise_ken (k : Nat) (c : Option (Nat × Nat)) (d0 d1 : Nat) : (raise k c d0 d1 s).ken = s.ken := by unfold raise; split <;> rfl
@[simp] theorem raise_tow (k : Nat) (c : Option (Nat × Nat)) (d0 d1 : Nat) : (raise k c d0 d1 s).tow = s.tow := by unfold raise; split <;> rfl
@[simp] theorem raise_dgst (k : Nat) (c : Option (Nat × Nat)) (d0 d1 : Nat) : (raise k c d0 d1 s).dgst = s.dgst := by unfold raise; split <;> rfl
@[simp] theorem raise_toll (k : Nat) (c : Option (Nat × Nat)) (d0 d1 : Nat) : (raise k c d0 d1 s).toll = s.toll := by unfold raise; split <;> rfl
@[simp] theorem raise_pwr (k : Nat) (c : Option (Nat × Nat)) (d0 d1 : Nat) : (raise k c d0 d1 s).pwr = s.pwr := by unfold raise; split <;> rfl
@[simp] theorem raise_sb (k : Nat) (c : Option (Nat × Nat)) (d0 d1 : Nat) : (raise k c d0 d1 s).sb = s.sb := by unfold raise; split <;> rfl
@[simp] theorem raise_hostp (k : Nat) (c : Option (Nat × Nat)) (d0 d1 : Nat) : (raise k c d0 d1 s).hostp = s.hostp := by unfold raise; split <;> rfl
@[simp] theorem raise_stepping (k : Nat) (c : Option (Nat × Nat)) (d0 d1 : Nat) : (raise k c d0 d1 s).stepping = s.stepping := by unfold raise; split <;> rfl
@[simp] theorem raise_free (k : Nat) (c : Option (Nat × Nat)) (d0 d1 : Nat) : (raise k c d0 d1 s).free = s.free := by unfold raise; split <;> rfl

/-! ## `refuseManifest` -/

@[simp] theorem refuseManifest_pending (r : Nat) : (refuseManifest r s).pending = s.pending := by simp [refuseManifest]
@[simp] theorem refuseManifest_crs (r : Nat) : (refuseManifest r s).crs = s.crs := by simp [refuseManifest]
@[simp] theorem refuseManifest_cq (r : Nat) : (refuseManifest r s).cq = s.cq := by simp [refuseManifest]
@[simp] theorem refuseManifest_keep (r : Nat) : (refuseManifest r s).keep = s.keep := by simp [refuseManifest]
@[simp] theorem refuseManifest_isl (r : Nat) : (refuseManifest r s).isl = s.isl := by simp [refuseManifest]
@[simp] theorem refuseManifest_rtv (r : Nat) : (refuseManifest r s).rtv = s.rtv := by simp [refuseManifest]
@[simp] theorem refuseManifest_sp (r : Nat) : (refuseManifest r s).sp = s.sp := by simp [refuseManifest]
@[simp] theorem refuseManifest_tbl (r : Nat) : (refuseManifest r s).tbl = s.tbl := by simp [refuseManifest]
@[simp] theorem refuseManifest_arr (r : Nat) : (refuseManifest r s).arr = s.arr := by simp [refuseManifest]
@[simp] theorem refuseManifest_ken (r : Nat) : (refuseManifest r s).ken = s.ken := by simp [refuseManifest]
@[simp] theorem refuseManifest_tow (r : Nat) : (refuseManifest r s).tow = s.tow := by simp [refuseManifest]
@[simp] theorem refuseManifest_dgst (r : Nat) : (refuseManifest r s).dgst = s.dgst := by simp [refuseManifest]
@[simp] theorem refuseManifest_toll (r : Nat) : (refuseManifest r s).toll = s.toll := by simp [refuseManifest]
@[simp] theorem refuseManifest_pwr (r : Nat) : (refuseManifest r s).pwr = s.pwr := by simp [refuseManifest]
@[simp] theorem refuseManifest_sb (r : Nat) : (refuseManifest r s).sb = s.sb := by simp [refuseManifest]
@[simp] theorem refuseManifest_hostp (r : Nat) : (refuseManifest r s).hostp = s.hostp := by simp [refuseManifest]
@[simp] theorem refuseManifest_stepping (r : Nat) : (refuseManifest r s).stepping = s.stepping := by simp [refuseManifest]
@[simp] theorem refuseManifest_free (r : Nat) : (refuseManifest r s).free = s.free := by simp [refuseManifest]

/-! ## `setEntry` -/

@[simp] theorem setEntry_pending (e : Entry) : (setEntry e s).pending = s.pending := rfl
@[simp] theorem setEntry_man (e : Entry) : (setEntry e s).man = s.man := rfl
@[simp] theorem setEntry_crs (e : Entry) : (setEntry e s).crs = s.crs := rfl
@[simp] theorem setEntry_keep (e : Entry) : (setEntry e s).keep = s.keep := rfl
@[simp] theorem setEntry_isl (e : Entry) : (setEntry e s).isl = s.isl := rfl
@[simp] theorem setEntry_rtv (e : Entry) : (setEntry e s).rtv = s.rtv := rfl
@[simp] theorem setEntry_sp (e : Entry) : (setEntry e s).sp = s.sp := rfl
@[simp] theorem setEntry_tbl (e : Entry) : (setEntry e s).tbl = s.tbl := rfl
@[simp] theorem setEntry_arr (e : Entry) : (setEntry e s).arr = s.arr := rfl
@[simp] theorem setEntry_ken (e : Entry) : (setEntry e s).ken = s.ken := rfl
@[simp] theorem setEntry_tow (e : Entry) : (setEntry e s).tow = s.tow := rfl
@[simp] theorem setEntry_dgst (e : Entry) : (setEntry e s).dgst = s.dgst := rfl
@[simp] theorem setEntry_toll (e : Entry) : (setEntry e s).toll = s.toll := rfl
@[simp] theorem setEntry_pwr (e : Entry) : (setEntry e s).pwr = s.pwr := rfl
@[simp] theorem setEntry_sb (e : Entry) : (setEntry e s).sb = s.sb := rfl
@[simp] theorem setEntry_hostp (e : Entry) : (setEntry e s).hostp = s.hostp := rfl
@[simp] theorem setEntry_evt (e : Entry) : (setEntry e s).evt = s.evt := rfl
@[simp] theorem setEntry_stepping (e : Entry) : (setEntry e s).stepping = s.stepping := rfl
@[simp] theorem setEntry_free (e : Entry) : (setEntry e s).free = s.free := rfl

/-! ## `dropEntry` -/

@[simp] theorem dropEntry_pending (b q : Nat) : (dropEntry b q s).pending = s.pending := rfl
@[simp] theorem dropEntry_man (b q : Nat) : (dropEntry b q s).man = s.man := rfl
@[simp] theorem dropEntry_crs (b q : Nat) : (dropEntry b q s).crs = s.crs := rfl
@[simp] theorem dropEntry_keep (b q : Nat) : (dropEntry b q s).keep = s.keep := rfl
@[simp] theorem dropEntry_isl (b q : Nat) : (dropEntry b q s).isl = s.isl := rfl
@[simp] theorem dropEntry_rtv (b q : Nat) : (dropEntry b q s).rtv = s.rtv := rfl
@[simp] theorem dropEntry_sp (b q : Nat) : (dropEntry b q s).sp = s.sp := rfl
@[simp] theorem dropEntry_tbl (b q : Nat) : (dropEntry b q s).tbl = s.tbl := rfl
@[simp] theorem dropEntry_arr (b q : Nat) : (dropEntry b q s).arr = s.arr := rfl
@[simp] theorem dropEntry_ken (b q : Nat) : (dropEntry b q s).ken = s.ken := rfl
@[simp] theorem dropEntry_tow (b q : Nat) : (dropEntry b q s).tow = s.tow := rfl
@[simp] theorem dropEntry_dgst (b q : Nat) : (dropEntry b q s).dgst = s.dgst := rfl
@[simp] theorem dropEntry_toll (b q : Nat) : (dropEntry b q s).toll = s.toll := rfl
@[simp] theorem dropEntry_pwr (b q : Nat) : (dropEntry b q s).pwr = s.pwr := rfl
@[simp] theorem dropEntry_sb (b q : Nat) : (dropEntry b q s).sb = s.sb := rfl
@[simp] theorem dropEntry_hostp (b q : Nat) : (dropEntry b q s).hostp = s.hostp := rfl
@[simp] theorem dropEntry_evt (b q : Nat) : (dropEntry b q s).evt = s.evt := rfl
@[simp] theorem dropEntry_stepping (b q : Nat) : (dropEntry b q s).stepping = s.stepping := rfl
@[simp] theorem dropEntry_free (b q : Nat) : (dropEntry b q s).free = s.free := rfl

/-! ## `latch` -/

@[simp] theorem latch_pending (r v : Nat) : (latch r v s).pending = s.pending := rfl
@[simp] theorem latch_man (r v : Nat) : (latch r v s).man = s.man := rfl
@[simp] theorem latch_cq (r v : Nat) : (latch r v s).cq = s.cq := rfl
@[simp] theorem latch_keep (r v : Nat) : (latch r v s).keep = s.keep := rfl
@[simp] theorem latch_isl (r v : Nat) : (latch r v s).isl = s.isl := rfl
@[simp] theorem latch_rtv (r v : Nat) : (latch r v s).rtv = s.rtv := rfl
@[simp] theorem latch_sp (r v : Nat) : (latch r v s).sp = s.sp := rfl
@[simp] theorem latch_tbl (r v : Nat) : (latch r v s).tbl = s.tbl := rfl
@[simp] theorem latch_arr (r v : Nat) : (latch r v s).arr = s.arr := rfl
@[simp] theorem latch_ken (r v : Nat) : (latch r v s).ken = s.ken := rfl
@[simp] theorem latch_tow (r v : Nat) : (latch r v s).tow = s.tow := rfl
@[simp] theorem latch_dgst (r v : Nat) : (latch r v s).dgst = s.dgst := rfl
@[simp] theorem latch_toll (r v : Nat) : (latch r v s).toll = s.toll := rfl
@[simp] theorem latch_pwr (r v : Nat) : (latch r v s).pwr = s.pwr := rfl
@[simp] theorem latch_sb (r v : Nat) : (latch r v s).sb = s.sb := rfl
@[simp] theorem latch_hostp (r v : Nat) : (latch r v s).hostp = s.hostp := rfl
@[simp] theorem latch_evt (r v : Nat) : (latch r v s).evt = s.evt := rfl
@[simp] theorem latch_stepping (r v : Nat) : (latch r v s).stepping = s.stepping := rfl
@[simp] theorem latch_free (r v : Nat) : (latch r v s).free = s.free := rfl

/-! ## `setMark` -/

@[simp] theorem setMark_pending (l : Nat) (m : Bool) : (setMark l m s).pending = s.pending := rfl
@[simp] theorem setMark_man (l : Nat) (m : Bool) : (setMark l m s).man = s.man := rfl
@[simp] theorem setMark_crs (l : Nat) (m : Bool) : (setMark l m s).crs = s.crs := rfl
@[simp] theorem setMark_cq (l : Nat) (m : Bool) : (setMark l m s).cq = s.cq := rfl
@[simp] theorem setMark_keep (l : Nat) (m : Bool) : (setMark l m s).keep = s.keep := rfl
@[simp] theorem setMark_isl (l : Nat) (m : Bool) : (setMark l m s).isl = s.isl := rfl
@[simp] theorem setMark_rtv (l : Nat) (m : Bool) : (setMark l m s).rtv = s.rtv := rfl
@[simp] theorem setMark_tbl (l : Nat) (m : Bool) : (setMark l m s).tbl = s.tbl := rfl
@[simp] theorem setMark_arr (l : Nat) (m : Bool) : (setMark l m s).arr = s.arr := rfl
@[simp] theorem setMark_ken (l : Nat) (m : Bool) : (setMark l m s).ken = s.ken := rfl
@[simp] theorem setMark_tow (l : Nat) (m : Bool) : (setMark l m s).tow = s.tow := rfl
@[simp] theorem setMark_dgst (l : Nat) (m : Bool) : (setMark l m s).dgst = s.dgst := rfl
@[simp] theorem setMark_toll (l : Nat) (m : Bool) : (setMark l m s).toll = s.toll := rfl
@[simp] theorem setMark_pwr (l : Nat) (m : Bool) : (setMark l m s).pwr = s.pwr := rfl
@[simp] theorem setMark_sb (l : Nat) (m : Bool) : (setMark l m s).sb = s.sb := rfl
@[simp] theorem setMark_hostp (l : Nat) (m : Bool) : (setMark l m s).hostp = s.hostp := rfl
@[simp] theorem setMark_evt (l : Nat) (m : Bool) : (setMark l m s).evt = s.evt := rfl
@[simp] theorem setMark_stepping (l : Nat) (m : Bool) : (setMark l m s).stepping = s.stepping := rfl
@[simp] theorem setMark_free (l : Nat) (m : Bool) : (setMark l m s).free = s.free := rfl

/-! ## `invalidateSegment` -/

@[simp] theorem invalidateSegment_pending (l : Nat) : (invalidateSegment l s).pending = s.pending := rfl
@[simp] theorem invalidateSegment_man (l : Nat) : (invalidateSegment l s).man = s.man := rfl
@[simp] theorem invalidateSegment_crs (l : Nat) : (invalidateSegment l s).crs = s.crs := rfl
@[simp] theorem invalidateSegment_cq (l : Nat) : (invalidateSegment l s).cq = s.cq := rfl
@[simp] theorem invalidateSegment_keep (l : Nat) : (invalidateSegment l s).keep = s.keep := rfl
@[simp] theorem invalidateSegment_isl (l : Nat) : (invalidateSegment l s).isl = s.isl := rfl
@[simp] theorem invalidateSegment_rtv (l : Nat) : (invalidateSegment l s).rtv = s.rtv := rfl
@[simp] theorem invalidateSegment_sp (l : Nat) : (invalidateSegment l s).sp = s.sp := rfl
@[simp] theorem invalidateSegment_tbl (l : Nat) : (invalidateSegment l s).tbl = s.tbl := rfl
@[simp] theorem invalidateSegment_arr (l : Nat) : (invalidateSegment l s).arr = s.arr := rfl
@[simp] theorem invalidateSegment_ken (l : Nat) : (invalidateSegment l s).ken = s.ken := rfl
@[simp] theorem invalidateSegment_tow (l : Nat) : (invalidateSegment l s).tow = s.tow := rfl
@[simp] theorem invalidateSegment_toll (l : Nat) : (invalidateSegment l s).toll = s.toll := rfl
@[simp] theorem invalidateSegment_pwr (l : Nat) : (invalidateSegment l s).pwr = s.pwr := rfl
@[simp] theorem invalidateSegment_sb (l : Nat) : (invalidateSegment l s).sb = s.sb := rfl
@[simp] theorem invalidateSegment_hostp (l : Nat) : (invalidateSegment l s).hostp = s.hostp := rfl
@[simp] theorem invalidateSegment_evt (l : Nat) : (invalidateSegment l s).evt = s.evt := rfl
@[simp] theorem invalidateSegment_stepping (l : Nat) : (invalidateSegment l s).stepping = s.stepping := rfl
@[simp] theorem invalidateSegment_free (l : Nat) : (invalidateSegment l s).free = s.free := rfl

/-! ## `addDigest` -/

@[simp] theorem addDigest_pending (a b c d e : Nat) : (addDigest a b c d e s).pending = s.pending := rfl
@[simp] theorem addDigest_man (a b c d e : Nat) : (addDigest a b c d e s).man = s.man := rfl
@[simp] theorem addDigest_crs (a b c d e : Nat) : (addDigest a b c d e s).crs = s.crs := rfl
@[simp] theorem addDigest_cq (a b c d e : Nat) : (addDigest a b c d e s).cq = s.cq := rfl
@[simp] theorem addDigest_keep (a b c d e : Nat) : (addDigest a b c d e s).keep = s.keep := rfl
@[simp] theorem addDigest_isl (a b c d e : Nat) : (addDigest a b c d e s).isl = s.isl := rfl
@[simp] theorem addDigest_rtv (a b c d e : Nat) : (addDigest a b c d e s).rtv = s.rtv := rfl
@[simp] theorem addDigest_sp (a b c d e : Nat) : (addDigest a b c d e s).sp = s.sp := rfl
@[simp] theorem addDigest_tbl (a b c d e : Nat) : (addDigest a b c d e s).tbl = s.tbl := rfl
@[simp] theorem addDigest_arr (a b c d e : Nat) : (addDigest a b c d e s).arr = s.arr := rfl
@[simp] theorem addDigest_ken (a b c d e : Nat) : (addDigest a b c d e s).ken = s.ken := rfl
@[simp] theorem addDigest_tow (a b c d e : Nat) : (addDigest a b c d e s).tow = s.tow := rfl
@[simp] theorem addDigest_toll (a b c d e : Nat) : (addDigest a b c d e s).toll = s.toll := rfl
@[simp] theorem addDigest_pwr (a b c d e : Nat) : (addDigest a b c d e s).pwr = s.pwr := rfl
@[simp] theorem addDigest_sb (a b c d e : Nat) : (addDigest a b c d e s).sb = s.sb := rfl
@[simp] theorem addDigest_hostp (a b c d e : Nat) : (addDigest a b c d e s).hostp = s.hostp := rfl
@[simp] theorem addDigest_evt (a b c d e : Nat) : (addDigest a b c d e s).evt = s.evt := rfl
@[simp] theorem addDigest_stepping (a b c d e : Nat) : (addDigest a b c d e s).stepping = s.stepping := rfl
@[simp] theorem addDigest_free (a b c d e : Nat) : (addDigest a b c d e s).free = s.free := rfl

/-! ## `noteTaken` -/

@[simp] theorem noteTaken_pending (c l : Nat) : (noteTaken c l s).pending = s.pending := rfl
@[simp] theorem noteTaken_man (c l : Nat) : (noteTaken c l s).man = s.man := rfl
@[simp] theorem noteTaken_crs (c l : Nat) : (noteTaken c l s).crs = s.crs := rfl
@[simp] theorem noteTaken_cq (c l : Nat) : (noteTaken c l s).cq = s.cq := rfl
@[simp] theorem noteTaken_keep (c l : Nat) : (noteTaken c l s).keep = s.keep := rfl
@[simp] theorem noteTaken_isl (c l : Nat) : (noteTaken c l s).isl = s.isl := rfl
@[simp] theorem noteTaken_rtv (c l : Nat) : (noteTaken c l s).rtv = s.rtv := rfl
@[simp] theorem noteTaken_sp (c l : Nat) : (noteTaken c l s).sp = s.sp := rfl
@[simp] theorem noteTaken_tbl (c l : Nat) : (noteTaken c l s).tbl = s.tbl := rfl
@[simp] theorem noteTaken_arr (c l : Nat) : (noteTaken c l s).arr = s.arr := rfl
@[simp] theorem noteTaken_ken (c l : Nat) : (noteTaken c l s).ken = s.ken := rfl
@[simp] theorem noteTaken_tow (c l : Nat) : (noteTaken c l s).tow = s.tow := rfl
@[simp] theorem noteTaken_toll (c l : Nat) : (noteTaken c l s).toll = s.toll := rfl
@[simp] theorem noteTaken_pwr (c l : Nat) : (noteTaken c l s).pwr = s.pwr := rfl
@[simp] theorem noteTaken_sb (c l : Nat) : (noteTaken c l s).sb = s.sb := rfl
@[simp] theorem noteTaken_hostp (c l : Nat) : (noteTaken c l s).hostp = s.hostp := rfl
@[simp] theorem noteTaken_evt (c l : Nat) : (noteTaken c l s).evt = s.evt := rfl
@[simp] theorem noteTaken_stepping (c l : Nat) : (noteTaken c l s).stepping = s.stepping := rfl
@[simp] theorem noteTaken_free (c l : Nat) : (noteTaken c l s).free = s.free := rfl

/-! ## `setTbl` -/

@[simp] theorem setTbl_pending (k : Nat) (x : TblCluster) : (setTbl k x s).pending = s.pending := rfl
@[simp] theorem setTbl_man (k : Nat) (x : TblCluster) : (setTbl k x s).man = s.man := rfl
@[simp] theorem setTbl_crs (k : Nat) (x : TblCluster) : (setTbl k x s).crs = s.crs := rfl
@[simp] theorem setTbl_cq (k : Nat) (x : TblCluster) : (setTbl k x s).cq = s.cq := rfl
@[simp] theorem setTbl_keep (k : Nat) (x : TblCluster) : (setTbl k x s).keep = s.keep := rfl
@[simp] theorem setTbl_isl (k : Nat) (x : TblCluster) : (setTbl k x s).isl = s.isl := rfl
@[simp] theorem setTbl_rtv (k : Nat) (x : TblCluster) : (setTbl k x s).rtv = s.rtv := rfl
@[simp] theorem setTbl_sp (k : Nat) (x : TblCluster) : (setTbl k x s).sp = s.sp := rfl
@[simp] theorem setTbl_arr (k : Nat) (x : TblCluster) : (setTbl k x s).arr = s.arr := rfl
@[simp] theorem setTbl_ken (k : Nat) (x : TblCluster) : (setTbl k x s).ken = s.ken := rfl
@[simp] theorem setTbl_tow (k : Nat) (x : TblCluster) : (setTbl k x s).tow = s.tow := rfl
@[simp] theorem setTbl_dgst (k : Nat) (x : TblCluster) : (setTbl k x s).dgst = s.dgst := rfl
@[simp] theorem setTbl_toll (k : Nat) (x : TblCluster) : (setTbl k x s).toll = s.toll := rfl
@[simp] theorem setTbl_pwr (k : Nat) (x : TblCluster) : (setTbl k x s).pwr = s.pwr := rfl
@[simp] theorem setTbl_sb (k : Nat) (x : TblCluster) : (setTbl k x s).sb = s.sb := rfl
@[simp] theorem setTbl_hostp (k : Nat) (x : TblCluster) : (setTbl k x s).hostp = s.hostp := rfl
@[simp] theorem setTbl_evt (k : Nat) (x : TblCluster) : (setTbl k x s).evt = s.evt := rfl
@[simp] theorem setTbl_stepping (k : Nat) (x : TblCluster) : (setTbl k x s).stepping = s.stepping := rfl
@[simp] theorem setTbl_free (k : Nat) (x : TblCluster) : (setTbl k x s).free = s.free := rfl

/-! ## `setCluster` -/

@[simp] theorem setCluster_pending (i : Nat) (c : ClusterRec) : (setCluster i c s).pending = s.pending := rfl
@[simp] theorem setCluster_man (i : Nat) (c : ClusterRec) : (setCluster i c s).man = s.man := rfl
@[simp] theorem setCluster_crs (i : Nat) (c : ClusterRec) : (setCluster i c s).crs = s.crs := rfl
@[simp] theorem setCluster_cq (i : Nat) (c : ClusterRec) : (setCluster i c s).cq = s.cq := rfl
@[simp] theorem setCluster_keep (i : Nat) (c : ClusterRec) : (setCluster i c s).keep = s.keep := rfl
@[simp] theorem setCluster_isl (i : Nat) (c : ClusterRec) : (setCluster i c s).isl = s.isl := rfl
@[simp] theorem setCluster_rtv (i : Nat) (c : ClusterRec) : (setCluster i c s).rtv = s.rtv := rfl
@[simp] theorem setCluster_sp (i : Nat) (c : ClusterRec) : (setCluster i c s).sp = s.sp := rfl
@[simp] theorem setCluster_tbl (i : Nat) (c : ClusterRec) : (setCluster i c s).tbl = s.tbl := rfl
@[simp] theorem setCluster_arr (i : Nat) (c : ClusterRec) : (setCluster i c s).arr = s.arr := rfl
@[simp] theorem setCluster_tow (i : Nat) (c : ClusterRec) : (setCluster i c s).tow = s.tow := rfl
@[simp] theorem setCluster_dgst (i : Nat) (c : ClusterRec) : (setCluster i c s).dgst = s.dgst := rfl
@[simp] theorem setCluster_toll (i : Nat) (c : ClusterRec) : (setCluster i c s).toll = s.toll := rfl
@[simp] theorem setCluster_pwr (i : Nat) (c : ClusterRec) : (setCluster i c s).pwr = s.pwr := rfl
@[simp] theorem setCluster_sb (i : Nat) (c : ClusterRec) : (setCluster i c s).sb = s.sb := rfl
@[simp] theorem setCluster_hostp (i : Nat) (c : ClusterRec) : (setCluster i c s).hostp = s.hostp := rfl
@[simp] theorem setCluster_evt (i : Nat) (c : ClusterRec) : (setCluster i c s).evt = s.evt := rfl
@[simp] theorem setCluster_stepping (i : Nat) (c : ClusterRec) : (setCluster i c s).stepping = s.stepping := rfl
@[simp] theorem setCluster_free (i : Nat) (c : ClusterRec) : (setCluster i c s).free = s.free := rfl

/-! ## `setCert` -/

@[simp] theorem setCert_pending (c : CertUnit) : (setCert c s).pending = s.pending := rfl
@[simp] theorem setCert_man (c : CertUnit) : (setCert c s).man = s.man := rfl
@[simp] theorem setCert_crs (c : CertUnit) : (setCert c s).crs = s.crs := rfl
@[simp] theorem setCert_cq (c : CertUnit) : (setCert c s).cq = s.cq := rfl
@[simp] theorem setCert_keep (c : CertUnit) : (setCert c s).keep = s.keep := rfl
@[simp] theorem setCert_isl (c : CertUnit) : (setCert c s).isl = s.isl := rfl
@[simp] theorem setCert_rtv (c : CertUnit) : (setCert c s).rtv = s.rtv := rfl
@[simp] theorem setCert_sp (c : CertUnit) : (setCert c s).sp = s.sp := rfl
@[simp] theorem setCert_tbl (c : CertUnit) : (setCert c s).tbl = s.tbl := rfl
@[simp] theorem setCert_arr (c : CertUnit) : (setCert c s).arr = s.arr := rfl
@[simp] theorem setCert_ken (c : CertUnit) : (setCert c s).ken = s.ken := rfl
@[simp] theorem setCert_tow (c : CertUnit) : (setCert c s).tow = s.tow := rfl
@[simp] theorem setCert_dgst (c : CertUnit) : (setCert c s).dgst = s.dgst := rfl
@[simp] theorem setCert_pwr (c : CertUnit) : (setCert c s).pwr = s.pwr := rfl
@[simp] theorem setCert_sb (c : CertUnit) : (setCert c s).sb = s.sb := rfl
@[simp] theorem setCert_hostp (c : CertUnit) : (setCert c s).hostp = s.hostp := rfl
@[simp] theorem setCert_evt (c : CertUnit) : (setCert c s).evt = s.evt := rfl
@[simp] theorem setCert_stepping (c : CertUnit) : (setCert c s).stepping = s.stepping := rfl
@[simp] theorem setCert_free (c : CertUnit) : (setCert c s).free = s.free := rfl

/-! ## `setTollPort` -/

@[simp] theorem setTollPort_pending (p : Port) (x : TollPort) : (setTollPort p x s).pending = s.pending := by cases p <;> rfl
@[simp] theorem setTollPort_man (p : Port) (x : TollPort) : (setTollPort p x s).man = s.man := by cases p <;> rfl
@[simp] theorem setTollPort_crs (p : Port) (x : TollPort) : (setTollPort p x s).crs = s.crs := by cases p <;> rfl
@[simp] theorem setTollPort_cq (p : Port) (x : TollPort) : (setTollPort p x s).cq = s.cq := by cases p <;> rfl
@[simp] theorem setTollPort_keep (p : Port) (x : TollPort) : (setTollPort p x s).keep = s.keep := by cases p <;> rfl
@[simp] theorem setTollPort_isl (p : Port) (x : TollPort) : (setTollPort p x s).isl = s.isl := by cases p <;> rfl
@[simp] theorem setTollPort_rtv (p : Port) (x : TollPort) : (setTollPort p x s).rtv = s.rtv := by cases p <;> rfl
@[simp] theorem setTollPort_sp (p : Port) (x : TollPort) : (setTollPort p x s).sp = s.sp := by cases p <;> rfl
@[simp] theorem setTollPort_tbl (p : Port) (x : TollPort) : (setTollPort p x s).tbl = s.tbl := by cases p <;> rfl
@[simp] theorem setTollPort_arr (p : Port) (x : TollPort) : (setTollPort p x s).arr = s.arr := by cases p <;> rfl
@[simp] theorem setTollPort_ken (p : Port) (x : TollPort) : (setTollPort p x s).ken = s.ken := by cases p <;> rfl
@[simp] theorem setTollPort_tow (p : Port) (x : TollPort) : (setTollPort p x s).tow = s.tow := by cases p <;> rfl
@[simp] theorem setTollPort_dgst (p : Port) (x : TollPort) : (setTollPort p x s).dgst = s.dgst := by cases p <;> rfl
@[simp] theorem setTollPort_pwr (p : Port) (x : TollPort) : (setTollPort p x s).pwr = s.pwr := by cases p <;> rfl
@[simp] theorem setTollPort_sb (p : Port) (x : TollPort) : (setTollPort p x s).sb = s.sb := by cases p <;> rfl
@[simp] theorem setTollPort_hostp (p : Port) (x : TollPort) : (setTollPort p x s).hostp = s.hostp := by cases p <;> rfl
@[simp] theorem setTollPort_evt (p : Port) (x : TollPort) : (setTollPort p x s).evt = s.evt := by cases p <;> rfl
@[simp] theorem setTollPort_stepping (p : Port) (x : TollPort) : (setTollPort p x s).stepping = s.stepping := by cases p <;> rfl
@[simp] theorem setTollPort_free (p : Port) (x : TollPort) : (setTollPort p x s).free = s.free := by cases p <;> rfl

/-! ## `releaseIssue` -/

@[simp] theorem releaseIssue_pending (b : Nat) : (releaseIssue b s).pending = s.pending := rfl
@[simp] theorem releaseIssue_man (b : Nat) : (releaseIssue b s).man = s.man := rfl
@[simp] theorem releaseIssue_crs (b : Nat) : (releaseIssue b s).crs = s.crs := rfl
@[simp] theorem releaseIssue_keep (b : Nat) : (releaseIssue b s).keep = s.keep := rfl
@[simp] theorem releaseIssue_isl (b : Nat) : (releaseIssue b s).isl = s.isl := rfl
@[simp] theorem releaseIssue_rtv (b : Nat) : (releaseIssue b s).rtv = s.rtv := rfl
@[simp] theorem releaseIssue_sp (b : Nat) : (releaseIssue b s).sp = s.sp := rfl
@[simp] theorem releaseIssue_tbl (b : Nat) : (releaseIssue b s).tbl = s.tbl := rfl
@[simp] theorem releaseIssue_arr (b : Nat) : (releaseIssue b s).arr = s.arr := rfl
@[simp] theorem releaseIssue_ken (b : Nat) : (releaseIssue b s).ken = s.ken := rfl
@[simp] theorem releaseIssue_tow (b : Nat) : (releaseIssue b s).tow = s.tow := rfl
@[simp] theorem releaseIssue_dgst (b : Nat) : (releaseIssue b s).dgst = s.dgst := rfl
@[simp] theorem releaseIssue_toll (b : Nat) : (releaseIssue b s).toll = s.toll := rfl
@[simp] theorem releaseIssue_pwr (b : Nat) : (releaseIssue b s).pwr = s.pwr := rfl
@[simp] theorem releaseIssue_sb (b : Nat) : (releaseIssue b s).sb = s.sb := rfl
@[simp] theorem releaseIssue_hostp (b : Nat) : (releaseIssue b s).hostp = s.hostp := rfl
@[simp] theorem releaseIssue_evt (b : Nat) : (releaseIssue b s).evt = s.evt := rfl
@[simp] theorem releaseIssue_stepping (b : Nat) : (releaseIssue b s).stepping = s.stepping := rfl
@[simp] theorem releaseIssue_free (b : Nat) : (releaseIssue b s).free = s.free := rfl

/-! ## `dropReq` -/

@[simp] theorem dropReq_pending (k : Nat) : (dropReq k s).pending = s.pending := rfl
@[simp] theorem dropReq_man (k : Nat) : (dropReq k s).man = s.man := rfl
@[simp] theorem dropReq_crs (k : Nat) : (dropReq k s).crs = s.crs := rfl
@[simp] theorem dropReq_cq (k : Nat) : (dropReq k s).cq = s.cq := rfl
@[simp] theorem dropReq_keep (k : Nat) : (dropReq k s).keep = s.keep := rfl
@[simp] theorem dropReq_isl (k : Nat) : (dropReq k s).isl = s.isl := rfl
@[simp] theorem dropReq_sp (k : Nat) : (dropReq k s).sp = s.sp := rfl
@[simp] theorem dropReq_tbl (k : Nat) : (dropReq k s).tbl = s.tbl := rfl
@[simp] theorem dropReq_arr (k : Nat) : (dropReq k s).arr = s.arr := rfl
@[simp] theorem dropReq_ken (k : Nat) : (dropReq k s).ken = s.ken := rfl
@[simp] theorem dropReq_tow (k : Nat) : (dropReq k s).tow = s.tow := rfl
@[simp] theorem dropReq_dgst (k : Nat) : (dropReq k s).dgst = s.dgst := rfl
@[simp] theorem dropReq_toll (k : Nat) : (dropReq k s).toll = s.toll := rfl
@[simp] theorem dropReq_pwr (k : Nat) : (dropReq k s).pwr = s.pwr := rfl
@[simp] theorem dropReq_sb (k : Nat) : (dropReq k s).sb = s.sb := rfl
@[simp] theorem dropReq_hostp (k : Nat) : (dropReq k s).hostp = s.hostp := rfl
@[simp] theorem dropReq_evt (k : Nat) : (dropReq k s).evt = s.evt := rfl
@[simp] theorem dropReq_stepping (k : Nat) : (dropReq k s).stepping = s.stepping := rfl
@[simp] theorem dropReq_free (k : Nat) : (dropReq k s).free = s.free := rfl

/-! ## `sendMsg` -/

@[simp] theorem sendMsg_pending (m : TowMsg) (o : Option (Nat × Nat × Nat)) (r : Bool) : (sendMsg m o r s).pending = s.pending := rfl
@[simp] theorem sendMsg_man (m : TowMsg) (o : Option (Nat × Nat × Nat)) (r : Bool) : (sendMsg m o r s).man = s.man := rfl
@[simp] theorem sendMsg_crs (m : TowMsg) (o : Option (Nat × Nat × Nat)) (r : Bool) : (sendMsg m o r s).crs = s.crs := rfl
@[simp] theorem sendMsg_cq (m : TowMsg) (o : Option (Nat × Nat × Nat)) (r : Bool) : (sendMsg m o r s).cq = s.cq := rfl
@[simp] theorem sendMsg_keep (m : TowMsg) (o : Option (Nat × Nat × Nat)) (r : Bool) : (sendMsg m o r s).keep = s.keep := rfl
@[simp] theorem sendMsg_isl (m : TowMsg) (o : Option (Nat × Nat × Nat)) (r : Bool) : (sendMsg m o r s).isl = s.isl := rfl
@[simp] theorem sendMsg_rtv (m : TowMsg) (o : Option (Nat × Nat × Nat)) (r : Bool) : (sendMsg m o r s).rtv = s.rtv := rfl
@[simp] theorem sendMsg_sp (m : TowMsg) (o : Option (Nat × Nat × Nat)) (r : Bool) : (sendMsg m o r s).sp = s.sp := rfl
@[simp] theorem sendMsg_tbl (m : TowMsg) (o : Option (Nat × Nat × Nat)) (r : Bool) : (sendMsg m o r s).tbl = s.tbl := rfl
@[simp] theorem sendMsg_arr (m : TowMsg) (o : Option (Nat × Nat × Nat)) (r : Bool) : (sendMsg m o r s).arr = s.arr := rfl
@[simp] theorem sendMsg_ken (m : TowMsg) (o : Option (Nat × Nat × Nat)) (r : Bool) : (sendMsg m o r s).ken = s.ken := rfl
@[simp] theorem sendMsg_dgst (m : TowMsg) (o : Option (Nat × Nat × Nat)) (r : Bool) : (sendMsg m o r s).dgst = s.dgst := rfl
@[simp] theorem sendMsg_toll (m : TowMsg) (o : Option (Nat × Nat × Nat)) (r : Bool) : (sendMsg m o r s).toll = s.toll := rfl
@[simp] theorem sendMsg_pwr (m : TowMsg) (o : Option (Nat × Nat × Nat)) (r : Bool) : (sendMsg m o r s).pwr = s.pwr := rfl
@[simp] theorem sendMsg_sb (m : TowMsg) (o : Option (Nat × Nat × Nat)) (r : Bool) : (sendMsg m o r s).sb = s.sb := rfl
@[simp] theorem sendMsg_hostp (m : TowMsg) (o : Option (Nat × Nat × Nat)) (r : Bool) : (sendMsg m o r s).hostp = s.hostp := rfl
@[simp] theorem sendMsg_evt (m : TowMsg) (o : Option (Nat × Nat × Nat)) (r : Bool) : (sendMsg m o r s).evt = s.evt := rfl
@[simp] theorem sendMsg_stepping (m : TowMsg) (o : Option (Nat × Nat × Nat)) (r : Bool) : (sendMsg m o r s).stepping = s.stepping := rfl
@[simp] theorem sendMsg_free (m : TowMsg) (o : Option (Nat × Nat × Nat)) (r : Bool) : (sendMsg m o r s).free = s.free := rfl

/-! ## `frameIn` -/

@[simp] theorem frameIn_pending : (frameIn s).pending = s.pending := rfl
@[simp] theorem frameIn_man : (frameIn s).man = s.man := rfl
@[simp] theorem frameIn_crs : (frameIn s).crs = s.crs := rfl
@[simp] theorem frameIn_cq : (frameIn s).cq = s.cq := rfl
@[simp] theorem frameIn_keep : (frameIn s).keep = s.keep := rfl
@[simp] theorem frameIn_isl : (frameIn s).isl = s.isl := rfl
@[simp] theorem frameIn_rtv : (frameIn s).rtv = s.rtv := rfl
@[simp] theorem frameIn_sp : (frameIn s).sp = s.sp := rfl
@[simp] theorem frameIn_tbl : (frameIn s).tbl = s.tbl := rfl
@[simp] theorem frameIn_arr : (frameIn s).arr = s.arr := rfl
@[simp] theorem frameIn_ken : (frameIn s).ken = s.ken := rfl
@[simp] theorem frameIn_tow : (frameIn s).tow = s.tow := rfl
@[simp] theorem frameIn_dgst : (frameIn s).dgst = s.dgst := rfl
@[simp] theorem frameIn_toll : (frameIn s).toll = s.toll := rfl
@[simp] theorem frameIn_pwr : (frameIn s).pwr = s.pwr := rfl
@[simp] theorem frameIn_hostp : (frameIn s).hostp = s.hostp := rfl
@[simp] theorem frameIn_evt : (frameIn s).evt = s.evt := rfl
@[simp] theorem frameIn_stepping : (frameIn s).stepping = s.stepping := rfl
@[simp] theorem frameIn_free : (frameIn s).free = s.free := rfl

/-! ## `respond` -/

@[simp] theorem respond_pending (v c a d : Nat) : (respond v c a d s).pending = s.pending := rfl
@[simp] theorem respond_man (v c a d : Nat) : (respond v c a d s).man = s.man := rfl
@[simp] theorem respond_crs (v c a d : Nat) : (respond v c a d s).crs = s.crs := rfl
@[simp] theorem respond_cq (v c a d : Nat) : (respond v c a d s).cq = s.cq := rfl
@[simp] theorem respond_keep (v c a d : Nat) : (respond v c a d s).keep = s.keep := rfl
@[simp] theorem respond_isl (v c a d : Nat) : (respond v c a d s).isl = s.isl := rfl
@[simp] theorem respond_rtv (v c a d : Nat) : (respond v c a d s).rtv = s.rtv := rfl
@[simp] theorem respond_sp (v c a d : Nat) : (respond v c a d s).sp = s.sp := rfl
@[simp] theorem respond_tbl (v c a d : Nat) : (respond v c a d s).tbl = s.tbl := rfl
@[simp] theorem respond_arr (v c a d : Nat) : (respond v c a d s).arr = s.arr := rfl
@[simp] theorem respond_ken (v c a d : Nat) : (respond v c a d s).ken = s.ken := rfl
@[simp] theorem respond_tow (v c a d : Nat) : (respond v c a d s).tow = s.tow := rfl
@[simp] theorem respond_dgst (v c a d : Nat) : (respond v c a d s).dgst = s.dgst := rfl
@[simp] theorem respond_toll (v c a d : Nat) : (respond v c a d s).toll = s.toll := rfl
@[simp] theorem respond_pwr (v c a d : Nat) : (respond v c a d s).pwr = s.pwr := rfl
@[simp] theorem respond_hostp (v c a d : Nat) : (respond v c a d s).hostp = s.hostp := rfl
@[simp] theorem respond_evt (v c a d : Nat) : (respond v c a d s).evt = s.evt := rfl
@[simp] theorem respond_stepping (v c a d : Nat) : (respond v c a d s).stepping = s.stepping := rfl
@[simp] theorem respond_free (v c a d : Nat) : (respond v c a d s).free = s.free := rfl

/-! ## `journal` -/

@[simp] theorem journal_pending (bs : List KeepBlock) (k : Keep) : (journal bs k s).pending = s.pending := rfl
@[simp] theorem journal_man (bs : List KeepBlock) (k : Keep) : (journal bs k s).man = s.man := rfl
@[simp] theorem journal_crs (bs : List KeepBlock) (k : Keep) : (journal bs k s).crs = s.crs := rfl
@[simp] theorem journal_cq (bs : List KeepBlock) (k : Keep) : (journal bs k s).cq = s.cq := rfl
@[simp] theorem journal_rtv (bs : List KeepBlock) (k : Keep) : (journal bs k s).rtv = s.rtv := rfl
@[simp] theorem journal_sp (bs : List KeepBlock) (k : Keep) : (journal bs k s).sp = s.sp := rfl
@[simp] theorem journal_tbl (bs : List KeepBlock) (k : Keep) : (journal bs k s).tbl = s.tbl := rfl
@[simp] theorem journal_arr (bs : List KeepBlock) (k : Keep) : (journal bs k s).arr = s.arr := rfl
@[simp] theorem journal_ken (bs : List KeepBlock) (k : Keep) : (journal bs k s).ken = s.ken := rfl
@[simp] theorem journal_tow (bs : List KeepBlock) (k : Keep) : (journal bs k s).tow = s.tow := rfl
@[simp] theorem journal_dgst (bs : List KeepBlock) (k : Keep) : (journal bs k s).dgst = s.dgst := rfl
@[simp] theorem journal_toll (bs : List KeepBlock) (k : Keep) : (journal bs k s).toll = s.toll := rfl
@[simp] theorem journal_pwr (bs : List KeepBlock) (k : Keep) : (journal bs k s).pwr = s.pwr := rfl
@[simp] theorem journal_sb (bs : List KeepBlock) (k : Keep) : (journal bs k s).sb = s.sb := rfl
@[simp] theorem journal_hostp (bs : List KeepBlock) (k : Keep) : (journal bs k s).hostp = s.hostp := rfl
@[simp] theorem journal_evt (bs : List KeepBlock) (k : Keep) : (journal bs k s).evt = s.evt := rfl
@[simp] theorem journal_stepping (bs : List KeepBlock) (k : Keep) : (journal bs k s).stepping = s.stepping := rfl
@[simp] theorem journal_free (bs : List KeepBlock) (k : Keep) : (journal bs k s).free = s.free := rfl
@[simp] theorem journal_keep (bs : List KeepBlock) (k : Keep) : (journal bs k s).keep = k := rfl

/-! ## What the updates set -/

@[simp] theorem deny_permDenied : (deny s).man.permDenied = true := rfl
@[simp] theorem deny_active : (deny s).man.active = s.man.active := rfl
@[simp] theorem deny_stage : (deny s).man.stage = s.man.stage := rfl
@[simp] theorem setEntry_issuing (e : Entry) : (setEntry e s).cq.issuing = s.cq.issuing := rfl
@[simp] theorem setEntry_wins (e : Entry) : (setEntry e s).cq.wins = s.cq.wins := rfl
@[simp] theorem setEntry_rings (e : Entry) : (setEntry e s).cq.rings = s.cq.rings := rfl
@[simp] theorem setEntry_vlen (e : Entry) : (setEntry e s).cq.vlen = s.cq.vlen := rfl
@[simp] theorem setEntry_hist (e : Entry) : (setEntry e s).cq.hist = s.cq.hist := rfl
@[simp] theorem setEntry_length (e : Entry) : (setEntry e s).cq.entries.length = s.cq.entries.length := List.length_map ..
@[simp] theorem refuseManifest_reason (r : Nat) : (refuseManifest r s).man.reason = r := by simp [refuseManifest]
@[simp] theorem refuseManifest_active (r : Nat) : (refuseManifest r s).man.active = s.man.active := by simp [refuseManifest]
@[simp] theorem dropHeld_pwr' (p : Port) : (dropHeld p s).pwr.mainDown = s.pwr.mainDown := by simp
@[simp] theorem setMark_mem (l : Nat) (m : Bool) : (setMark l m s).sp.mem = s.sp.mem := rfl
@[simp] theorem setMark_copies (l : Nat) (m : Bool) : (setMark l m s).sp.copies = s.sp.copies := rfl
@[simp] theorem respond_lastStatus (v c a d : Nat) : (respond v c a d s).sb.lastStatus = c := by
  unfold respond; dsimp only; split <;> rfl
@[simp] theorem respond_frames (v c a d : Nat) : (respond v c a d s).sb.frames = s.sb.frames := by
  unfold respond; dsimp only; split <;> rfl
@[simp] theorem releaseIssue_entries (b : Nat) : (releaseIssue b s).cq.entries = s.cq.entries := rfl
@[simp] theorem latch_decided (r v : Nat) : (latch r v s).crs.decided = s.crs.decided := rfl
@[simp] theorem latch_run (r v : Nat) : (latch r v s).crs.run = s.crs.run := rfl

end Sys2Proof.Machine
end

