-- ==== Sys2Proof/Laws/Ops.lean ====
section
/-! SUPPORT. What each shared operation does, once: saturating counts, guarded writes, events, the queue, the throttle
step. -/

namespace Sys2Proof.Machine

variable {s t : State}

/-! ## Counts -/

theorem satInc_eq_min (top n : Nat) : satInc top n = min top (n + 1) := by
  unfold satInc; split <;> omega

theorem satAdd_eq_min (top n k : Nat) : satAdd top n k = min top (n + k) := by
  unfold satAdd; split <;> omega

/-! ## Guarded writes (R71, R419, R427) -/

theorem onMain_served {p : Port} {b : Nat} {f : State → State} (h : Served p b s) : onMain p b f s = f (dropHeld p s) := by
  simp [onMain, guarded, h.1, h.2]

theorem onMain_denied {p : Port} {b : Nat} {f : State → State} (h : mainStopped s = false) (k : permitted p b s = false) :
    onMain p b f s = deny (dropHeld p s) := by
  simp [onMain, guarded, h, k]

theorem onMain_stopped {p : Port} {b : Nat} {f : State → State} (h : mainStopped s = true) : onMain p b f s = s := by
  simp [onMain, h]

theorem onKeep_served {p : Port} {b : Nat} {f : State → State} (h : mainStopped s = false ∨ p = .mgr)
    (k : permitted p b s = true) : onKeep p b f s = f (dropHeld p s) := by
  rcases h with h | rfl <;> simp_all [onKeep, guarded]

theorem onKeep_denied {p : Port} {b : Nat} {f : State → State} (h : mainStopped s = false ∨ p = .mgr)
    (k : permitted p b s = false) : onKeep p b f s = deny (dropHeld p s) := by
  rcases h with h | rfl <;> simp_all [onKeep, guarded]

/-- The register-map path asks the same permission. -/
theorem served_bit {p : Port} {b : Nat} (h : Served p b s) : (Perm.bit b).allows s p = true := h.2

/-! ## Events (R430, R419) -/

theorem raise_up {k : Nat} {c : Option (Nat × Nat)} {d0 d1 : Nat} (h : s.pwr.mainDown = false) :
    raise k c d0 d1 s = { s with evt := logEvent s.evt ⟨k, c, s.crs.tide, d0 % 2 ^ 64, d1 % 2 ^ 64⟩ } := by
  simp [raise, tideNow, h]

theorem raise_down {k : Nat} {c : Option (Nat × Nat)} {d0 d1 : Nat} (h : s.pwr.mainDown = true) :
    raise k c d0 d1 s = { s with evt := { s.evt with kept := s.evt.kept ++ [⟨k, c, s.isl.tide, d0 % 2 ^ 64, d1 % 2 ^ 64⟩] } } := by
  simp [raise, tideNow, h]

/-! ## The throttle step (R404) -/

/-- A new target or cap changes what is pending, and nothing else; none is pending when the step in force is the effective
one. -/
theorem retarget_eq (cause : Nat) (p : PwrUnit) :
    ∃ q, retarget cause p = { p with pending := q } ∧ (q = none → effectiveStep p = p.step) := by
  unfold retarget
  dsimp only
  split
  · rename_i n c hp
    split
    · exact ⟨p.pending, rfl, by simp [hp]⟩
    · split
      · rename_i e; exact ⟨none, rfl, fun _ => e⟩
      · exact ⟨some _, rfl, by simp⟩
  · rename_i hp
    split
    · rename_i e; exact ⟨p.pending, rfl, fun _ => e⟩
    · exact ⟨some _, rfl, by simp⟩

/-! ## The queue -/

/-- An entry that the queue holds is found by its key when no two entries share one. -/
theorem findEntry_mem {b q : Nat} {e : Entry} (h : findEntry s b q = some e) : e ∈ s.cq.entries ∧ e.berth = b ∧ e.seq = q := by
  have h1 := List.mem_of_find?_eq_some h
  have h2 := List.find?_some h
  simp at h2
  exact ⟨h1, h2.1, h2.2⟩

/-- After an entry is set, it is found under its key if some entry had the key before. -/
theorem findEntry_setEntry (e x : Entry) (h : findEntry s e.berth e.seq = some x) :
    findEntry (setEntry e s) e.berth e.seq = some e := by
  unfold findEntry at h
  unfold findEntry setEntry
  dsimp only
  generalize s.cq.entries = l at h ⊢
  induction l with
  | nil => simp at h
  | cons y ys ih =>
    simp only [List.map_cons, List.find?_cons] at h ⊢
    by_cases hy : (y.berth == e.berth && y.seq == e.seq) = true
    · simp [hy]
    · simp only [hy, Bool.false_eq_true, ↓reduceIte] at h ⊢
      exact ih h

/-- Other entries are found as before. -/
theorem findEntry_setEntry_other (e : Entry) (b q : Nat) (h : ¬(b = e.berth ∧ q = e.seq)) :
    findEntry (setEntry e s) b q = findEntry s b q := by
  unfold findEntry setEntry
  dsimp only
  induction s.cq.entries with
  | nil => rfl
  | cons y ys ih =>
    simp only [List.map_cons, List.find?_cons]
    by_cases hy : (y.berth == e.berth && y.seq == e.seq) = true
    · have hy' := hy
      simp at hy'
      have h1 : (e.berth == b && e.seq == q) = false := by
        simp; intro h2 h3; exact h ⟨h2.symm, h3.symm⟩
      have h2 : (y.berth == b && y.seq == q) = false := by
        simp; intro h2 h3; exact h ⟨by omega, by omega⟩
      simp only [hy, ↓reduceIte, h1, h2]
      exact ih
    · simp only [hy, Bool.false_eq_true, ↓reduceIte]
      split
      · rfl
      · exact ih

/-! ## Submission buffers (R257) -/

/-- Bytes written into a buffer read back, and the other bytes keep their values. -/
theorem sget_bufWrite (buf : List (Nat × Byte)) (off : Nat) (bytes : List Byte) (i : Nat) :
    sget 0 (bufWrite buf off bytes) i = if off ≤ i ∧ i < off + bytes.length then bytes.getD (i - off) 0 else sget 0 buf i := by
  have key : ∀ (bs : List Byte) (k : Nat) (b : List (Nat × Byte)),
      sget 0 ((bs.zipIdx k).foldl (fun b x => sset 0 b (off + x.2) x.1) b) i =
        if off + k ≤ i ∧ i < off + k + bs.length then bs.getD (i - off - k) 0 else sget 0 b i := by
    intro bs
    induction bs with
    | nil =>
      intro k b
      rw [if_neg (by simp only [List.length_nil]; omega)]
      rfl
    | cons y ys ih =>
      intro k b
      simp only [List.zipIdx_cons, List.foldl_cons, ih, sget_sset, List.length_cons]
      by_cases h1 : i = off + k
      · subst h1
        rw [if_neg (by omega), if_pos rfl, if_pos (by omega)]
        simp
      · by_cases h2 : off + (k + 1) ≤ i ∧ i < off + (k + 1) + ys.length
        · rw [if_pos h2, if_pos (by omega), show i - off - k = (i - off - (k + 1)) + 1 by omega]
          simp
        · rw [if_neg h2, if_neg h1, if_neg (by omega)]
  have := key bytes 0 buf
  simpa [bufWrite] using this

end Sys2Proof.Machine
end

