-- ==== Sys2Proof/Laws/Frame.lean ====
section
/-! SUPPORT. What the operations of each unit keep of the scratchpad's bytes, the queue's bound and the event log: `Quiet`
for those that store nothing, `Kept` for those that may. -/

namespace Sys2Proof.Machine

/-- From `s` to `t` no byte of the scratchpad changes, the queue keeps its bound and the event log its fields. -/
structure Quiet (s t : State) : Prop where
  mem : t.sp.mem = s.sp.mem
  queue : s.cq.entries.length ≤ 256 → t.cq.entries.length ≤ 256
  log : s.evt.ok → t.evt.ok

/-- From `s` to `t` the scratchpad keeps its canonical form, the queue its bound and the event log its fields. -/
structure Kept (s t : State) : Prop where
  mem : Memory.wf s.sp.mem → Memory.wf t.sp.mem
  queue : s.cq.entries.length ≤ 256 → t.cq.entries.length ≤ 256
  log : s.evt.ok → t.evt.ok

variable {α : Type} {s t u : State}

theorem Quiet.refl (s : State) : Quiet s s := ⟨rfl, id, id⟩
theorem Kept.refl (s : State) : Kept s s := ⟨id, id, id⟩
theorem Quiet.trans (h : Quiet s t) (k : Quiet t u) : Quiet s u :=
  ⟨k.mem.trans h.mem, fun x => k.queue (h.queue x), fun x => k.log (h.log x)⟩
/-- `Quiet.trans`, the last step first. -/
theorem Quiet.after (k : Quiet t u) (h : Quiet s t) : Quiet s u := h.trans k
theorem Kept.after (k : Kept t u) (h : Kept s t) : Kept s u := ⟨fun x => k.mem (h.mem x), fun x => k.queue (h.queue x), fun x => k.log (h.log x)⟩
theorem Kept.trans (h : Kept s t) (k : Kept t u) : Kept s u :=
  ⟨fun x => k.mem (h.mem x), fun x => k.queue (h.queue x), fun x => k.log (h.log x)⟩
theorem Quiet.kept (h : Quiet s t) : Kept s t := ⟨fun x => by rw [h.mem]; exact x, h.queue, h.log⟩

/-- An update of other fields is quiet. -/
theorem Quiet.same (m : t.sp.mem = s.sp.mem) (q : t.cq.entries = s.cq.entries) (e : t.evt = s.evt) : Quiet s t :=
  ⟨m, fun x => by rw [q]; exact x, fun x => by rw [e]; exact x⟩

/-- An update that keeps the number of entries. -/
theorem Quiet.sized (m : t.sp.mem = s.sp.mem) (q : t.cq.entries.length ≤ s.cq.entries.length) (e : t.evt = s.evt) :
    Quiet s t := ⟨m, fun x => q.trans x, fun x => by rw [e]; exact x⟩

theorem Quiet.foldl {f : State → α → State} (h : ∀ t x, Quiet t (f t x)) (xs : List α) (s : State) :
    Quiet s (xs.foldl f s) := by
  induction xs generalizing s with
  | nil => exact .refl s
  | cons x xs ih => exact (h s x).trans (ih (f s x))

theorem Kept.foldl {f : State → α → State} (h : ∀ t x, Kept t (f t x)) (xs : List α) (s : State) :
    Kept s (xs.foldl f s) := by
  induction xs generalizing s with
  | nil => exact .refl s
  | cons x xs ih => exact (h s x).trans (ih (f s x))

/-- Folds that carry more than the state. -/
theorem Quiet.foldOn {β : Type} (g : β → State) {f : β → α → β} (h : ∀ b x, Quiet (g b) (g (f b x))) (xs : List α) (b : β) :
    Quiet (g b) (g (xs.foldl f b)) := by
  induction xs generalizing b with
  | nil => exact .refl _
  | cons x xs ih => exact (h b x).trans (ih (f b x))

theorem Kept.foldOn {β : Type} (g : β → State) {f : β → α → β} (h : ∀ b x, Kept (g b) (g (f b x))) (xs : List α) (b : β) :
    Kept (g b) (g (xs.foldl f b)) := by
  induction xs generalizing b with
  | nil => exact .refl _
  | cons x xs ih => exact (h b x).trans (ih (f b x))

theorem Quiet.ite {c : Prop} [Decidable c] (h : Quiet s t) (k : Quiet s u) : Quiet s (if c then t else u) := by
  split <;> assumption

theorem Kept.ite {c : Prop} [Decidable c] (h : Kept s t) (k : Kept s u) : Kept s (if c then t else u) := by
  split <;> assumption

theorem Sound.of_kept (h : Kept s t) (i : Sound s) : Sound t := ⟨h.mem i.mem, h.queue i.queue, h.log i.log⟩

/-! ## Events -/

theorem unread_lt (e : EvtUnit) : unread e < 2 ^ 16 := Nat.mod_lt _ (by decide)

theorem logEvent_ok (e : EvtUnit) (x : EvtEntry) (h : e.ok) : (logEvent e x).ok := by
  obtain ⟨h1, h2, h3, h4⟩ := h
  unfold logEvent
  dsimp only
  split
  · rename_i hu
    refine ⟨Nat.mod_lt _ (by decide), h2, ?_, h4⟩
    simp only [unread] at hu ⊢
    omega
  · refine ⟨h1, h2, h3, ?_⟩
    simp only [satInc]
    split <;> omega

theorem raise_quiet (code : Nat) (cmd : Option (Nat × Nat)) (d0 d1 : Nat) (s : State) :
    Quiet s (raise code cmd d0 d1 s) := by
  unfold raise
  dsimp only
  split
  · exact ⟨rfl, id, id⟩
  · exact ⟨rfl, id, logEvent_ok _ _⟩

theorem refuseManifest_quiet (r : Nat) (s : State) : Quiet s (refuseManifest r s) :=
  (raise_quiet ..).after (.same rfl rfl rfl)

/-! ## Ports -/

theorem deny_quiet (s : State) : Quiet s (deny s) := .same rfl rfl rfl
theorem dropHeld_quiet (p : Port) (s : State) : Quiet s (dropHeld p s) := by cases p <;> exact .same rfl rfl rfl

theorem guarded_kept {p : Port} {b : Nat} {f : State → State} (h : ∀ t, Kept t (f t)) (s : State) :
    Kept s (guarded p b f s) :=
  .ite ((dropHeld_quiet p s).kept.trans (h _)) ((dropHeld_quiet p s).trans (deny_quiet _)).kept

theorem guarded_quiet {p : Port} {b : Nat} {f : State → State} (h : ∀ t, Quiet t (f t)) (s : State) :
    Quiet s (guarded p b f s) := .ite ((dropHeld_quiet p s).trans (h _)) ((dropHeld_quiet p s).trans (deny_quiet _))

theorem onMain_quiet {p : Port} {b : Nat} {f : State → State} (h : ∀ t, Quiet t (f t)) (s : State) :
    Quiet s (onMain p b f s) := .ite (.refl s) (guarded_quiet h s)

theorem onMain_kept {p : Port} {b : Nat} {f : State → State} (h : ∀ t, Kept t (f t)) (s : State) :
    Kept s (onMain p b f s) := .ite (.refl s) (guarded_kept h s)

theorem onKeep_quiet {p : Port} {b : Nat} {f : State → State} (h : ∀ t, Quiet t (f t)) (s : State) :
    Quiet s (onKeep p b f s) := .ite (.refl s) (guarded_quiet h s)

/-! ## Queue -/

theorem journal_quiet (bs : List KeepBlock) (k : Keep) (s : State) : Quiet s (journal bs k s) := .same rfl rfl rfl
theorem setEntry_quiet (e : Entry) (s : State) : Quiet s (setEntry e s) :=
  .sized rfl (by simp [setEntry]) rfl
theorem dropEntry_quiet (b q : Nat) (s : State) : Quiet s (dropEntry b q s) :=
  .sized rfl (by simpa [dropEntry] using List.length_filter_le ..) rfl
theorem onWindow_quiet {p : Port} {b : Nat} {ok : Bool} {f : State → State} (h : ∀ t, Quiet t (f t)) (s : State) :
    Quiet s (onWindow p b ok f s) := .ite (.refl s) (.ite (guarded_quiet h s) (dropHeld_quiet p s))
theorem latch_quiet (r v : Nat) (s : State) : Quiet s (latch r v s) := .same rfl rfl rfl
theorem setMark_quiet (l : Nat) (m : Bool) (s : State) : Quiet s (setMark l m s) := .same rfl rfl rfl
theorem invalidateSegment_quiet (l : Nat) (s : State) : Quiet s (invalidateSegment l s) := .same rfl rfl rfl

theorem invalidateFor_quiet (e : Entry) (s : State) : Quiet s (invalidateFor e s) := .ite (.same rfl rfl rfl) (invalidateSegment_quiet ..)

theorem poisonOutputs_quiet (e : Entry) (s : State) : Quiet s (poisonOutputs e s) :=
  (Quiet.foldl (fun t u => setMark_quiet u true t) _ _).trans (setEntry_quiet _ _)

theorem submit_quiet (p : SubPath) (f : Bool) (bs : List Byte) (bank : List Word32) (s : State) :
    Quiet s (submit p f bs bank s) := by
  unfold submit
  extract_lets b q code c0 s1
  split
  · rename_i h
    refine ⟨rfl, fun _ => ?_, id⟩
    have hj : ¬ 256 ≤ s.cq.entries.length := by
      intro hl
      simp only [code, judge, hl, decide_true, Bool.true_or, if_true] at h
      revert h
      repeat' split
      all_goals simp
    have hl : (s1.cq.entries ++ [newEntry s p f b q bs bank]).length = s.cq.entries.length + 1 := by simp [s1, c0]
    exact hl.trans_le (by omega)
  · exact .same rfl rfl rfl

theorem arrive_quiet (p : SubPath) (f : Bool) (bs : List Byte) (bank : List Word32) (s : State) :
    Quiet s (arrive p f bs bank s) :=
  .ite (.refl s) (.ite (.same rfl rfl rfl) (submit_quiet ..))

theorem cqSubmitWrite_quiet (p : Port) (off : Nat) (bs : List Byte) (s : State) : Quiet s (cqSubmitWrite p off bs s) := by
  unfold cqSubmitWrite
  extract_lets t bs buf c0 s1 s2
  have h1 : Quiet t s1 := by unfold s1; cases p <;> exact .same rfl rfl rfl
  have h2 : Quiet s s2 := (dropHeld_quiet p s).trans (.ite h1 (deny_quiet _))
  exact .ite (h2.trans (arrive_quiet ..)) h2

theorem cqSubmit64Write_quiet (p : Port) (off : Nat) (bs : List Byte) (s : State) :
    Quiet s (cqSubmit64Write p off bs s) := by
  unfold cqSubmit64Write
  extract_lets t bs buf c0 s1 s2
  have h1 : Quiet t s1 := by unfold s1; cases p <;> exact .same rfl rfl rfl
  have h2 : Quiet s s2 := (dropHeld_quiet p s).trans (.ite h1 (deny_quiet _))
  exact .ite (h2.trans (arrive_quiet ..)) h2

theorem windowReady_quiet (d : Desc) (e : Entry) (s : State) : Quiet s (windowReady d e s) := by
  unfold windowReady
  dsimp only
  repeat' split
  all_goals exact .same rfl rfl rfl

theorem complete_quiet (e : Entry) (s : State) : Quiet s (complete e s) := by
  unfold complete
  extract_lets cmd r d c1 k1 s1 s2 quiet s3 s4
  have h2 : Quiet s s2 :=
    (dropEntry_quiet e.berth e.seq _).after ((windowReady_quiet d e s1).after (.same rfl rfl rfl))
  have h3 : Quiet s s3 := by
    refine h2.trans ?_
    unfold s3
    split
    · exact .ite (.refl _) (raise_quiet ..)
    · exact .refl _
  have h4 : Quiet s s4 := h3.trans (.ite (raise_quiet ..) (.refl _))
  exact h4.trans (.ite (raise_quiet ..) (.refl _))

theorem completeRefused_quiet (n b : Nat) (s : State) : Quiet s (completeRefused n b s) := by
  induction n generalizing s with
  | zero => exact .refl s
  | succ n ih =>
    unfold completeRefused
    split
    · exact .refl s
    · exact .ite ((complete_quiet _ s).trans (ih _)) (.refl s)

theorem clearFault_quiet (b q : Nat) (s : State) : Quiet s (clearFault b q s) := by
  unfold clearFault
  dsimp only
  repeat' split
  all_goals exact .same rfl rfl rfl

theorem releaseIssue_quiet (b : Nat) (s : State) : Quiet s (releaseIssue b s) := .same rfl rfl rfl

theorem leaveIssue_quiet (b : Nat) (s : State) : Quiet s (leaveIssue b s) := .ite (.refl s) (releaseIssue_quiet b s)

theorem endEarly_quiet (e : Entry) (r : Result) (s : State) : Quiet s (endEarly e r s) := by
  unfold endEarly
  dsimp only
  exact (leaveIssue_quiet ..).after
    ((invalidateFor_quiet _ _).after ((poisonOutputs_quiet _ _).after (setEntry_quiet _ s)))

theorem abortEntry_quiet (e : Entry) (s : State) : Quiet s (abortEntry e s) :=
  (clearFault_quiet ..).after (endEarly_quiet ..)

theorem capEntry_quiet (e : Entry) (s : State) : Quiet s (capEntry e s) := (clearFault_quiet ..).after (endEarly_quiet ..)

theorem abortBerth_quiet (b : Nat) (s : State) : Quiet s (abortBerth b s) :=
  .foldl (fun t e => .ite (setEntry_quiet _ t) (abortEntry_quiet e t)) _ _

theorem releaseWindow_quiet (w : Nat) (s : State) : Quiet s (releaseWindow w s) := .same rfl rfl rfl

theorem rebaseBerth_quiet (b : Nat) (s : State) : Quiet s (rebaseBerth b s) :=
  .ite (.same rfl rfl rfl) (.refl s)

theorem resumeOp_quiet (s : State) : Quiet s (resumeOp s) := by
  unfold resumeOp
  repeat' split
  all_goals exact .same rfl rfl rfl

/-! ## Power and resets -/

theorem keepSwitch_quiet (a b : Nat) (s : State) : Quiet s (keepSwitch a b s) := raise_quiet ..

theorem tearOne_quiet (j : Judged) (s : State) : Quiet s (tearOne j s) :=
  (dropEntry_quiet j.berth j.seq s).trans (.same rfl rfl rfl)

theorem tearAccepts_quiet (n : Nat) (s : State) : Quiet s (tearAccepts n s) := by
  unfold tearAccepts
  dsimp only
  exact (Quiet.foldl (fun t j => tearOne_quiet j t) _ _).trans (.same rfl rfl rfl)

theorem coldReset_kept (lost : Bool) (s : State) : Kept s (coldReset lost s) :=
  ⟨fun _ => reset_memory_wf, fun _ => Nat.zero_le _,
    fun _ => by show EvtUnit.ok ⟨[], 0, 0, 0, 0, 0, _, _⟩; simp [EvtUnit.ok, unread]⟩

theorem coldOp_kept (c : ColdCause) (k : Bool) (s : State) : Kept s (coldOp c k s) :=
  .ite (.ite (dropHeld_quiet .mgr s).kept ((dropHeld_quiet .mgr s).kept.trans (coldReset_kept _ _))) (coldReset_kept _ _)

theorem beginReset_quiet (k : ResetKind) (s : State) : Quiet s (beginReset k s) :=
  ⟨rfl, fun _ => by simp [beginReset, CqUnit.cold], id⟩

theorem resetOrCold_kept (k : ResetKind) (s : State) : Kept s (resetOrCold k s) :=
  .ite (coldReset_kept _ _) (beginReset_quiet k s).kept

theorem jqWarm_kept (s : State) : Kept s (jqWarm s) := .ite (.refl s) (resetOrCold_kept _ _)
theorem jqReplay_kept (s : State) : Kept s (jqReplay s) := .ite (.refl s) (resetOrCold_kept _ _)

theorem jqWrite_kept {p : Port} {f : State → State} (h : ∀ t, Kept t (f t)) (s : State) : Kept s (jqWrite p f s) := by
  cases p
  · exact onMain_kept h s
  · exact .ite (.refl s) ((dropHeld_quiet .mgr s).kept.trans (h _))

theorem settle_quiet (s : State) : Quiet s (settle s) := .ite (.same rfl rfl rfl) (.refl s)

/-! ## Manifest -/

theorem startWaiting_quiet (s : State) : Quiet s (startWaiting s) := by
  unfold startWaiting
  repeat' split
  all_goals exact .same rfl rfl rfl

theorem countUse_quiet (k : Nat) (s : State) : Quiet s (countUse k s) := .ite (.refl s) (.same rfl rfl rfl)

theorem emptyStage_quiet (st : StageState) (s : State) : Quiet s (emptyStage st s) := by
  unfold emptyStage
  dsimp only
  exact .ite (.refl s) (.ite ((startWaiting_quiet _).after (.same rfl rfl rfl)) (.same rfl rfl rfl))

theorem closeStage_quiet (p : Port) (s : State) : Quiet s (closeStage p s) := .ite (.same rfl rfl rfl) (.refl s)
theorem stageWrite_quiet (o : Nat) (bs : List Byte) (s : State) : Quiet s (stageWrite o bs s) :=
  .ite (.same rfl rfl rfl) (.refl s)
theorem expireRequest_quiet (s : State) : Quiet s (expireRequest s) :=
  (refuseManifest_quiet ..).after (.same rfl rfl rfl)

theorem armApply_quiet (c l : Nat) (s : State) : Quiet s (armApply c l s) := by
  unfold armApply
  dsimp only
  exact .ite (.same rfl rfl rfl) (.ite ((expireRequest_quiet _).after (.same rfl rfl rfl)) (.same rfl rfl rfl))

theorem disarmOp_quiet (s : State) : Quiet s (disarmOp s) := .ite (.same rfl rfl rfl) (.refl s)
theorem forgetOp_quiet (s : State) : Quiet s (forgetOp s) := .ite (.same rfl rfl rfl) (.refl s)

/-! ## Digests -/

theorem addDigest_quiet (a b c d e : Nat) (s : State) : Quiet s (addDigest a b c d e s) := .same rfl rfl rfl
theorem mismatchDigest_quiet (c l : Nat) (p : Bool) (s : State) : Quiet s (mismatchDigest c l p s) := raise_quiet ..

theorem closeDigest_quiet (k l : Nat) (s : State) : Quiet s (closeDigest k l s) := by
  unfold closeDigest
  dsimp only
  exact .ite ((mismatchDigest_quiet ..).after (.same rfl rfl rfl)) (.same rfl rfl rfl)

theorem postDigest_quiet (k : Nat) (r : DigRec) (s : State) : Quiet s (postDigest k r s) := by
  unfold postDigest
  dsimp only
  repeat' split
  all_goals exact .same rfl rfl rfl

theorem armTrace_quiet (c l : Nat) (s : State) : Quiet s (armTrace c l s) := by
  unfold armTrace
  dsimp only
  repeat' split
  all_goals exact .same rfl rfl rfl

theorem noteTaken_quiet (c l : Nat) (s : State) : Quiet s (noteTaken c l s) := .same rfl rfl rfl

theorem traceRecord_quiet (a b c d e f g : Nat) (s : State) : Quiet s (traceRecord a b c d e f g s) := by
  unfold traceRecord
  dsimp only
  repeat' split
  all_goals exact .same rfl rfl rfl

/-! ## Tables -/

theorem setTbl_quiet (c : Nat) (x : TblCluster) (s : State) : Quiet s (setTbl c x s) := .same rfl rfl rfl

theorem endOp_quiet (rs : List (Nat × Nat)) (s : State) : Quiet s (endOp rs s) := by
  unfold endOp
  dsimp only
  split <;> exact .same rfl rfl rfl

theorem lockLoads_quiet (s : State) : Quiet s (lockLoads s) := by
  unfold lockLoads
  split
  · exact .refl s
  · dsimp only
    exact .ite (endOp_quiet ..) (.same rfl rfl rfl)

theorem rebindBanks_quiet (s : State) : Quiet s (rebindBanks s) := .sized rfl (by simp [rebindBanks]) rfl

theorem slotWrite_quiet (c k o : Nat) (bs : List Byte) (s : State) : Quiet s (slotWrite c k o bs s) := by
  unfold slotWrite
  dsimp only
  exact .ite (.same rfl rfl rfl) (.same rfl rfl rfl)

theorem windowWrite_quiet (o : Nat) (bs : List Byte) (s : State) : Quiet s (windowWrite o bs s) := by
  unfold windowWrite
  dsimp only
  exact .ite (.refl s) (.foldl (fun t x => slotWrite_quiet x _ _ _ t) _ _)

theorem shadowWrite_quiet (o : Nat) (bs : List Byte) (s : State) : Quiet s (shadowWrite o bs s) :=
  .ite (.same rfl rfl rfl) (windowWrite_quiet ..)

theorem shadowValid_quiet (k : Nat) (v : Bool) (c : Nat) (s : State) : Quiet s (shadowValid k v c s) := setTbl_quiet ..

theorem commitOp_quiet (m k : Nat) (s : State) : Quiet s (commitOp m k s) := by
  unfold commitOp
  dsimp only
  exact (endOp_quiet ..).after (.foldl (fun t r => .ite (.refl t) (shadowValid_quiet ..)) _ _)

theorem clearOp_quiet (m k : Nat) (s : State) : Quiet s (clearOp m k s) := by
  unfold clearOp
  dsimp only
  exact (endOp_quiet ..).after (.foldl (fun t r => .ite (shadowValid_quiet ..) (.refl t)) _ _)

theorem loadOp_quiet (m k : Nat) (s : State) : Quiet s (loadOp m k s) := by
  unfold loadOp
  extract_lets cs locked s1
  have h : Quiet s s1 := .foldl (fun t c => shadowValid_quiet k false c t) _ s
  exact .ite (h.trans (endOp_quiet ..)) (h.trans (.same rfl rfl rfl))

theorem swapCluster_quiet (c : Nat) (s : State) : Quiet s (swapCluster c s) := setTbl_quiet ..
theorem emptyLoading_quiet (c : Nat) (s : State) : Quiet s (emptyLoading c s) := by
  unfold emptyLoading
  split
  · exact .ite (shadowValid_quiet ..) (.refl s)
  · exact .refl s

theorem swapTables_quiet (m : Nat) (s : State) : Quiet s (swapTables m s) :=
  Quiet.trans (.foldl (fun t c => (emptyLoading_quiet c _).after (swapCluster_quiet c t)) _ _) (.same rfl rfl rfl)

theorem swapIdleOp_quiet (m : Nat) (s : State) : Quiet s (swapIdleOp m s) := by
  unfold swapIdleOp
  refine .ite ((endOp_quiet ..).trans (swapTables_quiet ..)) ?_
  exact (endOp_quiet [] s).trans (.same rfl rfl rfl)

theorem performOp_quiet (c m k : Nat) (s : State) : Quiet s (performOp c m k s) := by
  unfold performOp
  split
  · exact commitOp_quiet ..
  · exact clearOp_quiet ..
  · exact loadOp_quiet ..
  · exact swapIdleOp_quiet ..

theorem startOp_quiet (c m k : Nat) (s : State) : Quiet s (startOp c m k s) := by
  unfold startOp
  dsimp only
  exact .ite (.refl s) (.ite (.same rfl rfl rfl) ((performOp_quiet ..).after (.same rfl rfl rfl)))

theorem spoilWords_quiet (l : TblLoad) (lost : List (Nat × Nat)) (s : State) : Quiet s (spoilWords l lost s) := .same rfl rfl rfl

theorem fetchOne_quiet (l : TblLoad) (acc : State × List (Nat × Nat)) (c : Nat) :
    Quiet acc.1 (fetchOne l acc c).1 := by
  unfold fetchOne
  dsimp only
  split
  · exact .refl _
  · split
    · exact .refl _
    · split
      · exact .refl _
      · exact .ite ((shadowValid_quiet ..).after (.same rfl rfl rfl)) (.same rfl rfl rfl)

theorem fetchAll_quiet (l : TblLoad) (cs : List Nat) (acc : State × List (Nat × Nat)) :
    Quiet acc.1 (cs.foldl (fetchOne l) acc).1 := by
  induction cs generalizing acc with
  | nil => exact .refl _
  | cons c cs ih => exact (fetchOne_quiet l acc c).trans (ih _)

theorem emptyShadows_quiet (cs : List Nat) (s : State) : Quiet s (emptyShadows cs s) := .foldl (fun _ _ => setTbl_quiet ..) _ _

theorem phase1Tables_quiet (m : Manifest) (s : State) : Quiet s (phase1Tables m s) := by
  unfold phase1Tables
  dsimp only
  refine .trans (Quiet.foldl (fun t c => setTbl_quiet ..) _ s) (.foldl (fun t r => .foldl (fun u c => ?_) _ _) _ _)
  exact (shadowValid_quiet ..).after (.same rfl rfl rfl)

theorem switchTables_quiet (m : Manifest) (s : State) : Quiet s (switchTables m s) := by
  unfold switchTables
  extract_lets written all s1
  have h : Quiet s s1 := emptyShadows_quiet ..
  exact (h.trans (Quiet.foldl (fun t c => swapCluster_quiet c t) _ _)).trans ((emptyShadows_quiet ..).trans (.same rfl rfl rfl))

theorem performHeld_quiet (h : HeldTable) (s : State) : Quiet s (performHeld h s) := by
  cases h
  · exact windowWrite_quiet ..
  · exact performOp_quiet ..

theorem releaseHeld_quiet (s : State) : Quiet s (releaseHeld s) :=
  Quiet.trans (t := { s with man := { s.man with held := [] } }) (.same rfl rfl rfl)
    (.foldl (fun t h => performHeld_quiet h t) _ _)

/-! ## Tollhouse -/

theorem setTollPort_quiet (p : Port) (x : TollPort) (s : State) : Quiet s (setTollPort p x s) := by
  cases p <;> exact .same rfl rfl rfl
theorem tollResult_quiet (r : Nat) (p : Port) (s : State) : Quiet s (tollResult r p s) := setTollPort_quiet ..
theorem tollOutput_quiet (p : Port) (bs : List Byte) (s : State) : Quiet s (tollOutput p bs s) := setTollPort_quiet ..
theorem enterKey_quiet (k : Nat) (key : List Byte) (s : State) : Quiet s (enterKey k key s) := .same rfl rfl rfl
theorem drbgNext_quiet (n : Nat) (s : State) : Quiet s (drbgNext n s) := by
  unfold drbgNext
  generalize (drbgGenerate n s.toll.drbg).2 = d
  exact .same rfl rfl rfl
theorem scalarNext_quiet (s : State) : Quiet s (scalarNext s) := by
  unfold scalarNext
  generalize (drbgScalarFrom 64 s.toll.drbg).2 = d
  exact .same rfl rfl rfl
theorem endCert_quiet (st cause : Nat) (s : State) : Quiet s (endCert st cause s) := .same rfl rfl rfl
theorem tollError_quiet (s : State) : Quiet s (tollError s) :=
  Quiet.trans (.ite (endCert_quiet ..) (.refl s)) (.same rfl rfl rfl)
theorem seedDrbg_quiet (fresh : Bool) (s : State) : Quiet s (seedDrbg fresh s) := by
  unfold seedDrbg
  extract_lets d h d0 seed
  generalize { drbgUpdate seed d0 with count := 0, seeds := d.seeds + 1 } = x
  exact .ite ((tollError_quiet _).after (.same rfl rfl rfl)) (.same rfl rfl rfl)
theorem drbgDue_quiet (s : State) : Quiet s (drbgDue s) := .ite (seedDrbg_quiet ..) (.refl s)
theorem setCert_quiet (c : CertUnit) (s : State) : Quiet s (setCert c s) := .same rfl rfl rfl

theorem hostGuard_quiet {p : Port} {run : State → State} (h : ∀ t, Quiet t (run t)) (s : State) :
    Quiet s (if p = .host then (if mainStopped s then s else guarded .host 8 run s) else run (dropHeld .mgr s)) :=
  .ite (.ite (.refl s) (guarded_quiet h s)) ((dropHeld_quiet .mgr s).trans (h _))

theorem service_quiet {p : Port} {n : Need} {f : State → State} (h : ∀ t, Quiet t (f t)) (s : State) :
    Quiet s (service p n f s) := by
  unfold service
  refine hostGuard_quiet (fun t => ?_) s
  repeat' split
  all_goals first | exact tollResult_quiet .. | exact h t

theorem tollStatusOp_quiet (p : Port) (s : State) : Quiet s (tollStatusOp p s) :=
  hostGuard_quiet (fun _ => .ite (tollResult_quiet ..) (tollResult_quiet ..)) s

theorem tollNonceOp_quiet (p : Port) (s : State) : Quiet s (tollNonceOp p s) :=
  service_quiet (fun _ => .ite ((tollResult_quiet ..).after (drbgDue_quiet _)) ((setTollPort_quiet ..).after
    ((tollResult_quiet ..).after ((tollOutput_quiet ..).after ((drbgNext_quiet _ _).after (drbgDue_quiet _)))))) s

theorem tollAuthOp_quiet (p : Port) (s : State) : Quiet s (tollAuthOp p s) :=
  service_quiet (fun _ => (tollResult_quiet ..).after ((countUse_quiet ..).after (setTollPort_quiet ..))) s

theorem tollLogoutOp_quiet (p : Port) (s : State) : Quiet s (tollLogoutOp p s) :=
  service_quiet (fun _ => (tollResult_quiet ..).after (setTollPort_quiet ..)) s

theorem tollSelftestOp_quiet (p : Port) (s : State) : Quiet s (tollSelftestOp p s) := by
  unfold tollSelftestOp
  refine hostGuard_quiet (fun t => ?_) s
  dsimp only
  exact .ite (tollResult_quiet ..) (.ite (tollResult_quiet ..) (.ite (tollResult_quiet ..) (.ite (.same rfl rfl rfl) (.same rfl rfl rfl))))

theorem tollReadPubkeyOp_quiet (p : Port) (k : Nat) (s : State) : Quiet s (tollReadPubkeyOp p k s) :=
  service_quiet (fun _ => .ite (tollResult_quiet ..) ((tollResult_quiet ..).after (tollOutput_quiet ..))) s

theorem tollLoadPubkeyOp_quiet (p : Port) (k : Nat) (s : State) : Quiet s (tollLoadPubkeyOp p k s) :=
  service_quiet (fun _ => .ite (tollResult_quiet ..)
    (.ite ((tollResult_quiet ..).after (enterKey_quiet ..)) (tollResult_quiet ..))) s

theorem tollLoadWrappedOp_quiet (p : Port) (k : Nat) (s : State) : Quiet s (tollLoadWrappedOp p k s) := by
  refine service_quiet (fun t => ?_) s
  dsimp only
  refine .ite (tollResult_quiet ..) (.ite (tollResult_quiet ..) (.ite (tollResult_quiet ..) ?_))
  split
  · exact (tollResult_quiet ..).after (enterKey_quiet ..)
  · exact tollResult_quiet ..

theorem tollGenkeyOp_quiet (p : Port) (c : Bool) (s : State) : Quiet s (tollGenkeyOp p c s) := by
  refine service_quiet (fun t => ?_) s
  have h : Quiet t (reseedDrbg t) := seedDrbg_quiet ..
  refine .ite (tollResult_quiet ..) (.ite ((tollResult_quiet ..).after h) (.ite ?_ ?_))
  · exact (tollResult_quiet ..).after ((enterKey_quiet ..).after ((scalarNext_quiet _).after h))
  · exact (tollResult_quiet ..).after ((tollError_quiet _).after ((scalarNext_quiet _).after (h.trans (.same rfl rfl rfl))))

theorem tollClearSlotOp_quiet (p : Port) (k : Nat) (s : State) : Quiet s (tollClearSlotOp p k s) := by
  refine service_quiet (fun t => ?_) s
  exact .ite (tollResult_quiet ..) (.ite (tollResult_quiet ..) ((tollResult_quiet ..).after (.same rfl rfl rfl)))

theorem tollFieldLockOp_quiet (p : Port) (s : State) : Quiet s (tollFieldLockOp p s) := by
  refine service_quiet (fun t => ?_) s
  exact .ite ((tollResult_quiet ..).after (.same rfl rfl rfl)) (tollResult_quiet ..)

theorem eraseKeys_quiet (p : Bool) (s : State) : Quiet s (eraseKeys p s) := .same rfl rfl rfl

theorem endServices_quiet (s : State) : Quiet s (endServices s) := by
  unfold endServices
  dsimp only
  have h1 : Quiet s (match s.toll.busy with | .selftest p => tollResult 7 p s | _ => s) := by
    split
    · exact tollResult_quiet ..
    · exact .refl s
  have h2 : ∀ t, Quiet s t → Quiet s (match s.toll.waitSelftest with | some p => tollResult 7 p t | none => t) := by
    intro t ht
    split
    · exact ht.trans (tollResult_quiet ..)
    · exact ht
  exact (h2 _ h1).trans (.ite (.same rfl rfl rfl) (.same rfl rfl rfl))

theorem tollZeroiseOp_quiet (p : Port) (m : Bool) (s : State) : Quiet s (tollZeroiseOp p m s) := by
  unfold tollZeroiseOp
  refine hostGuard_quiet (fun t => ?_) s
  dsimp only
  refine .ite (.ite (tollResult_quiet ..) (.ite (.ite (tollResult_quiet ..) ?_) (.refl t))) ?_
  · exact (tollResult_quiet ..).after ((eraseKeys_quiet ..).after (.same rfl rfl rfl))
  · refine .ite (tollResult_quiet ..) (.ite (tollResult_quiet ..) (.ite (tollResult_quiet ..) (.ite (tollResult_quiet ..) ?_)))
    exact (tollResult_quiet ..).after (((eraseKeys_quiet m _).after (endServices_quiet t)).trans (.same rfl rfl rfl))

theorem certArmOp_quiet (p : Port) (s : State) : Quiet s (certArmOp p s) := by
  refine service_quiet (fun t => ?_) s
  exact .ite ((tollResult_quiet ..).after (.same rfl rfl rfl)) (tollResult_quiet ..)

theorem certCancelOp_quiet (p : Port) (s : State) : Quiet s (certCancelOp p s) := by
  refine service_quiet (fun t => ?_) s
  exact .ite ((tollResult_quiet ..).after (.same rfl rfl rfl)) (tollResult_quiet ..)

theorem certOpening_quiet (s : State) : Quiet s (certOpening s) := .ite (setCert_quiet ..) (.refl s)
theorem certSwap_quiet (l : Nat) (s : State) : Quiet s (certSwap l s) := .ite (setCert_quiet ..) (.refl s)
theorem certApplied_quiet (l : Nat) (s : State) : Quiet s (certApplied l s) := .ite (endCert_quiet ..) (.refl s)
theorem certClose_quiet (k w : Nat) (i : Bool) (c : Option (Nat × Bool)) (s : State) : Quiet s (certClose k w i c s) :=
  .ite (.refl s) (setCert_quiet ..)

theorem certSign_quiet (s : State) : Quiet s (certSign s) := by
  unfold certSign
  extract_lets c
  split
  · exact .refl s
  · extract_lets slot key s0 body rs tail s1
    have h0 : Quiet s s0 := .ite (.refl s) (drbgDue_quiet s)
    have h1 : Quiet s s1 := h0.trans ((countUse_quiet ..).after (.ite (.refl _) (scalarNext_quiet _)))
    exact .ite (endCert_quiet ..) (.ite h0 ((setCert_quiet ..).after (h1.trans (.same rfl rfl rfl))))

theorem certCommit_quiet (c l : Nat) (k : Option Nat) (s : State) : Quiet s (certCommit c l k s) := by
  unfold certCommit
  exact .ite (.refl s) (.ite ((certSign_quiet _).after (setCert_quiet ..)) (setCert_quiet ..))

/-! ## Kennel -/

theorem setCluster_quiet (i : Nat) (c : ClusterRec) (s : State) : Quiet s (setCluster i c s) := .same rfl rfl rfl
theorem switchMap_quiet (r : Rotation) (s : State) : Quiet s (switchMap r s) :=
  (setCluster_quiet ..).after ((setCluster_quiet ..).after (.same rfl rfl rfl))
theorem skipRotation_quiet (x : Nat) (s : State) : Quiet s (skipRotation x s) := .same rfl rfl rfl

theorem rotate_quiet (r : Rotation) (acc : State × List Nat) : Quiet acc.1 (rotate r acc).1 := by
  unfold rotate
  split
  · exact skipRotation_quiet ..
  · exact switchMap_quiet ..

theorem startCopies_quiet (l : Nat) (q : Option Nat) (s : State) : Quiet s (startCopies l q s) :=
  (lockLoads_quiet _).after (.same rfl rfl rfl)

theorem testDone_quiet (c : Nat) (s : State) : Quiet s (testDone c s) := by
  unfold testDone
  split <;> exact .same rfl rfl rfl

theorem applyTopo_quiet (m : Manifest) (s : State) : Quiet s (applyTopo m s) := .same rfl rfl rfl
theorem startupPasses_quiet (c : Nat) (s : State) : Quiet s (startupPasses c s) := .ite (.same rfl rfl rfl) (.refl s)

/-! ## Mirror -/

theorem pump_quiet (s : State) : Quiet s (pump s) := .same rfl rfl rfl
theorem sendMsg_quiet (m : TowMsg) (o : Option (Nat × Nat × Nat)) (r : Bool) (s : State) :
    Quiet s (sendMsg m o r s) := (pump_quiet _).after (.same rfl rfl rfl)

theorem nextSnapshot_quiet (s : State) : Quiet s (nextSnapshot s) := by
  unfold nextSnapshot
  repeat' split
  all_goals exact .same rfl rfl rfl

theorem txUpdate_quiet (i : Nat) (f : TxMsg → TxMsg) (s : State) : Quiet s (txUpdate i f s) :=
  (nextSnapshot_quiet _).after ((pump_quiet _).after (.same rfl rfl rfl))
theorem rxWhole_quiet (b : Nat) (s : State) : Quiet s (rxWhole b s) := .same rfl rfl rfl
theorem takeSnapshot_quiet (c l : Nat) (a b : Option DigRec) (s : State) : Quiet s (takeSnapshot c l a b s) :=
  (nextSnapshot_quiet _).after (.same rfl rfl rfl)

theorem comparePartner_quiet (n : SnapHead) (s : State) : Quiet s (comparePartner n s) := by
  unfold comparePartner
  dsimp only
  split
  · exact .refl s
  · exact .ite (.same rfl rfl rfl) ((mismatchDigest_quiet ..).after (.same rfl rfl rfl))

theorem promotePartner_quiet (s : State) : Quiet s (promotePartner s) := by
  unfold promotePartner
  repeat' split
  all_goals exact .same rfl rfl rfl

theorem storePending_quiet (n : Snapshot) (s : State) : Quiet s (storePending n s) :=
  (promotePartner_quiet _).after (.same rfl rfl rfl)

theorem refusePartner_quiet (tag c : Nat) (s : State) : Quiet s (refusePartner tag c s) := raise_quiet ..
theorem refuseRestore_quiet (m : TowMsg) (s : State) : Quiet s (refuseRestore m s) := raise_quiet ..

theorem refuseHead_quiet (h : SnapHead) (s : State) : Quiet s (refuseHead h s) := (refusePartner_quiet ..).after (.same rfl rfl rfl)

theorem dropArriving_quiet (s : State) : Quiet s (dropArriving s) := by
  unfold dropArriving
  split
  · exact .same rfl rfl rfl
  · exact .refl s

theorem acceptHead_quiet (h : SnapHead) (s : State) : Quiet s (acceptHead h s) := by
  unfold acceptHead
  dsimp only
  exact .ite ((comparePartner_quiet h _).after (.same rfl rfl rfl)) (.ite (.same rfl rfl rfl) (refuseHead_quiet ..))

theorem receiveHead_quiet (h : SnapHead) (s : State) : Quiet s (receiveHead h s) := by
  unfold receiveHead
  split
  · exact acceptHead_quiet h s
  · exact acceptHead_quiet h s
  · exact .same rfl rfl rfl
  · exact refuseHead_quiet ..

theorem headBurst_quiet (h : SnapHead) (s : State) : Quiet s (headBurst h s) := by
  unfold headBurst
  extract_lets s0
  exact .ite (.ite (.refl s) ((dropArriving_quiet s).trans (.same rfl rfl rfl))) ((receiveHead_quiet ..).after (dropArriving_quiet s))

theorem partBurst_quiet (s : State) : Quiet s (partBurst s) := by
  unfold partBurst
  split
  · exact .ite (.refl s) (.same rfl rfl rfl)
  · exact .refl s

theorem settleSnapshot_quiet (n : Snapshot) (r : RxSnap) (s : State) : Quiet s (settleSnapshot n r s) := by
  unfold settleSnapshot
  split
  · exact storePending_quiet n s
  · exact (dropArriving_quiet s).trans (.same rfl rfl rfl)
  · exact dropArriving_quiet s

theorem headNow_quiet (n : Snapshot) (s : State) : Quiet s (headNow n s) := by
  unfold headNow
  split
  · exact .ite (.refl s) ((receiveHead_quiet ..).after (dropArriving_quiet s))
  · exact receiveHead_quiet ..

theorem receiveSnapshot_quiet (n : Snapshot) (s : State) : Quiet s (receiveSnapshot n s) := by
  unfold receiveSnapshot
  dsimp only
  split
  · exact (settleSnapshot_quiet ..).after (headNow_quiet n s)
  · exact headNow_quiet n s

theorem reexamineArriving_quiet (s : State) : Quiet s (reexamineArriving s) := by
  unfold reexamineArriving
  split
  · exact .ite ((receiveHead_quiet ..).after (dropArriving_quiet s)) (.refl s)
  · exact .refl s

theorem restoreOp_quiet (s : State) : Quiet s (restoreOp s) :=
  .ite ((sendMsg_quiet ..).after (.same rfl rfl rfl)) (.same rfl rfl rfl)

theorem restoreLine_kept (s : State) (x : RangeLine) : Kept s (restoreLine s x) :=
  (setMark_quiet _ _ _).kept.after ⟨fun h => sblit_wf 0 h _ _, id, id⟩

theorem restoreFrom_kept (n : Snapshot) (s : State) : Kept s (restoreFrom n s) := by
  unfold restoreFrom
  extract_lets held a0 s1 s2
  have h1 : Kept s s1 := Quiet.kept (.same rfl rfl rfl)
  have h2 : Kept s s2 := h1.trans (.foldl restoreLine_kept _ _)
  exact h2.trans (Quiet.kept (.same rfl rfl rfl))

theorem answerRestore_quiet (c l : Nat) (s : State) : Quiet s (answerRestore c l s) := sendMsg_quiet ..

theorem receiveReq_quiet (m : TowMsg) (s : State) : Quiet s (receiveReq m s) := by
  unfold receiveReq
  split
  · exact answerRestore_quiet ..
  · exact .same rfl rfl rfl
  · exact .refl s
  · exact refuseRestore_quiet ..

theorem takeRestore_kept (x : Option Snapshot) (p : Option (Nat × Nat)) (s : State) : Kept s (takeRestore x p s) := by
  unfold takeRestore
  refine .ite (.refl s) ?_
  split
  · exact Quiet.kept (.same rfl rfl rfl)
  · exact .ite (restoreFrom_kept ..) (Quiet.kept (.same rfl rfl rfl))

theorem receiveData_kept (m : TowMsg) (s : State) : Kept s (receiveData m s) := by
  unfold receiveData
  dsimp only
  split
  · exact .ite (takeRestore_kept ..) (.ite (Quiet.kept (.same rfl rfl rfl)) (refuseRestore_quiet ..).kept)
  · exact Quiet.kept (.same rfl rfl rfl)
  · exact .refl s
  · exact (refuseRestore_quiet ..).kept

theorem reexamineSnaps_kept (s : State) : Kept s (reexamineSnaps s) := by
  unfold reexamineSnaps
  extract_lets due c0 s1 c1 s2 c2 s3
  have h0 : Quiet s { s with tow := { s.tow with waitRecs := s.tow.waitRecs.filter (fun n => !due.contains n) } } := .same rfl rfl rfl
  have h1 : Quiet s s1 := h0.trans (.foldl (fun t n => comparePartner_quiet n t) due _)
  have h2 : Quiet s1 { s1 with tow := { s1.tow with heldSnaps := [], rxHead := none } } := .same rfl rfl rfl
  have h2' : Quiet s s2 := (h1.trans h2).trans (.foldl (fun t n => receiveSnapshot_quiet n t) _ _)
  have h2'' : Quiet s2 { s2 with tow := { s2.tow with rxHead := s1.tow.rxHead } } := .same rfl rfl rfl
  have h3 : Quiet s s3 := (h2'.trans h2'').trans (reexamineArriving_quiet _)
  have h4 : Quiet s3 { s3 with tow := { s3.tow with heldRestore := [] } } := .same rfl rfl rfl
  exact Kept.after (.foldl (fun t m => .ite (receiveReq_quiet m t).kept (receiveData_kept m t)) _ _) (h3.trans h4).kept

/-! ## Landings -/

theorem beaconError_quiet (s : State) : Quiet s (beaconError s) := .ite (.same rfl rfl rfl) (.refl s)

theorem recordAnn_quiet (w : Nat) (s : State) : Quiet s (recordAnn w s) := by
  unfold recordAnn
  dsimp only
  exact .ite (.refl s) (.same rfl rfl rfl)

theorem decideOne_quiet (s : State) (l : Nat) : Quiet s (decideOne s l) := .same rfl rfl rfl

theorem decideUpTo_quiet (k : Nat) (s : State) : Quiet s (decideUpTo k s) := by
  unfold decideUpTo
  dsimp only
  have h := Quiet.foldl decideOne_quiet (toDecide s k) s
  split
  · exact .ite (h.trans (startCopies_quiet ..)) (h.trans (lockLoads_quiet _))
  · exact h

theorem latchIn_quiet (s : State) (p : Nat × Nat) : Quiet s (latchIn s p) := by
  unfold latchIn
  split <;> exact .same rfl rfl rfl

theorem runEntry_quiet (l : Nat) (post : Option DigRec) (forced : List Rotation × List (Nat × Nat)) (a : LandingAcc)
    (t : TimeEntry) : Quiet a.state (runEntry l post forced a t).state := by
  unfold runEntry
  split
  · exact (certSwap_quiet ..).after (swapTables_quiet ..)
  · dsimp only
    split
    · exact .refl _
    · exact rotate_quiet _ (a.state, a.rotated)
  · dsimp only
    have h : Quiet a.state { a.state with ken := { a.state.ken with deadlineForced := true } } := .same rfl rfl rfl
    split
    · exact h.trans (rotate_quiet _ (_, _))
    · split
      · exact h
      · exact .refl _
  · split
    · exact postDigest_quiet ..
    · exact .refl _
  · exact .same rfl rfl rfl
  · exact .refl _

theorem runEntries_quiet (l : Nat) (post : Option DigRec) (forced : List Rotation × List (Nat × Nat)) (ts : List TimeEntry)
    (a : LandingAcc) : Quiet a.state (ts.foldl (runEntry l post forced) a).state := by
  induction ts generalizing a with
  | nil => exact .refl _
  | cons t ts ih => exact (runEntry_quiet l post forced a t).trans (ih _)

theorem rotateAll_quiet (rs : List Rotation) (acc : State × List Nat) :
    Quiet acc.1 (rs.foldl (fun a r => rotate r a) acc).1 := by
  induction rs generalizing acc with
  | nil => exact .refl _
  | cons r rs ih => exact (rotate_quiet r acc).trans (ih _)

theorem runActions_quiet (l : Nat) (ll : PendingLL) (post : Option DigRec) (s : State) :
    Quiet s (runActions l ll post s).state := by
  unfold runActions
  extract_lets s1 forced a x k s2
  have h1 : Quiet s s1 := .foldl latchIn_quiet ll s
  have h2 : Quiet s a.state := h1.trans (runEntries_quiet l post forced (matching s1 l) ⟨s1, [], []⟩)
  have h3 : Quiet s x.1 := h2.trans (rotateAll_quiet (hostRotation (llValue ll llKenReq)) (a.state, a.rotated))
  exact h3.trans (.same rfl rfl rfl)

theorem noteReached_quiet (l : Nat) (c : Option Nat) (s : State) : Quiet s (noteReached l c s) := .same rfl rfl rfl

theorem markersReached_quiet (l : Nat) (s : State) : Quiet s (markersReached l s) := .sized rfl (by simp [markersReached]) rfl

theorem afterReached_quiet (l : Nat) (s : State) : Quiet s (afterReached l s) := by
  unfold afterReached
  extract_lets c0 k0 s1 s2
  have h1 : Quiet s s1 := (markersReached_quiet l s).trans (.same rfl rfl rfl)
  have h2 : Quiet s s2 := h1.trans (.ite (expireRequest_quiet _) (.refl _))
  split
  · exact h2.trans (startCopies_quiet ..)
  · refine h2.trans (.ite ?_ (startCopies_quiet ..))
    have k := startCopies_quiet 0 none { s2 with crs := { s2.crs with crossing := s2.crs.crossing + 1 } }
    exact ⟨k.mem, k.queue, k.log⟩

theorem landingActions_quiet (l : Nat) (full : Bool) (ll : PendingLL) (c : Option Nat) (a b : Option DigRec) (s : State) :
    Quiet s (landingActions l full ll c a b s) := by
  unfold landingActions
  extract_lets post mirror x s1 s2
  have h1 : Quiet s s1 := (runActions_quiet l ll post s).trans (.ite (takeSnapshot_quiet ..) (.refl _))
  have h2 : Quiet s s2 := (afterReached_quiet l _).after ((noteReached_quiet l c s1).after h1)
  exact h2.trans (.same rfl rfl rfl)

theorem enterLanding_quiet (d : Decided) (s : State) : Quiet s (enterLanding d s) := by
  unfold enterLanding
  extract_lets l prev c first g x seg cross closes c0 k1 s1 s2 s3 s4
  have h1 : Quiet s s1 := .same rfl rfl rfl
  have h2 : Quiet s s2 := .ite h1 ((certClose_quiet ..).after ((closeDigest_quiet prev l s1).after h1))
  have h3 : Quiet s s3 := by
    refine h2.trans ?_
    unfold s3
    split
    · exact refuseManifest_quiet ..
    · exact .refl _
  have h4 : Quiet s s4 := by
    refine (markersReached_quiet ..).after (h3.trans ?_)
    split
    · exact phase1Tables_quiet ..
    · exact .refl _
  exact .ite (h4.trans (.same rfl rfl rfl)) (h3.trans (landingActions_quiet ..))

theorem abortApplication_quiet (s : State) : Quiet s (abortApplication s) :=
  by
  unfold abortApplication
  dsimp only
  have h : Quiet s (match s.man.stagedConf with | some m => abortTables m s | none => s) := by
    split
    · exact emptyShadows_quiet ..
    · exact .refl s
  exact (releaseHeld_quiet _).after ((h.trans (refuseManifest_quiet 0x0E _)).trans (.same rfl rfl rfl))

theorem redecide_quiet (s : State) : Quiet s (redecide s) := .same rfl rfl rfl

theorem install_quiet (m : Manifest) (c l : Nat) (s : State) : Quiet s (install m c l s) := by
  unfold install
  extract_lets prior s0 k s1
  have h0 : Quiet s s0 := (applyTopo_quiet m _).after (switchTables_quiet m s)
  have h1 : Quiet s s1 := h0.trans (journal_quiet ..)
  exact h1.trans (.same rfl rfl rfl)

theorem applyNowOp_quiet (s : State) : Quiet s (applyNowOp s) := by
  unfold applyNowOp
  refine .ite (refuseManifest_quiet ..) (.ite (refuseManifest_quiet ..) (.ite (refuseManifest_quiet ..) (.ite (.refl s) ?_)))
  extract_lets s1
  have h1 : Quiet s s1 := by
    unfold s1
    split
    · exact phase1Tables_quiet ..
    · exact .refl s
  exact h1.trans (.same rfl rfl rfl)

theorem openCrossing_quiet (c : Nat) (s : State) : Quiet s (openCrossing c s) := by
  unfold openCrossing
  exact (certOpening_quiet _).after ((startupPasses_quiet ..).after (.same rfl rfl rfl))

theorem commitFirst_quiet (u : Uncommitted) (s : State) : Quiet s (commitFirst u s) := by
  unfold commitFirst
  extract_lets k1 c1 k2 s1 s2
  have h1 : Quiet s s1 := .same rfl rfl rfl
  have h2 : Quiet s s2 := (certCommit_quiet ..).after ((promotePartner_quiet s1).after h1)
  exact .ite (h2.trans (.same rfl rfl rfl)) h2

theorem commitRun_quiet (n : Nat) (s : State) : Quiet s (commitRun n s) := by
  induction n generalizing s with
  | zero => exact .refl s
  | succ n ih =>
    unfold commitRun
    split
    · exact .ite ((ih _).after (commitFirst_quiet ..)) (.refl s)
    · exact .refl s

end Sys2Proof.Machine
end

