-- ==== Sys2Proof/Laws/Issue.lean ====
section
/-! SUPPORT. What storing, the towline, issue and the Retriever keep: the scratchpad's canonical form, the queue's bound and
the event log; and which of them leave every byte as it was. -/

namespace Sys2Proof.Machine

variable {α : Type} {s t u : State}

/-! ## Scratchpad -/

theorem logRow_quiet (k r b w n : Nat) (s : State) : Quiet s (logRow k r b w n s) := .same rfl rfl rfl
theorem addRow_quiet (r p w k : Nat) (s : State) : Quiet s (addRow r p w k s) := .same rfl rfl rfl

theorem replaceBank_quiet (r b w n : Nat) (s : State) : Quiet s (replaceBank r b w n s) := by
  unfold replaceBank
  extract_lets used c0 start s1
  have h : ∀ k, Quiet s (start k) := fun k => (logRow_quiet 2 r b w n _).after (.same rfl rfl rfl)
  have h1 : Quiet s s1 := logRow_quiet ..
  exact .ite (h 0) (.ite (h 1) (.ite h1 ((raise_quiet ..).after (h1.trans (.same rfl rfl rfl)))))

theorem rowFail_quiet (r b w : Nat) (s : State) : Quiet s (rowFail r b w s) := by
  unfold rowFail
  extract_lets phys mine c0 s1 n used c1 s2
  have h1 : Quiet s s1 := by
    unfold s1
    split
    · exact (addRow_quiet ..).after (.same rfl rfl rfl)
    · exact .refl s
  have h2 : Quiet s s2 := .ite (h1.trans (logRow_quiet ..)) (.ite (h1.trans (logRow_quiet ..)) (.ite (h1.trans (replaceBank_quiet ..))
    ((logRow_quiet ..).after (h1.trans (.same rfl rfl rfl)))))
  split
  · exact .ite ((raise_quiet ..).after h2) h2
  · exact h2

theorem countCorrected_quiet (a : Nat) (s : State) : Quiet s (countCorrected a s) := .same rfl rfl rfl

theorem correctWord_quiet (a : Nat) (s : State) : Quiet s (correctWord a s) := by
  unfold correctWord
  extract_lets s1
  have h1 : Quiet s s1 := countCorrected_quiet ..
  split
  · exact h1.trans (.same rfl rfl rfl)
  · exact .ite h1 ((rowFail_quiet ..).after (h1.trans (.same rfl rfl rfl)))

theorem loseLine_quiet (a : Nat) (s : State) : Quiet s (loseLine a s) := (rowFail_quiet ..).after (setMark_quiet ..)

theorem readMeets_quiet (err : ReadErr) (s : State) : Quiet s (readMeets err s) :=
  (Quiet.foldl (fun t a => correctWord_quiet a t) err.corrected s).trans (.foldl (fun t a => loseLine_quiet a t) _ _)

theorem readWindow_quiet (o n : Nat) (err : ReadErr) (s : State) : Quiet s (readWindow o n err s) := by
  unfold readWindow
  extract_lets w b reads s1 a
  have h1 : Quiet s s1 := .ite (readMeets_quiet ..) (.refl s)
  exact h1.trans (.same rfl rfl rfl)

theorem copyMeets_quiet (err : ReadErr) (s : State) : Quiet s (copyMeets err s) :=
  (Quiet.foldl (fun t a => countCorrected_quiet a t) err.corrected s).trans (.foldl (fun t _ => setMark_quiet _ _ t) _ _)

theorem markUncopied_quiet (r b : Nat) (s : State) : Quiet s (markUncopied r b s) := .same rfl rfl rfl

/-! ## Store -/

theorem writeRun_kept (r : Run) (s : State) : Kept s (writeRun r s) := by
  unfold writeRun
  extract_lets c0 s1
  have h1 : Kept s s1 := ⟨fun h => sblit_wf 0 h _ _, id, id⟩
  exact h1.trans (Quiet.kept (.foldl (fun t u => .ite (setMark_quiet ..) (.ite (setMark_quiet ..) (.refl t))) _ _))

/-- A run changes its own bytes only. -/
theorem writeRun_outside (r : Run) (s : State) (a : Nat) (h : a < r.addr ∨ r.addr + r.bytes.length ≤ a) :
    spByte (writeRun r s) a = spByte s a := by
  have hl : (r.joined (sget 0 s.sp.mem r.addr)).length = r.bytes.length := by
    unfold Run.joined
    split <;> simp_all
  unfold writeRun
  extract_lets c0 s1
  have h1 := (Quiet.foldl (f := fun t u => if r.bad.contains u then setMark u true t
    else if r.addr ≤ 64 * u ∧ 64 * u + 64 ≤ r.addr + r.bytes.length then setMark u false t else t)
    (fun t u => .ite (setMark_quiet ..) (.ite (setMark_quiet ..) (.refl t))) (unitsOf r.addr r.bytes.length) s1).mem
  unfold spByte
  rw [h1]
  exact sget_sblit_outside 0 _ _ _ a (by rw [hl]; exact h)

theorem digestPieces_quiet (e : Entry) (ps : List Piece) (s : State) : Quiet s (digestPieces e ps s) := by
  exact .foldl (fun _ _ => addDigest_quiet ..) _ _

theorem tracePieces_quiet (e : Entry) (ps : List Piece) (s : State) : Quiet s (tracePieces e ps s) :=
  .ite (.foldl (fun _ _ => traceRecord_quiet ..) _ _) (.refl s)

theorem finishPieces_quiet (done : Piece → Bool) (e : Entry) (s : State) : Quiet s (finishPieces done e s).2 := tracePieces_quiet ..

theorem storeEmit_kept (h : Option Nat) (m : Emit) (ts : List Stored) (acc : Entry × State) :
    Kept acc.2 (storeEmit h m ts acc).2 := by
  unfold storeEmit
  dsimp only
  split
  · exact .refl _
  · exact .foldl (fun t r => writeRun_kept r t) _ _

theorem rewriteOne_kept (m : Emit) (acc : Entry × State) : Kept acc.2 (rewriteOne m acc).2 := storeEmit_kept ..

theorem emitOne_kept (h : Option Nat) (delta : Nat) (m : Emit) (acc : Entry × State) :
    Kept acc.2 (emitOne h delta m acc).2 := by
  unfold emitOne
  exact (storeEmit_kept h m _ (_, _)).after ((tracePieces_quiet ..).after (digestPieces_quiet ..)).kept

theorem emitAll_kept (h : Option Nat) (delta : Nat) (ms : List Emit) (e : Entry) (s : State) : Kept s (emitAll h delta ms e s).2 :=
  Kept.foldOn (fun (a : Nat × (Entry × State)) => a.2.2) (fun a m => emitOne_kept h a.1 m a.2) ms (delta, (e, s))

/-- With nothing to write nothing changes. -/
@[simp] theorem emitAll_nil (h : Option Nat) (delta : Nat) (e : Entry) (s : State) : emitAll h delta [] e s = (e, s) := rfl

theorem closeTile_kept (delta rb c : Nat) (x : Coord) (ms : List Emit) (n : Notes) (sent : List (Coord × PVal)) (e : Entry) (s : State) :
    Kept s (closeTile delta rb c x ms n sent e s).2 := by
  unfold closeTile
  dsimp only
  split
  · exact emitAll_kept ..
  · exact emitAll_kept ..

theorem emitLate_kept (rb delta : Nat) (ms : List Emit) (fl : Flags) (e : Entry) (s : State) :
    Kept s (emitLate rb delta ms fl e s).2 := by
  unfold emitLate
  dsimp only
  split
  · exact .refl s
  · exact closeTile_kept ..

theorem addNotes_key (n : Notes) (e : Entry) : (addNotes n e).berth = e.berth ∧ (addNotes n e).seq = e.seq := ⟨rfl, rfl⟩

/-! ## Reduce and MAC -/

theorem putAccs_quiet (xs : List (Nat × AccRec)) (s : State) : Quiet s (putAccs xs s) := .same rfl rfl rfl
theorem setHold_quiet (w : Nat) (h : Option Nat) (s : State) : Quiet s (setHold w h s) :=
  .ite (.same rfl rfl rfl) (.same rfl rfl rfl)
theorem endHold_quiet (b w : Nat) (s : State) : Quiet s (endHold b w s) := .ite (setHold_quiet ..) (.refl s)

theorem matmulHolds_quiet (e : Entry) (d : Desc) (s : State) : Quiet s (matmulHolds e d s) :=
  Quiet.foldl (fun t _ => .ite (.refl t) (.ite (endHold_quiet ..) (setHold_quiet ..))) _ _

theorem setSlip_quiet (k : Nat) (x : SlipTile) (s : State) : Quiet s (setSlip k x s) := .same rfl rfl rfl

theorem macHolds_quiet (e : Entry) (s : State) : Quiet s (macHolds e s) := by
  unfold macHolds
  dsimp only
  split
  · exact matmulHolds_quiet ..
  · exact setHold_quiet ..
  · exact endHold_quiet ..
  · exact .refl s

theorem attnSlips_quiet (d : Desc) (rb : Nat) (rows : List (Coord × AttnRow)) (s : State) : Quiet s (attnSlips d rb rows s) :=
  .foldl (fun _ _ => setSlip_quiet ..) _ _

/-! ## Steps -/

theorem chainStart_quiet (e : Entry) (s : State) : Quiet s (chainStart e s) := .ite (.refl s) (putAccs_quiet ..)

theorem chainTile_kept (delta : Nat) (t : Tile) (e : Entry) (s : State) : Kept s (chainTile delta t e s).2 :=
  Kept.after (closeTile_kept ..) (Quiet.kept (.same rfl rfl rfl))

theorem matmulTile_kept (delta : Nat) (t : Tile) (n : Nat) (e : Entry) (s : State) : Kept s (matmulTile delta t n e s).2 :=
  Kept.after (closeTile_kept ..) (setSlip_quiet ..).kept

theorem loadCluster_kept (delta l : Nat) (e : Entry) (s : State) : Kept s (loadCluster delta l e s).2 :=
  Kept.after (closeTile_kept ..) (setSlip_quiet ..).kept

theorem storeCluster_kept (delta l : Nat) (e : Entry) (s : State) : Kept s (storeCluster delta l e s).2 := closeTile_kept ..

theorem setAccs_quiet (m : Accs) (s : State) : Quiet s { s with arr := { s.arr with accs := m } } := .same rfl rfl rfl

theorem ladderTile_kept (delta : Nat) (t : Tile) (e : Entry) (s : State) : Kept s (ladderTile delta t e s).2 := by
  unfold ladderTile
  dsimp only
  refine Kept.after (closeTile_kept ..) (setAccs_quiet ..).kept

theorem statsTile_kept (delta : Nat) (t : Tile) (e : Entry) (s : State) : Kept s (statsTile delta t e s).2 := by
  unfold statsTile
  dsimp only
  split
  · exact closeTile_kept ..
  · refine Kept.after (closeTile_kept ..) (setAccs_quiet ..).kept

theorem passOneTile_kept (delta : Nat) (t : Tile) (e : Entry) (s : State) : Kept s (passOneTile delta t e s).2 := by
  unfold passOneTile
  split
  · exact ladderTile_kept ..
  · exact statsTile_kept ..

theorem passTwoTile_kept (delta : Nat) (t : Tile) (e : Entry) (s : State) : Kept s (passTwoTile delta t e s).2 := closeTile_kept ..

theorem attnStep_kept (delta rb kt : Nat) (e : Entry) (s : State) : Kept s (attnStep delta rb kt e s).2 :=
  Kept.after (closeTile_kept ..) (Quiet.kept (Quiet.after (attnSlips_quiet ..) (setAccs_quiet ..)))

theorem chainBlock_kept (delta rb : Nat) (e : Entry) (s : State) : Kept s (chainBlock delta rb e s).2 :=
  Kept.after (emitLate_kept ..) (Quiet.kept (.same rfl rfl rfl))

theorem chainEnd_kept (delta : Nat) (e : Entry) (s : State) : Kept s (chainEnd delta e s).2 := by
  unfold chainEnd
  extract_lets d x y
  have h : Kept s x.2 := by
    unfold x
    split
    · exact Kept.foldOn (fun (a : Entry × State) => a.2) (fun a rb => chainBlock_kept delta rb a.1 a.2) _ (e, s)
    · exact .refl s
  have hy : Kept s y.2 := h.trans (finishPieces_quiet ..).kept
  split
  · exact hy
  · exact hy.trans (emitLate_kept ..)

theorem emitStats_kept (delta rb : Nat) (e : Entry) (s : State) : Kept s (emitStats delta rb e s).2 := by
  unfold emitStats
  split
  · exact .refl s
  · exact emitLate_kept ..

theorem emitAttnRow_kept (delta rb : Nat) (c : Coord) (e : Entry) (s : State) : Kept s (emitAttnRow delta rb c e s).2 := by
  unfold emitAttnRow
  extract_lets d n
  split
  · exact .refl s
  · have h : ∀ z : Entry, Kept s (emitLate rb delta (attnEmits rb c e s).1 (attnEmits rb c e s).2 z s).2 := fun _ => emitLate_kept ..
    split
    · exact (h _).trans (finishPieces_quiet ..).kept
    · exact h _

theorem deliverAttn_kept (delta rb : Nat) (c : Coord) (e : Entry) (s : State) : Kept s (deliverAttn delta rb c e s).2 :=
  emitAttnRow_kept ..

/-! ## Towline -/

theorem lateCheck_quiet (w : Nat) (e : Entry) (s : State) : Quiet s (lateCheck w e s).2 := by
  unfold lateCheck
  split
  · split
    · exact raise_quiet ..
    · exact .refl s
  · exact .refl s

theorem sendTow_quiet (e : Entry) (rb : Nat) (r v : Bool) (k : Nat) (bs : List Byte) (s : State) :
    Quiet s (sendTow e rb r v k bs s) := sendMsg_quiet ..

theorem emitInto_kept (rb : Nat) (ms : List Emit) (f : Flags) (d : Nat) (e : Entry) (s : State) : Kept s (emitInto rb ms f d e s) :=
  (emitLate_kept rb d ms f e s).trans (setEntry_quiet _ _).kept

theorem chainFinal_kept (bs : List Byte) (d : Nat) (e : Entry) (s : State) : Kept s (chainFinal bs d e s) := emitInto_kept ..

theorem acceptFinal_kept (rb : Nat) (bs : List Byte) (d : Nat) (e : Entry) (s : State) : Kept s (acceptFinal rb bs d e s) := by
  unfold acceptFinal
  extract_lets e1 s1 s2
  have h1 : Quiet s s1 := setEntry_quiet ..
  have h2 : Quiet s s2 := h1.trans (.ite (sendTow_quiet ..) (.refl _))
  exact .ite (h2.kept.trans (chainFinal_kept ..)) h2.kept

theorem passOn_kept (rb : Nat) (bs : List Byte) (d : Nat) (e : Entry) (s : State) : Kept s (passOn rb bs d e s) := by
  unfold passOn
  exact .ite (acceptFinal_kept ..) ((sendTow_quiet ..).after (setEntry_quiet ..)).kept

theorem ownRecord_kept (rb : Nat) (bs : List Byte) (d : Nat) (e : Entry) (s : State) : Kept s (ownRecord rb bs d e s) := by
  unfold ownRecord
  split
  · exact (setEntry_quiet ..).kept
  · refine .ite (.ite (emitInto_kept ..) (setEntry_quiet ..).kept) (.ite (passOn_kept ..) ?_)
    split
    · exact passOn_kept ..
    · exact (setEntry_quiet ..).kept

theorem offerOwn_kept (rb : Nat) (bs : List Byte) (d : Nat) (e : Entry) (s : State) : Kept s (offerOwn rb bs d e s) :=
  .ite (setEntry_quiet ..).kept (ownRecord_kept ..)

theorem poisonBlock_kept (rb : Nat) (e : Entry) (s : State) : Kept s (poisonBlock rb e s) :=
  (setEntry_quiet ..).kept.after (Kept.foldOn (fun (a : Entry × State) => a.2) (fun a m => rewriteOne_kept m a) _ (e, s))

theorem voidBlock_kept (rb k : Nat) (self : Bool) (d : Nat) (e : Entry) (s : State) : Kept s (voidBlock rb k self d e s) := by
  unfold voidBlock
  split
  · exact .refl s
  · refine .ite (.refl s) ?_
    extract_lets p first e1 r0 e2 s1 s2 s3
    have h1 : Quiet s s1 := setEntry_quiet ..
    have h2 : Quiet s s2 := h1.trans (.ite (sendTow_quiet ..) (.refl _))
    have h3 : Quiet s s3 := h2.trans (.ite (sendTow_quiet ..) (.refl _))
    exact .ite (h3.kept.trans (poisonBlock_kept ..)) (.ite (h3.kept.trans (emitInto_kept ..)) h3.kept)

theorem refuseMsg_kept (m : TowMsg) (env : RunEnv) (s : State) : Kept s (refuseMsg m env s) := by
  unfold refuseMsg
  extract_lets loud
  have h : ∀ c t, Quiet t (loud c t) := fun _ _ => raise_quiet ..
  split
  · exact (h _ s).kept
  · extract_lets r0 e1 s1
    have h1 : Quiet s s1 := (setEntry_quiet ..).after (.ite (.refl s) (h _ s))
    split
    · exact h1.kept.trans (voidBlock_kept ..)
    · exact h1.kept

theorem acceptMsg_kept (m : TowMsg) (b : TowBlock) (env : RunEnv) (e : Entry) (s : State) : Kept s (acceptMsg m b env e s) := by
  unfold acceptMsg
  refine .ite (voidBlock_kept ..) ?_
  extract_lets x e1 s1
  have h1 : Kept s s1 := ((setEntry_quiet ..).after (lateCheck_quiet 1 e s)).kept
  refine .ite (h1.trans (acceptFinal_kept ..)) ?_
  split
  · exact h1.trans (passOn_kept ..)
  · exact h1.trans (setEntry_quiet ..).kept

theorem checkColl_kept (m : TowMsg) (env : RunEnv) (s : State) : Kept s (checkColl m env s) := by
  unfold checkColl
  refine .ite (Quiet.kept (.same rfl rfl rfl)) ?_
  split
  · exact .refl s
  · refine .ite (.refl s) ?_
    split
    · exact refuseMsg_kept ..
    · exact .ite (.refl s) (.ite (refuseMsg_kept ..) (.ite (.refl s) (acceptMsg_kept ..)))

theorem receiveMsg_kept (m : TowMsg) (env : RunEnv) (s : State) : Kept s (receiveMsg m env s) :=
  .ite (.ite (checkColl_kept ..) (.ite (Quiet.kept (.same rfl rfl rfl)) (refuseMsg_kept ..)))
    (.ite (Quiet.kept (.same rfl rfl rfl)) (.ite (.refl s) (refuseMsg_kept ..)))

theorem reexamineHeld_kept (s : State) : Kept s (reexamineHeld s) :=
  Kept.after (.foldl (fun t m => receiveMsg_kept m (RunEnv.clean 0) t) _ _) (Quiet.kept (.same rfl rfl rfl))

/-! ## Issue -/

theorem detectedError_quiet (src : DetSrc) (c : Nat) (e : Entry) (s : State) : Quiet s (detectedError src c e s) := by
  unfold detectedError
  extract_lets cl s1 k s2
  have h1 : Quiet s s1 := raise_quiet ..
  have h2 : Quiet s s2 := h1.trans (.same rfl rfl rfl)
  exact h2.trans (endEarly_quiet ..)

theorem restMeet_quiet (x : RestErr) (a : Entry × State) : Quiet a.2 (restMeet x a).2 := by
  unfold restMeet
  dsimp only
  split
  · exact .refl _
  · exact .same rfl rfl rfl
  · exact putAccs_quiet ..
  · exact setSlip_quiet ..
  · exact .refl _

theorem outputMeet_quiet (x : RestErr) (a : Entry × State) : Quiet a.2 (outputMeet x a).2 := by
  unfold outputMeet
  dsimp only
  split
  · exact .refl _
  · split
    · exact .refl _
    · exact setMark_quiet ..
    · exact .refl _

theorem storeFault_quiet (env : RunEnv) (e : Entry) (s : State) : Quiet s (storeFault env e s).2 := by
  unfold storeFault
  split
  · exact .same rfl rfl rfl
  · exact .refl s

theorem outputMeets_quiet (xs : List RestErr) (a : Entry × State) : Quiet a.2 (xs.foldl (fun a x => outputMeet x a) a).2 :=
  Quiet.foldOn (fun (a : Entry × State) => a.2) (fun a x => outputMeet_quiet x a) xs a

theorem restMeets_quiet (xs : List RestErr) (a : Entry × State) : Quiet a.2 (xs.foldl (fun a x => restMeet x a) a).2 :=
  Quiet.foldOn (fun (a : Entry × State) => a.2) (fun a x => restMeet_quiet x a) xs a

theorem meetStep_quiet (env : RunEnv) (e : Entry) (s : State) : Quiet s (meetStep env e s).2 := by
  exact Quiet.after (restMeets_quiet env.rest (e, readMeets ⟨env.corrected, env.uncorrectable⟩ s)) (readMeets_quiet _ s)

theorem runWork_kept (delta : Nat) (w : Work) (e : Entry) (s : State) : Kept s (runWork delta w e s).2 := by
  unfold runWork
  split
  · exact .refl s
  · exact chainTile_kept ..
  · exact matmulTile_kept ..
  · exact loadCluster_kept ..
  · exact storeCluster_kept ..
  · exact passOneTile_kept ..
  · exact passTwoTile_kept ..
  · exact attnStep_kept ..

theorem runWorks_kept (delta : Nat) (ws : List Work) (e : Entry) (s : State) : Kept s (runWorks delta ws e s).2.2 :=
  Kept.foldOn (fun (a : Nat × (Entry × State)) => a.2.2) (fun _ w => runWork_kept _ w _ _) ws (delta, (e, s))

theorem formed_quiet (e : Entry) (s : State) : Quiet s (formed e s) := (releaseIssue_quiet ..).after (setEntry_quiet ..)

theorem endTogether_kept (delta : Nat) (e : Entry) (s : State) : Kept s (endTogether delta e s) := by
  unfold endTogether
  refine .ite ?_ ((formed_quiet ..).after (macHolds_quiet ..)).kept
  extract_lets r x e1 s1
  have h : Kept s s1 := (chainEnd_kept ..).trans (formed_quiet ..).kept
  exact .ite (h.trans (offerOwn_kept ..)) h

theorem chainBlocks_kept (rbs : List Nat) (d : Nat) (e : Entry) (s : State) :
    Kept s (rbs.foldl (fun (a : Nat × (Entry × State)) rb => (0, chainBlock a.1 rb a.2.1 a.2.2)) (d, (e, s))).2.2 :=
  Kept.foldOn (fun (a : Nat × (Entry × State)) => a.2.2) (f := fun a rb => (0, chainBlock a.1 rb a.2.1 a.2.2))
    (fun a rb => chainBlock_kept a.1 rb a.2.1 a.2.2) rbs (d, (e, s))

theorem stepTogether_kept (p : Plan) (delta : Nat) (e : Entry) (s : State) : Kept s (stepTogether p delta e s).2.2 := by
  unfold stepTogether
  dsimp only
  split
  · exact (runWorks_kept ..).trans (chainBlocks_kept ..)
  · exact runWorks_kept ..

theorem runSteps_kept (p : Plan) (n delta : Nat) (e : Entry) (s : State) : Kept s (runSteps p n delta e s).2.2 := by
  induction n generalizing delta e s with
  | zero => exact .refl s
  | succ n ih =>
    unfold runSteps
    split
    · exact .refl s
    · exact (stepTogether_kept p delta e s).trans (ih ..)

theorem runTogether_kept (whole : Bool) (env : RunEnv) (e : Entry) (s : State) : Kept s (runTogether whole env e s) := by
  unfold runTogether
  split
  · exact (detectedError_quiet ..).kept
  · refine .ite (capEntry_quiet ..).kept ?_
    extract_lets m l p depth f x y e1
    have hm : Quiet s m.2 := meetStep_quiet ..
    have hl : Quiet s l.2 := by
      unfold l
      split
      · exact hm
      · exact hm.trans (lateCheck_quiet ..)
    have hy : Kept s y.2 := ((hl.trans (storeFault_quiet ..)).kept.trans (runSteps_kept ..)).trans (outputMeets_quiet ..).kept
    have h : Kept s (setEntry e1 y.2) := hy.trans (setEntry_quiet ..).kept
    exact .ite (h.trans (endTogether_kept ..)) h

theorem formRows_quiet (rb : Nat) (e : Entry) (s : State) : Quiet s (formRows rb e s).2 := .same rfl rfl rfl

theorem formBlock_kept (rb : Nat) (e : Entry) (s : State) : Kept s (formBlock rb e s) := by
  unfold formBlock
  extract_lets x n grouped stage
  have h : Quiet s x.2 := by
    unfold x
    split
    · exact .refl s
    · exact formRows_quiet ..
  exact .ite (Kept.after (offerOwn_kept ..) (h.trans (setEntry_quiet ..)).kept) (h.trans (setEntry_quiet ..)).kept

theorem formBlocks_kept (p : Plan) (e : Entry) (s : State) : Kept s (formBlocks p e s) := .foldl (fun t rb => formBlock_kept rb _ t) _ _

theorem emitDone_kept (delta : Nat) (e : Entry) (s : State) : Kept s (emitDone delta e s).2 := by
  unfold emitDone
  split
  · exact Kept.foldOn (fun (a : Entry × State) => a.2) (fun _ _ => emitAttnRow_kept ..) _ (e, s)
  · exact Kept.foldOn (fun (a : Entry × State) => a.2) (fun _ _ => emitStats_kept ..) _ (e, s)

theorem endApart_quiet (p : Plan) (e : Entry) (s : State) : Quiet s (endApart p e s) :=
  .ite (setEntry_quiet ..) (.ite (formed_quiet ..) (.ite ((releaseIssue_quiet ..).after (setEntry_quiet ..)) (setEntry_quiet ..)))

theorem settleApart_kept (d : Nat) (e : Entry) (s : State) : Kept s (settleApart d e s) := by
  unfold settleApart
  extract_lets p s1 x
  have h1 : Kept s s1 := formBlocks_kept ..
  exact (h1.trans (emitDone_kept ..)).trans (endApart_quiet ..).kept

theorem startEntry_kept (env : RunEnv) (e : Entry) (s : State) : Kept s (startEntry env e s) := by
  unfold startEntry
  extract_lets d e1 c0 s1 s2
  have h1 : Quiet s s1 := (noteTaken_quiet ..).after (.same rfl rfl rfl)
  have h2 : Quiet s s2 := (h1.trans (.ite (chainStart_quiet ..) (.refl _))).trans (setEntry_quiet ..)
  exact .ite ((settleApart_kept ..).after (h1.trans (setEntry_quiet ..)).kept) (.ite h2.kept (h2.kept.trans (runTogether_kept ..)))

theorem bindEntry_kept (e : Entry) (s : State) : Kept s (bindEntry e s) := by
  unfold bindEntry
  extract_lets d g n w gen named e1 win c0 s1
  have h1 : Quiet s s1 := .ite (.same rfl rfl rfl) (.refl s)
  refine .ite (h1.trans (setEntry_quiet ..)).kept ((reexamineHeld_kept _).after ((setEntry_quiet ..).after ?_).kept)
  exact h1.trans (.same rfl rfl rfl)

theorem refuseEntry_quiet (r : Nat) (e : Entry) (s : State) : Quiet s (refuseEntry r e s) := by
  unfold refuseEntry
  exact (completeRefused_quiet ..).after ((releaseIssue_quiet ..).after (setEntry_quiet ..))

theorem advanceTaken_kept (env : RunEnv) (e : Entry) (s : State) : Kept s (advanceTaken env e s) := by
  unfold advanceTaken
  refine .ite (setEntry_quiet ..).kept ?_
  split
  · exact (refuseEntry_quiet ..).kept
  · extract_lets s1 e1
    have h1 : Kept s s1 := .ite (setEntry_quiet ..).kept (bindEntry_kept ..)
    exact .ite (h1.trans (startEntry_kept ..)) h1

theorem advanceMarker_quiet (e : Entry) (s : State) : Quiet s (advanceMarker e s) := by
  unfold advanceMarker
  split
  · exact refuseEntry_quiet ..
  · exact setEntry_quiet ..

theorem latchVlen_quiet (e : Entry) (s : State) : Quiet s (latchVlen e s) := .ite (.refl s) (.same rfl rfl rfl)

theorem takeEntry_kept (env : RunEnv) (e : Entry) (s : State) : Kept s (takeEntry env e s) := by
  unfold takeEntry
  extract_lets d k c0 s1 e1 s2 s3
  have h1 : Quiet s s1 := (latchVlen_quiet ..).after (.same rfl rfl rfl)
  have h3 : Quiet s s3 := (lockLoads_quiet _).after ((setEntry_quiet ..).after ((decideUpTo_quiet ..).after (h1.trans (noteTaken_quiet ..))))
  exact .ite (h1.trans (refuseEntry_quiet ..)).kept (.ite (h1.trans (setEntry_quiet ..)).kept
    (.ite (h1.trans (refuseEntry_quiet ..)).kept (.ite (h3.trans (advanceMarker_quiet ..)).kept (h3.kept.trans (advanceTaken_kept ..)))))

theorem openHeld_quiet (s : State) (e : Entry) : Quiet s (openHeld s e) := by
  unfold openHeld
  extract_lets k s1
  have h1 : Quiet s s1 := (decideUpTo_quiet ..).after (noteTaken_quiet ..)
  exact .ite (refuseEntry_quiet ..) (.ite (h1.trans (advanceMarker_quiet ..)) h1)

theorem hitGranules_quiet (e : Entry) (s : State) : Quiet s (hitGranules e s).2 := by
  unfold hitGranules
  dsimp only
  split
  · exact lateCheck_quiet ..
  · exact .refl s

theorem resumeEntry_quiet (e : Entry) (s : State) : Quiet s (resumeEntry e s) :=
  .ite ((setEntry_quiet ..).after ((hitGranules_quiet e s).trans (.same rfl rfl rfl))) (.refl s)

theorem takeMarker_quiet (env : RunEnv) (e : Entry) (s : State) (hk : e.desc.kind = .marker) :
    Quiet s (takeEntry env e s) := by
  unfold takeEntry
  extract_lets d k c0 s1 e1 s2 s3
  have h1 : Quiet s s1 := (latchVlen_quiet ..).after (.same rfl rfl rfl)
  have h3 : Quiet s s3 := (lockLoads_quiet _).after ((setEntry_quiet ..).after ((decideUpTo_quiet ..).after (h1.trans (noteTaken_quiet ..))))
  refine .ite (h1.trans (refuseEntry_quiet ..)) (.ite (h1.trans (setEntry_quiet ..)) (.ite (h1.trans (refuseEntry_quiet ..)) ?_))
  rw [if_pos (show d.kind = .marker from hk)]
  exact h3.trans (advanceMarker_quiet ..)

theorem offer_kept (k : Kind) (b : Nat) (env : RunEnv) (s : State) : Kept s (offer k b env s) := by
  unfold offer
  refine .ite (.refl s) ?_
  split
  · exact .refl s
  · exact .ite (.refl s) (.ite (takeEntry_kept ..) (.ite (.refl s) (.ite (advanceTaken_kept ..)
      (.ite (resumeEntry_quiet ..).kept (.refl s)))))

theorem waitOrAside_quiet (e : Entry) (s : State) : Quiet s (waitOrAside e s) := by
  unfold waitOrAside
  split
  · exact ((releaseIssue_quiet e.berth _).after (setEntry_quiet _ s)).trans (.same rfl rfl rfl)
  · exact setEntry_quiet ..

theorem boundaryTogether_kept (env : RunEnv) (e : Entry) (s : State) : Kept s (boundaryTogether env e s) := by
  unfold boundaryTogether
  refine .ite ((releaseIssue_quiet ..).after (setEntry_quiet ..)).kept (.ite (.ite (waitOrAside_quiet ..).kept (setEntry_quiet ..).kept) ?_)
  exact .ite (setEntry_quiet ..).kept ((runTogether_kept ..).after (setEntry_quiet ..).kept)

theorem boundaryApart_kept (env : RunEnv) (e : Entry) (s : State) : Kept s (boundaryApart env e s) := by
  unfold boundaryApart
  refine .ite (setEntry_quiet ..).kept ?_
  extract_lets p go
  refine .ite (setEntry_quiet ..).kept ?_
  split
  · exact (detectedError_quiet ..).kept
  · rename_i m l f x y src e1 _ hq
    refine .ite (capEntry_quiet ..).kept ?_
    have hl : Kept s l.2 := by
      unfold l
      split
      · exact (meetStep_quiet ..).kept
      · exact Kept.after (lateCheck_quiet ..).kept (meetStep_quiet ..).kept
    exact Kept.after (settleApart_kept ..) (Kept.after (setEntry_quiet ..).kept (Kept.after (outputMeets_quiet ..).kept
      (Kept.after (runWorks_kept ..) (hl.trans (storeFault_quiet ..).kept))))

theorem releaseOwn_kept (e : Entry) (s : State) : Kept s (releaseOwn e s) :=
  Kept.after (.foldl (fun _ _ => ownRecord_kept ..) _ _) (setEntry_quiet ..).kept

theorem compareSignature_kept (b d : Nat) (s : State) : Kept s (compareSignature b d s) := by
  unfold compareSignature
  repeat' split
  · exact .refl s
  · exact .refl s
  · exact releaseOwn_kept ..
  · exact (detectedError_quiet ..).kept

theorem timerExpiry_kept (b rb : Nat) (env : RunEnv) (s : State) : Kept s (timerExpiry b rb env s) := by
  unfold timerExpiry
  split
  · exact .refl s
  · split
    · exact .refl s
    · refine .ite (setEntry_quiet ..).kept ?_
      exact (voidBlock_kept ..).after ((setEntry_quiet ..).after (.ite (.refl s) (raise_quiet ..))).kept

theorem settleRows_kept (s : State) : Kept s (settleRows s) := .foldl (fun _ _ => settleApart_kept ..) _ _

theorem takeMsg_kept (m : TowMsg) (env : RunEnv) (s : State) : Kept s (takeMsg m env s) := by
  unfold takeMsg
  split
  · exact (receiveSnapshot_quiet ..).kept
  · exact (receiveReq_quiet ..).kept
  · exact receiveData_kept ..
  · exact (settleRows_kept _).after (receiveMsg_kept ..)

/-! ## Retriever -/

theorem takeSource_quiet (c : Cand) (s : State) : Quiet s (takeSource c s) := by
  unfold takeSource
  split
  · split
    · exact setEntry_quiet ..
    · exact .refl s
  · exact .same rfl rfl rfl
  · exact .refl s

theorem sendReq_quiet (c : Cand) (ch : Nat) (s : State) : Quiet s (sendReq c ch s) := by
  unfold sendReq
  exact (takeSource_quiet c s).trans (.same rfl rfl rfl)

theorem nextRequest_quiet (ch : Nat) (s : State) : Quiet s (nextRequest ch s) := by
  unfold nextRequest
  extract_lets cs
  split
  · exact sendReq_quiet ..
  · split
    · exact .refl s
    · exact .ite (.same rfl rfl rfl) (sendReq_quiet ..)

theorem dropReq_quiet (k : Nat) (s : State) : Quiet s (dropReq k s) := .same rfl rfl rfl

theorem dropWritten_quiet (b : Nat) (s : State) : Quiet s (dropWritten b s) := .same rfl rfl rfl

theorem fillCache_quiet (x b : Nat) (ys : List (Nat × Sector)) (s : State) : Quiet s (fillCache x b ys s) := .same rfl rfl rfl

theorem reachWith_quiet (f : State → Entry → Entry) (es : List Entry) (s : State) : Quiet s (reachWith f es s) := by
  refine .foldl (fun t e => .ite (.refl t) ?_) _ _
  dsimp only
  refine (setEntry_quiet ..).after ?_
  split
  · exact lateCheck_quiet ..
  · exact .refl t

theorem takeResponse_quiet (q : Req) (xs : List Sector) (s : State) : Quiet s (takeResponse q xs s) := by
  unfold takeResponse
  dsimp only
  split
  · exact .ite (.refl s) (Quiet.after (reachWith_quiet ..) (.same rfl rfl rfl))
  · exact reachWith_quiet ..
  · exact .refl s

theorem recordFault_quiet (f : FaultRec) (s : State) : Quiet s (recordFault f s) := by
  unfold recordFault
  extract_lets same
  split
  · exact .same rfl rfl rfl
  · exact .ite (.refl s) (.same rfl rfl rfl)

theorem faultEntry_quiet (q : Req) (e : Entry) (s : State) : Quiet s (faultEntry q e s) := by
  unfold faultEntry
  exact (recordFault_quiet ..).after (setEntry_quiet ..)

theorem faultOwner_quiet (q : Req) (s : State) : Quiet s (faultOwner q s) := by
  unfold faultOwner
  split
  · split
    · exact faultEntry_quiet ..
    · exact .refl s
  · split
    · exact faultEntry_quiet ..
    · exact .refl s
  · exact .same rfl rfl rfl
  · exact .same rfl rfl rfl
  · exact .refl s
  · exact .ite (setCert_quiet ..) (.refl s)

theorem retryOp_quiet (s : State) : Quiet s (retryOp s) := by
  unfold retryOp
  split
  · exact .refl s
  · extract_lets s1
    have h1 : Quiet s s1 := clearFault_quiet ..
    split
    · exact h1.trans (setEntry_quiet ..)
    · exact h1

theorem failOp_quiet (s : State) : Quiet s (failOp s) := by
  unfold failOp
  split
  · exact .refl s
  · split
    · exact (clearFault_quiet ..).after (endEarly_quiet ..)
    · exact clearFault_quiet ..

theorem badWrite_quiet (s : State) : Quiet s (badWrite s) := .same rfl rfl rfl
theorem lookaheadOp_quiet (v : Word64) (s : State) : Quiet s (lookaheadOp v s) := .ite (badWrite_quiet _) (latch_quiet ..)
theorem leashOp_quiet (v : Word64) (s : State) : Quiet s (leashOp v s) := .ite (latch_quiet ..) (badWrite_quiet _)
theorem berthGroupOp_quiet (b : Nat) (v : Word64) (s : State) : Quiet s (berthGroupOp b v s) := .ite (.refl s) (latch_quiet ..)
theorem mirrorRangeOp_quiet (v : Word64) (s : State) : Quiet s (mirrorRangeOp v s) := .ite (.refl s) (latch_quiet ..)

end Sys2Proof.Machine
end

