-- ==== Sys2Proof/Laws/Ports.lean ====
section
/-! SUPPORT. What the register map and the side-band port keep. -/

namespace Sys2Proof.Machine

variable {s t u : State}

theorem jqCtlOp_kept (p : Port) (v : Nat) (s : State) : Kept s (jqCtlOp p v s) :=
  .ite (coldOp_kept ..) (.ite (jqWarm_kept _) (.ite (jqReplay_kept _) (.refl s)))

theorem tblCtlOp_quiet (v : Nat) (s : State) : Quiet s (tblCtlOp v s) := .ite (.refl s) (startOp_quiet ..)

theorem manCtlOp_quiet (p : Port) (v : Nat) (s : State) : Quiet s (manCtlOp p v s) := by
  unfold manCtlOp
  split
  · exact emptyStage_quiet ..
  · exact closeStage_quiet ..
  · exact applyNowOp_quiet ..
  · exact emptyStage_quiet ..
  · exact disarmOp_quiet ..
  · exact forgetOp_quiet ..
  · exact .refl s

theorem cqCtlOp_quiet (v : Nat) (s : State) : Quiet s (cqCtlOp v s) := by
  unfold cqCtlOp
  extract_lets s1
  have h1 : Quiet s s1 := .ite (abortBerth_quiet ..) (.refl s)
  exact .ite (h1.trans (releaseWindow_quiet ..)) h1

theorem rtvCtlOp_quiet (v : Nat) (s : State) : Quiet s (rtvCtlOp v s) := by
  unfold rtvCtlOp
  split
  · exact retryOp_quiet ..
  · exact failOp_quiet ..
  · exact .refl s

theorem ldgCtlOp_quiet (v : Nat) (s : State) : Quiet s (ldgCtlOp v s) :=
  .ite (.refl s) (.ite (rebaseBerth_quiet ..) (.ite (resumeOp_quiet _) (.refl s)))

theorem kenReqOp_quiet (v : Nat) (s : State) : Quiet s (kenReqOp v s) := latch_quiet ..

/-- A read pointer moved forward by no more than the unread entries leaves no more of them unread. -/
theorem unread_move (wr rd v : Nat) (hw : wr < 2 ^ 16) (hr : rd < 2 ^ 16)
    (h : (v % 2 ^ 16 + 2 ^ 16 - rd) % 2 ^ 16 ≤ (wr + 2 ^ 16 - rd) % 2 ^ 16) (hu : (wr + 2 ^ 16 - rd) % 2 ^ 16 ≤ 256) :
    (wr + 2 ^ 16 - v % 2 ^ 16) % 2 ^ 16 ≤ 256 := by
  have hv : v % 2 ^ 16 < 2 ^ 16 := Nat.mod_lt _ (by decide)
  generalize v % 2 ^ 16 = n at *
  omega

theorem logRdOp_quiet (v : Nat) (s : State) : Quiet s (logRdOp v s) := by
  unfold logRdOp
  extract_lets new old
  split
  · rename_i h
    refine ⟨rfl, id, fun hs => ?_⟩
    obtain ⟨h1, h2, h3, h4⟩ := hs
    refine ⟨h1, Nat.mod_lt _ (by decide), ?_, h4⟩
    exact unread_move _ _ _ h1 h2 h h3
  · exact .refl s

theorem towSelfOp_quiet (v : Nat) (s : State) : Quiet s (towSelfOp v s) := .ite (.refl s) (.same rfl rfl rfl)

theorem tollCmdOp_quiet (p : Port) (v : Nat) (s : State) : Quiet s (tollCmdOp p v s) := by
  unfold tollCmdOp
  split
  · exact tollStatusOp_quiet ..
  · exact tollNonceOp_quiet ..
  · exact tollAuthOp_quiet ..
  · exact tollLogoutOp_quiet ..
  · exact tollSelftestOp_quiet ..
  · exact tollReadPubkeyOp_quiet ..
  · exact tollLoadPubkeyOp_quiet ..
  · exact tollLoadWrappedOp_quiet ..
  · exact tollGenkeyOp_quiet ..
  · exact tollClearSlotOp_quiet ..
  · exact tollZeroiseOp_quiet ..
  · exact tollZeroiseOp_quiet ..
  · exact tollFieldLockOp_quiet ..
  · exact certArmOp_quiet ..
  · exact certCancelOp_quiet ..
  · exact service_quiet (fun _ => tollResult_quiet ..) s

/-- A register write outside JQ_CTL stores nothing. -/
theorem regOp_quiet (p : Port) (r : Reg) (v : Nat) (s : State) (h : r ≠ .jqCtl) : Quiet s (regOp p r v s) := by
  unfold regOp
  cases r
  case jqCtl => exact absurd rfl h
  case tblCtl => exact tblCtlOp_quiet ..
  case traceCtl => exact armTrace_quiet ..
  case cqCtl => exact cqCtlOp_quiet ..
  case manCtl => exact manCtlOp_quiet ..
  case manApplyAt => exact armApply_quiet ..
  case rtvLookahead => exact lookaheadOp_quiet ..
  case rtvLeash => exact leashOp_quiet ..
  case rtvCtl => exact rtvCtlOp_quiet ..
  case towSelf => exact towSelfOp_quiet ..
  case towMirrorRange => exact mirrorRangeOp_quiet ..
  case towCtl => exact .ite (restoreOp_quiet ..) (.refl s)
  case towBerthGroup => exact berthGroupOp_quiet ..
  case kenReq => exact kenReqOp_quiet ..
  case evtLogRd => exact logRdOp_quiet ..
  case ldgCtl => exact ldgCtlOp_quiet ..
  case tollCmd => exact tollCmdOp_quiet ..
  case evtPending => exact ⟨rfl, id, id⟩
  case evtMask => exact ⟨rfl, id, id⟩
  all_goals exact .same rfl rfl rfl

theorem regOp_kept (p : Port) (r : Reg) (v : Nat) (s : State) : Kept s (regOp p r v s) := by
  by_cases h : r = .jqCtl
  · subst h; exact jqCtlOp_kept ..
  · exact (regOp_quiet p r v s h).kept

theorem writeReg_kept (p : Port) (r : Reg) (v : Nat) (s : State) : Kept s (writeReg p r v s) := by
  unfold writeReg
  exact .ite (dropHeld_quiet ..).kept
    (.ite ((regOp_kept ..).after (dropHeld_quiet ..).kept) ((deny_quiet _).after (dropHeld_quiet ..)).kept)

theorem tollDataOp_quiet (p : Port) (o : Nat) (bs : List Byte) (s : State) : Quiet s (tollDataOp p o bs s) :=
  setTollPort_quiet ..

theorem writeArea_quiet (p : Port) (a : Area) (o : Nat) (bs : List Byte) (s : State) : Quiet s (writeArea p a o bs s) := by
  unfold writeArea
  extract_lets t
  have h1 : Quiet s t := dropHeld_quiet ..
  refine .ite h1 ?_
  cases a
  · exact .ite (cqSubmitWrite_quiet ..) h1
  · exact .ite (cqSubmit64Write_quiet ..) h1
  · exact .ite (h1.trans (tollDataOp_quiet ..)) (h1.trans (deny_quiet _))
  · exact h1
  · exact h1
  · exact .ite (h1.trans (stageWrite_quiet ..)) (h1.trans (deny_quiet _))
  · exact .ite (h1.trans (shadowWrite_quiet ..)) (h1.trans (deny_quiet _))
  · exact h1

theorem setCapture_quiet (p : Port) (c : Option (Nat × Nat)) (s : State) : Quiet s (setCapture p c s) := by
  cases p <;> exact .same rfl rfl rfl
theorem setHeld_quiet (p : Port) (c : Option (Nat × Nat)) (s : State) : Quiet s (setHeld p c s) := by
  cases p <;> exact .same rfl rfl rfl

theorem readHalf_quiet (p : Port) (o : Nat) (r : Reg) (h : Bool) (s : State) : Quiet s (readHalf p o r h s).2 := by
  unfold readHalf
  extract_lets live
  split
  · exact setCapture_quiet ..
  · split
    · split
      · exact setCapture_quiet ..
      · exact .refl s
    · exact .refl s

theorem writeHalf_kept (p : Port) (o : Nat) (r : Reg) (h : Bool) (v : Nat) (s : State) :
    Kept s (writeHalf p o r h v s) := by
  unfold writeHalf
  refine .ite ?_ ?_
  · extract_lets t
    have h1 : Quiet s t := dropHeld_quiet ..
    exact .ite (h1.trans (setHeld_quiet ..)).kept (h1.trans (deny_quiet _)).kept
  · split
    · refine .ite (writeReg_kept ..) ((writeReg_kept ..).after (Quiet.kept (.same rfl rfl rfl)))
    · exact (writeReg_kept ..).after (Quiet.kept (.same rfl rfl rfl))

theorem hostWrite_kept (o : Nat) (a : Access) (v : Nat) (s : State) : Kept s (hostWrite o a v s) := by
  unfold hostWrite
  refine .ite (.refl s) ?_
  split
  · cases a
    · exact writeReg_kept ..
    · exact writeHalf_kept ..
    · exact writeHalf_kept ..
  · extract_lets x
    split
    · exact (Quiet.ite (writeArea_quiet ..) (dropHeld_quiet ..)).kept
    · exact (dropHeld_quiet ..).kept

theorem hostWriteBytes_kept (o : Nat) (bs : List Byte) (s : State) : Kept s (hostWriteBytes o bs s) := by
  unfold hostWriteBytes
  split
  · exact hostWrite_kept ..
  · refine .ite (.refl s) ?_
    split
    · exact (Quiet.ite (writeArea_quiet ..) (dropHeld_quiet ..)).kept
    · exact (dropHeld_quiet ..).kept

theorem hostReadArea_quiet (o n : Nat) (s : State) : Quiet s (hostReadArea o n s) := by
  unfold hostReadArea
  split
  · exact .ite (.same rfl rfl rfl) (.ite (readWindow_quiet ..) (.same rfl rfl rfl))
  · exact .same rfl rfl rfl

theorem hostRead_quiet (o : Nat) (a : Access) (s : State) : Quiet s (hostRead o a s) := by
  unfold hostRead
  extract_lets give
  have h : ∀ n x, Quiet x.2 (give n x) := fun _ _ => .same rfl rfl rfl
  split
  · cases a
    · exact h 8 (_, s)
    · exact (h 4 _).after (readHalf_quiet ..)
    · exact (h 4 _).after (readHalf_quiet ..)
  · exact hostReadArea_quiet ..

/-! ## Side-band -/

theorem freeData_quiet (s : State) : Quiet s (freeData s).2 := .same rfl rfl rfl
theorem frameIn_quiet (s : State) : Quiet s (frameIn s) := .same rfl rfl rfl
theorem respond_quiet (v st a d : Nat) (s : State) : Quiet s (respond v st a d s) := .same rfl rfl rfl
theorem refuseFrame_quiet (v st a : Nat) (s : State) : Quiet s (refuseFrame v st a s) := .same rfl rfl rfl
theorem failFrame_quiet (v st a : Nat) (s : State) : Quiet s (failFrame v st a s) := by
  unfold failFrame
  exact (refuseFrame_quiet ..).after (.ite (.same rfl rfl rfl) (.refl s))
theorem executed_quiet (v : Nat) (s : State) : Quiet s (executed v s) := .same rfl rfl rfl

theorem sbReadAt_quiet (x : SbTarget) (s : State) : Quiet s (sbReadAt x s).2 := by
  cases x
  · exact readHalf_quiet ..
  · exact .refl s

theorem sbWriteAt_kept (x : SbTarget) (d : Nat) (s : State) : Kept s (sbWriteAt x d s) := by
  cases x
  · exact writeHalf_kept ..
  · exact (writeArea_quiet ..).kept

end Sys2Proof.Machine
end

