-- ==== Sys2Proof/Laws/Step.lean ====
section
/-! SUPPORT. What each command leaves as it was: the commands that store nothing in the scratchpad are quiet; every
command keeps the canonical form of the scratchpad, the bound of the queue and the event log in its fields. -/

namespace Sys2Proof.Machine

variable {s t u : State}

/-- A meaning that answers a next state answers that state. -/
theorem Outcome.of_next {P : State → Prop} (h : P u) (e : (Host.Outcome.next u : Host.Outcome State Fault Refusal) = .next t) :
    P t := by
  injection e with e
  exact e ▸ h

theorem execColdReset_kept (c : ColdCause) (k : Bool) (h : execColdReset c k s = .next t) : Kept s t := by
  refine Outcome.of_next ?_ h
  exact coldOp_kept ..

theorem execWarmReset_kept (c : WarmCause) (h : execWarmReset c s = .next t) : Kept s t := by
  refine Outcome.of_next ?_ h
  cases c with
  | pin => exact .ite (.refl s) (resetOrCold_kept _ _)
  | jqCtl p => exact jqWrite_kept (fun _ => jqWarm_kept _) s

theorem execReplayReset_kept (p : Port) (h : execReplayReset p s = .next t) : Kept s t := by
  refine Outcome.of_next ?_ h
  exact jqWrite_kept (fun _ => jqReplay_kept _) s

theorem execResetDrainEnd_quiet (h : execResetDrainEnd s = .next t) : Quiet s t := by
  refine Outcome.of_next ?_ h
  exact .ite (.same rfl rfl rfl) (.refl s)

theorem execFabReady_quiet (h : execFabReady s = .next t) : Quiet s t := by
  refine Outcome.of_next ?_ h
  exact .ite (.refl s) (.same rfl rfl rfl)

theorem startupReplace_quiet (r b : Nat) (a : Raising) : Quiet a.1 (startupReplace r b a).1 := by
  unfold startupReplace
  dsimp only
  split
  · exact journal_quiet ..
  · split
    · exact .refl _
    · exact .same rfl rfl rfl

theorem startupRow_quiet (a : Raising) (r : Nat × Nat × Nat) : Quiet a.1 (startupRow a r).1 := by
  unfold startupRow
  dsimp only
  split
  · split
    · exact .refl _
    · exact addRow_quiet ..
  · split
    · exact startupReplace_quiet ..
    · split
      · exact .refl _
      · exact addRow_quiet ..

theorem startupSpare_quiet (a : Raising) (b : Nat × Nat) : Quiet a.1 (startupSpare a b).1 := by
  unfold startupSpare
  dsimp only
  split
  · exact journal_quiet ..
  · exact .refl _

theorem startupBank_quiet (a : Raising) (b : Nat × Nat) : Quiet a.1 (startupBank a b).1 := by
  unfold startupBank
  split
  · exact startupReplace_quiet ..
  · exact .refl _

theorem startupRepair_quiet (f : SelfTest) (s : State) : Quiet s (startupRepair f s).1 :=
  Quiet.after (Quiet.foldOn (fun (a : Raising) => a.1) startupRow_quiet f.rows _)
    (Quiet.after (Quiet.foldOn (fun (a : Raising) => a.1) startupBank_quiet f.banks _)
      (Quiet.foldOn (fun (a : Raising) => a.1) startupSpare_quiet f.banks (s, [])))

theorem execStartupSelfTestEnd_quiet (f : SelfTest) (h : execStartupSelfTestEnd f s = .next t) : Quiet s t := by
  refine Outcome.of_next ?_ h
  refine .ite (.refl s) ?_
  extract_lets r s0
  have h0 : Quiet s s0 := Quiet.after (.foldl (fun _ _ => raise_quiet ..) _ _) (startupRepair_quiet f s)
  refine h0.trans (Quiet.after (settle_quiet _) (.ite ?_ (Quiet.after (tollError_quiet _) ?_)))
  all_goals exact .same rfl rfl rfl

theorem execMainSideUp_kept (k : Bool) (h : execMainSideUp s k = .next t) : Kept s t := by
  refine Outcome.of_next ?_ h
  generalize h0 : (if s.pwr.mainDown = true ∧ (k = true ∨ s.pwr.latch = true) ∧ ¬s.pwr.keepLost = true then coldReset k s else s) = s0
  have h1 : Kept s s0 := h0 ▸ .ite (coldReset_kept _ _) (.refl s)
  refine h1.trans (.ite ?_ (.refl s0))
  extract_lets s1 evs
  have h2 : Kept s0 s1 := .ite (coldReset_kept _ _) (.refl _)
  refine Kept.after (seedDrbg_quiet ..).kept (h2.trans ⟨id, id, fun hk => ?_⟩)
  exact List.foldlRecOn (motive := fun e => EvtUnit.ok e) evs logEvent hk (fun e he x _ => logEvent_ok e x he)

theorem execBeaconFrame_quiet (ns : List (BitVec 4)) (h : execBeaconFrame ns s = .next t) : Quiet s t := by
  refine Outcome.of_next ?_ h
  exact .ite (.refl s) (.ite (beaconError_quiet _) (.same rfl rfl rfl))

theorem recordMooring_quiet (w : Nat) (s : State) : Quiet s (recordMooring w s) :=
  (recordAnn_quiet w s).trans (.same rfl rfl rfl)

theorem execBeaconFrameEffect_quiet (h : execBeaconFrameEffect s = .next t) : Quiet s t := by
  refine Outcome.of_next ?_ h
  refine .ite (.refl s) ?_
  split
  · exact .refl s
  · rename_i f rest hf
    have h1 : Quiet s { s with crs := { s.crs with frames := rest } } := .same rfl rfl rfl
    refine .ite (.ite ?_ h1) (.ite (h1.trans (recordAnn_quiet ..)) (h1.trans (beaconError_quiet _)))
    exact Quiet.after (settle_quiet _) (Quiet.after (recordMooring_quiet ..) (.same rfl rfl rfl))

theorem execMoorWait_quiet (h : execMoorWait s = .next t) : Quiet s t := by
  refine Outcome.of_next ?_ h
  exact .ite (.same rfl rfl rfl) (.refl s)

theorem execRailOrderViolation_quiet (h : execRailOrderViolation s = .next t) : Quiet s t := by
  refine Outcome.of_next ?_ h
  exact .same rfl rfl rfl

theorem execKeepSupplyALow_quiet (h : execKeepSupplyALow s = .next t) : Quiet s t := by
  refine Outcome.of_next ?_ h
  exact .ite ((keepSwitch_quiet ..).after (.same rfl rfl rfl)) (.same rfl rfl rfl)

theorem execKeepSupplyReturn_quiet (h : execKeepSupplyReturn s = .next t) : Quiet s t := by
  refine Outcome.of_next ?_ h
  exact .ite ((keepSwitch_quiet ..).after (.same rfl rfl rfl)) (.same rfl rfl rfl)

theorem tearBlock_quiet (b : KeepBlock) (s : State) : Quiet s (tearBlock b s) := .same rfl rfl rfl

theorem tearWrites_quiet (x : Torn) (s : State) : Quiet s (tearWrites x s) :=
  (tearAccepts_quiet x.accepts s).trans (.foldl (fun _ _ => tearBlock_quiet ..) _ _)

theorem execKeepIslandFailing_quiet (x : Torn) (h : execKeepIslandFailing x s = .next t) : Quiet s t := by
  refine Outcome.of_next ?_ h
  exact Quiet.after (keepSwitch_quiet ..) ((tearWrites_quiet x s).trans (.same rfl rfl rfl))

theorem execKeepSupplyRestored_quiet (b : Bool) (h : execKeepSupplyRestored b s = .next t) : Quiet s t := by
  refine Outcome.of_next ?_ h
  exact .ite (.same rfl rfl rfl) (.ite (.same rfl rfl rfl) (Quiet.after (keepSwitch_quiet ..) (.same rfl rfl rfl)))

theorem rewriteBlock_quiet (b : KeepBlock) (s : State) : Quiet s (rewriteBlock b s) := by
  unfold rewriteBlock
  split
  · exact .same rfl rfl rfl
  · exact .refl s

theorem execKeepSealCheckEnd_quiet (bs : List KeepBlock) (h : execKeepSealCheckEnd bs s = .next t) : Quiet s t := by
  refine Outcome.of_next ?_ h
  refine .ite ?_ (.refl s)
  exact (Quiet.foldl (fun _ _ => rewriteBlock_quiet ..) bs s).trans (.same rfl rfl rfl)

theorem execVddCoreBelowMin_quiet (mv : Nat) (h : execVddCoreBelowMin s mv = .next t) : Quiet s t := by
  refine Outcome.of_next ?_ h
  exact .ite (.same rfl rfl rfl) (.refl s)

theorem execVddCoreAboveNext_quiet (mv : Nat) (h : execVddCoreAboveNext s mv = .next t) : Quiet s t := by
  refine Outcome.of_next ?_ h
  exact .ite (.same rfl rfl rfl) (.refl s)

theorem execVddCoreCollapse_kept (h : execVddCoreCollapse s = .next t) : Kept s t := by
  refine Outcome.of_next ?_ h
  exact coldReset_kept ..

theorem execThermalSample_quiet (x : Int) (a b c : Nat) (n : Torn) (h : execThermalSample x a b c s n = .next t) : Quiet s t := by
  refine Outcome.of_next ?_ h
  have h1 : Quiet s (if decide (120 * 16 ≤ x) = true ∧ ¬mainStopped s then tearWrites n s else s) :=
    .ite (tearWrites_quiet ..) (.refl s)
  exact h1.trans (.same rfl rfl rfl)

theorem execPwrCtlTarget_quiet (p : Port) (v : BitVec 2) (h : execPwrCtlTarget p v s = .next t) : Quiet s t := by
  refine Outcome.of_next ?_ h
  exact onKeep_quiet (fun t => (Quiet.same rfl rfl rfl : Quiet t (setTarget v.toNat t))) s

theorem execPwrCtlGate_quiet (p : Port) (v : Bool) (h : execPwrCtlGate p v s = .next t) : Quiet s t := by
  refine Outcome.of_next ?_ h
  exact onKeep_quiet (fun t => (Quiet.same rfl rfl rfl : Quiet t (setGate v t))) s

theorem execThrottleSwitch_quiet (h : execThrottleSwitch s = .next t) : Quiet s t := by
  refine Outcome.of_next ?_ h
  refine .ite (.refl s) ?_
  split
  · exact .refl s
  · exact (raise_quiet ..).after (.same rfl rfl rfl)

theorem execClockGate_quiet (h : execClockGate s = .next t) : Quiet s t := by
  refine Outcome.of_next ?_ h
  exact .ite ⟨rfl, id, id⟩ (.refl s)

theorem execClockWake_quiet (h : execClockWake s = .next t) : Quiet s t := by
  refine Outcome.of_next ?_ h
  refine .ite ?_ (.refl s)
  exact (Quiet.foldl (fun _ _ => submit_quiet ..) _ _).after (.same rfl rfl rfl)

theorem execSbNop_quiet (v : BitVec 2) (o : BitVec 6) (a : BitVec 24) (d : BitVec 32) (c : Byte) (h : execSbNop v o a d c s = .next t) : Quiet s t := by
  refine Outcome.of_next ?_ h
  have h1 : Quiet s (frameIn s) := frameIn_quiet s
  split
  · exact h1.trans (failFrame_quiet ..)
  · exact .ite ((refuseFrame_quiet ..).after ((executed_quiet ..).after h1)) (h1.trans (failFrame_quiet ..))

theorem execSbRead_quiet (v : BitVec 2) (a : BitVec 24) (d : BitVec 32) (c : Byte) (l : Bool) (h : execSbRead v a d c l s = .next t) : Quiet s t := by
  refine Outcome.of_next ?_ h
  have h1 : Quiet s (frameIn s) := frameIn_quiet s
  split
  · exact h1.trans (failFrame_quiet ..)
  · split
    · exact h1.trans (refuseFrame_quiet ..)
    · rename_i x _
      have h2 := h1.trans (sbReadAt_quiet x (frameIn s))
      exact .ite ((refuseFrame_quiet ..).after ((executed_quiet ..).after h1)) ((respond_quiet ..).after ((executed_quiet ..).after h2))

theorem execSbWrite_kept (v : BitVec 2) (a : BitVec 24) (d : BitVec 32) (c : Byte) (l : Bool) (h : execSbWrite v a d c l s = .next t) : Kept s t := by
  refine Outcome.of_next ?_ h
  have h1 : Quiet s (frameIn s) := frameIn_quiet s
  split
  · exact (h1.trans (failFrame_quiet ..)).kept
  · split
    · exact (h1.trans (refuseFrame_quiet ..)).kept
    · rename_i x _
      have h2 : Kept s (sbWriteAt x d.toNat (frameIn s)) := h1.kept.trans (sbWriteAt_kept x d.toNat (frameIn s))
      exact .ite (h2.trans (refuseFrame_quiet ..).kept) (.ite (h2.trans ((refuseFrame_quiet ..).after (executed_quiet ..)).kept) (h2.trans ((respond_quiet ..).after (executed_quiet ..)).kept))

theorem execSbFrameCut_quiet (h : execSbFrameCut s = .next t) : Quiet s t := by
  refine Outcome.of_next ?_ h
  exact .same rfl rfl rfl

theorem execCoreSubmit_quiet (f : Bool) (d : List Byte) (w : List Word64) (h : execCoreSubmit f d w s = .next t) : Quiet s t := by
  refine Outcome.of_next ?_ h
  exact arrive_quiet ..

theorem execCqSubmit_quiet (p : Port) (o : Nat) (bs : List Byte) (h : execCqSubmit p o bs s = .next t) : Quiet s t := by
  refine Outcome.of_next ?_ h
  exact .ite (.refl s) (.ite (cqSubmitWrite_quiet ..) (dropHeld_quiet ..))

theorem execCqSubmit64_quiet (p : Port) (o : Nat) (bs : List Byte) (h : execCqSubmit64 p o bs s = .next t) : Quiet s t := by
  refine Outcome.of_next ?_ h
  exact .ite (.refl s) (.ite (cqSubmit64Write_quiet ..) (dropHeld_quiet ..))

theorem execSubmissionResponse_quiet (h : execSubmissionResponse s = .next t) : Quiet s t := by
  refine Outcome.of_next ?_ h
  refine .ite (.refl s) ?_
  split
  · exact .refl s
  · split <;> exact .same rfl rfl rfl

theorem execAbortBerth_quiet (p : Port) (b : BitVec 5) (h : execAbortBerth p b s = .next t) : Quiet s t := by
  refine Outcome.of_next ?_ h
  exact onMain_quiet (fun _ => abortBerth_quiet ..) s

theorem execWinRelease_quiet (p : Port) (b : BitVec 7) (h : execWinRelease p b s = .next t) : Quiet s t := by
  refine Outcome.of_next ?_ h
  exact onMain_quiet (fun _ => releaseWindow_quiet ..) s

theorem execResultWindowRead_quiet (o : BitVec 27) (n : Nat) (x : ReadErr) (h : execResultWindowRead o n s x = .next t) : Quiet s t := by
  refine Outcome.of_next ?_ h
  exact .ite (.refl s) (.ite (readWindow_quiet ..) (.same rfl rfl rfl))

theorem execChain_kept (b : BitVec 5) (env : RunEnv) (h : execChain b env s = .next t) : Kept s t := by
  refine Outcome.of_next ?_ h
  exact offer_kept ..

theorem execForerunnerChain_kept (b : BitVec 5) (env : RunEnv) (h : execForerunnerChain b env s = .next t) : Kept s t := by
  refine Outcome.of_next ?_ h
  exact offer_kept ..

theorem execNormFwd_kept (b : BitVec 5) (env : RunEnv) (h : execNormFwd b env s = .next t) : Kept s t := by
  refine Outcome.of_next ?_ h
  exact offer_kept ..

theorem execRmsFwd_kept (b : BitVec 5) (env : RunEnv) (h : execRmsFwd b env s = .next t) : Kept s t := by
  refine Outcome.of_next ?_ h
  exact offer_kept ..

theorem execNormBwd_kept (b : BitVec 5) (env : RunEnv) (h : execNormBwd b env s = .next t) : Kept s t := by
  refine Outcome.of_next ?_ h
  exact offer_kept ..

theorem execRmsBwd_kept (b : BitVec 5) (env : RunEnv) (h : execRmsBwd b env s = .next t) : Kept s t := by
  refine Outcome.of_next ?_ h
  exact offer_kept ..

theorem execSmaxFwd_kept (b : BitVec 5) (env : RunEnv) (h : execSmaxFwd b env s = .next t) : Kept s t := by
  refine Outcome.of_next ?_ h
  exact offer_kept ..

theorem execSmaxBwd_kept (b : BitVec 5) (env : RunEnv) (h : execSmaxBwd b env s = .next t) : Kept s t := by
  refine Outcome.of_next ?_ h
  exact offer_kept ..

theorem execMatmul_kept (b : BitVec 5) (env : RunEnv) (h : execMatmul b env s = .next t) : Kept s t := by
  refine Outcome.of_next ?_ h
  exact offer_kept ..

theorem execLoad_kept (b : BitVec 5) (env : RunEnv) (h : execLoad b env s = .next t) : Kept s t := by
  refine Outcome.of_next ?_ h
  exact offer_kept ..

theorem execStore_kept (b : BitVec 5) (env : RunEnv) (h : execStore b env s = .next t) : Kept s t := by
  refine Outcome.of_next ?_ h
  exact offer_kept ..

theorem execAttn_kept (b : BitVec 5) (env : RunEnv) (h : execAttn b env s = .next t) : Kept s t := by
  refine Outcome.of_next ?_ h
  exact offer_kept ..

theorem execLandingMarker_quiet (b : BitVec 5) (h : execLandingMarker b s = .next t) : Quiet s t := by
  refine Outcome.of_next ?_ h
  unfold offer
  refine .ite (.refl s) ?_
  split
  · exact .refl s
  · rename_i e _
    split
    · exact .refl s
    · rename_i hk
      refine .ite (takeMarker_quiet _ _ _ (not_not.1 hk)) ?_
      rw [if_pos (Or.inr rfl)]
      exact .refl s

theorem execTileBoundary_kept (env : RunEnv) (h : execTileBoundary env s = .next t) : Kept s t := by
  refine Outcome.of_next ?_ h
  refine .ite (.refl s) ?_
  split
  · exact .refl s
  · rename_i e _
    have hx : Kept s (hitGranules e s).2 := (hitGranules_quiet ..).kept
    exact .ite (abortEntry_quiet ..).kept (.ite (.refl s)
      (.ite (hx.trans (boundaryApart_kept ..)) (hx.trans (boundaryTogether_kept ..))))

theorem execTileSignatureCompare_kept (b : BitVec 5) (d : Nat) (h : execTileSignatureCompare b d s = .next t) : Kept s t := by
  refine Outcome.of_next ?_ h
  exact .ite (.refl s) (compareSignature_kept ..)

theorem execDurationCapExpiry_quiet (b : BitVec 5) (h : execDurationCapExpiry s b = .next t) : Quiet s t := by
  refine Outcome.of_next ?_ h
  refine .ite (.refl s) ?_
  split
  · exact .refl s
  · exact capEntry_quiet ..

theorem execCommandComplete_quiet (b : BitVec 5) (h : execCommandComplete b s = .next t) : Quiet s t := by
  refine Outcome.of_next ?_ h
  refine .ite (.refl s) ?_
  split
  · exact .refl s
  · exact .ite ((completeRefused_quiet ..).after (complete_quiet ..)) (.refl s)

theorem execStatisticsReady_quiet (r : Nat) (h : execStatisticsReady r s = .next t) : Quiet s t := by
  refine Outcome.of_next ?_ h
  refine .ite (.refl s) ?_
  split
  · exact .refl s
  · exact .ite (setEntry_quiet ..) (.refl s)

theorem execFinisherRowAccept_quiet (h : execFinisherRowAccept s = .next t) : Quiet s t := by
  refine Outcome.of_next ?_ h
  refine .ite (.refl s) ?_
  split
  · exact .refl s
  · exact setEntry_quiet ..

theorem execFinisherRowDeliver_kept (env : RunEnv) (h : execFinisherRowDeliver env s = .next t) : Kept s t := by
  refine Outcome.of_next ?_ h
  refine .ite (.refl s) ?_
  split
  · exact .refl s
  · split
    · exact (detectedError_quiet ..).kept
    · refine .ite (capEntry_quiet ..).kept ?_
      extract_lets m c f y z
      have hm : Kept s f.2 := ((storeFault_quiet ..).after (meetStep_quiet ..)).kept
      have hy : Kept s y.2 := by
        unfold y
        split
        · exact hm.trans (deliverAttn_kept ..)
        · exact hm
      exact Kept.after (settleApart_kept ..) ((hy.trans (outputMeets_quiet ..).kept).trans (setEntry_quiet ..).kept)

theorem execRetrieverRequest_quiet (x : ReqStream) (h : execRetrieverRequest x s = .next t) : Quiet s t := by
  refine Outcome.of_next ?_ h
  refine .ite (.refl s) ?_
  cases x
  · exact nextRequest_quiet ..
  · exact pump_quiet s

theorem execReadResponse_quiet (g : Nat) (xs : List Sector) (h : execReadResponse g xs s = .next t) : Quiet s t := by
  refine Outcome.of_next ?_ h
  refine .ite (.refl s) ?_
  split
  · exact .refl s
  · exact .ite (.refl s) (.ite (dropReq_quiet ..) ((takeResponse_quiet ..).after (dropReq_quiet ..)))

theorem execWriteAck_quiet (g : Nat) (h : execWriteAck g s = .next t) : Quiet s t := by
  refine Outcome.of_next ?_ h
  refine .ite (.refl s) ?_
  split
  · exact .refl s
  · exact .ite ((dropWritten_quiet ..).after (dropReq_quiet ..)) (.refl s)

theorem execTranslationFault_quiet (g : Nat) (h : execTranslationFault g s = .next t) : Quiet s t := by
  refine Outcome.of_next ?_ h
  refine .ite (.refl s) ?_
  split
  · exact .refl s
  · exact (faultOwner_quiet ..).after (dropReq_quiet ..)

theorem execRetry_quiet (p : Port) (h : execRetry p s = .next t) : Quiet s t := by
  refine Outcome.of_next ?_ h
  exact onMain_quiet (fun _ => retryOp_quiet _) s

theorem execFail_quiet (p : Port) (h : execFail p s = .next t) : Quiet s t := by
  refine Outcome.of_next ?_ h
  exact onMain_quiet (fun _ => failOp_quiet _) s

theorem execRtvLookaheadWrite_quiet (p : Port) (v : Word64) (h : execRtvLookaheadWrite p v s = .next t) : Quiet s t := by
  refine Outcome.of_next ?_ h
  exact onMain_quiet (fun _ => lookaheadOp_quiet ..) s

theorem execRtvLeashWrite_quiet (p : Port) (v : Word64) (h : execRtvLeashWrite p v s = .next t) : Quiet s t := by
  refine Outcome.of_next ?_ h
  exact onMain_quiet (fun _ => leashOp_quiet ..) s

theorem execTowBerthGroupWrite_quiet (p : Port) (b : BitVec 5) (v : Word64) (h : execTowBerthGroupWrite p b v s = .next t) : Quiet s t := by
  refine Outcome.of_next ?_ h
  exact onMain_quiet (fun _ => berthGroupOp_quiet ..) s

theorem execTowMirrorRangeWrite_quiet (p : Port) (v : Word64) (h : execTowMirrorRangeWrite p v s = .next t) : Quiet s t := by
  refine Outcome.of_next ?_ h
  exact onMain_quiet (fun _ => mirrorRangeOp_quiet ..) s

theorem execKenReqWrite_quiet (p : Port) (v : Word64) (h : execKenReqWrite p v s = .next t) : Quiet s t := by
  refine Outcome.of_next ?_ h
  exact onMain_quiet (fun _ => kenReqOp_quiet ..) s

theorem landWhenReady_quiet (d : Decided) (s : State) : Quiet s (landWhenReady d s) := .ite (enterLanding_quiet ..) (startCopies_quiet ..)

theorem execLandingReached_quiet (h : execLandingReached s = .next t) : Quiet s t := by
  refine Outcome.of_next ?_ h
  refine .ite (.refl s) ?_
  split
  · exact .refl s
  · exact .ite (.refl s) (landWhenReady_quiet ..)

theorem execLandingGateOpen_quiet (h : execLandingGateOpen s = .next t) : Quiet s t := by
  refine Outcome.of_next ?_ h
  refine .ite (.refl s) ?_
  split
  · exact .refl s
  · exact .ite (.refl s) (.same rfl rfl rfl)

theorem execCrossingOpen_kept (h : execCrossingOpen s = .next t) : Kept s t := by
  refine Outcome.of_next ?_ h
  refine .ite (.refl s) ?_
  split
  · exact .refl s
  · extract_lets s1 d mx nx s2
    have h1 : Quiet s s1 := openCrossing_quiet ..
    have h2 : Quiet s s2 := h1.trans (.same rfl rfl rfl)
    exact Kept.after (reexamineSnaps_kept _) (h2.trans ((landWhenReady_quiet ..).after (Quiet.foldl openHeld_quiet _ _))).kept

theorem execLandingCommitted_quiet (h : execLandingCommitted s = .next t) : Quiet s t := by
  refine Outcome.of_next ?_ h
  refine .ite (.refl s) ?_
  split
  · exact .refl s
  · exact .ite (.ite (commitRun_quiet ..) (commitFirst_quiet ..)) (.refl s)

theorem execKennelStaticCopyEnd_quiet (r : Nat) (h : execKennelStaticCopyEnd r s = .next t) : Quiet s t := by
  refine Outcome.of_next ?_ h
  exact .ite (.refl s) (.same rfl rfl rfl)

theorem execInlineTestEnd_quiet (c : Nat) (b : Bool) (h : execInlineTestEnd c b s = .next t) : Quiet s t := by
  refine Outcome.of_next ?_ h
  refine .ite (.refl s) ?_
  extract_lets c0 kx s1
  have h1 : Quiet s s1 := (testDone_quiet ..).after (.same rfl rfl rfl)
  exact .ite (h1.trans (setCluster_quiet ..)) ((raise_quiet ..).after ((raise_quiet ..).after ((setCluster_quiet ..).after h1)))

theorem execOutOfLineTestEnd_quiet (c : Nat) (b : Bool) (h : execOutOfLineTestEnd c b s = .next t) : Quiet s t := by
  refine Outcome.of_next ?_ h
  refine .ite (.refl s) (.ite (setCluster_quiet ..) ?_)
  exact (raise_quiet ..).after ((raise_quiet ..).after ((journal_quiet ..).after (setCluster_quiet ..)))

theorem execManOpen_quiet (p : Port) (h : execManOpen p s = .next t) : Quiet s t := by
  refine Outcome.of_next ?_ h
  exact onMain_quiet (fun _ => emptyStage_quiet ..) s

theorem execManClose_quiet (p : Port) (h : execManClose p s = .next t) : Quiet s t := by
  refine Outcome.of_next ?_ h
  exact onMain_quiet (fun _ => closeStage_quiet ..) s

theorem execManDiscard_quiet (p : Port) (h : execManDiscard p s = .next t) : Quiet s t := by
  refine Outcome.of_next ?_ h
  exact onMain_quiet (fun _ => emptyStage_quiet ..) s

theorem execManDisarm_quiet (p : Port) (h : execManDisarm p s = .next t) : Quiet s t := by
  refine Outcome.of_next ?_ h
  exact onMain_quiet (fun _ => disarmOp_quiet _) s

theorem execManApplyNow_quiet (p : Port) (h : execManApplyNow p s = .next t) : Quiet s t := by
  refine Outcome.of_next ?_ h
  exact onMain_quiet (fun _ => applyNowOp_quiet _) s

theorem execManForget_quiet (p : Port) (h : execManForget p s = .next t) : Quiet s t := by
  refine Outcome.of_next ?_ h
  exact onMain_quiet (fun _ => forgetOp_quiet _) s

theorem execManApplyAt_quiet (p : Port) (c : BitVec 48) (l : BitVec 16) (h : execManApplyAt p c l s = .next t) : Quiet s t := by
  refine Outcome.of_next ?_ h
  exact onMain_quiet (fun _ => armApply_quiet ..) s

theorem execStagingApertureWrite_quiet (p : Port) (o : Nat) (bs : List Byte) (h : execStagingApertureWrite p o bs s = .next t) : Quiet s t := by
  refine Outcome.of_next ?_ h
  exact onWindow_quiet (fun _ => stageWrite_quiet ..) s

theorem countVerification_quiet (s : State) : Quiet s (countVerification s) := by
  unfold countVerification
  repeat' split
  all_goals first
    | exact .refl s
    | exact countUse_quiet ..
    | exact (countUse_quiet ..).after (countUse_quiet ..)

theorem execManifestVerificationEnd_quiet (h : execManifestVerificationEnd s = .next t) : Quiet s t := by
  refine Outcome.of_next ?_ h
  refine .ite (Quiet.after (startWaiting_quiet _) ?_) (.refl s)
  have h1 : Quiet s (countVerification (reseedDrbg s)) := (countVerification_quiet _).after (seedDrbg_quiet ..)
  split
  · exact Quiet.after (refuseManifest_quiet ..) (h1.trans (.same rfl rfl rfl))
  · exact h1.trans (.same rfl rfl rfl)

theorem execApplicationPhase1End_quiet (ns : List Nat) (h : execApplicationPhase1End ns s = .next t) : Quiet s t := by
  refine Outcome.of_next ?_ h
  refine .ite (.refl s) ?_
  split
  · exact .refl s
  · refine .ite (.refl s) (.ite ?_ (.same rfl rfl rfl))
    exact .ite (abortApplication_quiet _) ((landingActions_quiet ..).after (abortApplication_quiet _))

theorem execApplicationPhase2End_kept (h : execApplicationPhase2End s = .next t) : Kept s t := by
  refine Outcome.of_next ?_ h
  refine .ite (.refl s) ?_
  split
  · rename_i r m _ _
    refine .ite (.refl s) ?_
    extract_lets now s1 d1 s2 s3 s4
    have h1 : Quiet s s1 := install_quiet ..
    have h2 : Quiet s s2 := h1.trans ((releaseHeld_quiet _).after ((rebindBanks_quiet _).after ((redecide_quiet _).after (raise_quiet ..))))
    have h3 : Quiet s s3 := h2.trans ((certSwap_quiet ..).after (certApplied_quiet ..))
    have h4 : Quiet s s4 := .ite (h3.trans (takeSnapshot_quiet ..)) h3
    exact .ite (h2.kept.trans (reexamineSnaps_kept _))
      (Kept.after (reexamineSnaps_kept _) (h4.trans ((afterReached_quiet ..).after (noteReached_quiet ..))).kept)
  · exact .refl s

theorem execShadowWindowWrite_quiet (p : Port) (o : Nat) (bs : List Byte) (h : execShadowWindowWrite p o bs s = .next t) : Quiet s t := by
  refine Outcome.of_next ?_ h
  exact onWindow_quiet (fun _ => shadowWrite_quiet ..) s

theorem execTblCommit_quiet (p : Port) (m : BitVec 32) (k : BitVec 4) (h : execTblCommit p m k s = .next t) : Quiet s t := by
  refine Outcome.of_next ?_ h
  exact onMain_quiet (fun _ => startOp_quiet ..) s

theorem execTblClear_quiet (p : Port) (m : BitVec 32) (k : BitVec 4) (h : execTblClear p m k s = .next t) : Quiet s t := by
  refine Outcome.of_next ?_ h
  exact onMain_quiet (fun _ => startOp_quiet ..) s

theorem execTblLoad_quiet (p : Port) (m : BitVec 32) (k : BitVec 4) (h : execTblLoad p m k s = .next t) : Quiet s t := by
  refine Outcome.of_next ?_ h
  exact onMain_quiet (fun _ => startOp_quiet ..) s

theorem execTblLoadFetchEnd_quiet (lost : List (Nat × Nat)) (h : execTblLoadFetchEnd lost s = .next t) : Quiet s t := by
  refine Outcome.of_next ?_ h
  refine .ite (.refl s) ?_
  split
  · exact .refl s
  · exact .ite (.refl s) ((endOp_quiet ..).after ((spoilWords_quiet ..).after (fetchAll_quiet _ _ (s, []))))

theorem execSwapIdle_quiet (p : Port) (m : BitVec 32) (h : execSwapIdle p m s = .next t) : Quiet s t := by
  refine Outcome.of_next ?_ h
  exact onMain_quiet (fun _ => startOp_quiet ..) s

theorem addBurst_quiet (s : State) :
    Quiet s (if 1024 ≤ rxUsed s then s else { s with tow := { s.tow with rxPartial := s.tow.rxPartial + 1 } }) :=
  .ite (.refl s) (.same rfl rfl rfl)

theorem execTowBurstReceived_quiet (x : Burst) (h : execTowBurstReceived s x = .next t) : Quiet s t := by
  refine Outcome.of_next ?_ h
  refine .ite (.refl s) ?_
  split
  · exact addBurst_quiet s
  · exact partBurst_quiet s
  · exact headBurst_quiet ..

theorem execBurstAck_quiet (n : Nat) (h : execBurstAck n s = .next t) : Quiet s t := by
  refine Outcome.of_next ?_ h
  exact .ite (.refl s) (txUpdate_quiet ..)

theorem execBurstRefused_quiet (n : Nat) (h : execBurstRefused n s = .next t) : Quiet s t := by
  refine Outcome.of_next ?_ h
  exact .ite (.refl s) (txUpdate_quiet ..)

theorem execBurstResend_quiet (n : Nat) (h : execBurstResend n s = .next t) : Quiet s t := by
  refine Outcome.of_next ?_ h
  exact .ite (.refl s) (txUpdate_quiet ..)

theorem execTowMessage_kept (m : TowMsg) (env : RunEnv) (h : execTowMessage m env s = .next t) : Kept s t := by
  refine Outcome.of_next ?_ h
  refine .ite (.refl s) ?_
  extract_lets own s1
  have h1 : Quiet s s1 := .ite (.refl s) (rxWhole_quiet ..)
  exact .ite (h1.kept.trans (takeMsg_kept ..)) (h1.trans (sendMsg_quiet ..)).kept

theorem voidLate_quiet (m : TowMsg) (s : State) : Quiet s (voidLate m s) := by
  unfold voidLate
  extract_lets note size s1
  have h1 : Quiet s s1 := .ite (sendMsg_quiet ..) (.refl s)
  exact .ite ((sendMsg_quiet ..).after h1) h1

theorem voidHop_kept (rb : Nat) (m : TowMsg) (d : Nat) (e : Entry) (s : State) : Kept s (voidHop rb m d e s) := by
  unfold voidHop
  extract_lets e1 s1 p
  have h1 : Quiet s s1 := setEntry_quiet ..
  exact .ite (voidBlock_kept ..) (.ite ((sendTow_quiet ..).after h1).kept ((voidBlock_kept ..).after h1.kept))

theorem execHopAbandoned_kept (n : Nat) (env : RunEnv) (h : execHopAbandoned n env s = .next t) : Kept s t := by
  refine Outcome.of_next ?_ h
  refine .ite (.refl s) ?_
  split
  · exact .refl s
  · extract_lets tx s1
    have h1 : Quiet s s1 := (nextSnapshot_quiet _).after ((pump_quiet _).after (.same rfl rfl rfl))
    split
    · exact h1.kept
    · split
      · exact (Quiet.ite h1 (h1.trans (voidLate_quiet ..))).kept
      · exact Kept.after (settleRows_kept _) ((voidHop_kept ..).after h1.kept)

theorem execTowTimerExpiry_kept (b : BitVec 5) (r : Nat) (env : RunEnv) (h : execTowTimerExpiry b r env s = .next t) : Kept s t := by
  refine Outcome.of_next ?_ h
  exact .ite (.refl s) (Kept.after (settleRows_kept _) (timerExpiry_kept ..))

theorem execMirrorSnapshotReadEnd_quiet (x : ReadErr) (h : execMirrorSnapshotReadEnd s x = .next t) : Quiet s t := by
  refine Outcome.of_next ?_ h
  refine .ite (.refl s) ?_
  split
  · exact .refl s
  · exact Quiet.after (sendMsg_quiet ..) ((readMeets_quiet _ s).trans (.same rfl rfl rfl))

theorem execMirrorReceived_quiet (n : Snapshot) (h : execMirrorReceived n s = .next t) : Quiet s t := by
  refine Outcome.of_next ?_ h
  exact .ite (.refl s) (receiveSnapshot_quiet ..)

theorem execRestore_quiet (p : Port) (h : execRestore p s = .next t) : Quiet s t := by
  refine Outcome.of_next ?_ h
  exact onMain_quiet (fun _ => restoreOp_quiet _) s

theorem execRestoreReq_quiet (a b c : Nat) (h : execRestoreReq a b c s = .next t) : Quiet s t := by
  refine Outcome.of_next ?_ h
  exact .ite (.refl s) (Quiet.after (receiveReq_quiet ..) (rxWhole_quiet ..))

theorem execRestoreData_kept (a b : Nat) (x : Option Snapshot) (p : Option (Nat × Nat)) (h : execRestoreData x s a b p = .next t) : Kept s t := by
  refine Outcome.of_next ?_ h
  exact .ite (.refl s) (Kept.after (receiveData_kept ..) (rxWhole_quiet ..).kept)

theorem execMulticastDrop_quiet (c : Nat) (h : execMulticastDrop c s = .next t) : Quiet s t := by
  refine Outcome.of_next ?_ h
  exact .refl s

theorem copyReads_quiet (f : Copy → Bool) (x : ReadErr) (s : State) : Quiet s (copyReads f x s) := .ite (copyMeets_quiet ..) (.refl s)

theorem execRowCopyEnd_quiet (r b w : Nat) (x : ReadErr) (h : execRowCopyEnd r b w s x = .next t) : Quiet s t := by
  refine Outcome.of_next ?_ h
  generalize h0 : copyReads _ _ s = s0
  have h1 : Quiet s s0 := h0 ▸ copyReads_quiet ..
  refine h1.trans (.ite (.refl s0) ?_)
  split
  · exact .refl s0
  · extract_lets p sx s1 s2
    have h1 : Quiet s0 s1 := (addRow_quiet ..).after (.same rfl rfl rfl)
    exact (Quiet.ite (h1.trans (raise_quiet ..)) h1 : Quiet s0 s2).trans (raise_quiet ..)

theorem execBankCopyEnd_quiet (r b : Nat) (x : ReadErr) (h : execBankCopyEnd r b s x = .next t) : Quiet s t := by
  refine Outcome.of_next ?_ h
  generalize h0 : copyReads _ _ s = s0
  have h1 : Quiet s s0 := h0 ▸ copyReads_quiet ..
  refine h1.trans (.ite (.refl s0) ?_)
  split
  · exact .refl s0
  · extract_lets cut s1 rep kx sx s2 s3
    have h1 : Quiet s0 s1 := .ite (markUncopied_quiet ..) (.refl _)
    have h2 : Quiet s0 s2 := h1.trans (.same rfl rfl rfl)
    have h3 : Quiet s0 s3 := .ite (h2.trans (raise_quiet ..)) h2
    exact h3.trans (raise_quiet ..)

theorem execTraceArm_quiet (p : Port) (c : BitVec 48) (l : BitVec 16) (h : execTraceArm p c l s = .next t) : Quiet s t := by
  refine Outcome.of_next ?_ h
  exact onMain_quiet (fun _ => armTrace_quiet ..) s

theorem execEvtLogRdWrite_quiet (p : Port) (v : BitVec 16) (h : execEvtLogRdWrite p v s = .next t) : Quiet s t := by
  refine Outcome.of_next ?_ h
  exact onMain_quiet (fun _ => logRdOp_quiet ..) s

theorem execResume_quiet (p : Port) (h : execResume p s = .next t) : Quiet s t := by
  refine Outcome.of_next ?_ h
  exact onMain_quiet (fun _ => resumeOp_quiet _) s

theorem execRebase_quiet (p : Port) (b : BitVec 5) (h : execRebase p b s = .next t) : Quiet s t := by
  refine Outcome.of_next ?_ h
  exact onMain_quiet (fun _ => rebaseBerth_quiet ..) s

theorem execTollStatus_quiet (p : Port) (h : execTollStatus p s = .next t) : Quiet s t := by
  refine Outcome.of_next ?_ h
  exact tollStatusOp_quiet ..

theorem execTollNonce_quiet (p : Port) (h : execTollNonce p s = .next t) : Quiet s t := by
  refine Outcome.of_next ?_ h
  exact tollNonceOp_quiet ..

theorem execTollAuth_quiet (p : Port) (h : execTollAuth p s = .next t) : Quiet s t := by
  refine Outcome.of_next ?_ h
  exact tollAuthOp_quiet ..

theorem execTollLogout_quiet (p : Port) (h : execTollLogout p s = .next t) : Quiet s t := by
  refine Outcome.of_next ?_ h
  exact tollLogoutOp_quiet ..

theorem execTollSelftest_quiet (p : Port) (h : execTollSelftest p s = .next t) : Quiet s t := by
  refine Outcome.of_next ?_ h
  exact tollSelftestOp_quiet ..

theorem warmTestsEnd_quiet (x : BitVec 9) (s : State) : Quiet s (warmTestsEnd x s) :=
  (settle_quiet _).after (.ite (.same rfl rfl rfl) ((tollError_quiet _).after (.same rfl rfl rfl)))

theorem execTollSelftestEnd_quiet (x : BitVec 9) (h : execTollSelftestEnd x s = .next t) : Quiet s t := by
  refine Outcome.of_next ?_ h
  refine .ite (.refl s) ?_
  split
  · refine .ite ((tollResult_quiet ..).after (.same rfl rfl rfl)) ((tollResult_quiet ..).after ((tollError_quiet _).after (.same rfl rfl rfl)))
  · exact .ite (warmTestsEnd_quiet ..) (.refl s)

theorem execTollReadPubkey_quiet (p : Port) (k : Byte) (h : execTollReadPubkey p k s = .next t) : Quiet s t := by
  refine Outcome.of_next ?_ h
  exact tollReadPubkeyOp_quiet ..

theorem execTollLoadPubkey_quiet (p : Port) (k : Byte) (h : execTollLoadPubkey p k s = .next t) : Quiet s t := by
  refine Outcome.of_next ?_ h
  exact tollLoadPubkeyOp_quiet ..

theorem execTollLoadWrapped_quiet (p : Port) (k : Byte) (h : execTollLoadWrapped p k s = .next t) : Quiet s t := by
  refine Outcome.of_next ?_ h
  exact tollLoadWrappedOp_quiet ..

theorem execTollGenkey_quiet (p : Port) (b : Bool) (h : execTollGenkey p b s = .next t) : Quiet s t := by
  refine Outcome.of_next ?_ h
  exact tollGenkeyOp_quiet ..

theorem execTollClearSlot_quiet (p : Port) (k : Byte) (h : execTollClearSlot p k s = .next t) : Quiet s t := by
  refine Outcome.of_next ?_ h
  exact tollClearSlotOp_quiet ..

theorem execTollZeroise_quiet (p : Port) (h : execTollZeroise p s = .next t) : Quiet s t := by
  refine Outcome.of_next ?_ h
  exact tollZeroiseOp_quiet ..

theorem execTollZeroisePermanent_quiet (p : Port) (h : execTollZeroisePermanent p s = .next t) : Quiet s t := by
  refine Outcome.of_next ?_ h
  exact tollZeroiseOp_quiet ..

theorem execZeroiseEnd_kept (h : execZeroiseEnd s = .next t) : Kept s t := by
  refine Outcome.of_next ?_ h
  refine .ite (.refl s) ?_
  split
  · exact (coldReset_kept ..).after (eraseKeys_quiet ..).kept
  · exact .refl s

theorem execTollFieldLock_quiet (p : Port) (h : execTollFieldLock p s = .next t) : Quiet s t := by
  refine Outcome.of_next ?_ h
  exact tollFieldLockOp_quiet ..

theorem execCertArm_quiet (p : Port) (h : execCertArm p s = .next t) : Quiet s t := by
  refine Outcome.of_next ?_ h
  exact certArmOp_quiet ..

theorem execCertCancel_quiet (p : Port) (h : execCertCancel p s = .next t) : Quiet s t := by
  refine Outcome.of_next ?_ h
  exact certCancelOp_quiet ..

theorem execCertificateWritten_quiet (b : Bool) (h : execCertificateWritten b s = .next t) : Quiet s t := by
  refine Outcome.of_next ?_ h
  exact .ite (.refl s) (.ite (setCert_quiet ..) (.refl s))

theorem execDebugInstrumentEnable_kept (h : execDebugInstrumentEnable s = .next t) : Kept s t := by
  refine Outcome.of_next ?_ h
  refine .ite (.refl s) ?_
  extract_lets s1
  have h1 : Kept s s1 := (coldReset_kept ..).after ((eraseKeys_quiet ..).after (endServices_quiet s)).kept
  exact h1.trans (Quiet.kept (.same rfl rfl rfl))

theorem execRegisterWrite_kept (o : BitVec 28) (a : Access) (v : Word64) (x : Option (List Byte)) (h : execRegisterWrite o a v s x = .next t) :
    Kept s t := by
  refine Outcome.of_next ?_ h
  cases x
  · exact hostWrite_kept ..
  · exact hostWriteBytes_kept ..

theorem execRegisterHalfRead_quiet (o : BitVec 28) (a : Access) (n : Option Nat) (h : execRegisterHalfRead o a s n = .next t) :
    Quiet s t := by
  refine Outcome.of_next ?_ h
  refine .ite (.refl s) ?_
  cases n
  · exact hostRead_quiet ..
  · dsimp only
    split
    · exact hostRead_quiet ..
    · exact hostReadArea_quiet ..

/-! ## All commands -/

/-- Every command keeps the canonical form of the scratchpad, the bound of the queue and the fields of the event log. -/
theorem exec_kept (c : Instr) (h : exec c s = .next t) : Kept s t := by
  cases c with
  | coldReset _ _ => exact execColdReset_kept _ _ h
  | warmReset _ => exact execWarmReset_kept _ h
  | replayReset _ => exact execReplayReset_kept _ h
  | resetDrainEnd => exact (execResetDrainEnd_quiet h).kept
  | fabReady => exact (execFabReady_quiet h).kept
  | startupSelfTestEnd _ => exact (execStartupSelfTestEnd_quiet _ h).kept
  | mainSideUp _ => exact execMainSideUp_kept _ h
  | beaconFrame _ => exact (execBeaconFrame_quiet _ h).kept
  | beaconFrameEffect => exact (execBeaconFrameEffect_quiet h).kept
  | moorWait => exact (execMoorWait_quiet h).kept
  | railOrderViolation => exact (execRailOrderViolation_quiet h).kept
  | keepSupplyALow => exact (execKeepSupplyALow_quiet h).kept
  | keepSupplyReturn => exact (execKeepSupplyReturn_quiet h).kept
  | keepIslandFailing _ => exact (execKeepIslandFailing_quiet _ h).kept
  | keepSupplyRestored _ => exact (execKeepSupplyRestored_quiet _ h).kept
  | keepSealCheckEnd _ => exact (execKeepSealCheckEnd_quiet _ h).kept
  | vddCoreBelowMin _ => exact (execVddCoreBelowMin_quiet _ h).kept
  | vddCoreAboveNext _ => exact (execVddCoreAboveNext_quiet _ h).kept
  | vddCoreCollapse => exact execVddCoreCollapse_kept h
  | thermalSample _ _ _ _ _ => exact (execThermalSample_quiet _ _ _ _ _ h).kept
  | pwrCtlTarget _ _ => exact (execPwrCtlTarget_quiet _ _ h).kept
  | pwrCtlGate _ _ => exact (execPwrCtlGate_quiet _ _ h).kept
  | throttleSwitch => exact (execThrottleSwitch_quiet h).kept
  | clockGate => exact (execClockGate_quiet h).kept
  | clockWake => exact (execClockWake_quiet h).kept
  | sbNop _ _ _ _ _ => exact (execSbNop_quiet _ _ _ _ _ h).kept
  | sbRead _ _ _ _ _ => exact (execSbRead_quiet _ _ _ _ _ h).kept
  | sbWrite _ _ _ _ _ => exact execSbWrite_kept _ _ _ _ _ h
  | sbFrameCut => exact (execSbFrameCut_quiet h).kept
  | coreSubmit _ _ _ => exact (execCoreSubmit_quiet _ _ _ h).kept
  | cqSubmit _ _ _ => exact (execCqSubmit_quiet _ _ _ h).kept
  | cqSubmit64 _ _ _ => exact (execCqSubmit64_quiet _ _ _ h).kept
  | submissionResponse => exact (execSubmissionResponse_quiet h).kept
  | abortBerth _ _ => exact (execAbortBerth_quiet _ _ h).kept
  | winRelease _ _ => exact (execWinRelease_quiet _ _ h).kept
  | resultWindowRead _ _ _ => exact (execResultWindowRead_quiet _ _ _ h).kept
  | chain _ _ => exact execChain_kept _ _ h
  | forerunnerChain _ _ => exact execForerunnerChain_kept _ _ h
  | normFwd _ _ => exact execNormFwd_kept _ _ h
  | rmsFwd _ _ => exact execRmsFwd_kept _ _ h
  | normBwd _ _ => exact execNormBwd_kept _ _ h
  | rmsBwd _ _ => exact execRmsBwd_kept _ _ h
  | smaxFwd _ _ => exact execSmaxFwd_kept _ _ h
  | smaxBwd _ _ => exact execSmaxBwd_kept _ _ h
  | matmul _ _ => exact execMatmul_kept _ _ h
  | load _ _ => exact execLoad_kept _ _ h
  | store _ _ => exact execStore_kept _ _ h
  | attn _ _ => exact execAttn_kept _ _ h
  | landingMarker _ => exact (execLandingMarker_quiet _ h).kept
  | tileBoundary _ => exact execTileBoundary_kept _ h
  | tileSignatureCompare _ _ => exact execTileSignatureCompare_kept _ _ h
  | durationCapExpiry _ => exact (execDurationCapExpiry_quiet _ h).kept
  | commandComplete _ => exact (execCommandComplete_quiet _ h).kept
  | statisticsReady _ => exact (execStatisticsReady_quiet _ h).kept
  | finisherRowAccept => exact (execFinisherRowAccept_quiet h).kept
  | finisherRowDeliver _ => exact execFinisherRowDeliver_kept _ h
  | retrieverRequest _ => exact (execRetrieverRequest_quiet _ h).kept
  | readResponse _ _ => exact (execReadResponse_quiet _ _ h).kept
  | writeAck _ => exact (execWriteAck_quiet _ h).kept
  | translationFault _ => exact (execTranslationFault_quiet _ h).kept
  | retry _ => exact (execRetry_quiet _ h).kept
  | fail _ => exact (execFail_quiet _ h).kept
  | rtvLookaheadWrite _ _ => exact (execRtvLookaheadWrite_quiet _ _ h).kept
  | rtvLeashWrite _ _ => exact (execRtvLeashWrite_quiet _ _ h).kept
  | towBerthGroupWrite _ _ _ => exact (execTowBerthGroupWrite_quiet _ _ _ h).kept
  | towMirrorRangeWrite _ _ => exact (execTowMirrorRangeWrite_quiet _ _ h).kept
  | kenReqWrite _ _ => exact (execKenReqWrite_quiet _ _ h).kept
  | landingReached => exact (execLandingReached_quiet h).kept
  | landingGateOpen => exact (execLandingGateOpen_quiet h).kept
  | crossingOpen => exact execCrossingOpen_kept h
  | landingCommitted => exact (execLandingCommitted_quiet h).kept
  | kennelStaticCopyEnd _ => exact (execKennelStaticCopyEnd_quiet _ h).kept
  | inlineTestEnd _ _ => exact (execInlineTestEnd_quiet _ _ h).kept
  | outOfLineTestEnd _ _ => exact (execOutOfLineTestEnd_quiet _ _ h).kept
  | manOpen _ => exact (execManOpen_quiet _ h).kept
  | manClose _ => exact (execManClose_quiet _ h).kept
  | manDiscard _ => exact (execManDiscard_quiet _ h).kept
  | manDisarm _ => exact (execManDisarm_quiet _ h).kept
  | manApplyNow _ => exact (execManApplyNow_quiet _ h).kept
  | manForget _ => exact (execManForget_quiet _ h).kept
  | manApplyAt _ _ _ => exact (execManApplyAt_quiet _ _ _ h).kept
  | stagingApertureWrite _ _ _ => exact (execStagingApertureWrite_quiet _ _ _ h).kept
  | manifestVerificationEnd => exact (execManifestVerificationEnd_quiet h).kept
  | applicationPhase1End _ => exact (execApplicationPhase1End_quiet _ h).kept
  | applicationPhase2End => exact execApplicationPhase2End_kept h
  | shadowWindowWrite _ _ _ => exact (execShadowWindowWrite_quiet _ _ _ h).kept
  | tblCommit _ _ _ => exact (execTblCommit_quiet _ _ _ h).kept
  | tblClear _ _ _ => exact (execTblClear_quiet _ _ _ h).kept
  | tblLoad _ _ _ => exact (execTblLoad_quiet _ _ _ h).kept
  | tblLoadFetchEnd _ => exact (execTblLoadFetchEnd_quiet _ h).kept
  | swapIdle _ _ => exact (execSwapIdle_quiet _ _ h).kept
  | towBurstReceived _ => exact (execTowBurstReceived_quiet _ h).kept
  | burstAck _ => exact (execBurstAck_quiet _ h).kept
  | burstRefused _ => exact (execBurstRefused_quiet _ h).kept
  | burstResend _ => exact (execBurstResend_quiet _ h).kept
  | towMessage _ _ => exact execTowMessage_kept _ _ h
  | hopAbandoned _ _ => exact execHopAbandoned_kept _ _ h
  | towTimerExpiry _ _ _ => exact execTowTimerExpiry_kept _ _ _ h
  | mirrorSnapshotReadEnd _ => exact (execMirrorSnapshotReadEnd_quiet _ h).kept
  | mirrorReceived _ => exact (execMirrorReceived_quiet _ h).kept
  | restore _ => exact (execRestore_quiet _ h).kept
  | restoreReq _ _ _ => exact (execRestoreReq_quiet _ _ _ h).kept
  | restoreData _ _ _ _ => exact execRestoreData_kept _ _ _ _ h
  | multicastDrop n => exact (execMulticastDrop_quiet n h).kept
  | rowCopyEnd _ _ _ _ => exact (execRowCopyEnd_quiet _ _ _ _ h).kept
  | bankCopyEnd _ _ _ => exact (execBankCopyEnd_quiet _ _ _ h).kept
  | traceArm _ _ _ => exact (execTraceArm_quiet _ _ _ h).kept
  | evtLogRdWrite _ _ => exact (execEvtLogRdWrite_quiet _ _ h).kept
  | resume _ => exact (execResume_quiet _ h).kept
  | rebase _ _ => exact (execRebase_quiet _ _ h).kept
  | tollStatus _ => exact (execTollStatus_quiet _ h).kept
  | tollNonce _ => exact (execTollNonce_quiet _ h).kept
  | tollAuth _ => exact (execTollAuth_quiet _ h).kept
  | tollLogout _ => exact (execTollLogout_quiet _ h).kept
  | tollSelftest _ => exact (execTollSelftest_quiet _ h).kept
  | tollSelftestEnd _ => exact (execTollSelftestEnd_quiet _ h).kept
  | tollReadPubkey _ _ => exact (execTollReadPubkey_quiet _ _ h).kept
  | tollLoadPubkey _ _ => exact (execTollLoadPubkey_quiet _ _ h).kept
  | tollLoadWrapped _ _ => exact (execTollLoadWrapped_quiet _ _ h).kept
  | tollGenkey _ _ => exact (execTollGenkey_quiet _ _ h).kept
  | tollClearSlot _ _ => exact (execTollClearSlot_quiet _ _ h).kept
  | tollZeroise _ => exact (execTollZeroise_quiet _ h).kept
  | tollZeroisePermanent _ => exact (execTollZeroisePermanent_quiet _ h).kept
  | zeroiseEnd => exact execZeroiseEnd_kept h
  | tollFieldLock _ => exact (execTollFieldLock_quiet _ h).kept
  | certArm _ => exact (execCertArm_quiet _ h).kept
  | certCancel _ => exact (execCertCancel_quiet _ h).kept
  | certificateWritten _ => exact (execCertificateWritten_quiet _ h).kept
  | debugInstrumentEnable => exact execDebugInstrumentEnable_kept h
  | registerWrite _ _ _ _ => exact execRegisterWrite_kept _ _ _ _ h
  | registerHalfRead _ _ _ => exact (execRegisterHalfRead_quiet _ _ _ h).kept

theorem tick_quiet (s : State) : Quiet s (tick s) := .ite (.same rfl rfl rfl) (.ite (.same rfl rfl rfl) (.refl s))

end Sys2Proof.Machine
end

