-- ==== Sys2Proof/Laws/Form.lean ====
section
/-! SUPPORT. Forming outputs: which units the steps of a command leave alone, what an entry keeps while they run, and that a command which has
formed its outputs stands in the queue with life `ran`. -/

namespace Sys2Proof.Machine

variable {s t u : State} {α : Type}

/-- The units that the steps of a command leave alone; the queue's entries and the issue stay too. -/
structure Near (s t : State) : Prop where
  pending : t.pending = s.pending
  man : t.man = s.man
  crs : t.crs = s.crs
  tow : t.tow = s.tow
  ken : t.ken = s.ken
  toll : t.toll = s.toll
  pwr : t.pwr = s.pwr
  hostp : t.hostp = s.hostp
  sb : t.sb = s.sb
  cq : t.cq = s.cq

theorem Near.refl (s : State) : Near s s := by constructor <;> rfl

theorem Near.trans (h : Near s t) (k : Near t u) : Near s u := by
  constructor
  all_goals first
    | exact k.pending.trans h.pending | exact k.man.trans h.man | exact k.crs.trans h.crs | exact k.tow.trans h.tow
    | exact k.ken.trans h.ken | exact k.toll.trans h.toll | exact k.pwr.trans h.pwr
    | exact k.hostp.trans h.hostp | exact k.sb.trans h.sb | exact k.cq.trans h.cq

theorem Near.after (k : Near t u) (h : Near s t) : Near s u := h.trans k

theorem Near.ite {c : Prop} [Decidable c] (h : Near s t) (k : Near s u) : Near s (if c then t else u) := by
  split <;> assumption

theorem Near.foldl {f : State → α → State} (h : ∀ t x, Near t (f t x)) (xs : List α) (s : State) :
    Near s (xs.foldl f s) := by
  induction xs generalizing s with
  | nil => exact .refl s
  | cons x xs ih => exact (h s x).trans (ih (f s x))

theorem Near.foldOn {β : Type} (g : β → State) {f : β → α → β} (h : ∀ b x, Near (g b) (g (f b x))) (xs : List α) (b : β) :
    Near (g b) (g (xs.foldl f b)) := by
  induction xs generalizing b with
  | nil => exact .refl _
  | cons x xs ih => exact (h b x).trans (ih (f b x))

/-- An update of the other units alone. -/
theorem Near.of_other (sp : Scratch) (keep : Keep) (isl : Island) (rtv : RtvUnit) (tbl : TblUnit) (arr : ArrayUnit) (dgst : DgstUnit)
    (evt : EvtUnit) (free : Nat) :
    Near s { s with sp := sp, keep := keep, isl := isl, rtv := rtv, tbl := tbl, arr := arr, dgst := dgst, evt := evt, free := free } := by
  constructor <;> rfl

theorem raise_near (k : Nat) (c : Option (Nat × Nat)) (d0 d1 : Nat) (s : State) : Near s (raise k c d0 d1 s) := by
  unfold raise
  exact .ite (.of_other ..) (.of_other ..)

theorem setMark_near (l : Nat) (m : Bool) (s : State) : Near s (setMark l m s) := .of_other ..
theorem logRow_near (k r b w n : Nat) (s : State) : Near s (logRow k r b w n s) := .of_other ..
theorem addRow_near (r p w k : Nat) (s : State) : Near s (addRow r p w k s) := .of_other ..
theorem addDigest_near (a b c d e : Nat) (s : State) : Near s (addDigest a b c d e s) := .of_other ..
theorem putAccs_near (xs : List (Nat × AccRec)) (s : State) : Near s (putAccs xs s) := .of_other ..
theorem setAccs_near (m : Accs) (s : State) : Near s { s with arr := { s.arr with accs := m } } := .of_other ..
theorem setSlip_near (k : Nat) (x : SlipTile) (s : State) : Near s (setSlip k x s) := .of_other ..

theorem setHold_near (w : Nat) (h : Option Nat) (s : State) : Near s (setHold w h s) := by
  unfold setHold
  exact .ite (.of_other ..) (.of_other ..)

theorem endHold_near (b w : Nat) (s : State) : Near s (endHold b w s) := .ite (setHold_near ..) (.refl s)

theorem matmulHolds_near (e : Entry) (d : Desc) (s : State) : Near s (matmulHolds e d s) :=
  .foldl (fun t _ => .ite (.refl t) (.ite (endHold_near ..) (setHold_near ..))) _ _

theorem macHolds_near (e : Entry) (s : State) : Near s (macHolds e s) := by
  unfold macHolds
  dsimp only
  split
  · exact matmulHolds_near ..
  · exact setHold_near ..
  · exact endHold_near ..
  · exact .refl s

/-! ## Reads -/

theorem replaceBank_near (r b w n : Nat) (s : State) : Near s (replaceBank r b w n s) := by
  unfold replaceBank
  extract_lets used sx start s1
  have hs : ∀ k, Near s (start k) := fun k => (logRow_near 2 r b w n _).after (.of_other ..)
  have h1 : Near s s1 := logRow_near ..
  exact .ite (hs 0) (.ite (hs 1) (.ite h1 ((raise_near ..).after (h1.trans (.of_other ..)))))

theorem rowFail_near (r b w : Nat) (s : State) : Near s (rowFail r b w s) := by
  unfold rowFail
  extract_lets phys mine sx s1 n used sy s2
  have h1 : Near s s1 := by
    unfold s1
    split
    · exact (addRow_near ..).after (.of_other ..)
    · exact .refl s
  have h2 : Near s s2 := .ite (h1.trans (logRow_near ..)) (.ite (h1.trans (logRow_near ..))
    (.ite (h1.trans (replaceBank_near ..)) ((logRow_near ..).after (h1.trans (.of_other ..)))))
  split
  · exact .ite ((raise_near ..).after h2) h2
  · exact h2

theorem countCorrected_near (a : Nat) (s : State) : Near s (countCorrected a s) := .of_other ..

theorem correctWord_near (a : Nat) (s : State) : Near s (correctWord a s) := by
  unfold correctWord
  extract_lets s1
  have h1 : Near s s1 := countCorrected_near ..
  split
  · exact h1.trans (.of_other ..)
  · exact .ite h1 (Near.after (rowFail_near ..) (h1.trans (.of_other ..)))

theorem loseLine_near (a : Nat) (s : State) : Near s (loseLine a s) := (rowFail_near ..).after (setMark_near ..)

theorem readMeets_near (err : ReadErr) (s : State) : Near s (readMeets err s) :=
  (Near.foldl (fun t a => correctWord_near a t) err.corrected s).trans (.foldl (fun t a => loseLine_near a t) _ _)

theorem lateCheck_near (w : Nat) (e : Entry) (s : State) : Near s (lateCheck w e s).2 := by
  unfold lateCheck
  split
  · split
    · exact raise_near ..
    · exact .refl s
  · exact .refl s

theorem restMeet_near (x : RestErr) (a : Entry × State) : Near a.2 (restMeet x a).2 := by
  unfold restMeet
  dsimp only
  split
  · exact .refl _
  · exact .of_other ..
  · exact putAccs_near ..
  · exact setSlip_near ..
  · exact .refl _

theorem restMeets_near (xs : List RestErr) (a : Entry × State) : Near a.2 (xs.foldl (fun a x => restMeet x a) a).2 :=
  Near.foldOn (fun (a : Entry × State) => a.2) (fun a x => restMeet_near x a) xs a

theorem meetStep_near (env : RunEnv) (e : Entry) (s : State) : Near s (meetStep env e s).2 := by
  exact Near.after (restMeets_near env.rest (e, readMeets ⟨env.corrected, env.uncorrectable⟩ s)) (readMeets_near _ s)

theorem outputMeet_near (x : RestErr) (a : Entry × State) : Near a.2 (outputMeet x a).2 := by
  unfold outputMeet
  dsimp only
  split
  · exact .refl _
  · split
    · exact .refl _
    · exact setMark_near ..
    · exact .refl _

theorem storeFault_near (env : RunEnv) (e : Entry) (s : State) : Near s (storeFault env e s).2 := by
  unfold storeFault
  split
  · exact .of_other ..
  · exact .refl s

theorem outputMeets_near (xs : List RestErr) (a : Entry × State) : Near a.2 (xs.foldl (fun a x => outputMeet x a) a).2 :=
  Near.foldOn (fun (a : Entry × State) => a.2) (fun a x => outputMeet_near x a) xs a

/-! ## Writes -/

theorem traceRecord_near (a b c d e f g : Nat) (s : State) : Near s (traceRecord a b c d e f g s) := by
  unfold traceRecord
  exact .ite (.refl s) (.ite (.of_other ..) (.of_other ..))

theorem digestPieces_near (e : Entry) (ps : List Piece) (s : State) : Near s (digestPieces e ps s) := by
  exact .foldl (fun _ _ => addDigest_near ..) _ _

theorem tracePieces_near (e : Entry) (ps : List Piece) (s : State) : Near s (tracePieces e ps s) :=
  .ite (.foldl (fun _ _ => traceRecord_near ..) _ _) (.refl s)

theorem finishPieces_near (done : Piece → Bool) (e : Entry) (s : State) : Near s (finishPieces done e s).2 := tracePieces_near ..

theorem writeRun_near (r : Run) (s : State) : Near s (writeRun r s) := by
  unfold writeRun
  extract_lets c0 s1
  have h1 : Near s s1 := .of_other ..
  exact h1.trans (.foldl (fun t u => .ite (setMark_near ..) (.ite (setMark_near ..) (.refl t))) _ _)

theorem storeEmit_near (h : Option Nat) (m : Emit) (ts : List Stored) (acc : Entry × State) :
    Near acc.2 (storeEmit h m ts acc).2 := by
  unfold storeEmit
  dsimp only
  split
  · exact .refl _
  · exact .foldl (fun t r => writeRun_near r t) _ _

theorem emitOne_near (h : Option Nat) (delta : Nat) (m : Emit) (acc : Entry × State) : Near acc.2 (emitOne h delta m acc).2 := by
  unfold emitOne
  exact (storeEmit_near h m _ (_, _)).after ((tracePieces_near ..).after (digestPieces_near ..))

theorem emitAll_near (h : Option Nat) (delta : Nat) (ms : List Emit) (e : Entry) (s : State) : Near s (emitAll h delta ms e s).2 :=
  Near.foldOn (fun (a : Nat × (Entry × State)) => a.2.2) (fun a m => emitOne_near h a.1 m a.2) ms (delta, (e, s))

theorem closeTile_near (delta rb c : Nat) (x : Coord) (ms : List Emit) (n : Notes) (sent : List (Coord × PVal)) (e : Entry) (s : State) :
    Near s (closeTile delta rb c x ms n sent e s).2 := by
  unfold closeTile
  dsimp only
  split
  · exact emitAll_near ..
  · exact emitAll_near ..

theorem emitLate_near (rb delta : Nat) (ms : List Emit) (fl : Flags) (e : Entry) (s : State) :
    Near s (emitLate rb delta ms fl e s).2 := by
  unfold emitLate
  dsimp only
  split
  · exact .refl s
  · exact closeTile_near ..

/-! ## Steps -/

theorem chainStart_near (e : Entry) (s : State) : Near s (chainStart e s) := .ite (.refl s) (putAccs_near ..)

theorem chainTile_near (delta : Nat) (t : Tile) (e : Entry) (s : State) : Near s (chainTile delta t e s).2 :=
  Near.after (closeTile_near ..) (setAccs_near ..)

theorem matmulTile_near (delta : Nat) (t : Tile) (n : Nat) (e : Entry) (s : State) : Near s (matmulTile delta t n e s).2 :=
  Near.after (closeTile_near ..) (setSlip_near ..)

theorem loadCluster_near (delta l : Nat) (e : Entry) (s : State) : Near s (loadCluster delta l e s).2 :=
  Near.after (closeTile_near ..) (setSlip_near ..)

theorem storeCluster_near (delta l : Nat) (e : Entry) (s : State) : Near s (storeCluster delta l e s).2 := closeTile_near ..

theorem ladderTile_near (delta : Nat) (t : Tile) (e : Entry) (s : State) : Near s (ladderTile delta t e s).2 := by
  unfold ladderTile
  dsimp only
  exact Near.after (closeTile_near ..) (setAccs_near ..)

theorem statsTile_near (delta : Nat) (t : Tile) (e : Entry) (s : State) : Near s (statsTile delta t e s).2 := by
  unfold statsTile
  dsimp only
  split
  · exact closeTile_near ..
  · exact Near.after (closeTile_near ..) (setAccs_near ..)

theorem passOneTile_near (delta : Nat) (t : Tile) (e : Entry) (s : State) : Near s (passOneTile delta t e s).2 := by
  unfold passOneTile
  split
  · exact ladderTile_near ..
  · exact statsTile_near ..

theorem passTwoTile_near (delta : Nat) (t : Tile) (e : Entry) (s : State) : Near s (passTwoTile delta t e s).2 := closeTile_near ..

theorem attnSlips_near (d : Desc) (rb : Nat) (rows : List (Coord × AttnRow)) (s : State) : Near s (attnSlips d rb rows s) :=
  .foldl (fun _ _ => setSlip_near ..) _ _

theorem attnStep_near (delta rb kt : Nat) (e : Entry) (s : State) : Near s (attnStep delta rb kt e s).2 :=
  Near.after (closeTile_near ..) (Near.after (attnSlips_near ..) (setAccs_near ..))

theorem chainBlock_near (delta rb : Nat) (e : Entry) (s : State) : Near s (chainBlock delta rb e s).2 :=
  Near.after (emitLate_near ..) (setAccs_near ..)

theorem chainEnd_near (delta : Nat) (e : Entry) (s : State) : Near s (chainEnd delta e s).2 := by
  unfold chainEnd
  extract_lets d x y
  have h : Near s x.2 := by
    unfold x
    split
    · exact Near.foldOn (fun (a : Entry × State) => a.2) (fun a rb => chainBlock_near delta rb a.1 a.2) _ (e, s)
    · exact .refl s
  have hy : Near s y.2 := h.trans (finishPieces_near ..)
  split
  · exact hy
  · exact hy.trans (emitLate_near ..)

theorem runWork_near (delta : Nat) (w : Work) (e : Entry) (s : State) : Near s (runWork delta w e s).2 := by
  unfold runWork
  split
  · exact .refl s
  · exact chainTile_near ..
  · exact matmulTile_near ..
  · exact loadCluster_near ..
  · exact storeCluster_near ..
  · exact passOneTile_near ..
  · exact passTwoTile_near ..
  · exact attnStep_near ..

theorem runWorks_near (delta : Nat) (ws : List Work) (e : Entry) (s : State) : Near s (runWorks delta ws e s).2.2 :=
  Near.foldOn (fun (a : Nat × (Entry × State)) => a.2.2) (fun _ w => runWork_near _ w _ _) ws (delta, (e, s))

theorem chainBlocks_near (rbs : List Nat) (d : Nat) (e : Entry) (s : State) :
    Near s (rbs.foldl (fun (a : Nat × (Entry × State)) rb => (0, chainBlock a.1 rb a.2.1 a.2.2)) (d, (e, s))).2.2 :=
  Near.foldOn (fun (a : Nat × (Entry × State)) => a.2.2) (f := fun a rb => (0, chainBlock a.1 rb a.2.1 a.2.2))
    (fun a rb => chainBlock_near a.1 rb a.2.1 a.2.2) rbs (d, (e, s))

theorem stepTogether_near (p : Plan) (delta : Nat) (e : Entry) (s : State) : Near s (stepTogether p delta e s).2.2 := by
  unfold stepTogether
  dsimp only
  split
  · exact (runWorks_near ..).trans (chainBlocks_near ..)
  · exact runWorks_near ..

theorem runSteps_near (p : Plan) (n delta : Nat) (e : Entry) (s : State) : Near s (runSteps p n delta e s).2.2 := by
  induction n generalizing delta e s with
  | zero => exact .refl s
  | succ n ih =>
    unfold runSteps
    split
    · exact .refl s
    · exact (stepTogether_near p delta e s).trans (ih ..)

/-! ## What an entry keeps -/

/-- What an entry keeps while its steps run: its key, its descriptor, its crossing, its group, and that it has started. -/
structure SameCommand (e x : Entry) : Prop where
  berth : x.berth = e.berth
  seq : x.seq = e.seq
  fore : x.fore = e.fore
  bytes : x.bytes = e.bytes
  crossing : x.crossing = e.crossing
  coll : x.coll = e.coll
  started : x.started = e.started

theorem SameCommand.refl (e : Entry) : SameCommand e e := by constructor <;> rfl

theorem SameCommand.trans {e x y : Entry} (h : SameCommand e x) (k : SameCommand x y) : SameCommand e y := by
  constructor
  all_goals first
    | exact k.berth.trans h.berth | exact k.seq.trans h.seq | exact k.fore.trans h.fore | exact k.bytes.trans h.bytes
    | exact k.crossing.trans h.crossing | exact k.coll.trans h.coll | exact k.started.trans h.started

theorem SameCommand.desc {e x : Entry} (h : SameCommand e x) : x.desc = e.desc := by
  simp [Entry.desc, h.seq, h.fore, h.bytes, h.coll]

theorem SameCommand.foldOn {β : Type} (g : β → Entry) {f : β → α → β} (h : ∀ b x, SameCommand (g b) (g (f b x))) (xs : List α) (b : β) :
    SameCommand (g b) (g (xs.foldl f b)) := by
  induction xs generalizing b with
  | nil => exact .refl _
  | cons x xs ih => exact (h b x).trans (ih (f b x))

theorem storeEmit_same (h : Option Nat) (m : Emit) (ts : List Stored) (acc : Entry × State) :
    SameCommand acc.1 (storeEmit h m ts acc).1 := by
  unfold storeEmit
  dsimp only
  split
  · constructor <;> rfl
  · exact .refl _

theorem emitOne_same (h : Option Nat) (delta : Nat) (m : Emit) (acc : Entry × State) : SameCommand acc.1 (emitOne h delta m acc).1 := by
  unfold emitOne
  exact SameCommand.trans (by constructor <;> rfl) (storeEmit_same h m _ (_, _))

theorem emitAll_same (h : Option Nat) (delta : Nat) (ms : List Emit) (e : Entry) (s : State) : SameCommand e (emitAll h delta ms e s).1 :=
  SameCommand.foldOn (fun (a : Nat × (Entry × State)) => a.2.1) (fun a m => emitOne_same h a.1 m a.2) ms (delta, (e, s))

theorem closeTile_same (delta rb c : Nat) (x : Coord) (ms : List Emit) (n : Notes) (sent : List (Coord × PVal)) (e : Entry) (s : State) :
    SameCommand e (closeTile delta rb c x ms n sent e s).1 := by
  have h0 : SameCommand e (addNotes n e) := by constructor <;> rfl
  unfold closeTile
  dsimp only
  split
  · exact h0.trans (emitAll_same ..)
  · exact h0.trans ((emitAll_same ..).trans (by constructor <;> rfl))

theorem emitLate_same (rb delta : Nat) (ms : List Emit) (fl : Flags) (e : Entry) (s : State) :
    SameCommand e (emitLate rb delta ms fl e s).1 := by
  unfold emitLate
  dsimp only
  split
  · constructor <;> rfl
  · exact SameCommand.trans (by constructor <;> rfl) (closeTile_same ..)

theorem runWork_same (delta : Nat) (w : Work) (e : Entry) (s : State) (hw : ∀ b t, w ≠ .pass b t) (hk : ∀ a b, w ≠ .key a b) :
    SameCommand e (runWork delta w e s).1 := by
  unfold runWork
  split
  · constructor <;> rfl
  · exact SameCommand.trans (by constructor <;> rfl) (closeTile_same ..)
  · exact closeTile_same ..
  · exact closeTile_same ..
  · exact closeTile_same ..
  · exact absurd rfl (hw _ _)
  · exact absurd rfl (hw _ _)
  · exact absurd rfl (hk _ _)

theorem setEntry_found (e : Entry) (s : State) (h : (findEntry s e.berth e.seq).isSome) : findEntry (setEntry e s) e.berth e.seq = some e := by
  obtain ⟨y, hy⟩ := Option.isSome_iff_exists.1 h
  exact findEntry_setEntry e y hy

/-- A command that has formed its outputs stands in the queue with life `ran`, and the issue of its berth is free. -/
theorem formed_found (e : Entry) (s : State) (h : (findEntry s e.berth e.seq).isSome) :
    ∃ x, findEntry (formed e s) e.berth e.seq = some x ∧ x.life = .ran ∧ SameCommand e x ∧ (formed e s).cq.issuing ≠ some e.berth := by
  refine ⟨_, setEntry_found { e with
    life := .ran, held := [], bad := [], reds := [], lads := [], recs := [], outs := [], rows := [], emitted := [],
    sent := [], rowIn := [], stop := false } s h, rfl, by constructor <;> rfl, ?_⟩
  unfold formed releaseIssue
  dsimp only
  split
  · exact fun x => nomatch x
  · assumption

end Sys2Proof.Machine
end

