-- ==== Sys2Proof/Laws/PerInstr.lean ====
section
/-! SUPPORT. The family `PermissionBit`: a command that needs a permission bit of its port carries that port, and the bit is
one of those that Table 19-5 gives the registers and windows of the main side. -/

namespace Sys2Proof.Laws.PermissionBit

/-- The bits that a command of the main side may need: 0 to 4, 6 and 7 (bit 5 guards a register of the keep island, bit 8 the
Tollhouse). -/
def Statement (i : Instr) : Prop := ∀ p b, Machine.neededBit i = some (p, b) → b ≤ 7 ∧ b ≠ 5

/-- A command that needs no bit. -/
theorem none_needed {i : Instr} (h : Machine.neededBit i = none) : Statement i := fun _ _ k => by simp [h] at k

/-- A command that needs one bit. -/
theorem one_needed {i : Instr} {q : Port} {n : Nat} (h : Machine.neededBit i = some (q, n)) (k : n ≤ 7 ∧ n ≠ 5) : Statement i :=
  fun _ _ j => by rw [h] at j; cases j; exact k

theorem coldReset (x0) (x1) : Statement (.coldReset x0 x1) := none_needed rfl
theorem warmReset (x0) : Statement (.warmReset x0) := none_needed rfl
theorem replayReset (x0) : Statement (.replayReset x0) := none_needed rfl
theorem resetDrainEnd : Statement (.resetDrainEnd) := none_needed rfl
theorem fabReady : Statement (.fabReady) := none_needed rfl
theorem startupSelfTestEnd (x0) : Statement (.startupSelfTestEnd x0) := none_needed rfl
theorem mainSideUp (x0) : Statement (.mainSideUp x0) := none_needed rfl
theorem beaconFrame (x0) : Statement (.beaconFrame x0) := none_needed rfl
theorem beaconFrameEffect : Statement (.beaconFrameEffect) := none_needed rfl
theorem moorWait : Statement (.moorWait) := none_needed rfl
theorem railOrderViolation : Statement (.railOrderViolation) := none_needed rfl
theorem keepSupplyALow : Statement (.keepSupplyALow) := none_needed rfl
theorem keepSupplyReturn : Statement (.keepSupplyReturn) := none_needed rfl
theorem keepIslandFailing (x0) : Statement (.keepIslandFailing x0) := none_needed rfl
theorem keepSupplyRestored (x0) : Statement (.keepSupplyRestored x0) := none_needed rfl
theorem keepSealCheckEnd (x0) : Statement (.keepSealCheckEnd x0) := none_needed rfl
theorem vddCoreBelowMin (x0) : Statement (.vddCoreBelowMin x0) := none_needed rfl
theorem vddCoreAboveNext (x0) : Statement (.vddCoreAboveNext x0) := none_needed rfl
theorem vddCoreCollapse : Statement (.vddCoreCollapse) := none_needed rfl
theorem thermalSample (x0) (x1) (x2) (x3) (x4) : Statement (.thermalSample x0 x1 x2 x3 x4) := none_needed rfl
theorem pwrCtlTarget (x0) (x1) : Statement (.pwrCtlTarget x0 x1) := none_needed rfl
theorem pwrCtlGate (x0) (x1) : Statement (.pwrCtlGate x0 x1) := none_needed rfl
theorem throttleSwitch : Statement (.throttleSwitch) := none_needed rfl
theorem clockGate : Statement (.clockGate) := none_needed rfl
theorem clockWake : Statement (.clockWake) := none_needed rfl
theorem sbNop (x0) (x1) (x2) (x3) (x4) : Statement (.sbNop x0 x1 x2 x3 x4) := none_needed rfl
theorem sbRead (x0) (x1) (x2) (x3) (x4) : Statement (.sbRead x0 x1 x2 x3 x4) := none_needed rfl
theorem sbWrite (x0) (x1) (x2) (x3) (x4) : Statement (.sbWrite x0 x1 x2 x3 x4) := none_needed rfl
theorem sbFrameCut : Statement (.sbFrameCut) := none_needed rfl
theorem coreSubmit (x0) (x1) (x2) : Statement (.coreSubmit x0 x1 x2) := none_needed rfl
theorem cqSubmit (x0) (x1) (x2) : Statement (.cqSubmit x0 x1 x2) := none_needed rfl
theorem cqSubmit64 (x0) (x1) (x2) : Statement (.cqSubmit64 x0 x1 x2) := none_needed rfl
theorem submissionResponse : Statement (.submissionResponse) := none_needed rfl
theorem abortBerth (x0) (x1) : Statement (.abortBerth x0 x1) := one_needed rfl (by decide)
theorem winRelease (x0) (x1) : Statement (.winRelease x0 x1) := one_needed rfl (by decide)
theorem resultWindowRead (x0) (x1) (x2) : Statement (.resultWindowRead x0 x1 x2) := none_needed rfl
theorem chain (x0) (x1) : Statement (.chain x0 x1) := none_needed rfl
theorem forerunnerChain (x0) (x1) : Statement (.forerunnerChain x0 x1) := none_needed rfl
theorem normFwd (x0) (x1) : Statement (.normFwd x0 x1) := none_needed rfl
theorem rmsFwd (x0) (x1) : Statement (.rmsFwd x0 x1) := none_needed rfl
theorem normBwd (x0) (x1) : Statement (.normBwd x0 x1) := none_needed rfl
theorem rmsBwd (x0) (x1) : Statement (.rmsBwd x0 x1) := none_needed rfl
theorem smaxFwd (x0) (x1) : Statement (.smaxFwd x0 x1) := none_needed rfl
theorem smaxBwd (x0) (x1) : Statement (.smaxBwd x0 x1) := none_needed rfl
theorem matmul (x0) (x1) : Statement (.matmul x0 x1) := none_needed rfl
theorem load (x0) (x1) : Statement (.load x0 x1) := none_needed rfl
theorem store (x0) (x1) : Statement (.store x0 x1) := none_needed rfl
theorem attn (x0) (x1) : Statement (.attn x0 x1) := none_needed rfl
theorem landingMarker (x0) : Statement (.landingMarker x0) := none_needed rfl
theorem tileBoundary (x0) : Statement (.tileBoundary x0) := none_needed rfl
theorem tileSignatureCompare (x0) (x1) : Statement (.tileSignatureCompare x0 x1) := none_needed rfl
theorem durationCapExpiry (x0) : Statement (.durationCapExpiry x0) := none_needed rfl
theorem commandComplete (x0) : Statement (.commandComplete x0) := none_needed rfl
theorem statisticsReady (x0) : Statement (.statisticsReady x0) := none_needed rfl
theorem finisherRowAccept : Statement (.finisherRowAccept) := none_needed rfl
theorem finisherRowDeliver (x0) : Statement (.finisherRowDeliver x0) := none_needed rfl
theorem retrieverRequest (x0) : Statement (.retrieverRequest x0) := none_needed rfl
theorem readResponse (x0) (x1) : Statement (.readResponse x0 x1) := none_needed rfl
theorem writeAck (x0) : Statement (.writeAck x0) := none_needed rfl
theorem translationFault (x0) : Statement (.translationFault x0) := none_needed rfl
theorem retry (x0) : Statement (.retry x0) := one_needed rfl (by decide)
theorem fail (x0) : Statement (.fail x0) := one_needed rfl (by decide)
theorem rtvLookaheadWrite (x0) (x1) : Statement (.rtvLookaheadWrite x0 x1) := one_needed rfl (by decide)
theorem rtvLeashWrite (x0) (x1) : Statement (.rtvLeashWrite x0 x1) := one_needed rfl (by decide)
theorem towBerthGroupWrite (x0) (x1) (x2) : Statement (.towBerthGroupWrite x0 x1 x2) := one_needed rfl (by decide)
theorem towMirrorRangeWrite (x0) (x1) : Statement (.towMirrorRangeWrite x0 x1) := one_needed rfl (by decide)
theorem kenReqWrite (x0) (x1) : Statement (.kenReqWrite x0 x1) := one_needed rfl (by decide)
theorem landingReached : Statement (.landingReached) := none_needed rfl
theorem landingGateOpen : Statement (.landingGateOpen) := none_needed rfl
theorem crossingOpen : Statement (.crossingOpen) := none_needed rfl
theorem landingCommitted : Statement (.landingCommitted) := none_needed rfl
theorem kennelStaticCopyEnd (x0) : Statement (.kennelStaticCopyEnd x0) := none_needed rfl
theorem inlineTestEnd (x0) (x1) : Statement (.inlineTestEnd x0 x1) := none_needed rfl
theorem outOfLineTestEnd (x0) (x1) : Statement (.outOfLineTestEnd x0 x1) := none_needed rfl
theorem manOpen (x0) : Statement (.manOpen x0) := one_needed rfl (by decide)
theorem manClose (x0) : Statement (.manClose x0) := one_needed rfl (by decide)
theorem manDiscard (x0) : Statement (.manDiscard x0) := one_needed rfl (by decide)
theorem manDisarm (x0) : Statement (.manDisarm x0) := one_needed rfl (by decide)
theorem manApplyNow (x0) : Statement (.manApplyNow x0) := one_needed rfl (by decide)
theorem manForget (x0) : Statement (.manForget x0) := one_needed rfl (by decide)
theorem manApplyAt (x0) (x1) (x2) : Statement (.manApplyAt x0 x1 x2) := one_needed rfl (by decide)
theorem stagingApertureWrite (x0) (x1) (x2) : Statement (.stagingApertureWrite x0 x1 x2) := one_needed rfl (by decide)
theorem manifestVerificationEnd : Statement (.manifestVerificationEnd) := none_needed rfl
theorem applicationPhase1End (x0) : Statement (.applicationPhase1End x0) := none_needed rfl
theorem applicationPhase2End : Statement (.applicationPhase2End) := none_needed rfl
theorem shadowWindowWrite (x0) (x1) (x2) : Statement (.shadowWindowWrite x0 x1 x2) := one_needed rfl (by decide)
theorem tblCommit (x0) (x1) (x2) : Statement (.tblCommit x0 x1 x2) := one_needed rfl (by decide)
theorem tblClear (x0) (x1) (x2) : Statement (.tblClear x0 x1 x2) := one_needed rfl (by decide)
theorem tblLoad (x0) (x1) (x2) : Statement (.tblLoad x0 x1 x2) := one_needed rfl (by decide)
theorem tblLoadFetchEnd (x0) : Statement (.tblLoadFetchEnd x0) := none_needed rfl
theorem swapIdle (x0) (x1) : Statement (.swapIdle x0 x1) := one_needed rfl (by decide)
theorem towBurstReceived (x0) : Statement (.towBurstReceived x0) := none_needed rfl
theorem burstAck (x0) : Statement (.burstAck x0) := none_needed rfl
theorem burstRefused (x0) : Statement (.burstRefused x0) := none_needed rfl
theorem burstResend (x0) : Statement (.burstResend x0) := none_needed rfl
theorem towMessage (x0) (x1) : Statement (.towMessage x0 x1) := none_needed rfl
theorem hopAbandoned (x0) (x1) : Statement (.hopAbandoned x0 x1) := none_needed rfl
theorem towTimerExpiry (x0) (x1) (x2) : Statement (.towTimerExpiry x0 x1 x2) := none_needed rfl
theorem mirrorSnapshotReadEnd (x0) : Statement (.mirrorSnapshotReadEnd x0) := none_needed rfl
theorem mirrorReceived (x0) : Statement (.mirrorReceived x0) := none_needed rfl
theorem restore (x0) : Statement (.restore x0) := one_needed rfl (by decide)
theorem restoreReq (x0) (x1) (x2) : Statement (.restoreReq x0 x1 x2) := none_needed rfl
theorem restoreData (x0) (x1) (x2) : Statement (.restoreData x0 x1 x2) := none_needed rfl
theorem multicastDrop (x0) : Statement (.multicastDrop x0) := none_needed rfl
theorem rowCopyEnd (x0) (x1) (x2) (x3) : Statement (.rowCopyEnd x0 x1 x2 x3) := none_needed rfl
theorem bankCopyEnd (x0) (x1) (x2) : Statement (.bankCopyEnd x0 x1 x2) := none_needed rfl
theorem traceArm (x0) (x1) (x2) : Statement (.traceArm x0 x1 x2) := one_needed rfl (by decide)
theorem evtLogRdWrite (x0) (x1) : Statement (.evtLogRdWrite x0 x1) := one_needed rfl (by decide)
theorem resume (x0) : Statement (.resume x0) := one_needed rfl (by decide)
theorem rebase (x0) (x1) : Statement (.rebase x0 x1) := one_needed rfl (by decide)
theorem tollStatus (x0) : Statement (.tollStatus x0) := none_needed rfl
theorem tollNonce (x0) : Statement (.tollNonce x0) := none_needed rfl
theorem tollAuth (x0) : Statement (.tollAuth x0) := none_needed rfl
theorem tollLogout (x0) : Statement (.tollLogout x0) := none_needed rfl
theorem tollSelftest (x0) : Statement (.tollSelftest x0) := none_needed rfl
theorem tollSelftestEnd (x0) : Statement (.tollSelftestEnd x0) := none_needed rfl
theorem tollReadPubkey (x0) (x1) : Statement (.tollReadPubkey x0 x1) := none_needed rfl
theorem tollLoadPubkey (x0) (x1) : Statement (.tollLoadPubkey x0 x1) := none_needed rfl
theorem tollLoadWrapped (x0) (x1) : Statement (.tollLoadWrapped x0 x1) := none_needed rfl
theorem tollGenkey (x0) (x1) : Statement (.tollGenkey x0 x1) := none_needed rfl
theorem tollClearSlot (x0) (x1) : Statement (.tollClearSlot x0 x1) := none_needed rfl
theorem tollZeroise (x0) : Statement (.tollZeroise x0) := none_needed rfl
theorem tollZeroisePermanent (x0) : Statement (.tollZeroisePermanent x0) := none_needed rfl
theorem zeroiseEnd : Statement (.zeroiseEnd) := none_needed rfl
theorem tollFieldLock (x0) : Statement (.tollFieldLock x0) := none_needed rfl
theorem certArm (x0) : Statement (.certArm x0) := none_needed rfl
theorem certCancel (x0) : Statement (.certCancel x0) := none_needed rfl
theorem certificateWritten (x0) : Statement (.certificateWritten x0) := none_needed rfl
theorem debugInstrumentEnable : Statement (.debugInstrumentEnable) := none_needed rfl
theorem registerWrite (x0) (x1) (x2) (x3) : Statement (.registerWrite x0 x1 x2 x3) := none_needed rfl
theorem registerHalfRead (x0) (x1) (x2) : Statement (.registerHalfRead x0 x1 x2) := none_needed rfl

end Sys2Proof.Laws.PermissionBit
end

