-- ==== Sys2Proof/WellFormed.lean ====
section
/-! DEFINITION. Which commands are well formed: operands of the size their port, register or table gives them. The
meanings are total, so an ill-formed command is harmless; the check says what the outside world can send. -/

namespace Sys2Proof

/-- A byte-window access: 1 to 64 bytes within one 64-byte block (R421), inside the window. -/
def wfWindow (size off len : Nat) : Bool :=
  1 ≤ len && len ≤ 64 && off / 64 == (off + len - 1) / 64 && off + len ≤ size

/-- A sector is 64 bytes (R300). -/
def Sector.wf (x : Sector) : Bool := x.bytes.length == 64

/-- Header fields within their widths (Table 14-3). -/
def TowMsg.wf (m : TowMsg) : Bool :=
  m.tag < 2 ^ 64 && m.crossing < 2 ^ 48 && m.landing < 2 ^ 16 && m.kind < 256 && m.group < 32 && m.reason < 4 &&
    m.senderCp < 4096 && m.coll < 2 ^ 32 && m.rows < 32 && m.rowBlock < 2 ^ 48 && m.source.package < 2 ^ 17 && m.source.ring < 64 &&
    m.dest.package < 2 ^ 17 && m.dest.ring < 64 && m.payload.length < 2 ^ 32

/-- The check of one command. -/
def Instr.wf : Instr → Bool
  | .beaconFrame ns => 1 ≤ ns.length && ns.length ≤ 56
  | .startupSelfTestEnd f => f.clusters.all (· < 40) && f.rows.all (fun r => r.1 < 8 && r.2.1 < 66 && r.2.2 < 256) &&
      f.banks.all (fun b => b.1 < 8 && b.2 < 66)
  | .sbNop _ op _ _ _ => op != 1 && op != 2
  | .coreSubmit _ data scalar => data.length == 128 && scalar.length == 16
  | .cqSubmit _ off bytes => wfWindow 192 off bytes.length
  | .cqSubmit64 _ off bytes => wfWindow 128 off bytes.length
  | .resultWindowRead off len _ => wfWindow (2 ^ 27) off.toNat len
  | .readResponse _ xs => 1 ≤ xs.length && xs.length ≤ 8 && xs.all Sector.wf
  | .kennelStaticCopyEnd r => r < 8
  | .inlineTestEnd c _ => c < 40
  | .outOfLineTestEnd c _ => c < 40
  | .stagingApertureWrite _ off bytes => wfWindow (2 ^ 20) off bytes.length
  | .applicationPhase1End rs => rs.all (· < 8)
  | .shadowWindowWrite _ off bytes => wfWindow (2 ^ 24) off bytes.length
  | .towMessage m _ => m.wf
  | .multicastDrop c => c < 32
  | .rowCopyEnd r b w _ => r < 8 && b < 64 && w < 256
  | .bankCopyEnd r b _ => r < 8 && b < 64
  | _ => true

end Sys2Proof
end

