-- ==== Sys2Proof/Tests/Slice0.lean ====
section
/-! SUPPORT. Tests: an ill-formed command for each check of WellFormed; one state and operands that meet the hypotheses of
each statement, clause by clause; and small single steps whose results are worked out from the spec by hand. -/

namespace Sys2Proof.Tests
open Sys2Proof Sys2Proof.Machine

set_option Elab.async false -- one theorem after the other, so that few threads wait for the kernel

/-! ## Helpers -/

/-- The state after a command, or the reset state where it stops. -/
def after (c : Instr) (s : State) : State :=
  match exec c s with
  | .next t => t
  | _ => State.reset

/-- A manifest with every permission, in untimed mode. -/
def man : Manifest := { (default : Manifest) with tag := 7, permHost := 0x1FF, permMgr := 0x1FF, gReduce := 4, gMac := 4, rowSpan := 1 }

/-- The engine up, tested and moored, in the segment of landing 2 of crossing 5, with a manifest active. -/
def up : State :=
  { State.reset with
      man := { ManUnit.cold with active := some man }
      crs := { CrsUnit.cold with crossing := 5, landing := 2, tide := 100, moored := true, phase := .inSegment, firstOpen := false }
      pwr := { PwrUnit.cold with mainDown := false, keepLost := false, fabReady := true, tested := true } }

/-- `up` with no manifest active, so that every write is permitted. -/
def bare : State := { up with man := ManUnit.cold }

/-- The main side up right after a reset: not moored, not tested. -/
def fresh : State := { State.reset with pwr := { PwrUnit.cold with mainDown := false } }

/-- A slot in the scratchpad (Table 11-3): base, format, and three strides; `job` places it in job memory. -/
def slot (base fmt job s0 s1 s2 : Nat) : Nat :=
  base + fmt * 2 ^ 40 + job * 2 ^ 44 + s0 * 2 ^ 48 + s1 * 2 ^ 64 + s2 * 2 ^ 88

/-- The 128 bytes of a native descriptor (Table 11-2), with N2 = N3 = 1 and no scalar bank. -/
def native (seq berth cls slip param landing n0 n1 nx window : Nat) (slots : List Nat) : List Byte :=
  leBytes 8 (seq + berth * 2 ^ 48 + cls * 2 ^ 53 + slip * 2 ^ 57 + 15 * 2 ^ 59) ++ leBytes 16 param ++ leBytes 8 (landing * 2 ^ 24) ++
    leBytes 12 (n0 + n1 * 2 ^ 24 + 2 ^ 48 + 2 ^ 60 + nx * 2 ^ 72 + window * 2 ^ 88) ++ slots.flatMap (leBytes 14)

/-- An entry of the queue in a given stage of its life, bound once it is taken. -/
def cmd (berth seq : Nat) (bytes : List Byte) (life : Life) : Entry :=
  { newEntry up .host false berth seq bytes [] with life := life, lookahead := if life = .queued then 0 else 4, vlen := 0xFFFFFF }

/-- A LOAD of an FP32 tile from scratchpad address 0 into slipway A (class 3, operation 2), landing 2. -/
def loadBytes : List Byte := native 1 3 3 0 2 2 2048 16 0 0xFF [slot 0 0 0 1 2048 0, 0, 0, 0, 0, 0]

/-- A STORE of slipway A to scratchpad address 0 (class 3, operation 3). -/
def storeBytes : List Byte := native 1 3 3 0 3 2 2048 16 0 0xFF [0, 0, 0, 0, slot 0 0 0 0 2048 0, 0]

/-- A landing marker (class 4) of landing 2. -/
def markerBytes : List Byte :=
  leBytes 8 (1 + 3 * 2 ^ 48 + 4 * 2 ^ 53 + 15 * 2 ^ 59) ++ leBytes 16 0 ++ leBytes 8 (2 * 2 ^ 24) ++ leBytes 96 0

/-- A NORM_FWD command (class 2, operation 1) of one row of 64. -/
def normBytes : List Byte := native 1 3 2 0 1 2 64 1 0 0xFF [slot 0 0 0 1 64 0, 0, 0, 0, slot 0x1000 0 0 0 64 0, 0]

/-- An ATTN command (class 3, operation 4). -/
def attnBytes : List Byte := native 1 3 3 0 4 2 64 16 32 0xFF [slot 0 0 0 1 64 0, 0, slot 0x2000 1 0 1 64 0, 0, slot 0x4000 0 0 0 64 0, 0]

/-- A state whose queue holds the given commands. -/
def queued (s : State) (es : List Entry) : State := { s with cq := { s.cq with entries := es } }

/-- The same with the issue held by a berth. -/
def issuing (s : State) (b : Nat) (es : List Entry) : State := { s with cq := { s.cq with entries := es, issuing := some b } }

/-! ## Well-formedness -/

theorem test_wf_beaconFrame : (Instr.beaconFrame []).wf = false := by decide
theorem test_wf_startupSelfTestEnd : (Instr.startupSelfTestEnd ⟨[40], [], [], 0⟩).wf = false := by decide
theorem test_wf_sbNop : (Instr.sbNop 0 1 0 0 0).wf = false := by decide
theorem test_wf_coreSubmit : (Instr.coreSubmit false [] []).wf = false := by decide
theorem test_wf_cqSubmit : (Instr.cqSubmit .host 60 [0, 0, 0, 0, 0]).wf = false := by decide
theorem test_wf_cqSubmit64 : (Instr.cqSubmit64 .host 128 [0]).wf = false := by decide
theorem test_wf_resultWindowRead : (Instr.resultWindowRead 0 65 .none).wf = false := by decide
theorem test_wf_readResponse : (Instr.readResponse 0 [⟨[0], false⟩]).wf = false := by decide
theorem test_wf_kennelStaticCopyEnd : (Instr.kennelStaticCopyEnd 8).wf = false := by decide
theorem test_wf_inlineTestEnd : (Instr.inlineTestEnd 40 true).wf = false := by decide
theorem test_wf_outOfLineTestEnd : (Instr.outOfLineTestEnd 40 true).wf = false := by decide
theorem test_wf_stagingApertureWrite : (Instr.stagingApertureWrite .host 0 []).wf = false := by decide
theorem test_wf_applicationPhase1End : (Instr.applicationPhase1End [8]).wf = false := by decide
theorem test_wf_shadowWindowWrite : (Instr.shadowWindowWrite .host 63 [0, 0]).wf = false := by decide
theorem test_wf_towMessage : (Instr.towMessage { (default : TowMsg) with group := 32 } (.clean 0)).wf = false := by decide
theorem test_wf_multicastDrop : (Instr.multicastDrop 32).wf = false := by decide
theorem test_wf_rowCopyEnd : (Instr.rowCopyEnd 0 0 256 .none).wf = false := by decide
theorem test_wf_bankCopyEnd : (Instr.bankCopyEnd 0 64 .none).wf = false := by decide

/-! ## Witnesses: what each statement supposes is met -/

theorem witness_IdleStepIsOneTick : State.reset.pending = [] ∧ State.reset.pwr.mainDown = true ∧ up.pending = [] ∧
    up.pwr.mainDown = false ∧ up.crs.moored = true ∧ fresh.pending = [] ∧ fresh.pwr.mainDown = false ∧ fresh.crs.moored = false := by
  decide

/-- A sound state with a listed byte, a queued command and an event, in which a command waits. -/
def busy : State :=
  { queued up [cmd 3 1 loadBytes .queued] with
      pending := [.chain 3 (.clean 0)], sp := { Scratch.cold with mem := [(5, 1), (9, 2)] }
      evt := logEvent EvtUnit.cold ⟨2, none, 0, 0, 0⟩ }

theorem witness_StepKeepsSound : Sound busy := ⟨by decide, by decide, by decide⟩

/-- `up` with its power unit changed. -/
def powered (f : PwrUnit → PwrUnit) : State := { up with pwr := f up.pwr }

theorem witness_ColdResets : up.pwr.mainDown = false ∧ up.pwr.tested = true ∧ up.pwr.latch = false ∧
    (powered (fun p => { p with latch := true })).pwr.latch = true ∧ State.reset.pwr.mainDown = true := by decide

/-- `up` after a rail broke the order. -/
def railed : State := { up with pwr := { up.pwr with coldNext := true } }

theorem witness_BrokenRailOrder : railed.pwr.coldNext = true ∧ railed.pwr.mainDown = false ∧ railed.pwr.tested = true ∧
    railed.pwr.warmTest = false ∧ railed.pwr.draining = none ∧ Served .host 6 railed := by
  simp only [Served]; decide

/-- A state in which a warm reset drains, with requests out. -/
def draining (out : List Req) : State :=
  { up with pwr := { up.pwr with draining := some .warm }, rtv := { up.rtv with out := out } }

theorem witness_WarmAndReplayResets : up.pwr.mainDown = false ∧ up.pwr.coldNext = false ∧ up.pwr.tested = true ∧ up.pwr.warmTest = false ∧
    up.pwr.draining ≠ some .warm ∧ up.pwr.draining = none ∧ Served .host 6 up ∧ fresh.pwr.tested = false ∧ fresh.pwr.mainDown = false ∧
    Served .host 6 fresh ∧ (powered (fun p => { p with warmTest := true })).pwr.warmTest = true ∧
    (draining []).pwr.draining = some .warm ∧ (draining []).pwr.mainDown = false ∧ Served .host 6 (draining []) ∧
    mainStopped (draining []) = false ∧ (draining []).rtv.out = [] ∧ (draining []).tow.tx = [] ∧
    (draining [default]).pwr.draining = some .warm ∧ mainStopped (draining [default]) = false ∧ (draining [default]).rtv.out ≠ [] := by
  simp only [Served]; decide

/-- The main side down with keep state held, and what else the keep check of the start-up looks at. -/
def starting (pending latch : Bool) : State :=
  { State.reset with pwr := { PwrUnit.cold with keepLost := false, zeroisePending := pending, latch := latch } }

/-- `fresh`, moored and with step 5 over. -/
def moored : State :=
  { fresh with pwr := { fresh.pwr with fabReady := true }, crs := { fresh.crs with moored := true } }

theorem witness_StartUpRuns : State.reset.pwr.mainDown = true ∧ State.reset.pwr.zeroisePending = false ∧ State.reset.pwr.keepLost = true ∧
    (starting false false).pwr.mainDown = true ∧ (starting false true).pwr.keepLost = false ∧ (starting false true).pwr.latch = true ∧
    (starting false true).pwr.zeroisePending = false ∧ (starting true false).pwr.zeroisePending = true ∧
    (starting true false).pwr.keepLost = false ∧ (starting true false).pwr.latch = false ∧ fresh.pwr.mainDown = false ∧
    mainStopped fresh = false ∧ ({ fresh.pwr with fabReady := true }).fabReady = true ∧ fresh.crs.moored = false ∧
    mainStopped moored = false ∧ moored.pwr.tested = false ∧ moored.crs.moored = true ∧ moored.pwr.warmTest = false ∧
    moored.crs.phase = .notMoored ∧ moored.crs.firstOpen = true ∧ 39 < moored.ken.clusters.length ∧ [39].contains 39 = true ∧
    fresh.pwr.draining ≠ some .warm ∧ (draining []).pwr.draining = some .warm ∧
    max State.reset.pwr.capTherm State.reset.pwr.capVolt ≤ State.reset.pwr.target ∧
    ({ PwrUnit.cold with capTherm := 1 }).target < max ({ PwrUnit.cold with capTherm := 1 }).capTherm ({ PwrUnit.cold with capTherm := 1 }).capVolt := by
  decide

/-- `moored` with spare banks of region 7 in service. -/
def replaced (xs : List (Nat × Nat × Nat)) : State :=
  { moored with keep := { moored.keep with repair := { moored.keep.repair with spares := xs } } }

/-- The first spare bank is free, then the second, then none. -/
theorem witness_StartUpBanks : bankServed moored 7 63 = some 63 ∧ [0, 1].find? (fun x => !((spareBanks moored 7).contains x)) = some 0 ∧
    bankServed (replaced [(7, 0, 63)]) 7 64 = some 63 ∧
    [0, 1].find? (fun x => !((spareBanks (replaced [(7, 0, 63)]) 7).contains x)) = some 1 ∧
    bankServed (replaced [(7, 0, 63), (7, 1, 62)]) 7 65 = some 62 ∧ 0 ∈ spareBanks (replaced [(7, 0, 63), (7, 1, 62)]) 7 ∧
    1 ∈ spareBanks (replaced [(7, 0, 63), (7, 1, 62)]) 7 ∧ (7, 62) ∉ (replaced [(7, 0, 63), (7, 1, 62)]).sp.noSpare := by decide

/-! The beacon. -/

/-- A beacon frame (R32): announcement, its tide and FRAME_TIDE, with its CRC. -/
def frameBits (crossing landing annTide tide : Nat) : BeaconBits :=
  let body := 0xA501 * 2 ^ 192 + crossing * 2 ^ 144 + landing * 2 ^ 128 + annTide * 2 ^ 64 + tide
  let w := body * 2 ^ 16 + crc16 200 (body % 2 ^ 200)
  (List.range 56).map (fun i => BitVec.ofNat 4 (w / 16 ^ (55 - i)))

/-- A state that a frame reaches on its effect edge. -/
def framed (s : State) (f : BeaconBits) : State := { s with crs := { s.crs with frames := [f] } }

/-- `up` after an announcement of landing 3 of crossing 5. -/
def announced : State := { up with crs := { up.crs with ann := (5, 3), annTide := 90, annSeen := true } }

theorem witness_FramesQueueAndMoor : mainStopped up = false ∧ up.pwr.fabReady = true ∧ 56 ≤ (frameBits 1 0 5 6).length ∧
    [(0 : BitVec 4)].length < 56 ∧ up.crs.moored = true ∧ ({ fresh.pwr with fabReady := true }).fabReady = true ∧
    mainStopped (framed fresh (frameBits 1 0 5 6)) = false ∧ (framed fresh (frameBits 1 0 5 6)).crs.moored = false ∧
    (framed fresh (frameBits 1 0 5 6)).crs.annSeen = false ∧ frameOk (frameNat (frameBits 1 0 5 6)) = true ∧
    ({ fresh.pwr with tested := true }).tested = true ∧ fresh.pwr.warmTest = false ∧ fresh.crs.phase = .notMoored ∧
    fresh.crs.firstOpen = true ∧ up.pwr.draining ≠ some .warm ∧ (draining []).pwr.draining = some .warm ∧ up.crs.frames = [] ∧
    mainStopped State.reset = true ∧ fresh.pwr.fabReady = false := by decide +kernel

theorem witness_DiscardedFrame : mainStopped (framed fresh (List.replicate 56 0)) = false ∧
    (framed fresh (List.replicate 56 0)).crs.moored = false ∧ frameOk (frameNat (List.replicate 56 0)) = false ∧
    mainStopped announced = false ∧ announced.crs.moored = true ∧ bitsOf (frameNat (frameBits 6 0 5 99)) 79 16 ≠ announced.crs.tide ∧
    announced.crs.annSeen = true ∧ bitsOf (frameNat (frameBits 5 2 5 100)) 207 160 = announced.crs.ann.1 ∧
    bitsOf (frameNat (frameBits 5 2 5 100)) 159 144 < announced.crs.ann.2 ∧
    bitsOf (frameNat (frameBits 4 9 5 100)) 207 160 < announced.crs.ann.1 := by decide +kernel

theorem witness_NewAnnouncement : mainStopped announced = false ∧ announced.crs.moored = true ∧
    frameOk (frameNat (frameBits 6 0 120 100)) = true ∧ bitsOf (frameNat (frameBits 6 0 120 100)) 79 16 = announced.crs.tide ∧
    announced.crs.ann.1 < bitsOf (frameNat (frameBits 6 0 120 100)) 207 160 ∧ up.crs.annSeen = false ∧ up.crs.moored = true ∧
    frameOk (frameNat (frameBits 5 4 120 100)) = true ∧ bitsOf (frameNat (frameBits 5 4 120 100)) 79 16 = announced.crs.tide ∧
    announced.crs.ann.1 = bitsOf (frameNat (frameBits 5 4 120 100)) 207 160 ∧
    announced.crs.ann.2 < bitsOf (frameNat (frameBits 5 4 120 100)) 159 144 := by decide +kernel

/-! Supplies, throttle, clocks, side-band. -/

/-- `up` with the keep supplies as given, and with a seal check open after a shadow was kept or none. -/
def supplied (srcB bOk fail : Bool) : State := powered (fun p => { p with srcB := srcB, bOk := bOk, keepFail := fail })
def sealing (k : Option Keep) : State :=
  { powered (fun p => { p with sealCheck := true }) with isl := { up.isl with shadow := k } }

theorem witness_KeepSupplies : (supplied false true false).pwr.srcB = false ∧ (supplied false true false).pwr.bOk = true ∧
    (supplied true true false).pwr.srcB = true ∧ (supplied false false false).pwr.bOk = false ∧
    State.reset.pwr.mainDown = true ∧ up.pwr.mainDown = false ∧ (supplied false true false).pwr.keepFail = false ∧
    (supplied true true true).pwr.keepFail = true ∧ (supplied true true true).pwr.srcB = true ∧ (supplied true true true).pwr.srcB ≠ false ∧
    (sealing none).pwr.sealCheck = true ∧ (sealing none).isl.shadow = none ∧ (sealing (some up.keep)).pwr.sealCheck = true ∧
    (sealing (some up.keep)).isl.shadow = some up.keep ∧ up.pwr.sealCheck = false := by decide

/-- Two accepted submissions whose responses wait, a third that is not accepted behind them. -/
def answering : State :=
  { queued up [cmd 3 1 loadBytes .queued] with
      keep := { up.keep with accepted := [(3, 1)] }
      cq := { up.cq with entries := [cmd 3 1 loadBytes .queued], responses := [⟨.core, 1, 3, 1⟩, ⟨.core, 3, 3, 9⟩] } }

theorem witness_TornAcceptance : answering.cq.responses = ⟨.core, 1, 3, 1⟩ :: [⟨.core, 3, 3, 9⟩] ∧ (⟨.core, 1, 3, 1⟩ : Judged).code = 1 ∧
    (∀ x ∈ [(⟨.core, 3, 3, 9⟩ : Judged)], x.code ≠ 1) ∧ 0 < (⟨.core, 1, 3, 1⟩ : Judged).seq ∧
    (KeepBlock.repair ≠ .accepted 3 ∧ KeepBlock.completed 3 ≠ .accepted 3) := by decide

theorem witness_StepsFollow : 739 < 740 ∧ 740 ≤ 740 ∧ 719 < 720 ∧ 700 ≤ 700 ∧ 750 - 1 < 740 + 10 ∧ (1680 : Int) ≤ 1680 ∧
    9 ≤ (powered (fun p => { p with hot := 9 })).pwr.hot ∧ up.pwr.capTherm < 3 ∧ (1520 : Int) ≤ 1679 ∧ (1679 : Int) < 1680 ∧
    (powered (fun p => { p with hot := 8 })).pwr.hot < 9 ∧ 3 ≤ (powered (fun p => { p with capTherm := 3 })).pwr.capTherm ∧
    (powered (fun p => { p with cool := 99 })).pwr.cool = 99 ∧ up.pwr.cool < 99 ∧ (1919 : Int) < 1920 ∧ mainStopped up = false ∧
    permitted .host 5 bare = true ∧ permitted .mgr 5 up = true ∧
    permitted .host 5 { up with man := { up.man with active := some { man with permHost := 0 } } } = false := by decide

/-- `up` with GATE set and every unit at rest; and with the clocks stopped and a submission waiting. -/
def gating : State := powered (fun p => { p with gate := true })
def sleeping (a : List Asleep) : State :=
  { powered (fun p => { p with gate := true, gated := true, waking := true }) with cq := { up.cq with asleep := a } }

theorem witness_SwitchesThrottleAndGate :
    (powered (fun p => { p with pending := some (3, 2) })).pwr.pending = some (3, 2) ∧ up.pwr.step < 4 ∧ up.pwr.pending = none ∧
    (powered (fun p => { p with pending := some (3, 2) })).pwr.thermTrip = false ∧ (powered (fun p => { p with thermTrip := true })).pwr.thermTrip = true ∧
    gating.pwr.gate = true ∧ gating.pwr.gated = false ∧ gating.cq.entries = [] ∧ gating.cq.asleep = [] ∧ gating.crs.run = none ∧
    gating.crs.decided = [] ∧ gating.tow.reading = none ∧ (∀ c ∈ gating.ken.clusters, c.st ≠ .testing) ∧ gating.tbl.busy = false ∧
    gating.toll.busy = .none ∧ gating.man.stage ≠ .verifying ∧ gating.man.apply ≠ .applying ∧ mainStopped gating = false ∧
    up.pwr.gate = false ∧ (sleeping []).pwr.waking = true ∧ mainStopped (sleeping []) = false ∧ (sleeping []).cq.asleep = [] ∧
    (sleeping [default]).pwr.waking = true ∧ (sleeping [default]).cq.asleep = default :: [] ∧ up.pwr.waking = false := by decide

theorem witness_SidebandFrames : (1#2).toNat < 2 ∧ 2 ≤ (2#2).toNat ∧ crc8v1 (frameWord 0 0 0 0) ≠ 1 ∧ crc8v2 (frameWord 1 1 0 0) ≠ 0 ∧
    crc8v1 (frameWord 0 2 0 0) ≠ 0 ∧ crc8v1 (frameWord 0 0 0 0) = 0 ∧ crc8v2 (frameWord 1 1 0xF008 0) = 117 ∧
    sbTarget up 0xF008 = .ok (.half 0xF008 .pwrStatus false) ∧ crc8v1 (frameWord 0 2 0xF000 5) = 2 ∧
    sbTarget up 0xF000 = .ok (.half 0xF000 .pwrCtl false) ∧ Reg.pwrCtl.perm.allows up .mgr = true ∧ Reg.pwrCtl ≠ .tollCmd ∧
    Reg.pwrCtl ≠ .jqCtl ∧ crc8v1 (frameWord 0 2 0xF004 0) = 150 ∧ sbTarget up 0xF004 = .ok (.half 0xF000 .pwrCtl true) ∧
    ({ up.sb with heldLow := some (0xF000, 5) }).heldLow = some (0xF000, 5) ∧
    Reg.pwrCtl.perm.allows { up with man := { up.man with active := some { man with permMgr := 0 } } } .mgr = false := by decide +kernel

/-- TOLL_DATA by bytes, and an address that reaches nothing. -/
theorem witness_SidebandAreas : sbTarget up 0xF100 = .ok (.bytes .tollData 0) ∧ Area.tollData.perm.allows up .mgr = true ∧
    (match sbTarget up 0x30 with | .error _ => true | .ok _ => false) = true ∧
    crc8v2 (frameWord 1 1 0xF100 0) < 256 ∧ crc8v2 (frameWord 1 2 0x30 0) < 256 := by decide +kernel

/-! Commands. -/

/-- `up` after one accepted command of berth 3. -/
def accepted1 : State := { queued up [cmd 3 1 loadBytes .queued] with keep := { up.keep with accepted := [(3, 1)] } }

/-- The descriptor of `loadBytes` with another sequence number. -/
def numbered (q : Nat) : List Byte := leBytes 6 q ++ loadBytes.drop 6

/-- `up` with the host's permissions taken away. -/
def shut : State := { up with man := { up.man with active := some { man with permHost := 0 } } }

theorem witness_CoreSubmissions : portsOpen accepted1 = true ∧ accepted1.pwr.gated = false ∧
    permitted .host 0 accepted1 = true ∧ permitted .host 0 shut = false ∧
    (numbered 0).length = 128 ∧ (nativeDesc (numbered 0)).berth = 3 ∧ (nativeDesc (numbered 0)).seq = 0 ∧
    1 ≤ (nativeDesc (numbered 1)).seq ∧ (nativeDesc (numbered 1)).seq ≤ ldgAccepted accepted1 3 ∧
    ldgAccepted accepted1 3 + 1 < (nativeDesc (numbered 3)).seq ∧ (nativeDesc (numbered 2)).seq = ldgAccepted accepted1 3 + 1 ∧
    (nativeDesc (numbered 2)).seq < 2 ^ 48 ∧ accepted1.cq.entries.length < 256 ∧ accepted1.pwr.keepFail = false ∧
    accepted1.pwr.sealCheck = false ∧ 256 ≤ (queued up (List.replicate 256 (cmd 3 1 [] .ran))).cq.entries.length ∧
    portsOpen (sleeping []) = true ∧ (sleeping []).pwr.gated = true ∧ portsOpen State.reset = false ∧ up.cq.responses = [] ∧
    mainStopped answering = false ∧ answering.cq.responses = ⟨.core, 1, 3, 1⟩ :: [⟨.core, 3, 3, 9⟩] := by decide +kernel

theorem witness_WindowWrites : portsOpen up = true ∧ permitted .host 0 up = true ∧ up.pwr.gated = false ∧
    oneBlock 192 64 63 = true ∧ 64 + 63 ≤ 127 ∧ oneBlock 192 128 64 = true ∧ oneBlock 128 0 63 = true ∧ 0 + 63 ≤ 63 ∧ oneBlock 128 64 64 = true ∧
    127 < 127 + [(0 : Byte)].length ∧ oneBlock 192 127 1 = true ∧ oneBlock 192 64 64 = true ∧ 127 < 64 + 64 ∧
    63 < 63 + [(0 : Byte)].length ∧ oneBlock 128 63 1 = true ∧ oneBlock 128 0 64 = true ∧ 63 < 0 + 64 ∧
    oneBlock 192 63 2 = false ∧ oneBlock 192 0 65 = false ∧ oneBlock 192 0 0 = false ∧ oneBlock 192 191 2 = false ∧ oneBlock 128 63 2 = false ∧
    portsOpen shut = true ∧ permitted .host 0 shut = false ∧
    portsOpen State.reset = false ∧ 2 ^ 31 ≤ ldgAccepted { up with keep := { up.keep with accepted := [(0, 2 ^ 31)] } } 0 + 1 := by decide

/-- A command whose outputs are formed, that named window 4, with its window bound. -/
def windowed : Entry := cmd 3 1 (native 1 3 1 0 0 2 64 1 0 4 [slot 0 0 0 1 0 0, 0, 0, 0, 0, 0]) .ran

/-- The queue that holds it, with its window NOT_READY; `w` may change what it reports. -/
def completing (w : Entry) : State :=
  { queued up [w, cmd 3 2 loadBytes .queued] with
      cq := { up.cq with entries := [w, cmd 3 2 loadBytes .queued], wins := [(4, ⟨1, 1, 3, 1, 0, 256⟩)] } }

theorem witness_Completion : mainStopped (completing windowed) = false ∧
    berthEntries (completing windowed) (3#5).toNat = windowed :: [cmd 3 2 loadBytes .queued] ∧
    (∀ x ∈ [cmd 3 2 loadBytes .queued], x.seq ≠ windowed.seq) ∧
    (∀ x ∈ [cmd 3 2 loadBytes .queued].head?, x.res.refused = none) ∧ mayComplete (completing windowed) windowed = true ∧
    windowed.desc.window < 128 ∧ windowed.res.refused = none ∧ (sget default (completing windowed).cq.wins 4).st = 1 ∧
    (sget default (completing windowed).cq.wins 4).berth = 3 ∧ (sget default (completing windowed).cq.wins 4).seqLow = 1 ∧
    windowed.res.consumed = none ∧ windowed.res.vneg = 0 ∧ windowed.res.masked = 0 ∧
    mayComplete (completing { windowed with res := { Result.zero with refused := some 9 } })
      { windowed with res := { Result.zero with refused := some 9 } } = true ∧
    mayComplete (completing { windowed with res := { Result.zero with consumed := some 64 } })
      { windowed with res := { Result.zero with consumed := some 64 } } = true ∧
    (∀ e ∈ berthHead accepted1 3, mayComplete accepted1 e = false) := by decide +kernel

theorem witness_CompletionStatus : (({ Result.zero with refused := some 9, abort := 1 } : Result)).refused = some 9 ∧
    ({ Result.zero with abort := 2, cap := true } : Result).abort ≠ 0 ∧ ({ Result.zero with fault := some 3 } : Result).fault = some 3 ∧
    Result.zero.refused = none ∧ Result.zero.abort = 0 ∧ Result.zero.fault = none := by decide

/-- Every write that needs a permission bit is served in `up`: the hypothesis `Served` of the statements. -/
theorem witness_Served (p : Port) (b : Nat) (h : b < 9) : Served p b up := by
  refine ⟨rfl, ?_⟩
  revert b
  cases p <;> decide

/-- Berth 3's oldest command holds the issue, its second is taken, and one that has formed its outputs is suspended or not. -/
def aborting : State :=
  issuing up 3 [{ cmd 3 2 normBytes .taken with started := true }, cmd 3 3 loadBytes .taken, { cmd 3 4 loadBytes .ran with suspended := true },
    cmd 3 5 loadBytes .ran]

theorem witness_AbortsAndCaps : Served .host 0 aborting ∧ (∀ e ∈ aborting.cq.entries, e.berth = (3#5).toNat) ∧
    (∀ e ∈ aborting.cq.entries, ∀ y ∈ aborting.cq.entries, y.berth = e.berth → y.seq = e.seq → y = e) ∧
    aborting.cq.entries.map (holdsIssue aborting) = [true, false, false, false] ∧
    aborting.cq.entries.map (fun e => (e.life = .ran : Bool)) = [false, false, true, true] ∧
    aborting.cq.entries.map (·.suspended) = [false, false, true, false] ∧ berthEntries up 3 = [] ∧ up.cq.issuing ≠ some 3 ∧
    mainStopped aborting = false ∧
    (berthEntries aborting 3).find? charged = some { cmd 3 2 normBytes .taken with started := true } ∧
    findEntry aborting 3 2 = some { cmd 3 2 normBytes .taken with started := true } ∧ (berthEntries up 3).find? charged = none ∧
    ofNext aborting { cmd 3 2 normBytes .taken with started := true } = false ∧
    ofNext { aborting with crs := { up.crs with phase := .waitBeacon } } { cmd 3 2 normBytes .taken with started := true } = true ∧
    othersIssue aborting 3 2 = false ∧
    othersIssue (issuing up 3 [cmd 3 1 loadBytes .ran, { cmd 3 2 normBytes .taken with started := true }]) 3 1 = true := by
  refine ⟨witness_Served .host 0 (by decide), ?_⟩
  decide +kernel

theorem witness_ResultWindows : up.pwr.coldNext = false ∧ up.pwr.warmTest = false ∧ up.pwr.tested = true ∧ up.pwr.draining = none ∧
    up.pwr.mainDown = false ∧ mainStopped shut = false ∧ permitted .host 0 shut = false ∧ mainStopped (completing windowed) = false ∧
    (sget default (completing windowed).cq.wins 4).gen % 16 = (4 * 2 ^ 20 + 2 ^ 16) / 2 ^ 16 % 16 ∧
    (sget default (completing windowed).cq.wins 4).st ≠ 2 ∧ (sget default (completing windowed).cq.wins 5).gen % 16 ≠ 1 ∧
    (sget default ({ (completing windowed).cq with wins := [(4, ⟨1, 2, 3, 1, 0, 256⟩)] }).wins 4).st = 2 ∧
    mainStopped State.reset = true ∧ railed.pwr.coldNext = true ∧ up.toll.shadow.lock = false ∧
    ({ up.toll with busy := .zeroise true }).busy = .zeroise true ∧ oneBlock (2 ^ 27) (2 ^ 27 - 1) 1 = true ∧
    oneBlock (2 ^ 27) (2 ^ 27 - 1) 2 = false ∧ oneBlock (2 ^ 27) 0 65 = false ∧ oneBlock (2 ^ 27) 63 2 = false := by decide

/-- `up` as the ledger's landing pair and RESUME find it after a reset. -/
def resumable : State := { up with keep := { up.keep with keptTag := some 7, crossCopy := some (5, 1), crossBase := 40 } }

theorem witness_Ledger : Served .host 6 up ∧ berthHead up 3 = none ∧ ldgCommitSeq up 3 = ldgAccepted up 3 ∧
    Served .host 6 accepted1 ∧ berthHead accepted1 3 ≠ none ∧ ldgCommitSeq accepted1 3 ≠ ldgAccepted accepted1 3 ∧
    Served .host 6 resumable ∧ resumable.man.active = some man ∧ resumable.keep.keptTag = some man.tag ∧
    resumable.keep.crossCopy = some (5, 1) ∧ resumable.cq.takenSinceReset = false ∧ resumable.crs.firstOpen = false ∧
    Served .host 6 bare ∧ bare.man.active = none ∧ up.keep.crossCopy = none ∧
    (∃ m, up.man.active = some m ∧ up.keep.keptTag ≠ some m.tag) := by
  refine ⟨witness_Served .host 6 (by decide), by decide, by decide, witness_Served .host 6 (by decide), by decide, by decide,
    witness_Served .host 6 (by decide), rfl, rfl, rfl, rfl, rfl, ⟨rfl, rfl⟩, rfl, rfl, man, rfl, by decide⟩

/-! Issue. -/

theorem ready (s : State) (b : BitVec 5) (e : Entry) (h : (mayTake s && (berthNext s b.toNat == some e) &&
    (findEntry s b.toNat e.seq == some e) && (e.life == .taken) && (e.started == false) && decide (0 < e.lookahead) &&
    mayStart s e && issueOpen s e.berth && !(issueHeld s)) = true) : ReadyToStart s b e := by
  simp only [Bool.and_eq_true, beq_iff_eq, decide_eq_true_eq, Bool.not_eq_true'] at h
  obtain ⟨⟨⟨⟨⟨⟨⟨⟨h1, h2⟩, h3⟩, h4⟩, h5⟩, h6⟩, h7⟩, h8⟩, h9⟩ := h
  exact ⟨h1, h2, h3, h4, h5, h6, h7, h8, h9⟩

theorem checked (e : Entry) (h : (fixedReasons e e.desc e.vlen == [] && e.coll.isNone &&
    e.fin.all (fun f => decide (f.1 / 16 < e.desc.shape.rowBlocks) && decide ((e.desc.shape.blockRow (f.1 / 16)).i1 + f.1 % 16 < e.desc.n1)) &&
    e.rows.all (fun x => x.2.o.length == e.desc.nx)) = true) : Checked e := by
  simp only [Bool.and_eq_true, beq_iff_eq, Option.isNone_iff_eq_none, List.all_eq_true, decide_eq_true_eq] at h
  exact ⟨h.1.1.1, h.1.1.2, h.1.2, h.2⟩

theorem onTime (s : State) (e : Entry) (h : deadlineNow s e = none) : OnTime s e := by simp [OnTime, h]

theorem quiet_env : QuietEnv (RunEnv.clean 7) := ⟨rfl, rfl, rfl⟩

/-- A step that meets nothing; one with a lane parity error; one whose cycles exceed the cap; one that stops at its first boundary. -/
def env : RunEnv := .clean 7
def envParity : RunEnv := { RunEnv.clean 7 with detected := some (.parity, 2) }
def envLong : RunEnv := .clean (2 ^ 22 + 1)
def envStep : RunEnv := { RunEnv.clean 7 with stepwise := true }

/-- A taken LOAD, the same under group 1, and a taken STORE. -/
def loading : Entry := cmd 3 1 loadBytes .taken
def storing : Entry := cmd 3 1 storeBytes .taken

/-- A taken CHAIN of 33 tiles of FP8, its input and its output in the scratchpad or in job memory. -/
def chaining (inJob outJob : Nat) : Entry :=
  cmd 3 1 (native 1 3 1 0 0xB000 2 2112 1 0 0xFF [slot 0 3 inJob 1 2112 0, 0, 0, 0, slot 0x10000 3 outJob 0 2112 0, 0]) .taken

theorem witness_InStep : ReadyToStart (queued up [loading]) 3 loading ∧ runsApart loading.desc = false ∧
    loading.desc.kind ≠ .marker ∧ readsJob loading.desc = false ∧ StepClean (queued up [loading]) loading env ∧
    loading.coll = none ∧ writesJob loading.desc = false ∧ env.stepwise = false ∧
    errorOf (queued up [loading]) loading envParity = some (.parity, 2) ∧
    errorOf (queued up [loading]) loading envLong = none ∧ overCap envLong loading = true := by
  refine ⟨ready _ _ _ (by decide +kernel), ?_⟩
  simp only [StepClean]
  decide +kernel

theorem witness_InStep_reads : ReadyToStart (queued up [chaining 1 0]) 3 (chaining 1 0) ∧ readsJob (chaining 1 0).desc = true ∧
    allPast (planOf (firstStepState (queued up [chaining 1 0]) (chaining 1 0)) (startedEntry (queued up [chaining 1 0]) (chaining 1 0)))
      (startedEntry (queued up [chaining 1 0]) (chaining 1 0)) = false :=
  ⟨ready _ _ _ (by decide +kernel), by decide +kernel, by decide +kernel⟩

theorem witness_InStep_stepwise : ReadyToStart (queued up [chaining 0 0]) 3 (chaining 0 0) ∧ envStep.stepwise = true ∧
    StepClean (queued up [chaining 0 0]) (chaining 0 0) envStep ∧ writesJob (chaining 0 1).desc = true ∧
    readsJob (chaining 0 0).desc = false ∧ readsJob (chaining 0 1).desc = false ∧
    (planOf (queued up [chaining 0 0]) (startedEntry (queued up [chaining 0 0]) (chaining 0 0))).any
      (fun x => decide ((chaining 0 0).pos + 1 < x.2.length)) = true := by
  refine ⟨ready _ _ _ (by decide +kernel), ?_⟩
  simp only [StepClean]
  decide +kernel

/-- A CHAIN of one tile, of FP32, and a MATMUL of one tile that drains. -/
def oneTile : Entry := cmd 3 1 (native 1 3 1 0 0xB000 2 64 1 0 0xFF [slot 0 0 0 1 64 0, 0, 0, 0, slot 0x10000 0 0 0 64 0, 0]) .taken
def dotting : Entry :=
  cmd 3 1 (native 1 3 3 0 (1 + 16) 2 2 1 1 0xFF [slot 0 1 0 1 64 0, slot 64 1 0 1 64 0, 0, 0, slot 0x1000 0 0 0 64 0, 0]) .taken

theorem witness_InStep_values : ReadyToStart (queued up [oneTile]) 3 oneTile ∧ Checked (startedEntry (queued up [oneTile]) oneTile) ∧
    QuietEnv env ∧ OnTime (queued up [oneTile]) (startedEntry (queued up [oneTile]) oneTile) ∧ StepClean (queued up [oneTile]) oneTile env ∧
    OneTile oneTile.desc.shape ∧ ReadyToStart (queued up [dotting]) 3 dotting ∧ Checked (startedEntry (queued up [dotting]) dotting) ∧
    OnTime (queued up [dotting]) (startedEntry (queued up [dotting]) dotting) ∧ StepClean (queued up [dotting]) dotting env ∧
    OneTile dotting.desc.shapeC :=
  ⟨ready _ _ _ (by decide +kernel), checked _ (by decide +kernel), quiet_env, onTime _ _ (by decide +kernel), ⟨by decide +kernel, by decide +kernel⟩,
    ⟨by decide +kernel, by decide +kernel, by decide +kernel⟩, ready _ _ _ (by decide +kernel), checked _ (by decide +kernel),
    onTime _ _ (by decide +kernel), ⟨by decide +kernel, by decide +kernel⟩, ⟨by decide +kernel, by decide +kernel, by decide +kernel⟩⟩

theorem witness_InStep_clauses : oneTile.desc.kind = .chain ∧ dotting.desc.kind = .matmul ∧ runsApart oneTile.desc = false ∧
    runsApart dotting.desc = false ∧ readsJob oneTile.desc = false ∧ readsJob dotting.desc = false ∧ writesJob oneTile.desc = false ∧
    writesJob dotting.desc = false ∧ oneTile.pos = 0 ∧ dotting.pos = 0 ∧ (mparam dotting.desc).drain = true ∧ epilogueOf dotting.desc = [] ∧
    areasFull (firstStepState (queued up [oneTile]) oneTile) (startedEntry (queued up [oneTile]) oneTile) = false ∧
    areasFull (firstStepState (queued up [dotting]) dotting) (startedEntry (queued up [dotting]) dotting) = false ∧
    othersIssue (queued up [oneTile]) 3 1 = false ∧ othersIssue (queued up [cmd 3 1 loadBytes .ran, { oneTile with seq := 2, started := true }]) 3 1 = true := by
  decide +kernel

/-- A CHAIN of berth 5 whose outputs wait in a store area that has no room for a tile more, and a chain into job memory that would start. -/
def storedUp : Entry := { cmd 5 1 normBytes .ran with writes := [⟨0x40000, [], [], 4, [], [(0, 32768)]⟩] }
def storingUp : Entry := cmd 3 1 (native 1 3 1 0 0 2 64 1 0 0xFF [slot 0 3 0 1 64 0, 0, 0, 0, slot 0x10000 3 1 0 2112 0, 0]) .taken

theorem witness_InStep_full : ReadyToStart (queued up [storingUp, storedUp]) 3 storingUp ∧
    areasFull (firstStepState (queued up [storingUp, storedUp]) storingUp) (startedEntry (queued up [storingUp, storedUp]) storingUp) = true :=
  ⟨ready _ _ _ (by decide +kernel), by decide +kernel⟩

theorem witness_LoadAndStore_values : Checked (startedEntry (queued up [storing]) storing) ∧ epilogueOf storing.desc = [] ∧
    areasFull (firstStepState (queued up [storing]) storing) (startedEntry (queued up [storing]) storing) = false ∧
    areasFull (firstStepState (queued up [loading]) loading) (startedEntry (queued up [loading]) loading) = false ∧ 31 < Config.clusters :=
  ⟨checked _ (by decide +kernel), by decide +kernel, by decide +kernel, by decide +kernel, by decide⟩

theorem witness_LoadAndStore : ReadyToStart (queued up [storing]) 3 storing ∧ ReadyToStart (queued up [loading]) 3 loading ∧
    protection up ≠ 2 ∧ readsJob storing.desc = false ∧ StepClean (queued up [storing]) storing env ∧ env.stepwise = false ∧
    env.rest = [] ∧ storing.pos = 0 ∧ loading.desc.kind = .load ∧ env.corrected = [] ∧ env.uncorrectable = [] ∧
    storing.desc.kind = .store ∧ writesJob storing.desc = false := by
  refine ⟨ready _ _ _ (by decide +kernel), ready _ _ _ (by decide +kernel), ?_⟩
  simp only [StepClean]
  decide +kernel

/-- A taken NORM_FWD and a taken ATTN command. -/
def norming : Entry := cmd 3 1 normBytes .taken
def attending : Entry := cmd 3 1 attnBytes .taken

theorem witness_ApartCommandsStart : ReadyToStart (queued up [norming]) 3 norming ∧ runsApart norming.desc = true ∧
    ReadyToStart (queued up [attending]) 3 attending ∧ runsApart attending.desc = true ∧ norming.fin = [] ∧
    (∀ rb, rb < norming.desc.shape.rowBlocks →
      rb ∈ blocksAhead (planOf (queued up [norming]) (startedEntry (queued up [norming]) norming)) (startedEntry (queued up [norming]) norming)) ∧
    allPast (planOf (queued up [norming]) (startedEntry (queued up [norming]) norming)) (startedEntry (queued up [norming]) norming) = false :=
  ⟨ready _ _ _ (by decide +kernel), by decide +kernel, ready _ _ _ (by decide +kernel), by decide +kernel, rfl, by decide +kernel,
    by decide +kernel⟩

/-- Queued markers of the landing in progress, of one that has passed and of one to come, and one with a dimension. -/
def marking (landing dim : Nat) : Entry :=
  cmd 3 1 (leBytes 8 (1 + 3 * 2 ^ 48 + 4 * 2 ^ 53 + 15 * 2 ^ 59) ++ leBytes 16 0 ++ leBytes 8 (landing * 2 ^ 24) ++ leBytes 96 dim) .queued

theorem witness_Marker : ∀ m ∈ [marking 2 0, marking 1 0, marking 3 0, marking 2 1],
    mayTake (queued up [m]) = true ∧ issueBarred (queued up [m]) = false ∧ berthNext (queued up [m]) 3 = some m ∧
    findEntry (queued up [m]) 3 m.seq = some m ∧ m.desc.kind = .marker ∧ m.life = .queued ∧ up.man.active.isSome = true ∧
    inCrossing (queued up [m]) = true ∧ berthEntries (queued up [m]) 3 = [m] ∧ writesOpen (queued up [m]) m = false := by
  decide +kernel

theorem witness_Marker_clauses : landingPassed up (marking 1 0) = true ∧ landingPassed up (marking 2 0) = false ∧
    (marking 2 0).desc.landing = up.crs.landing ∧ up.crs.landing ≤ lastDecided up ∧ landingPassed up (marking 3 0) = false ∧
    (marking 3 0).desc.landing ≠ up.crs.landing ∧
    (∀ m ∈ [marking 2 0, marking 3 0], lowest (fixedReasons { m with life := .taken, taken := true, vlen := vlenOf up 3 } m.desc (vlenOf up 3)) = none) ∧
    (lowest (fixedReasons { marking 2 1 with life := .taken, taken := true, vlen := vlenOf up 3 } (marking 2 1).desc (vlenOf up 3))).isSome = true ∧
    berthHead (queued up [loading, { marking 2 1 with seq := 2 }]) 3 = some loading ∧ loading.seq ≠ 2 ∧ loading.res.refused = none := by
  decide +kernel

/-- A started CHAIN of 33 tiles of FP8 in job memory, with the first tiles' sectors in the operand buffers or without. -/
def running (held : List Nat) : Entry :=
  { cmd 3 1 (native 1 3 1 0 0 2 2112 1 0 0xFF [slot 0 3 1 1 0 0, 0, 0, 0, slot 0x10000 3 0 0 2112 0, 0]) .taken with
      started := true, held := held }

/-- One of a single tile. -/
def single : Entry :=
  { cmd 3 1 (native 1 3 1 0 0xB000 2 64 1 0 0xFF [slot 0 3 1 1 0 0, 0, 0, 0, slot 0x10000 3 0 0 2112 0, 0]) .taken with
      started := true, held := [0] }

/-- A started MATMUL of two k-slabs of FP8 in job memory, between them. -/
def slabs : Entry :=
  { cmd 3 1 (native 1 3 3 0 (1 + 16) 2 512 1 1 0xFF [slot 0 3 1 1 512 0, slot 0x1000 3 1 1 512 0, 0, 0, slot 0x10000 0 0 0 64 0, 0]) .taken with
      started := true, pos := 1 }

/-- A taken LOAD of berth 4 whose bytes no other command touches. -/
def other : Entry := cmd 4 1 (native 1 4 3 0 2 2 2048 16 0 0xFF [slot 0x100000 0 0 1 2048 0, 0, 0, 0, 0, 0]) .taken

/-- A command whose first read has faulted, and one of whose writes has. -/
def faulted (write : Bool) : Entry := { running [] with faults := [⟨write, 0, 64, 0, 0, false⟩] }

/-- A started CHAIN whose AFFINE stage reads a row vector of job memory. -/
def vectored : Entry :=
  { cmd 3 1 (native 1 3 1 0 0xB0002300 2 64 1 0 0xFF [slot 0 0 0 1 64 0, slot 0x1000 0 1 1 64 0, 0, 0, slot 0x10000 0 0 0 64 0, 0]) .taken with
      started := true }

/-- `vectored`, whose last sectors the region's cache holds, after its deadline. -/
def overdue : Entry := { vectored with deadline := some 50 }
def overdueState : State :=
  { issuing up 3 [overdue] with rtv := { up.rtv with cache := [⟨0, 8, (List.range 4).map (fun i => (i, ⟨List.replicate 64 1, false⟩))⟩] } }

/-- What the clauses of the statement suppose of the issuing command: it stands as its state's hits leave it. -/
def atBoundary (s : State) (e : Entry) : Bool :=
  !(mainStopped s) && !(islandFailing s) && (issuingEntry s == some e) && (findEntry s e.berth e.seq == some e) && !e.suspended &&
    (takeHits s e == e)

theorem witness_TileBoundary_stops : atBoundary (issuing up 3 [{ running [] with stop := true }]) { running [] with stop := true } = true ∧
    (running []).pos % stepsPerTile (running []) = 0 ∧ (running []).stop = false ∧ runsApart (running []).desc = false ∧
    atBoundary (issuing up 3 [faulted true]) (faulted true) = true ∧ writeFaulted (faulted true) = true ∧
    atBoundary (issuing up 3 [faulted false]) (faulted false) = true ∧
    (nextGranules (issuing up 3 [faulted false]) (faulted false)).any (granuleFaulted (faulted false)) = true := by decide +kernel

theorem witness_TileBoundary_waits : atBoundary (issuing up 3 [running []]) (running []) = true ∧ writeFaulted (running []) = false ∧
    (nextGranules (issuing up 3 [running []]) (running [])).any (granuleFaulted (running [])) = false ∧
    (nextGranules (issuing up 3 [running []]) (running [])).all (granuleDone (running [])) = false ∧
    (∀ b ∈ othersAfter 3, couldIssue (issuing up 3 [running []]) b = false) ∧
    atBoundary (issuing up 3 [running [], other]) (running []) = true ∧
    (othersAfter 3).find? (couldIssue (issuing up 3 [running [], other])) = some 4 ∧
    atBoundary (issuing up 3 [slabs]) slabs = true ∧ slabs.pos % stepsPerTile slabs ≠ 0 ∧
    (nextGranules (issuing up 3 [slabs]) slabs).all (granuleDone slabs) = false ∧
    (nextGranules (issuing up 3 [slabs]) slabs).any (granuleFaulted slabs) = false := by decide +kernel

theorem witness_TileBoundary_runs : atBoundary (issuing up 3 [running (List.range 32)]) (running (List.range 32)) = true ∧
    (nextGranules (issuing up 3 [running (List.range 32)]) (running (List.range 32))).all (granuleDone (running (List.range 32))) = true ∧
    areasFull (issuing up 3 [running (List.range 32)]) (running (List.range 32)) = false ∧
    errorOf (issuing up 3 [running (List.range 32)]) (running (List.range 32)) env = none ∧ overCap env (running (List.range 32)) = false ∧
    (planOf (issuing up 3 [running (List.range 32)]) (running (List.range 32))).any (fun x => decide (0 + 1 < x.2.length)) = true ∧
    errorOf (issuing up 3 [running (List.range 32)]) (running (List.range 32)) envParity = some (.parity, 2) ∧
    errorOf (issuing up 3 [running (List.range 32)]) (running (List.range 32)) envLong = none ∧
    overCap envLong (running (List.range 32)) = true := by decide +kernel

/-- `single` with its output in job memory. -/
def filling : Entry :=
  { cmd 3 1 (native 1 3 1 0 0 2 64 1 0 0xFF [slot 0 3 1 1 0 0, 0, 0, 0, slot 0x10000 3 1 0 2112 0, 0]) .taken with
      started := true, held := [0] }

theorem witness_TileBoundary_ends : atBoundary (issuing up 3 [single]) single = true ∧ single.coll = none ∧
    (nextGranules (issuing up 3 [single]) single).all (granuleDone single) = true ∧ areasFull (issuing up 3 [single]) single = false ∧
    errorOf (issuing up 3 [single]) single env = none ∧ overCap env single = false ∧
    (planOf (issuing up 3 [single]) single).any (fun x => decide (0 + 1 < x.2.length)) = false ∧
    atBoundary (issuing up 3 [filling, storedUp]) filling = true ∧
    (nextGranules (issuing up 3 [filling, storedUp]) filling).all (granuleDone filling) = true ∧
    areasFull (issuing up 3 [filling, storedUp]) filling = true ∧ issuingEntry up = none ∧ mainStopped State.reset = true ∧
    issuingEntry (issuing up 3 [{ running [] with suspended := true }]) = some { running [] with suspended := true } := by decide +kernel

/-- A started NORM_FWD, its tiles in the scratchpad or in job memory. -/
def norming1 (job : Nat) : Entry :=
  { cmd 3 1 (native 1 3 2 0 1 2 64 1 0 0xFF [slot 0 0 job 1 64 0, 0, 0, 0, slot 0x1000 0 0 0 64 0, 0]) .taken with started := true }

theorem witness_TileBoundary_apart : runsApart (norming1 0).desc = true ∧ atBoundary (issuing up 3 [norming1 0]) (norming1 0) = true ∧
    writeFaulted (norming1 0) = false ∧ (nextGranules (issuing up 3 [norming1 0]) (norming1 0)).any (granuleFaulted (norming1 0)) = false ∧
    (planOf (issuing up 3 [norming1 0]) (norming1 0)).filter (stepReady (issuing up 3 [norming1 0]) (norming1 0)) ≠ [] ∧
    areaFull (issuing up 3 [norming1 0]) (norming1 0) 0 = false ∧ errorOf (issuing up 3 [norming1 0]) (norming1 0) env = none ∧
    overCap env (norming1 0) = false ∧ atBoundary (issuing up 3 [norming1 1]) (norming1 1) = true ∧
    (planOf (issuing up 3 [norming1 1]) (norming1 1)).filter (stepReady (issuing up 3 [norming1 1]) (norming1 1)) = [] ∧
    writeFaulted { norming1 0 with faults := [⟨true, 0, 64, 0, 0, false⟩] } = true := by decide +kernel

theorem witness_TileBoundary_values : Checked single ∧ QuietEnv env ∧ OnTime (issuing up 3 [single]) single ∧
    Checked (norming1 0) ∧ OnTime (issuing up 3 [norming1 0]) (norming1 0) ∧
    (nextWorks (planOf (issuing up 3 [single]) single) single).length = 1 ∧
    ((planOf (issuing up 3 [norming1 0]) (norming1 0)).filter (fun x => stepReady (issuing up 3 [norming1 0]) (norming1 0) x &&
      !(areaFull (issuing up 3 [norming1 0]) (norming1 0) x.1))).map (fun x => (x.2[nextOf (norming1 0) x.1]?).isSome) = [true] :=
  ⟨checked _ (by decide +kernel), quiet_env, onTime _ _ (by decide +kernel), checked _ (by decide +kernel), onTime _ _ (by decide +kernel),
    by decide +kernel, by decide +kernel⟩

theorem witness_TileBoundary_late : mainStopped overdueState = false ∧ islandFailing overdueState = false ∧ issuingEntry overdueState = some overdue ∧
    findEntry overdueState 3 1 = some overdue ∧ granuleCame overdueState overdue (takeHits overdueState overdue) = true ∧
    deadlineNow overdueState overdue = some 50 ∧ 50 < overdueState.crs.tide ∧ overdue.res.late = false ∧
    issueHeld (issuing up 3 [{ norming1 0 with suspended := true }]) = true ∧ issueHeld overdueState = false ∧
    othersIssue (issuing up 3 [running [], { running [] with seq := 2 }]) 3 1 = true ∧ othersIssue (issuing up 3 [running []]) 3 1 = false := by
  decide +kernel

/-- A command with two comparisons open; a fused row command with a row ready, in the finisher, or delivered; an ATTN
command at its last row. -/
def signing : Entry := { loading with sigs := [⟨0, 0, 2, 5⟩, ⟨1, 0, 3, 6⟩], life := .ran }
def rowAt (g : FinStage) : Entry := { norming with started := true, fin := [(0, g)] }
def attnAt (n : Nat) : Entry :=
  { attending with started := true, fin := (List.range 15).map (fun r => (r, .done)) ++ [(15, .inFin)], emitted := List.range 15
                   front := (List.range 32).map (fun c => (c, n)) }

theorem witness_SignaturesAndRows : mainStopped (queued up [signing]) = false ∧
    (berthEntries (queued up [signing]) (3#5).toNat).find? (fun x => !x.sigs.isEmpty) = some signing ∧
    findEntry (queued up [signing]) 3 1 = some signing ∧ signing.sigs = ⟨0, 0, 2, 5⟩ :: [⟨1, 0, 3, 6⟩] ∧ 5 % digP = 5 ∧ 6 % digP ≠ 5 ∧
    signing.own = [] ∧ (berthEntries (queued up [loading]) (3#5).toNat).find? (fun x => !x.sigs.isEmpty) = none ∧
    finEntry (queued up [rowAt .ready]) .ready = some (rowAt .ready, 0) ∧ findEntry (queued up [rowAt .ready]) 3 1 = some (rowAt .ready) ∧
    finEntry (queued up [rowAt .inFin]) .inFin = some (rowAt .inFin, 0) ∧ findEntry (queued up [rowAt .inFin]) 3 1 = some (rowAt .inFin) ∧
    errorOf (queued up [rowAt .inFin]) (rowAt .inFin) env = none ∧ overCap env (rowAt .inFin) = false ∧ (rowAt .inFin).coll = none ∧
    errorOf (queued up [rowAt .inFin]) (rowAt .inFin) envParity = some (.parity, 2) ∧ finEntry up .ready = none ∧ finEntry up .inFin = none ∧
    issuingEntry (issuing up 3 [rowAt .done]) = some (rowAt .done) ∧ (rowAt .done).desc.kind ≠ .attn ∧
    blockDone (rowAt .done) 0 = true ∧ 0 ∉ (rowAt .done).stats ∧ blockDone (rowAt .inFin) 0 = false := by decide +kernel

theorem witness_Rows_values : Checked (attnAt 9) ∧ Checked (rowAt .inFin) ∧ QuietEnv env :=
  ⟨checked _ (by decide +kernel), checked _ (by decide +kernel), quiet_env⟩

theorem witness_Rows_clauses : 15 ∉ (attnAt 9).emitted ∧ (∀ f ∈ (attnAt 9).fin, f.2 = .done → f.1 ∈ (attnAt 9).emitted) ∧
    voided (rowAt .inFin) 0 = false ∧ allPast (planOf (queued up [rowAt .inFin]) (rowAt .inFin)) (rowAt .inFin) = false ∧
    ofNext (queued up [signing]) signing = false := by decide +kernel

theorem witness_AttnRows : mainStopped (queued up [attnAt 9]) = false ∧
    finEntry (queued up [attnAt 9]) .inFin = some (attnAt 9, 15) ∧ findEntry (queued up [attnAt 9]) 3 1 = some (attnAt 9) ∧
    (attnAt 9).desc.kind = .attn ∧ (attnAt 9).coll = none ∧ allPast (planOf (queued up [attnAt 9]) (attnAt 9)) (attnAt 9) = true ∧
    (∀ f ∈ (attnAt 9).fin, f.1 ≠ 15 → f.2 = .done) ∧
    (attnAt 9).fin.length = (attnAt 9).desc.shape.n1 * (attnAt 9).desc.shape.n2 * (attnAt 9).desc.shape.n3 ∧
    (∀ rb, rb < (attnAt 9).desc.shape.rowBlocks → ∃ f ∈ (attnAt 9).fin, f.1 / 16 = rb) ∧
    errorOf (queued up [attnAt 9]) (attnAt 9) env = none ∧ overCap env (attnAt 9) = false := by decide +kernel

/-! The Retriever. -/

/-- A state in which a command issues, with requests out. -/
def fetched (e : Entry) (out : List Req) : State := { issuing up 3 [e] with rtv := { up.rtv with out := out } }
def fetching (out : List Req) : State := fetched (running []) out

/-- A read of one sector for the running command, and a write. -/
def readReq : Req := { (default : Req) with tag := 9, owner := .entry 3 1, addr := 0, len := 64 }
def writeReq : Req := { (default : Req) with tag := 9, write := true, owner := .entry 3 1, addr := 0, len := 64 }

/-- `fetching` with a read passed over, and with channel 0 full. -/
def passing (n : Nat) : State := { fetching [] with rtv := { up.rtv with passed := [(0, n)] } }
def crowded : State := fetching (List.replicate 32 { readReq with owner := .post, addr := 0x100000 })

theorem witness_Requests : rtvRuns (fetching []) = true ∧ (fetching []).rtv.passed = [] ∧
    ((candidates (fetching [])).filter (fun c => tagFree (fetching []) c.write)).head?.isSome = true ∧ channelOut (fetching []) 0 < 32 ∧
    rtvRuns crowded = true ∧ crowded.rtv.passed = [] ∧
    ((candidates crowded).filter (fun c => tagFree crowded c.write)).head?.map (·.write) = some false ∧ 32 ≤ channelOut crowded 0 ∧
    rtvRuns (passing 1) = true ∧
    (((candidates (passing 1)).filter (fun c => tagFree (passing 1) c.write)).findSome? (fun c =>
      (passedChannel (passing 1) c).bind (fun x => if capped (passing 1) x then none else some (c, x)))).isSome = true ∧
    (candidates up).filter (fun c => tagFree up c.write) = [] ∧ rtvRuns up = true ∧ rtvRuns State.reset = false := by decide +kernel

/-- A message on its way out with bursts to send. -/
def leaving : State := { up with tow := { up.tow with tx := [⟨4, 3, 0, 0, none, default, false⟩] } }

theorem witness_Requests_remote : rtvRuns leaving = true ∧ leaving.tow.tx = ⟨4, 3, 0, 0, none, default, false⟩ :: [] ∧
    0 < (⟨4, 3, 0, 0, none, default, false⟩ : TxMsg).left ∧ remoteOut leaving < 512 ∧ tagsOut (fetching [readReq]) false ≤ 2048 ∧
    tagsOut (fetching [writeReq]) true ≤ 768 ∧ channelOut (fetching [readReq]) 0 ≤ 32 := by decide +kernel

/-- The fill that the region's cache of `vectored` waits for. -/
def fillReq (who : Option (Nat × Nat)) : Req := { (default : Req) with tag := 9, owner := .fill 0 who, addr := 0x1000, len := 256 }

/-- What the clauses of RESPONSES suppose of the one command that a response reaches. -/
def alone (s : State) (q : Req) (e : Entry) : Bool := reached s q == [e] && findEntry s e.berth e.seq == some e

theorem witness_Responses : mainStopped (fetching [readReq]) = false ∧ reqOf (fetching [readReq]) 9 = some readReq ∧ readReq.write = false ∧
    readReq.addr + readReq.len ≤ 2 ^ 64 ∧ readReq.owner = .entry 3 1 ∧ alone (fetching [readReq]) readReq (running []) = true ∧
    0 ∈ (frontNeeds (fetching [readReq]) (running [])).map (·.1) ∧ 40 ∉ (frontNeeds (fetching [readReq]) (running [])).map (·.1) ∧
    reqOf (fetched vectored [fillReq (some (3, 1))]) 9 = some (fillReq (some (3, 1))) ∧ 0x1000 / 64 % 8 + 256 / 64 ≤ 8 ∧
    alone (fetched vectored [fillReq (some (3, 1))]) (fillReq (some (3, 1))) vectored = true ∧
    cacheKey 0 (0x1000 / 64 + 3) ∈ (frontNeeds (fetched vectored [fillReq (some (3, 1))]) vectored).map (·.1) ∧
    reqOf (fetching [{ readReq with owner := .post }]) 9 = some { readReq with owner := .post } ∧
    reqOf (fetching [writeReq]) 9 = some writeReq ∧ writeReq.write = true ∧ reqOf (fetching [readReq]) 8 = none ∧
    mainStopped State.reset = true ∧ (fetching [readReq]).pwr.draining = none ∧ (fillReq none).pass = 0 ∧ ({ fillReq none with pass := 1 }).pass ≠ 0 ∧
    reqOf (fetching [{ fillReq none with pass := 1 }]) 9 = some { fillReq none with pass := 1 } ∧
    reqOf (draining [readReq]) 9 = some readReq ∧ mainStopped (draining [readReq]) = false ∧ (draining [readReq]).pwr.draining.isSome = true := by
  decide +kernel

/-- A recorded fault of the running command; and one whose command is no longer there. -/
def faultedState (es : List Entry) : State := { issuing up 3 es with rtv := { up.rtv with fault := some ⟨3, 1, 0, false, false, 0⟩ } }

theorem witness_Faults : mainStopped (fetching [readReq]) = false ∧ reqOf (fetching [readReq]) 9 = some readReq ∧
    readReq.owner = .entry 3 1 ∧ findEntry (fetching [readReq]) 3 1 = some (running []) ∧ (fetching [readReq]).rtv.fault = none ∧
    (faultedState [faulted false]).rtv.fault = some ⟨3, 1, 0, false, false, 0⟩ ∧
    (fillReq (some (3, 1))).owner = .fill 0 (some (3, 1)) ∧ findEntry (fetching [readReq]) 3 2 = none ∧
    (fillReq none).owner = .fill 0 none ∧ certLive { CertUnit.zero with state := 3 } = true ∧ certLive CertUnit.zero = false ∧
    Served .host 3 up ∧ up.rtv.fault = none ∧ Served .host 3 (faultedState [faulted false]) ∧
    findEntry (faultedState [faulted false]) 3 1 = some (faulted false) ∧ Served .host 3 (faultedState []) ∧
    findEntry (faultedState []) 3 1 = none ∧ ofNext (faultedState [faulted false]) (faulted false) = false ∧
    othersIssue (faultedState [faulted false]) 3 1 = false ∧ othersIssue (faultedState [faulted false, { running [] with seq := 2 }]) 3 1 = true := by
  simp only [Served]
  decide +kernel

/-- `up` with a LOAD outstanding. -/
def loadOf (failed : List Nat) : TblLoad := ⟨8, 5, 0, [], failed⟩
def fetchingTable (failed : List Nat) : State := { up with tbl := { up.tbl with busy := true, load := some (loadOf failed) } }

/-- A fault recorded while no crossing is in progress; a fault of a certificate's write. -/
def faultedLate : State := { faultedState [faulted false] with crs := { up.crs with phase := .afterEnd } }
def certReq (n : Nat) : Req := { (default : Req) with tag := 9, write := true, owner := .cert n }
def certFault (n : Nat) : State := { fetching [certReq n] with toll := { up.toll with cert := { CertUnit.zero with state := 3, serial := 4 } } }

theorem witness_Faults_others : Served .host 3 faultedLate ∧ faultedLate.rtv.fault = some ⟨3, 1, 0, false, false, 0⟩ ∧
    findEntry faultedLate 3 1 = some (faulted false) ∧ ofNext faultedLate (faulted false) = true ∧ mainStopped (certFault 4) = false ∧
    reqOf (certFault 4) 9 = some (certReq 4) ∧ (certFault 4).toll.cert.state = 3 ∧ 4 = (certFault 4).toll.cert.serial ∧
    reqOf (certFault 5) 9 = some (certReq 5) ∧ 5 ≠ (certFault 5).toll.cert.serial ∧ up.toll.cert.state ≠ 3 ∧
    reqOf (fetching [fillReq none]) 9 = some (fillReq none) ∧ (fetchingTable []).tbl.load = some (loadOf []) := by
  simp only [Served]
  decide +kernel

theorem witness_LatchedWrites : Served .host 3 up ∧ Served .host 4 up ∧ Served .host 2 up ∧ 1 ≤ 1 % 16 ∧ 8 % 16 ≤ 8 ∧ 16 % 16 = 0 ∧
    8 < 9 % 16 ∧ bitsOf (2048 + 768 * 2 ^ 16) 15 0 = 2048 ∧ bitsOf (2304 + 512 * 2 ^ 16) 31 16 = 512 ∧ 2304 + 512 = 2816 ∧ 2047 < 2048 ∧
    16 % 32 ≤ 16 ∧ 16 < 17 % 32 ∧ bitsOf (128 * 2 ^ 32) 39 32 ≤ 128 ∧ 128 < bitsOf (129 * 2 ^ 32) 39 32 := by
  simp only [Served]
  decide

theorem witness_RefusedWrites : neededBit (.abortBerth .host 3) = some (.host, 0) ∧ mainStopped shut = false ∧
    wellPlaced (.abortBerth .host 3) = true ∧ permitted .host 0 shut = false ∧ mainStopped State.reset = true ∧
    neededBit (.shadowWindowWrite .host 0x101F [0]) = some (.host, 7) ∧ wellPlaced (.shadowWindowWrite .host 0x101F [0]) = true ∧
    wellPlaced (.shadowWindowWrite .host 0x1020 [0]) = false ∧ wellPlaced (.shadowWindowWrite .host 63 [0, 0]) = false ∧
    neededBit (.stagingApertureWrite .host 0xFFFFF [0]) = some (.host, 1) ∧ wellPlaced (.stagingApertureWrite .host 0xFFFFF [0]) = true ∧
    wellPlaced (.stagingApertureWrite .host 0xFFFFF [0, 0]) = false := by decide

/-! Landings and crossings. -/

/-- A decided landing 3, full or not, with what it latches, and the state it waits in. -/
def decided (full applies : Bool) (ll : PendingLL) : Decided := ⟨3, full, 1, none, applies, ll⟩
def reaching (d : Decided) (es : List Entry) : State :=
  { queued up es with crs := { up.crs with decided := [d] } }

/-- `reaching` with the kennel of region 0 READY and a rotation of it latched for the landing (KEN_REQ: region 0, position 0, valid). -/
def rotating : State :=
  { reaching (decided true false [(3, 64)]) [] with
      ken := { KenUnit.cold with clusters := KenUnit.cold.clusters.set 4 ⟨.ready, 0, false⟩ } }

/-- A taken marker of landing 3. -/
def marker3 : Entry := { marking 3 0 with life := .taken }

theorem witness_LandingReached : mainStopped (reaching (decided false false []) []) = false ∧
    (reaching (decided false false []) []).crs.decided = decided false false [] :: [] ∧ up.crs.phase = .inSegment ∧ up.crs.run = none ∧
    (reaching (decided true false []) [loading]).cq.entries.any (holdsBack (reaching (decided true false []) [loading]) (decided true false [])) = true ∧
    (reaching (decided true false []) []).cq.entries.any (holdsBack (reaching (decided true false []) []) (decided true false [])) = false ∧
    copiesReady (reaching (decided true false []) []) (decided true false []) = true ∧
    copiesReady (reaching (decided true true []) []) (decided true true []) = true ∧ (decided true false []).landing ≠ 0 ∧
    copiesReady (reaching (decided false false []) [marker3]) (decided false false []) = true ∧
    (reaching (decided false false []) [marker3]).cq.entries.any (holdsBack (reaching (decided false false []) [marker3]) (decided false false [])) = false ∧
    marker3.desc.kind = .marker ∧ marker3.life = .taken ∧ marker3.desc.landing = 3 := by decide +kernel

theorem witness_LandingReached_copies : rotating.crs.decided = decided true false [(3, 64)] :: [] ∧
    rotating.cq.entries.any (holdsBack rotating (decided true false [(3, 64)])) = false ∧
    copiesReady rotating (decided true false [(3, 64)]) = false ∧ plannedRotations rotating 3 (some 64) ≠ [] := by decide +kernel

/-- A landing at its gate, and the engine between two crossings with a held command and an announcement. -/
def gated (r : LandingRun) : State := { up with crs := { up.crs with phase := .fullLanding, run := some r } }
def closing (l : Nat) : LandingRun := ⟨l, .closing, [], false, none, none, none, []⟩
def opening (first : Bool) : State :=
  { queued up [loading] with crs := { up.crs with
      phase := .waitBeacon, firstOpen := first, ann := (6, 0), annSeen := true, ann0 := some (6, 50), ann0New := true } }

theorem witness_GatesAndCrossings : mainStopped (gated (closing 3)) = false ∧ (gated (closing 3)).crs.run = some (closing 3) ∧
    (closing 3).stage = .closing ∧ (closing 3).tests = [] ∧ (∀ c ∈ up.sp.copies, c.row = none ∧ (3 : Nat) ≠ 0xFFFF) ∧
    ({ closing 3 with tests := [4] }).tests ≠ [] ∧ ({ closing 3 with stage := .phase1 } : LandingRun).stage ≠ .closing ∧
    (∃ c ∈ ({ up.sp with copies := [⟨0, 0, some 3, 0⟩] }).copies, c.row ≠ none ∨ (closing 3).landing = 0xFFFF) ∧ up.crs.run = none ∧
    mainStopped (opening true) = false ∧ (opening true).crs.phase = .waitBeacon ∧ (opening true).crs.run = none ∧
    (opening true).crs.uncommitted = [] ∧ (∃ e ∈ (opening true).cq.entries, e.life = .taken) ∧ (opening true).crs.firstOpen = true ∧
    (opening true).crs.ann0New = true ∧ (opening true).crs.ann0 = some (6, 50) ∧ (opening false).crs.firstOpen = false ∧
    (opening false).crs.annSeen = true ∧ 6 = (opening false).crs.crossing + 1 ∧ 6 ≤ (opening false).crs.ann.1 ∧
    (opening true).tow.heldRestore = [] ∧ (∀ m ∈ (opening true).man.active, m.times = []) ∧
    llValue (opening true).crs.pendingLL llKenReq = none ∧ up.crs.phase ≠ .waitBeacon ∧ heldEntries up = [] ∧ nextCrossing up = none := by decide

/-- Landing 2 waits to be committed, protected or not, with its comparison matched or not. -/
def uncommitted (prot : Nat) (closes : Option Nat) : Uncommitted := ⟨5, 2, 40, [], closes, prot⟩
def committing (us : List Uncommitted) : State :=
  { up with crs := { up.crs with uncommitted := us }, cq := { up.cq with hist := [(3, 1, 5, 1)] }
            tow := { up.tow with ownRecs := [(5, 0xFFFF, true)], partnerRecs := [(5, 0xFFFF, true)] } }

theorem witness_LandingsCommit : mainStopped (committing [uncommitted 1 none]) = false ∧
    mayCommit (committing [uncommitted 1 (some 1)]) (uncommitted 1 (some 1)) = false ∧
    mayCommit (committing [uncommitted 1 none]) (uncommitted 1 none) = true ∧ (uncommitted 1 none).prot ≠ 0 ∧
    mayCommit (committing [uncommitted 0 none, ⟨5, 0xFFFF, 40, [], none, 0⟩]) (uncommitted 0 none) = true ∧ (uncommitted 0 none).prot = 0 ∧
    (3, 1, 5, 1) ∈ (committing [uncommitted 1 none]).cq.hist ∧ (1 : Nat) < (uncommitted 1 none).landing ∧
    ({ up.crs with phase := .afterEnd }).phase = .afterEnd ∧ up.crs.phase ≠ .afterEnd ∧ up.crs.uncommitted = [] := by decide +kernel

/-! Kennel, repair, manifests, tables. -/

/-- `up` with cluster 4, the kennel of region 0, in test; with an in-line test of cluster 0 open; with copies under way. -/
def testing : State :=
  { gated { closing 3 with tests := [0] } with ken := { KenUnit.cold with clusters := KenUnit.cold.clusters.set 4 ⟨.testing, 0, false⟩ } }
def copying (cs : List Copy) : State := { up with sp := { up.sp with copies := cs } }

theorem witness_ClustersAreTested : testing.crs.run = some { closing 3 with tests := [0] } ∧
    ({ closing 3 with tests := [0] } : LandingRun).stage = .closing ∧ (0 : Nat) ∈ ({ closing 3 with tests := [0] }).tests ∧
    testing.ken.clusters[0]? = some ⟨.inService, 0, false⟩ ∧ mainStopped testing = false ∧
    testing.ken.clusters[4]? = some ⟨.testing, 0, false⟩ ∧ (clusterOf testing 39).st ≠ .testing ∧ (clusterOf testing 40).st ≠ .testing ∧
    up.crs.run = none ∧ (1 : Nat) ∉ ({ closing 3 with tests := [0] }).tests := by decide

theorem witness_Copies : mainStopped (copying [⟨7, 63, some 255, 15⟩]) = false ∧
    (copying [⟨7, 63, some 255, 15⟩]).sp.copies.find? (fun c => c.region == 7 && c.bank == 63 && c.row == some 255) =
      some ⟨7, 63, some 255, 15⟩ ∧
    (copying [⟨7, 63, none, 1⟩]).sp.copies.find? (fun c => c.region == 7 && c.bank == 63 && c.row.isNone) = some ⟨7, 63, none, 1⟩ ∧
    mainStopped (copying [⟨7, 63, none, 1⟩]) = false ∧ (∀ r ∈ (copying [⟨7, 63, none, 1⟩]).crs.run, r.landing ≠ 0xFFFF) ∧
    (rowOf 0 = rowKey 0 0 0 ∧ spRegion 0 = 0 ∧ spBank 0 = 0) ∧ inBank 0 0 0 = true ∧ inBank 7 63 0 = false ∧
    up.sp.copies.find? (fun c => c.region == 7 && c.bank == 63 && c.row == some 255) = none ∧
    up.sp.copies.find? (fun c => c.region == 7 && c.bank == 63 && c.row.isNone) = none := by decide +kernel

/-- `up` with its manifest unit changed. -/
def manned (f : ManUnit → ManUnit) : State := { up with man := f up.man }

theorem witness_Staging : Served .host 1 up ∧ up.man.apply ≠ .applying ∧ up.man.stage ≠ .verifying ∧
    (manned (fun m => { m with apply := .applying })).man.apply = .applying ∧
    (manned (fun m => { m with stage := .opened })).man.stage = .opened ∧ up.man.stage ≠ .opened ∧
    oneBlock 0x100000 (2 ^ 20 - 1) 1 = true ∧ oneBlock 0x100000 0 64 = true ∧ oneBlock 0x100000 (2 ^ 20 - 1) 2 = false ∧
    oneBlock 0x100000 63 2 = false ∧ oneBlock 0x100000 0 0 = false := by
  simp only [Served]
  decide

/-- No manifest active, and a verified one staged. -/
def staged (kept : Option Nat) : State :=
  { up with man := { up.man with active := none, stage := .verified, stagedConf := some man }
            keep := { up.keep with keptTag := kept } }

theorem witness_Applications : Served .host 1 up ∧ up.man.apply ≠ .applying ∧ landingPast up 5 3 = false ∧ landingPast up 5 2 = true ∧
    (manned (fun m => { m with apply := .applying })).man.apply = .applying ∧
    (manned (fun m => { m with apply := .armed })).man.apply = .armed ∧ up.man.apply ≠ .armed ∧ Served .host 1 bare ∧
    bare.man.active = none ∧ up.man.active ≠ none ∧ bare.man.stage ≠ .verified ∧ Served .host 1 (staged (some 8)) ∧
    (staged (some 8)).man.stage = .verified ∧ (staged (some 8)).keep.keptTag ≠ none ∧
    (staged (some 8)).keep.keptTag ≠ some (stagedTag (staged (some 8))) ∧
    (staged (some 7)).keep.keptTag = some (stagedTag (staged (some 7))) ∧ (staged none).keep.keptTag = none ∧
    (staged none).crs.run = none ∧ ({ staged none with crs := (gated (closing 3)).crs }).crs.run ≠ none := by
  simp only [Served]
  decide

/-- An application in its second phase. -/
def applying : State :=
  { gated { closing 3 with stage := .phase2 } with man := { up.man with apply := .applying, stage := .verified, stagedConf := some man } }

/-- A verification that ends after the Tollhouse has failed a self-test: the generator's reseeding leaves it in the error state. -/
def failing : State := { manned (fun m => { m with stage := .verifying }) with toll := { up.toll with errorState := true } }

theorem failing_refused : verifyStaged (reseedDrbg failing) = .error 0x12 := by
  have h : (reseedDrbg failing).toll.errorState = true := by
    unfold reseedDrbg seedDrbg
    dsimp only
    split
    · rfl
    · rfl
  simp [verifyStaged, earlyReason, h]

/-! A staged manifest that passes every check (R64 to R72, R77): one region map for 44 engines in a ring, without a group, a record or a landing of
its own. Its lengths are those of Table 3-1. Its signature is by the signing key 1 with the nonce 1, for which r is the x-coordinate of the base
point and s the digest plus r, modulo the order (FIPS 186-5). -/

/-- A section (Table 3-2): its tag, version 1, no flag, its length, its body. -/
def sectionBytes (tag : String) (body : List Byte) : List Byte :=
  asciiBytes tag ++ leBytes 2 1 ++ leBytes 2 0 ++ leBytes 4 body.length ++ leBytes 20 0 ++ body

/-- HEAD: version 1, 8 regions, 4,208 bytes, job 5, signed with slot 0, nothing encrypted, every permission. -/
def headBody : List Byte :=
  leBytes 4 0x00080001 ++ leBytes 4 4208 ++ leBytes 8 5 ++ leBytes 4 0xFF00 ++ leBytes 4 0x1FF ++ leBytes 4 0x1FF ++ leBytes 36 0

/-- TOPO: both G 4, ROW_SPAN 1, and every map the identity. -/
def topoBody : List Byte :=
  leBytes 16 (4 + 4 * 2 ^ 8 + 2 ^ 16 + 44 * 2 ^ 24 + 8 * 2 ^ 32) ++ (List.replicate 352 (leBytes 8 0x0403020100)).flatten

/-- RETV: lookahead 2, 2,048 READ tags, 768 WRITE tags. -/
def retvBody : List Byte := leBytes 16 (2 + 2048 * 2 ^ 16 + 768 * 2 ^ 32 + 512 * 2 ^ 48)

/-- TOWL: engine q at ring position q, its partner the other of its pair. -/
def towlBody : List Byte :=
  leBytes 16 44 ++ ((List.range 44).map (fun q => leBytes 16 (q + (q + 43) % 44 * 2 ^ 8 + (q + 1) % 44 * 2 ^ 16 + (q ^^^ 1) * 2 ^ 24))).flatten

def signedPart : List Byte :=
  sectionBytes "HEAD" headBody ++ sectionBytes "TOPO" topoBody ++ sectionBytes "FMTS" (leBytes 16 0) ++ sectionBytes "SHAP" (leBytes 16 0) ++
    sectionBytes "RCPE" (leBytes 16 0) ++ sectionBytes "TIME" (leBytes 16 0) ++ sectionBytes "RETV" retvBody ++ sectionBytes "TOWL" towlBody ++
    sectionBytes "DETM" (leBytes 16 0) ++ sectionBytes "DGST" (leBytes 48 0)

def signBody : List Byte :=
  beBytes 48 p384Gx ++
    beBytes 48 279166699553819740547080425987295621947191881791813390991885725225434867025934895157526968754674442468177757721185

def manifestBytes : List Byte := signedPart ++ sectionBytes "SIGN" signBody

/-- The state in which its verification runs, with the public key in slot 0. -/
def staging : State :=
  { State.reset with man := { ManUnit.cold with stage := .verifying, staged := sblit 0 [] 0 manifestBytes }
                     pwr := { PwrUnit.cold with mainDown := false }
                     toll := { State.reset.toll with slots := [(0, ⟨beBytes 48 p384Gx ++ beBytes 48 p384Gy, 0⟩)] } }

/-! Reading back what was staged. -/

theorem sdenseFrom_skip (n k : Nat) (m : List (Nat × Byte)) (h : ∀ p ∈ m, k < p.1) :
    sdenseFrom 0 (n + 1) k m = 0 :: sdenseFrom 0 n (k + 1) m := by
  cases m with
  | nil => rfl
  | cons p m => simp [sdenseFrom, Nat.ne_of_gt (h p (List.mem_cons_self ..))]

theorem sdenseFrom_sblit (bs : List Byte) : ∀ k,
    sdenseFrom 0 bs.length k (((bs.zipIdx k).map (fun x => (x.2, x.1))).filter (fun p => decide (p.2 ≠ 0))) = bs := by
  induction bs with
  | nil => exact fun _ => rfl
  | cons b bs ih =>
    intro k
    rw [List.zipIdx_cons, List.map_cons, List.filter_cons, List.length_cons]
    split
    · rw [sdenseFrom, if_pos rfl, ih (k + 1)]
    · rename_i hb
      rw [sdenseFrom_skip, ih (k + 1)]
      · rw [show b = 0 from by simpa using hb]
      · intro p hp
        obtain ⟨x, hx, rfl⟩ := List.mem_map.mp (List.mem_filter.mp hp).1
        exact (List.mem_zipIdx hx).1

theorem sdense_sblit (bs : List Byte) : sdense 0 (sblit 0 [] 0 bs) 0 bs.length = bs := by
  rw [sdense, sblit, List.filter_nil, List.filter_nil, List.nil_append, List.append_nil,
    show (fun p : Nat × Byte => decide (p.1 < 0)) = fun _ => false from by funext p; simp]
  rw [List.dropWhile_eq_self_iff.mpr (by simp)]
  exact sdenseFrom_sblit bs 0
/-- The sections as the checks see them. -/
def sectionOf (tag : String) (start : Nat) (body : List Byte) : Section :=
  ⟨asciiBytes tag, 1, 0, false, body.length, leBytes 12 0, (sectionBytes tag body).take 32, body, [], start⟩

def sections : List Section :=
  [sectionOf "HEAD" 0 headBody, sectionOf "TOPO" 96 topoBody, sectionOf "FMTS" 2960 (leBytes 16 0), sectionOf "SHAP" 3008 (leBytes 16 0),
   sectionOf "RCPE" 3056 (leBytes 16 0), sectionOf "TIME" 3104 (leBytes 16 0), sectionOf "RETV" 3152 retvBody, sectionOf "TOWL" 3200 towlBody,
   sectionOf "DETM" 3952 (leBytes 16 0), sectionOf "DGST" 4000 (leBytes 48 0), sectionOf "SIGN" 4080 signBody]

theorem sections_eq : sectionsFrom manifestBytes 11 0 = sections := by decide +kernel

theorem plain_eq : plainBodies [] sections = some (sections.map (·.body)) := by decide +kernel

theorem drop_records (n : Nat) (r : List Byte) : ∀ k, k < n → ∃ q, ((List.replicate n r).flatten).drop (r.length * k) = r ++ q := by
  induction n with
  | zero => intro k h; omega
  | succ n ih =>
    intro k h
    cases k with
    | zero => exact ⟨(List.replicate n r).flatten, by simp [List.replicate_succ]⟩
    | succ k =>
      obtain ⟨q, hq⟩ := ih k (by omega)
      exact ⟨q, by rw [List.replicate_succ, List.flatten_cons, Nat.mul_succ, Nat.add_comm, ← List.drop_drop, List.drop_left, hq]⟩

theorem topo_record (k lo hi : Nat) (hk : k < 352) (h : hi ≤ 8) :
    slice topoBody (16 + 8 * k + lo) (16 + 8 * k + hi) = slice (leBytes 8 0x0403020100) lo hi := by
  obtain ⟨q, hq⟩ := drop_records 352 (leBytes 8 0x0403020100) k hk
  have h1 : topoBody.drop (16 + 8 * k) = leBytes 8 0x0403020100 ++ q := by
    rw [topoBody, ← List.drop_drop,
      show ∀ x y : List Byte, x.length = 16 → (x ++ y).drop 16 = y from fun x y hx => by rw [← hx, List.drop_left]]
    · exact hq
    · rfl
  rw [slice, slice, ← List.drop_drop, h1, show 16 + 8 * k + hi - (16 + 8 * k + lo) = hi - lo from by omega]
  by_cases hl : lo ≤ 8
  · rw [List.drop_append_of_le_length (by simpa [leBytes] using hl), List.take_append_of_le_length]
    simp [leBytes]; omega
  · simp [show hi - lo = 0 from by omega]

theorem topo_map (k : Nat) (hk : k < 352) : mapRecord topoBody (16 + 8 * k) = [0, 1, 2, 3, 4] := by
  rw [mapRecord, show 16 + 8 * k = 16 + 8 * k + 0 from rfl, show 16 + 8 * k + 0 + 5 = 16 + 8 * k + 5 from rfl,
    topo_record k 0 5 hk (by omega)]
  rfl

/-! The checks of Table 3-6. -/

theorem passes1 : check1 4208 sections = true := by decide +kernel

theorem passes7 : check7 sections (sections.map (·.body)) = true := by
  unfold check7
  simp only [Bool.and_eq_true]
  repeat' apply And.intro
  all_goals first
    | (rw [List.all_eq_true]
       intro k hk
       have h : k < 352 := List.mem_range.mp hk
       exact (congrArg allZero (topo_record k 5 8 h (by omega))).trans rfl)
    | decide +kernel

theorem passes8 : check8 topoBody 0 [] = true := by
  unfold check8
  simp only [Bool.and_eq_true]
  repeat' apply And.intro
  all_goals first
    | (rw [List.all_eq_true]
       intro k hk
       have h : k < 352 := List.mem_range.mp hk
       rw [topo_map k h]
       rfl)
    | decide +kernel

theorem passes12 : check12 towlBody 0 = true := by decide +kernel

/-- The digest, worked out by another implementation of SHA-384. -/
theorem digest_eq : beNat (sha384 signedPart) =
    13434137800148609684202963781563927535174007661148046671123175103927575411401148375534095222931249569371738934931741 := by decide +kernel

theorem length_eq : manifestBytes.length = 4208 := by decide +kernel

theorem staged_length : stagedLength staging = 4208 := by decide +kernel

theorem staged_bytes : stagedBytes staging = manifestBytes := by
  rw [stagedBytes, staged_length, ← length_eq]
  exact sdense_sblit manifestBytes

theorem staged_sections : stagedSections staging = sections := by rw [stagedSections, staged_bytes]; exact sections_eq

theorem staged_head : stagedHead staging = headBody := by rw [stagedHead, staged_sections]; rfl

theorem staged_digest : stagedDigest staging = sha384 signedPart := by
  rw [stagedDigest, staged_sections, staged_bytes, manifestBytes,
    show (sections.getD 10 default).start = signedPart.length from by decide +kernel, List.take_left]

theorem staged_early : earlyReason staging = none := by
  have h1 : check1 (stagedLength staging) (stagedSections staging) = true := by rw [staged_length, staged_sections]; exact passes1
  have h4 : check4 staging (signSlot staging) (decryptSlot staging) ((stagedSections staging).any (·.enc)) = true := by
    rw [signSlot, decryptSlot, staged_head, staged_sections]; decide +kernel
  rw [earlyReason, h1, h4, staged_length, staged_head, if_neg (by decide), if_neg (by decide +kernel), if_neg (by decide), if_neg (by decide),
    if_neg (by decide), if_neg (by decide)]

theorem staged_signature : signatureOk staging = true := by
  rw [signatureOk, staged_sections, staged_digest, signSlot, staged_head, ecdsaVerify, digest_eq]
  decide +kernel

theorem staged_verifies : ∃ m, verifyStaged staging = .ok m := by
  have hk : (keyOf staging (decryptSlot staging)).getD [] = [] := by rw [decryptSlot, staged_head]; decide +kernel
  have h8 : check8 ((sections.map (·.body)).getD 1 []) staging.tow.position staging.keep.repair.retired = true := passes8
  have h12 : check12 ((sections.map (·.body)).getD 7 []) staging.tow.position = true := passes12
  rw [verifyStaged, staged_early]
  dsimp only
  rw [staged_signature, staged_sections, hk, plain_eq]
  dsimp only
  rw [passes7, h8, h12, if_neg (by decide), if_neg (by decide), if_neg (by decide +kernel), if_neg (by decide), if_neg (by decide +kernel),
    if_neg (by decide +kernel), if_neg (by decide +kernel), if_neg (by decide), if_neg (by decide +kernel)]
  exact ⟨_, rfl⟩

/-- What the clause of a verified manifest supposes. -/
theorem witness_Manifests_verified : mainStopped staging = false ∧ staging.man.stage = .verifying ∧ staging.toll.busy = .none ∧
    ∃ m, verifyStaged staging = .ok m := ⟨rfl, rfl, rfl, staged_verifies⟩

theorem witness_Manifests : mainStopped failing = false ∧ failing.man.stage = .verifying ∧ failing.toll.busy = .none ∧
    verifyStaged (reseedDrbg failing) = .error 0x12 ∧ up.man.stage ≠ .verifying ∧
    mainStopped (gated { closing 3 with stage := .phase1 }) = false ∧
    (gated { closing 3 with stage := .phase1 }).crs.run = some { closing 3 with stage := .phase1 } ∧
    (∀ x ∈ [8], Config.regions ≤ x) ∧ (∃ x ∈ [7], x < Config.regions) ∧ mainStopped applying = false ∧
    applying.crs.run = some { closing 3 with stage := .phase2 } ∧ applying.man.stagedConf = some man ∧
    applying.tow.heldRestore = [] ∧ up.crs.run = none ∧ (closing 3).stage ≠ .phase1 ∧ (closing 3).stage ≠ .phase2 := by
  refine ⟨rfl, rfl, rfl, failing_refused, ?_⟩
  decide +kernel

/-- `up` with the static copy of cluster 3 under way, which refuses writes. -/
def refusingState : State := { up with ken := { up.ken with copying := [3] } }

theorem witness_Tables : Served .host 7 (fetchingTable []) ∧ (fetchingTable []).tbl.busy = true ∧ Served .host 7 up ∧ up.tbl.busy = false ∧
    installing up = false ∧ refusing up 3 = false ∧ Served .host 7 refusingState ∧ refusing refusingState 3 = true ∧
    3 ∈ maskClusters (pairMask up 8) ∧ 4 ∉ maskClusters (pairMask up 8) ∧
    (∀ c ∈ maskClusters (pairMask up 0), (if refusing up c then 3 else shadowCheck up 5 c) = 0) ∧
    (maskClusters (pairMask up 8)).find? (fun x => (if refusing refusingState x then 3 else shadowCheck refusingState 5 x) != 0) = some 3 ∧
    (∀ c ∈ maskClusters (pairMask up 8), refusing up c = false) ∧
    (maskClusters (pairMask up 8)).find? (fun x => refusing refusingState x) = some 3 ∧ up.man.active ≠ none ∧
    up.cq.takenSinceApply = false ∧ Served .host 7 bare ∧ bare.man.active = none ∧
    ({ up.cq with takenSinceApply := true }).takenSinceApply = true := by
  simp only [Served]
  decide +kernel

theorem witness_TableImages : Served .host 7 up ∧ Served .host 7 applying ∧ applying.tbl.busy = false ∧ installing applying = true ∧
    installing up = false ∧ 31 < Config.clusters ∧ 15 < 16 ∧ 4127 < imageBytes ∧
    oneBlock 0x1000000 (31 * 0x20000 + 15 * 0x2000 + 4127) 1 = true ∧ mainStopped up = false ∧
    (oneBlock 0x1000000 (31 * 0x20000 + 15 * 0x2000 + 4128) 1 && inImage (31 * 0x20000 + 15 * 0x2000 + 4128)) = false ∧
    (oneBlock 0x1000000 63 2 && inImage 63) = false ∧ (oneBlock 0x1000000 63 1 && inImage 63) = true ∧ protection up ≠ 2 ∧
    refusing refusingState 3 = true ∧ refusing up 31 = false ∧
    (sget [] up.tbl.images (imageKey 31 true 15)).length ∈ [0, imageBytes] ∧ up.tbl.busy = false ∧ up.tbl.addr % 512 = 0 ∧
    (∃ c ∈ maskClusters (pairMask up 8), refusing up c = false) ∧ ({ up.tbl with addr := 64 }).addr % 512 ≠ 0 ∧
    (∀ c ∈ maskClusters (pairMask refusingState 8), refusing refusingState c = true) ∧ (maskClusters (pairMask up 8)).head? = some 3 := by
  refine ⟨witness_Served .host 7 (by decide), ⟨rfl, rfl⟩, ?_⟩
  decide +kernel

/-- The bursts of a LOAD: one that its region's cache waits for, all of them failed, and all of them there. -/
def loadReq : Req := { (default : Req) with tag := 9, owner := .fill 0 none, addr := 512, len := 512 }
def loadedOf (poison : Bool) : TblLoad := ⟨8, 5, 0, (List.range 9).map (fun i => (0, i, List.replicate 8 ⟨List.replicate 64 0, poison⟩)), []⟩

theorem witness_TableImages_fetch :
    (let s := { fetchingTable [] with rtv := { up.rtv with out := [loadReq] } }
     mainStopped s = false ∧ reqOf s 9 = some loadReq ∧ s.tbl.load = some (loadOf [])) ∧ loadReq.write = false ∧
    loadReq.owner = .fill 0 none ∧ 0 ∈ maskRegions (loadOf []).mask ∧ 1 < imageBlocks ∧
    loadReq.addr = 512 * ((loadOf []).addr / 512 + 1) ∧ loadReq.len = 512 ∧ (List.replicate 8 (default : Sector)).length = 8 ∧
    mainStopped (fetchingTable [0]) = false ∧ (fetchingTable [0]).tbl.load = some (loadOf [0]) ∧ (loadOf [0]).slot < 16 ∧
    installing (fetchingTable [0]) = false ∧ loadWants (fetchingTable [0]) (loadOf [0]) = [] ∧ loadWants (fetchingTable []) (loadOf []) ≠ [] ∧
    loadReq.pass = 0 ∧ (fetchingTable []).pwr.draining = none ∧
    (loadData (loadOf [0]) 3).fault = true ∧ loadWants (fetchingTable []) (loadedOf false) = [] ∧ (loadData (loadedOf false) 3).fault = false ∧
    (loadData (loadedOf false) 3).poison = false ∧ loadWants (fetchingTable []) (loadedOf true) = [] ∧ (loadData (loadedOf true) 3).poison = true ∧
    up.tbl.load = none := by decide +kernel

/-! The towline and the mirror. -/

/-- An active manifest of two or three engines in one group, of which this engine is the one at the position; and a NORM_FWD command
of the group, taken, its one row block open. -/
def groupMan : Manifest := { man with engines := [⟨0, 1, 1, 1, 1⟩, ⟨1, 0, 2, 0, 1⟩, ⟨2, 1, 0, 2, 1⟩], groups := [⟨0, 1, 3⟩] }
def member (position : Nat) (e : Entry) : State :=
  { queued up [e] with man := { up.man with active := some groupMan }
                       tow := { up.tow with position := position, coll := [(1, 1)] } }
def blank : TowBlock := ⟨0, 1, none, none, none, false, false, 0, false, false⟩
def open1 (t : TowBlock) : Entry := { norming with started := true, coll := some (1, 0), tow := [t] }

/-- `blank` with the member's own record. -/
def owned : TowBlock := { blank with own := some (List.replicate 192 0) }

/-- A forward or a return message for that block, to the engine at a ring position; its tag, crossing and collective number as given. -/
def messageOf (tag crossing coll : Nat) (ret : Bool) (ring : Nat) : TowMsg :=
  { tag := tag, crossing := crossing, landing := 2, kind := 1, group := 1, ret := ret, isVoid := false, reason := 0, senderCp := 0,
    coll := coll, rows := 1, rowBlock := 0, source := ⟨0, 0⟩, dest := ⟨0, ring⟩, payload := List.replicate 192 0, snap := none }
def message (ret : Bool) : TowMsg := messageOf 7 5 0 ret 1

/-- A command with a landing still to come for which an application of the staged tag 8 is armed; and `up` after an application that took the
place of the tag 6. -/
def awaiting : State :=
  manned (fun m => { m with stage := .verified, stagedConf := some { man with tag := 8 }, apply := .armed, applyAt := (5, 3), prior := some (6, 5, 2) })

theorem witness_Messages (b : TowBlock) (hb : b = blank ∨ b = owned) :
    let s := member 1 (open1 b)
    mainStopped s = false ∧ s.pwr.draining = none ∧ (messageOf 7 5 0 false 2).dest ≠ ownPlace s ∧ (message false).dest = ownPlace s ∧
    (message false).kind < 5 ∧ s.man.active ≠ none ∧ (message false).tag = activeTag s ∧ (message false).crossing = s.crs.crossing ∧
    (message false).coll < sget 0 s.tow.coll (message false).group ∧ towEntry s (message false) = some (open1 b) ∧
    findEntry s (open1 b).berth (open1 b).seq = some (open1 b) ∧ endedEarly (open1 b) = false ∧
    towBlockOf (open1 b) (message false) = some b ∧ towAt (open1 b) 0 = some b ∧ b.isVoid = false ∧ b.final = none ∧
    (message false).kind = towKind (open1 b).desc ∧ (message false).rows = b.rows ∧
    (message false).payload.length = (if isChain (open1 b).desc then towRowBytes (open1 b).desc else b.rows * towRowBytes (open1 b).desc) ∧
    (message false).isVoid = false ∧ 0 < (placeOf s (open1 b)).1 ∧ (placeOf s (open1 b)).1 + 1 < (placeOf s (open1 b)).2 := by
  rcases hb with rfl | rfl <;> decide +kernel

theorem witness_Messages_held : blank.own = none ∧ owned.own = some (List.replicate 192 0) ∧
    (placeOf (member 0 (open1 blank)) (open1 blank)).1 = 0 ∧ (placeOf (member 0 (open1 blank)) (open1 blank)).1 + 1 <
      (placeOf (member 0 (open1 blank)) (open1 blank)).2 ∧ (messageOf 7 5 0 true 0).dest = ownPlace (member 0 (open1 blank)) ∧
    sget 0 (member 1 (open1 blank)).tow.coll 1 ≤ (messageOf 7 5 1 false 1).coll ∧
    (messageOf 7 6 0 false 1).crossing = up.crs.crossing + 1 ∧ (messageOf 8 5 0 false 0).dest = ownPlace awaiting ∧
    (messageOf 8 5 0 false 0).tag ≠ activeTag awaiting ∧ stagedTagHeld awaiting 8 = true ∧ stagedTagHeld awaiting 6 = false ∧
    priorTagOk awaiting 6 5 1 = true ∧ stagedTagHeld awaiting 9 = false ∧ priorTagOk awaiting 9 5 2 = false ∧
    towEntry awaiting (messageOf 9 5 0 false 0) = none ∧ mainStopped awaiting = false ∧ awaiting.pwr.draining = none ∧
    (draining []).pwr.draining ≠ none ∧ (∀ e ∈ up.cq.entries, runsApart e.desc = true → e.started = true → e.life = .ran) := by decide +kernel

/-- Whether a message reaches the command that it names, at a member of the group. -/
def reaches (s : State) (m : TowMsg) (e : Entry) (b : TowBlock) : Bool :=
  !(mainStopped s) && s.pwr.draining.isNone && m.dest == ownPlace s && decide (m.kind < 5) && s.man.active.isSome && m.tag == activeTag s &&
    m.crossing == s.crs.crossing && decide (m.coll < sget 0 s.tow.coll m.group) && towEntry s m == some e && findEntry s e.berth e.seq == some e &&
    towBlockOf e m == some b && towAt e b.rowBlock == some b

/-- Whether its KIND, its ROWS and its payload fit the block. -/
def fits (m : TowMsg) (e : Entry) (b : TowBlock) : Bool :=
  m.kind == towKind e.desc && m.rows == b.rows &&
    m.payload.length == (if m.isVoid then 0 else if isChain e.desc then towRowBytes e.desc else b.rows * towRowBytes e.desc)

/-- A VOID message of the block. -/
def voiding (ret : Bool) : TowMsg := { message ret with isVoid := true, reason := 2, payload := [] }

/-- The tail's combination; a VOID from either side; a message for the head from below and for the tail from above. -/
theorem witness_Messages_ends : reaches (member 2 (open1 owned)) (messageOf 7 5 0 false 2) (open1 owned) owned = true ∧
    fits (messageOf 7 5 0 false 2) (open1 owned) owned = true ∧ placeOf (member 2 (open1 owned)) (open1 owned) = (2, 3) ∧
    reaches (member 1 (open1 blank)) (voiding true) (open1 blank) blank = true ∧ fits (voiding true) (open1 blank) blank = true ∧
    reaches (member 1 (open1 blank)) (voiding false) (open1 blank) blank = true ∧ fits (voiding false) (open1 blank) blank = true ∧
    placeOf (member 1 (open1 blank)) (open1 blank) = (1, 3) ∧ blank.sentFwd = false ∧
    reaches (member 2 (open1 blank)) (messageOf 7 5 0 true 2) (open1 blank) blank = true ∧
    reaches (member 0 (open1 blank)) (messageOf 7 5 0 false 0) (open1 blank) blank = true ∧
    placeOf (member 0 (open1 blank)) (open1 blank) = (0, 3) := by decide +kernel

/-- `blank` with its final record, with its timer running, and voided by the member. -/
def ended : TowBlock := { owned with final := some (List.replicate 192 0) }
def timed (void : Bool) : TowBlock := { blank with timer := true, isVoid := void }

/-- `open1` after it has ended with CAP_EXCEEDED. -/
def cut : Entry := { open1 blank with res := { Result.zero with cap := true } }

/-- A message that does not fit, for a block voided or complete, for a command that has ended or waits for no such block; and for a collective
whose command is gone. -/
theorem witness_Messages_refused : reaches (member 1 (open1 blank)) { message false with rows := 2 } (open1 blank) blank = true ∧
    fits { message false with rows := 2 } (open1 blank) blank = false ∧ fits { message false with kind := 2 } (open1 blank) blank = false ∧
    fits { message false with payload := [] } (open1 blank) blank = false ∧
    reaches (member 1 (open1 (timed true))) (message false) (open1 (timed true)) (timed true) = true ∧ (timed true).isVoid = true ∧
    reaches (member 1 (open1 ended)) (message true) (open1 ended) ended = true ∧ fits (message true) (open1 ended) ended = true ∧
    ended.isVoid = false ∧ ended.final ≠ none ∧ reaches (member 1 cut) (message false) cut blank = true ∧ endedEarly cut = true ∧
    towBlockOf (open1 blank) { message false with rowBlock := 1 } = none ∧ towEntry (member 1 (open1 blank)) { message false with rowBlock := 1 } = some (open1 blank) ∧
    towEntry { member 1 (open1 blank) with cq := up.cq } (message false) = none ∧ (messageOf 7 3 0 false 1).crossing < up.crs.crossing ∧
    up.crs.crossing + 1 < (messageOf 7 7 0 false 1).crossing ∧ ({ message false with kind := 5, snap := some default }).kind = 5 := by decide +kernel

/-- A message on its way out, for the mirror or for the block of `open1`. -/
def sent (owner : Option (Nat × Nat × Nat)) (left out waiting : Nat) : TxMsg := ⟨4, left, out, waiting, owner, default, false⟩

/-- The header of a partner's snapshot, with the record of its segment. -/
def headOf (tag crossing landing : Nat) (differ : Bool) : SnapHead :=
  ⟨tag, crossing, landing, some ⟨crossing, landing, 0, 0, 0, false, differ, 0⟩, none⟩

/-- `awaiting` under the dual protection level. -/
def compared1 : State := { awaiting with man := { awaiting.man with active := some { man with protection := 1 } } }

/-- `up` with a snapshot arriving, so many of whose bursts are in the buffer. -/
def arriving (f : SnapFate) (n : Nat) : State :=
  { up with tow := { up.tow with rxPartial := n, rxHead := some ⟨headOf 7 5 2 false, f, n⟩ } }

/-- `awaiting` with its receive buffer full of bursts of other messages. -/
def brimming : State := { awaiting with tow := { up.tow with rxPartial := 1024 } }

/-- `up` with messages under way: one before, the one acknowledged, refused or sent again, with bursts still to send, and one after; and with a
snapshot waiting for its turn, or itself on its way. -/
def under (kind : Nat) : State :=
  { up with tow := { up.tow with snapQueued := [default], tx := [⟨3, 0, 1, 0, none, { (default : TowMsg) with kind := kind }, false⟩,
      ⟨4, 600, 511, 1, none, default, false⟩, ⟨5, 7, 0, 2, none, default, false⟩] } }

theorem witness_Bursts_left (kind : Nat) (hk : kind = 0 ∨ kind = 5) : mainStopped (under kind) = false ∧ (under kind).pwr.draining = none ∧
    (under kind).tow.tx = [⟨3, 0, 1, 0, none, { (default : TowMsg) with kind := kind }, false⟩] ++ ⟨4, 600, 511, 1, none, default, false⟩ ::
      [⟨5, 7, 0, 2, none, default, false⟩] ∧ remoteOut (under kind) ≤ 512 ∧ (under kind).tow.reading = none ∧
    ((after (.burstAck 4) (under kind)).tow.tx.all (fun x => !x.mirror)) = decide (kind = 0) ∧
    ((after (.burstResend 4) (under kind)).tow.tx.map (fun x => (x.left, x.out))) = [(0, 1), (601, 511), (7, 0)] ∧
    ((after (.burstAck 4) (under kind)).tow.tx.map (fun x => (x.left, x.out))) = [(0, 1), (599, 511), (7, 0)] ∧
    ({ draining [] with tow := (under kind).tow }).pwr.draining ≠ none := by
  rcases hk with rfl | rfl <;> decide +kernel

theorem witness_Bursts : mainStopped up = false ∧ up.pwr.draining = none ∧ rxUsed up < 1024 ∧
    1024 ≤ rxUsed { up with tow := { up.tow with rxPartial := 1024 } } ∧ up.tow.rxHead = none ∧
    (arriving .take 0).tow.rxHead = some ⟨headOf 7 5 2 false, .take, 0⟩ ∧ SnapFate.take ≠ .hold ∧ SnapFate.drop ≠ .hold ∧
    rxUsed (arriving .hold 1) < 1024 ∧ 1024 ≤ rxUsed (arriving .hold 1024) ∧ tagCheck awaiting 8 5 2 = .hold ∧ rxUsed awaiting < 1024 ∧
    tagCheck brimming 8 5 2 = .hold ∧ 1024 ≤ rxUsed brimming ∧ tagCheck awaiting 9 5 2 = .refuse ∧ tagCheck compared1 7 5 2 = .go ∧ tagCheck compared1 6 5 1 = .prior ∧
    (headOf 7 5 2 false).crossing = compared1.crs.crossing ∧ (headOf 7 4 2 false).crossing + 1 = compared1.crs.crossing ∧
    (headOf 7 6 0 false).crossing = compared1.crs.crossing + 1 ∧ (headOf 7 3 0 false).crossing + 1 < compared1.crs.crossing ∧
    compared1.crs.crossing + 1 < (headOf 7 7 0 false).crossing ∧
    snapshotRecord compared1 (headOf 7 5 2 false) = some ⟨5, 2, 0, 0, 0, false, false, 0⟩ ∧
    snapshotRecord compared1 (headOf 7 5 2 true) = some ⟨5, 2, 0, 0, 0, false, true, 0⟩ ∧ (headOf 7 5 2 false).cross = none ∧
    (draining []).pwr.draining ≠ none ∧ (sent none 0 512 1).left = 0 ∧ 0 < (sent none 0 512 1).out ∧ (sent none 0 512 1).out ≤ 512 ∧
    0 < (sent none 0 511 1).waiting ∧ (sent none 0 511 1).out < 512 ∧ up.tow.snapQueued = [] := by decide +kernel

/-- `member 1` with that message out. -/
def sending (owner : Option (Nat × Nat × Nat)) (t : TowBlock) : State :=
  { member 1 (open1 t) with tow := { (member 1 (open1 t)).tow with tx := [sent owner 0 1 0] } }

/-- A message of the block, forward or return, record or VOID, of the member at position 1. -/
def outgoing (owner : Nat × Nat × Nat) (ret void : Bool) : TxMsg := ⟨4, 0, 1, 0, some owner, { messageOf 7 5 0 ret 2 with isVoid := void, senderCp := 1 }, false⟩
def hopping (m : TxMsg) (t : TowBlock) : State :=
  { member 1 (open1 t) with tow := { (member 1 (open1 t)).tow with tx := [m], nextId := 5 } }

/-- A block whose forward message has left. -/
def passed : TowBlock := { blank with sentFwd := true }

/-- The command of an abandoned message is gone, or holds the block: open, with its forward message out, or voided. -/
theorem witness_Hops : (hopping (outgoing (9, 1, 0) false false) blank).tow.tx.find? (fun t => t.id == 4) = some (outgoing (9, 1, 0) false false) ∧
    findEntry (hopping (outgoing (9, 1, 0) false false) blank) 9 1 = none ∧ (outgoing (9, 1, 0) false false).msg.isVoid = false ∧
    4 < (hopping (outgoing (9, 1, 0) false false) blank).tow.nextId ∧ 0 < (outgoing (9, 1, 0) false false).msg.senderCp ∧
    (outgoing (9, 1, 0) false false).msg.senderCp + 1 <
      ((memberOf (hopping (outgoing (9, 1, 0) false false) blank) (outgoing (9, 1, 0) false false).msg.group).getD (0, 1)).2 ∧
    (outgoing (9, 1, 0) false true).msg.isVoid = true ∧ (outgoing (9, 1, 0) false true).owner = some (9, 1, 0) ∧
    (outgoing (3, 1, 0) false false).msg.ret = false ∧ (outgoing (3, 1, 0) true false).msg.ret = true ∧
    towAt (open1 passed) 0 = some passed ∧ passed.isVoid = false ∧ passed.sentFwd = true ∧
    (∀ m ∈ [outgoing (3, 1, 0) false false, outgoing (3, 1, 0) true false], ∀ b ∈ [blank, passed, ended, timed true],
      mainStopped (hopping m b) = false ∧ (hopping m b).tow.tx.find? (fun t => t.id == 4) = some m ∧ m.owner = some (3, 1, 0) ∧
      findEntry (hopping m b) 3 1 = some (open1 b) ∧ towAt (open1 b) 0 = some b ∧ placeOf (hopping m b) (open1 b) = (1, 3)) := by decide +kernel

theorem witness_BlocksAreVoided : mainStopped (sending none blank) = false ∧
    (sending none blank).tow.tx.find? (fun t => t.id == 4) = some (sent none 0 1 0) ∧
    (sending (some (3, 1, 0)) blank).tow.tx.find? (fun t => t.id == 4) = some (sent (some (3, 1, 0)) 0 1 0) ∧
    (sending (some (9, 1, 0)) blank).tow.tx.find? (fun t => t.id == 4) = some (sent (some (9, 1, 0)) 0 1 0) ∧
    findEntry (sending (some (9, 1, 0)) blank) 9 1 = none ∧
    findEntry (sending (some (3, 1, 0)) blank) 3 1 = some (open1 blank) ∧ towAt (open1 blank) 0 = some blank ∧ blank.isVoid = false ∧
    0 < (placeOf (sending (some (3, 1, 0)) blank) (open1 blank)).1 ∧ towAt (open1 ended) 0 = some ended ∧ ended.isVoid = false ∧
    ended.final ≠ none ∧ (∀ k ∈ towAt (open1 (timed true)) 0, k.isVoid = true) ∧ up.tow.tx.find? (fun t => t.id == 4) = none := by
  decide +kernel

theorem witness_Timers (void : Bool) : let s := member 1 (open1 (timed void))
    mainStopped s = false ∧ (berthEntries s (3#5).toNat).find? (fun x => (towAt x 0).any (·.timer)) = some (open1 (timed void)) ∧
    findEntry s 3 1 = some (open1 (timed void)) ∧ towAt (open1 (timed void)) 0 = some (timed void) ∧ (timed void).isVoid = void ∧
    (timed void).final = none ∧ (open1 (timed void)).res.timeout = false ∧
    (berthEntries s (4#5).toNat).find? (fun x => (towAt x 0).any (·.timer)) = none := by
  cases void <;> decide +kernel

/-- A snapshot of the active tag at landing 2, with one line of its range. -/
def snap : Snapshot :=
  { (default : Snapshot) with tag := 7, crossing := 5, landing := 2, range := [⟨64, List.replicate 64 1, false⟩] }

/-- `awaiting` with a snapshot being read and another whose header has come. -/
def restoring : State :=
  { awaiting with tow := { up.tow with restore := 1, reading := some snap, rxHead := some ⟨snap.head, .take, 0⟩ }, keep := { up.keep with committed := (5, 2) } }

theorem witness_Snapshots : mainStopped restoring = false ∧ restoring.tow.reading = some snap ∧ up.tow.reading = none ∧
    restoring.pwr.draining = none ∧ restoring.tow.rxHead = some ⟨snap.head, .take, 0⟩ ∧ up.tow.rxHead = none ∧
    ({ up.tow with rxHead := some ⟨snap.head, .hold, 3⟩ }).rxHead = some ⟨snap.head, .hold, 3⟩ ∧
    ({ up.tow with rxHead := some ⟨snap.head, .drop, 0⟩ }).rxHead = some ⟨snap.head, .drop, 0⟩ ∧
    (headOf 7 4 1 false) ≠ snap.head ∧
    tagCheck awaiting snap.tag snap.crossing snap.landing = .go ∧ snap.crossing ≤ up.crs.crossing + 1 ∧ up.crs.crossing ≤ snap.crossing + 1 ∧
    tagCheck awaiting 8 5 2 = .hold ∧ tagCheck awaiting 6 5 1 = .prior ∧ tagCheck awaiting 9 5 2 = .refuse ∧
    tagCheck awaiting 7 8 0 = .go ∧ ¬(8 ≤ awaiting.crs.crossing + 1) ∧ (draining []).pwr.draining ≠ none := by decide

theorem witness_Restore : Served .host 4 up ∧ up.man.active ≠ none ∧ up.cq.takenSinceApply = false ∧ Served .host 4 bare ∧
    bare.man.active = none ∧ mainStopped restoring = false ∧ restoring.pwr.draining = none ∧ tagCheck restoring 7 5 2 = .go ∧
    5 = restoring.crs.crossing ∧ 4 + 1 = restoring.crs.crossing ∧ restoring.tow.restore = 1 ∧ up.tow.restore ≠ 1 ∧
    (snap.crossing, snap.landing) = restoring.keep.committed ∧ ((5 : Nat), (1 : Nat)) ≠ restoring.keep.committed ∧
    (snap.accs.map (·.1)).Pairwise (· < ·) ∧ snap.range.Pairwise (fun x y => x.addr + x.bytes.length ≤ y.addr) ∧
    snap.range.Pairwise (fun x y => x.addr / 64 ≠ y.addr / 64) ∧ tagCheck restoring 8 5 2 = .hold ∧ tagCheck restoring 7 6 0 = .go ∧
    6 = restoring.crs.crossing + 1 ∧ tagCheck restoring 6 5 1 = .prior ∧ tagCheck restoring 9 5 2 = .refuse ∧
    3 + 1 < restoring.crs.crossing ∧ restoring.crs.crossing + 1 < 7 ∧ (draining []).pwr.draining ≠ none := by
  simp only [Served]
  decide

/-! Traces, the log, the Tollhouse. -/

/-- `up` with two unread events. -/
def logged : State := { up with evt := logEvent (logEvent up.evt ⟨2, none, 0, 0, 0⟩) ⟨2, none, 0, 0, 0⟩ }

theorem witness_Traces : Served .host 6 up ∧ (0xFFFF : BitVec 16) = 0xFFFF#16 ∧ (5, 3) ∉ up.dgst.taken ∧
    (5, 2) ∈ ({ up.dgst with taken := [(5, 2)] }).taken ∧ unread logged.evt = 2 ∧
    (2 + 2 ^ 16 - logged.evt.rd) % 2 ^ 16 ≤ unread logged.evt ∧ unread logged.evt < (3 + 2 ^ 16 - logged.evt.rd) % 2 ^ 16 := by
  simp only [Served]
  decide

theorem witness_Debug : up.toll.shadow.lock = false ∧ ({ Fuses.blank with lock := true }).lock = true ∧ up.pwr.latch = false := by decide

/-- `up` with keys in slots 0, 0x0C, 0x0E and 0x0F, a session at each port, and 96 bytes in each TOLL_DATA. -/
def keyed (session : Bool) (data : List Byte) : State :=
  let view : TollPort := ⟨sblit 0 [] 0 data, 0, session, some (List.replicate 48 0)⟩
  { up with toll := { up.toll with
      slots := [(0, ⟨beBytes 48 p384Gx ++ beBytes 48 p384Gy, 0⟩), (0x0C, ⟨beBytes 48 1, 0⟩), (0x0E, ⟨List.replicate 48 1, 0⟩),
        (0x0F, ⟨List.replicate 48 2, 0⟩)]
      host := view, mgr := view, zeroised := false } }

theorem admitted (p : Port) (session : Bool) (data : List Byte) : Admitted p (keyed session data) :=
  ⟨rfl, rfl, rfl, fun _ => rfl, fun _ => by simp [keyed, keySlot, sget]⟩

/-- The answer to the nonce of zeros under the host's key and role byte 0x55 (R380). -/
def answerBytes : List Byte :=
  beBytes 48 1150754848119013713428074786091349250697802584399433654283062389657249252093245402854000787262046807658813115701777

/-- `keyed` with 2^20 requests served and a continuous test of the noise source failed: the reseeding that is due then fails. -/
def worn : State :=
  let s := keyed false []
  { s with toll := { s.toll with drbg := { s.toll.drbg with count := 2 ^ 20 }, health := { Health.start with failed := true } } }

/-- A continuous test that has failed stays failed. -/
theorem health_stays (xs : List Bool) : ∀ h : Health, h.failed = true → (xs.foldl healthStep h).failed = true := by
  induction xs with
  | nil => exact fun _ h => h
  | cons x xs ih => exact fun h hf => ih _ (by simp [healthStep, hf])

theorem worn_fails : (drbgDue worn).toll.errorState = true := by
  have h : ((Config.noise worn.toll.drbg.seeds).foldl healthStep worn.toll.health).failed = true := health_stays _ _ rfl
  have hc : 2 ^ 20 ≤ worn.toll.drbg.count := by decide
  rw [drbgDue, if_pos hc, reseedDrbg, seedDrbg]
  dsimp only
  rw [if_pos h]
  rfl

/-- Samples that pass the continuous tests leave the error state as it was: GENKEY and a verification then go on. -/
theorem reseed_passes (s : State) (h : ((Config.noise s.toll.drbg.seeds).foldl healthStep s.toll.health).failed = false) :
    (reseedDrbg s).toll.errorState = s.toll.errorState := by
  simp [reseedDrbg, seedDrbg, h]

theorem witness_Sessions : Admitted .host (keyed false answerBytes) ∧
    (tollPort (keyed false answerBytes) .host).nonce = some (List.replicate 48 0) ∧
    (keySlot (keyed false answerBytes) (authSlot .host)).key = List.replicate 48 1 ∧ (keySlot (keyed false answerBytes) (authSlot .host)).key ≠ [] ∧
    tollInput (keyed false answerBytes) .host 48 = hmac384 (List.replicate 48 1) (List.replicate 48 0 ++ [roleByte .host]) ∧
    (drbgDue (keyed false answerBytes)).toll.errorState = false ∧ (keyed false answerBytes).toll.drbg.count < 2 ^ 20 ∧
    tollInput (keyed false []) .host 48 ≠ hmac384 (List.replicate 48 1) (List.replicate 48 0 ++ [roleByte .host]) := by
  refine ⟨admitted _ _ _, rfl, ?_⟩
  decide +kernel

theorem witness_Sessions_error : Admitted .mgr worn ∧ (drbgDue worn).toll.errorState = true :=
  ⟨⟨rfl, rfl, rfl, (fun h => nomatch h), fun _ => by simp [worn, keyed, keySlot, sget]⟩, worn_fails⟩

/-- A warm reset whose Tollhouse self-tests are still running, with a certificate armed. -/
def warmed : State :=
  { up with pwr := { up.pwr with warmTest := true }, crs := { up.crs with phase := .notMoored },
            toll := { up.toll with cert := { up.toll.cert with state := 1 } } }

/-- R386 and Table 18-7: the end of a warm reset's self-tests lets PHASE leave 0b000; before it no command is taken. -/
theorem test_warm_reset_tests : mayTake warmed = false ∧ (after (.tollSelftestEnd 0x1FF#9) warmed).crs.phase = .inSegment ∧
    (after (.tollSelftestEnd 0x1FE#9) warmed).toll.errorState = true ∧
    (after (.tollSelftestEnd 0x1FE#9) warmed).toll.cert.state = 5 := by decide

theorem witness_SelfTests : Admitted .mgr (keyed true []) ∧ (∀ p, up.toll.busy ≠ .selftest p) ∧ (keyed true []).toll.waitSelftest = none ∧
    (tollPort (keyed true []) .mgr).auth = true ∧ (tollPort (keyed false []) .mgr).auth = false ∧
    (keySlot (keyed true []) 0).key ≠ [] ∧ (keySlot (keyed true []) 0x0C).key ≠ [] ∧ (keySlot (keyed true []) 7).key = [] ∧
    ¬ ((8 : Byte).toNat < 8 ∨ (8 : Byte) = 0x0C#8) ∧ { up.toll with busy := .selftest .mgr }.busy = .selftest .mgr ∧
    ({ up.toll.cert with state := 3 } : CertUnit).state ∈ [1, 2, 3] ∧
    mainStopped (keyed true []) = false ∧ mainStopped State.reset = true ∧ mainStopped warmed = false ∧ permitted .host 8 (keyed true []) = true ∧ (keySlot (keyed true []) 0x0F).key ≠ [] ∧
    (keyed true []).toll.busy = .none ∧ (manned (fun m => { m with stage := .verifying })).man.stage = .verifying ∧
    up.pwr.warmTest = false ∧
    warmed.toll.busy = .none ∧ warmed.pwr.warmTest = true ∧ warmed.pwr.draining = none ∧ warmed.crs.moored = true ∧
    warmed.toll.cert.state ∈ [1, 2, 3] ∧ (0x1FE#9 : BitVec 9) ≠ 0x1FF#9 ∧ up.crs.phase ≠ .notMoored := by
  refine ⟨admitted _ _ _, fun p => by cases p <;> decide, ?_⟩
  decide

/-- A wrapped key of slot 8 under the key of zeros: 12 bytes of IV, 32 of ciphertext, 16 of tag. -/
def wrapped : List Byte :=
  List.replicate 12 0 ++ beBytes 32 91198069691104269914773279720327560266144634842810428149222496675077482951305 ++
    beBytes 16 309459231071892758736304670204607112972

theorem witness_Keys : Admitted .mgr (keyed true (beBytes 48 p384Gx ++ beBytes 48 p384Gy)) ∧ Admitted .host (keyed true []) ∧
    (keyed true []).toll.mgr.auth = true ∧ p384Gx < p384P ∧ p384Gy < p384P ∧ onP384 p384Gx p384Gy = true ∧
    tollInput (keyed true (beBytes 48 p384Gx ++ beBytes 48 p384Gy)) .mgr 96 = beBytes 48 p384Gx ++ beBytes 48 p384Gy ∧
    onP384 0 0 = false ∧ wrappedSize 8 = 32 ∧ wrappedSize 7 = 0 ∧ (keyed true []).toll.fuses.revoke = false ∧
    slotSigning (keyed true []) 8 = false ∧ slotSigning (keyed true []) 0x0C = false ∧
    slotSigning { keyed true [] with toll := { (keyed true []).toll with cert := { CertUnit.zero with state := 3, captured := some default } } } 0x0C = true ∧
    ({ Fuses.blank with revoke := true }).revoke = true ∧ ({ Fuses.blank with kwk := some (List.replicate 32 0) }).kwk = some (List.replicate 32 0) ∧ leNat (tollInput (keyed true (leBytes 4 0x4B434F4C)) .mgr 4) = 0x4B434F4C ∧
    (keyed true []).toll.fuses.kwk = none := by
  refine ⟨admitted _ _ _, admitted _ _ _, ?_⟩
  decide +kernel

theorem witness_Keys_wrapped :
    gcmOpen (List.replicate 32 0) (wrapped.take 12) [8, 32, 0, 0] (slice wrapped 12 44) (wrapped.drop 44) = some (List.replicate 32 7) ∧
    tollInput (keyed true wrapped) .mgr 60 = wrapped := by decide +kernel

/-- `keyed` while a zeroisation runs: its slots are empty from its first moment. -/
def zeroising (perm : Bool) : State :=
  { keyed true [] with toll := { (keyed true []).toll with busy := .zeroise perm, slots := [] } }

theorem witness_Zeroisation : Admitted .host (keyed true []) ∧ mainStopped (keyed true []) = false ∧ (keyed true []).toll.errorState = false ∧
    (keySlot (keyed true []) 0x0F).key ≠ [] ∧ (keyed true []).toll.mgr.auth = true ∧ (keyed false []).toll.mgr.auth = false ∧
    mainStopped (zeroising true) = false ∧ (zeroising true).toll.errorState = false ∧ (zeroising true).toll.busy = .zeroise true ∧
    (zeroising true).toll.slots = [] ∧ (zeroising true).toll.mgr.auth = true ∧
    mainStopped { keyed true [] with pwr := { up.pwr with mainDown := true } } = true ∧
    mainStopped { keyed true [] with pwr := { up.pwr with thermTrip := true } } = true ∧ ({ up.toll with errorState := true }).errorState = true ∧
    (keySlot up 0x0F).key = [] ∧ up.pwr.latch = false ∧ (∀ perm, up.toll.busy ≠ .zeroise perm) := by
  refine ⟨admitted _ _ _, ?_⟩
  decide

/-- R387: the zeroisation that a manager asks for leaves the slots empty while it runs, and a second one finds no key to admit it (log entry 130). -/
theorem test_zeroise_twice : (after (.tollZeroise .mgr) (keyed true [])).toll.busy = .zeroise false ∧
    (after (.tollZeroise .mgr) (keyed true [])).toll.slots = [] ∧
    (after (.tollZeroise .mgr) (after (.tollZeroise .mgr) (keyed true []))).toll.mgr.result = 2 := by decide

/-- `keyed` with a certificate in a state, over crossings 6 to 7. -/
def certified (st : Nat) : State :=
  { keyed true [] with toll := { (keyed true []).toll with cert := { CertUnit.zero with range0 := 6 * 2 ^ 16, range1 := 7 * 2 ^ 16, state := st } } }

theorem admitted1 (p : Port) (st : Nat) : Admitted p (certified st) :=
  ⟨rfl, rfl, rfl, fun _ => rfl, fun _ => by simp [certified, keyed, keySlot, sget]⟩

theorem witness_Certificates : Admitted .host (certified 0) ∧ Admitted .mgr (certified 0) ∧ (certified 0).toll.host.auth = true ∧
    (certified 0).crs.crossing < 6 ∧ (6 : Nat) ≤ 7 ∧ (certified 0).toll.cert.state ∉ [1, 2, 3] ∧
    (certified 0).man.active = some man ∧ (keySlot (certified 0) (if man.certHmac then 0x0D else 0x0C)).key ≠ [] ∧
    (certified 3).toll.cert.state ∈ [1, 2, 3] ∧ mainStopped (certified 3) = false ∧ (certified 3).toll.cert.state = 3 ∧
    (∀ x ∈ (certified 3).rtv.posts, x.1 ≠ .cert (certified 3).toll.cert.serial) ∧
    (∀ q ∈ (certified 3).rtv.out, q.owner ≠ .cert (certified 3).toll.cert.serial) ∧ (certified 0).toll.cert.state ≠ 3 ∧
    ((certified 3).rtv.posts.any (fun x => x.1.isCert)) = false ∧ (ReqOwner.cert 0).isCert = true := by
  refine ⟨admitted1 _ _, admitted1 _ _, ?_⟩
  decide

theorem witness_RegisterWrites : mainStopped up = false ∧ mainStopped State.reset = true ∧ regAt 0x1A010 = some .evtMask ∧ regAt 0x1A008 = some .evtPending ∧
    Reg.evtMask.perm.allows up .host = true ∧ Reg.evtMask.perm.allows shut .host = false ∧ regAt 0x30 = none ∧
    areaAt (accessSpan 0x30 .whole).1 = none ∧ regAt 0xF100 = none ∧ areaAt (accessSpan 0xF100 .low).1 = some (.tollData, 0) ∧
    inOneBlock .tollData 0 (accessSpan 0xF100 .low).2 = true ∧ permitted .host 8 up = true ∧ permitted .host 6 up = true ∧
    permitted .host 1 up = true ∧ regAt 0x1108 = some .manStatus := by decide +kernel

/-- Bytes at an offset (R421): a register and its high half; then each window, at its last byte, and the offsets that are none. -/
theorem witness_RegisterBytes : regAt 0x1A010 ≠ none ∧ (0x1A014 : BitVec 28).toNat = (0x1A010 : BitVec 28).toNat + 4 ∧
    bytesAccess 0x30 8 = none ∧ areaAt 0x30 = none ∧ bytesAccess 0xF1FF 1 = none ∧ areaAt 0xF1FF = some (.tollData, 255) ∧
    inOneBlock .tollData 255 1 = true ∧ inOneBlock .tollData 255 2 = false ∧ permitted .host 8 up = true ∧
    permitted .host 8 { up with man := { up.man with active := some { man with permHost := 0 } } } = false ∧
    areaAt 0x1FFFFF = some (.staging, 0xFFFFF) ∧ inOneBlock .staging 0xFFFFF 1 = true ∧ bytesAccess 0x1FFFFF 1 = none ∧
    areaAt 0x100101F = some (.shadow, 0x101F) ∧ areaAt 0x1001020 = none ∧ inOneBlock .shadow 0x101F 1 = true ∧ bytesAccess 0x100101F 1 = none ∧
    areaAt 0xCBF = some (.submit, 191) ∧ inOneBlock .submit 191 1 = true ∧ bytesAccess 0xCBF 1 = none ∧ areaAt 0xD7F = some (.submit64, 127) ∧
    inOneBlock .submit64 127 1 = true ∧ bytesAccess 0xD7F 1 = none ∧ areaAt 0x17FFF = some (.rings, 0x7FFF) ∧ areaAt 0x19FFF = some (.log, 0x1FFF) ∧
    areaAt 0xFFFFFFF = some (.results, 2 ^ 27 - 1) ∧ inOneBlock .results (2 ^ 27 - 1) 1 = true ∧ bytesAccess 0xFFFFFFF 1 = none ∧ portsOpen up = true := by
  decide +kernel

theorem witness_RegisterReads : up.pwr.mainDown = false ∧ State.reset.pwr.mainDown = true ∧ regAt 0x1A010 = some .evtMask ∧
    ({ HostPort.zero with capture := some (0x1A010, 5) }).capture = some (0x1A010, 5) ∧ HostPort.zero.capture = none := by
  decide +kernel

theorem witness_Quiet : mayWriteScratchpad .landingReached = false ∧ ∃ t, exec .landingReached up = .next t := ⟨rfl, _, rfl⟩

/-! ## Single steps, with results worked out from the spec -/

/-- `up` with FP32 words in the scratchpad from address 0 and its lines unmarked up to 0x2000. -/
def words (ws : List Nat) : State :=
  { up with sp := { up.sp with mem := sblit 0 [] 0 (ws.flatMap (leBytes 4)), clean := (List.range 128).map (fun i => (i, true)) } }

/-- A queued command of berth 3, offered the issue by the row of its kind. -/
def ran (row : Instr) (bytes : List Byte) (s : State) : State := after row (queued s [cmd 3 1 bytes .queued])

/-- Bytes of the scratchpad. -/
def spBytes (s : State) (a n : Nat) : List Byte := (List.range n).map (fun i => spByte s (a + i))

/-- The worked example of chapter 4: 0.875, 0.3125, -0.046875, 0 and 0.3 stored as one MXFP4 block with RNE by a CHAIN that
packs them (stage word 0xB000). -/
def mxBlock : State :=
  ran (.chain 3 (.clean 7)) (native 1 3 1 0 0xB000 2 32 1 0 4 [slot 0 0 0 1 32 0, 0, 0, 0, slot 0x1000 9 0 0 32 0, 0])
    (words ([0x3F600000, 0x3EA00000, 0xBD400000, 0, 0x3E99999A] ++ List.replicate 27 0))

/-- Element bytes 0x47, 0x09, 0x04, the scale byte 0x7C in the scale plane at the next 64-byte boundary (R263), INEXACT. -/
theorem test_chain_packs_mxfp4 : spBytes mxBlock 0x1000 4 = [0x47, 0x09, 0x04, 0] ∧ spByte mxBlock 0x1040 = 0x7C := by
  decide +kernel

/-- The command completes: its number in the ledger, its window READY with span 65 bytes. -/
theorem test_commandComplete : ldgCompleted (after (.commandComplete 3) mxBlock) 3 = 1 ∧
    sget default (after (.commandComplete 3) mxBlock).cq.wins 4 = ⟨1, 2, 3, 1, 0x1000, 65⟩ := by decide +kernel

/-- The window, generation 1, answers the stored bytes and then zeros beyond the span (R284). -/
theorem test_resultWindowRead :
    (after (.resultWindowRead (BitVec.ofNat 27 (4 * 2 ^ 20 + 2 ^ 16)) 2 .none) (after (.commandComplete 3) mxBlock)).hostp.data =
      [0x47, 0x09] := by decide +kernel

/-- A MATMUL of the BF16 row (1, 2) by the BF16 column (3, 4), drained in FP32: 11 = 0x4130_0000. -/
theorem test_matmul_dot :
    spBytes (ran (.matmul 3 (.clean 7)) (native 1 3 3 0 (1 + 16) 2 2 1 1 0xFF
        [slot 0 1 0 1 64 0, slot 64 1 0 1 64 0, 0, 0, slot 0x1000 0 0 0 64 0, 0])
      (words ([0x40003F80] ++ List.replicate 15 0 ++ [0x40804040]))) 0x1000 4 = [0, 0, 0x30, 0x41] := by decide +kernel

/-- An output with STRIDE1 below N0 is refused with reason 0x07 (R262, Table 11-9). -/
theorem test_chain_refused :
    ((ran (.chain 3 (.clean 7)) (native 1 3 1 0 0xB000 2 32 1 0 0xFF [slot 0 0 0 1 32 0, 0, 0, 0, slot 0x1000 9 0 0 1 0, 0])
      (words [])).cq.rings.map (fun r => (r.1, bitsOf (r.2.getD 0 0).toNat 59 56, bitsOf (r.2.getD 2 0).toNat 31 16))) =
      [(97, 7, 7)] := by decide +kernel

/-- The worked example of chapter 19: a SMAX_FWD of berth 5, SEQ 88,201, completes with three fully masked rows, the first
at (0, 7, 1,030), and EVT_LOG_WR at 0x0113. Word 0 of slot 0x13 is 0x0000_0001_5889_250E. -/
def fullmask : State :=
  let e : Entry := { cmd 5 88201 [] .ran with res := { Result.zero with masked := 3, maskedAt := 0x7000406 } }
  { queued up [e] with evt := { up.evt with wr := 0x113, rd := 0x113 } }

theorem test_fullmask_pending : (after (.commandComplete 5) fullmask).evt.pending = 0x4000#15 ∧
    (after (.commandComplete 5) fullmask).evt.wr = 0x114 := by decide +kernel

theorem test_fullmask_word0 : (after (.registerHalfRead 0x18260 .whole) (after (.commandComplete 5) fullmask)).hostp.data =
    leBytes 8 0x00000001_5889250E := by decide +kernel

/-- Submissions of berth 3 after its command 1 (Table 11-1): 2 is accepted, 1 a duplicate, 3 a gap. -/
theorem test_coreSubmit : (after (.coreSubmit false (numbered 2) []) accepted1).cq.responses.map (·.code) = [1] ∧
    (after (.coreSubmit false (numbered 1) []) accepted1).cq.responses.map (·.code) = [2] ∧
    (after (.coreSubmit false (numbered 3) []) accepted1).cq.responses.map (·.code) = [3] := by decide +kernel

/-- A warm reset sets the ledger back to what is committed and keeps the count of before as the prior one (R414). -/
theorem test_warmReset : ldgAccepted (after (.warmReset .pin) accepted1) 3 = 0 ∧
    sget 0 (after (.warmReset .pin) accepted1).keep.priorAccepted 3 = 1 := by decide +kernel

/-- At 105 °C the thermal cap moves down one step (R406). -/
theorem test_thermalSample : (after (.thermalSample 1680 750 900 900 .none) up).pwr.capTherm = 1 ∧
    (after (.thermalSample 1679 750 900 900 .none) up).pwr.capTherm = 0 := by decide

/-- The first frame that holds moors the engine at its FRAME_TIDE (R410). -/
theorem test_beacon_moors :
    (after .beaconFrameEffect (framed { fresh with pwr := { fresh.pwr with fabReady := true } } (frameBits 1 0 5 77))).crs.tide = 77 := by
  decide +kernel

/-- A version-2 READ of PWR_STATUS is answered in its own frame with status OK (R416). -/
theorem test_sbRead : (after (.sbRead 1 0xF008 0 117 false) up).sb.shifted.map (fun r => (r.status, r.addr)) = [(0, 0), (0, 0xF008)] := by
  decide +kernel

/-- The low half of a side-band write is held, and the high half writes the register: TARGET takes step 1 (R418, R404). -/
theorem test_sbWrite : (after (.sbWrite 0 0xF000 5 2 false) up).sb.heldLow = some (0xF000, 5) := by decide +kernel

/-- The first read of the running command asks for eight sectors, of which the front needs them all (R290). -/
theorem test_retrieverRequest : (after (.retrieverRequest (.memory 0)) (fetching [])).rtv.out.map (fun q => (q.write, q.addr, q.len)) =
    [(false, 0, 512)] := by decide +kernel

/-- A sector that the front needs enters the operand buffers and its tag returns (R294). -/
theorem test_readResponse :
    (after (.readResponse 9 [⟨List.replicate 64 1, false⟩]) (fetching [readReq])).cq.entries.map (·.held) = [[0]] ∧
    (after (.readResponse 9 [⟨List.replicate 64 1, false⟩]) (fetching [readReq])).rtv.out = [] := by decide +kernel

/-- A marker of the landing in progress ends at once (R265). -/
theorem test_landingMarker : (after (.landingMarker 3) (queued up [marking 2 0])).cq.entries.map (·.life) = [.ran] := by decide +kernel

/-- WIN_RELEASE raises GEN and empties the window (R285). -/
theorem test_winRelease : (sget default (after (.winRelease .host 4) (completing windowed)).cq.wins 4).gen = 2 ∧
    (sget default (after (.winRelease .host 4) (completing windowed)).cq.wins 4).st = 0 := by decide

/-- The last landing commits with its comparison, and the command of landing 1 is covered (R270). -/
theorem test_landingCommitted : (after .landingCommitted (committing [uncommitted 1 none])).keep.committed = (5, 2) ∧
    ldgCommitSeq (after .landingCommitted (committing [uncommitted 1 none])) 3 = 1 := by decide +kernel

/-- A service without a session is AUTH (Table 17-6: 2), and the host may not clear a slot (ROLE: 1). -/
theorem test_toll : (after (.tollClearSlot .mgr 8) (keyed false [])).toll.mgr.result = 2 ∧
    (after (.tollClearSlot .host 8) (keyed true [])).toll.host.result = 1 := by decide +kernel

/-- Table 18-4: at step 0 a VDD_CORE of 739 mV is below the minimum of 740 mV and moves the cap; 740 mV is not. -/
theorem test_vddCore : (after (.vddCoreBelowMin 739) up).pwr.capVolt = 1 ∧ (after (.vddCoreBelowMin 740) up).pwr.capVolt = 0 := by decide

/-- R401: a commitment record that had not reached its cycle 12 is torn back to the earlier one. -/
theorem test_torn_commit : (after (.keepIslandFailing ⟨0, [.commit]⟩) (after .landingCommitted (committing [uncommitted 1 none]))).keep.committed =
    (0, 0) := by decide +kernel

/-- R322: a message for another member leaves again under this engine's REMOTE tags. -/
theorem test_relay : (after (.towMessage (messageOf 7 5 0 false 2) env) (member 1 (open1 blank))).tow.tx.map (fun x => (x.relay, x.out)) =
    [(true, 1)] := by decide +kernel

/-- R296: a fill of 256 bytes enters the region's cache, and the command that waited for it takes it from there. -/
theorem test_fill : (cachedSector (after (.readResponse 9 (List.replicate 4 ⟨List.replicate 64 1, false⟩))
      (fetched vectored [fillReq (some (3, 1))])) 0 (0x1000 / 64 + 3)).map (·.bytes.length) = some 64 ∧
    (after (.readResponse 9 (List.replicate 4 ⟨List.replicate 64 1, false⟩)) (fetched vectored [fillReq (some (3, 1))])).cq.entries.map
      (·.held.length) = [4] := by decide +kernel

/-- R274: a command that waits for data stands aside for the first berth after it that could issue. -/
theorem test_stands_aside : (after (.tileBoundary env) (issuing up 3 [running [], other])).cq.chosen = some 4 ∧
    (after (.tileBoundary env) (issuing up 3 [running [], other])).cq.issuing = none := by decide +kernel

/-- R280: the issuing command of an aborted berth ends with ABORT, DETAIL 1, at its next tile boundary. -/
theorem test_abort_at_boundary :
    (after (.tileBoundary env) (after (.abortBerth .host 3) (issuing up 3 [running []]))).cq.entries.map (fun e => (e.life = .ran : Bool)) = [true] ∧
    (after (.abortBerth .host 3) (issuing up 3 [running []])).cq.entries.map (fun e => (e.life = .ran : Bool)) = [false] ∧
    (after (.tileBoundary env) (after (.abortBerth .host 3) (issuing up 3 [running []]))).cq.entries.map (·.res.abort) = [1] := by decide +kernel

/-- The table gives no row any bit, so no word spells a command. -/
theorem test_decodeTableWord : decodeTableWord 32 0 = none := rfl
end Sys2Proof.Tests
end

section
/-! SUPPORT. Operations on the table banks: what each does to a cluster's banks, what it leaves, and what its end reports (R168 to R174). -/

namespace Sys2Proof.Machine

variable {s : State}

/-! ## One cluster's banks -/

/-- A cluster with the bit of a slot of its shadow bank set or cleared. -/
def TblCluster.markShadow (slot : Nat) (v : Bool) (x : TblCluster) : TblCluster :=
  x.setValid (!x.phys) (if v then x.valid (!x.phys) ||| slotBit slot else x.valid (!x.phys) &&& ~~~ slotBit slot)

/-- A cluster with its banks exchanged (R173). -/
def TblCluster.swapped (x : TblCluster) : TblCluster := { x with phys := !x.phys, gen := (x.gen + 1) % 2 ^ 16 }

@[simp] theorem setValid_phys (x : TblCluster) (b : Bool) (v : BitVec 16) : (x.setValid b v).phys = x.phys := by
  cases b <;> rfl

@[simp] theorem valid_setValid (x : TblCluster) (b : Bool) (v : BitVec 16) : (x.setValid b v).valid b = v := by
  cases b <;> rfl

@[simp] theorem markShadow_phys (slot : Nat) (v : Bool) (x : TblCluster) : (x.markShadow slot v).phys = x.phys :=
  setValid_phys ..

/-- The shadow bank of a cluster whose slot was marked. -/
theorem shadow_of_markShadow {x y : TblCluster} {slot : Nat} {v : Bool} (h : y = x.markShadow slot v) :
    y.valid (!y.phys) = if v then x.valid (!x.phys) ||| slotBit slot else x.valid (!x.phys) &&& ~~~ slotBit slot := by
  subst h
  rw [markShadow_phys]
  exact valid_setValid ..

@[simp] theorem tblOf_setTbl (c : Nat) (x : TblCluster) (d : Nat) :
    tblOf (setTbl c x s) d = if d = c then x else tblOf s d :=
  sget_sset ..

theorem tblOf_shadowValid (slot : Nat) (v : Bool) (c d : Nat) :
    tblOf (shadowValid slot v c s) d = if d = c then (tblOf s c).markShadow slot v else tblOf s d :=
  tblOf_setTbl ..

theorem tblOf_swapCluster (c d : Nat) :
    tblOf (swapCluster c s) d = if d = c then (tblOf s c).swapped else tblOf s d :=
  tblOf_setTbl ..

/-! ## Runs over clusters -/

/-- From `s` to `t` only the banks' valid bits, roles and swap counts may differ. -/
def OnlyBanks (s t : State) : Prop := t = { s with tbl := { s.tbl with clusters := t.tbl.clusters } }

theorem OnlyBanks.trans {t u : State} (h : OnlyBanks s t) (k : OnlyBanks t u) : OnlyBanks s u := by
  unfold OnlyBanks at *
  rw [k, h]

theorem OnlyBanks.foldl {f : State → Nat → State} (h : ∀ t c, OnlyBanks t (f t c)) (cs : List Nat) (s : State) :
    OnlyBanks s (cs.foldl f s) :=
  List.foldlRecOn cs f (motive := OnlyBanks s) rfl (fun t ht c _ => ht.trans (h t c))

theorem shadowValid_onlyBanks (slot : Nat) (v : Bool) (c : Nat) (s : State) : OnlyBanks s (shadowValid slot v c s) := rfl

theorem swapCluster_onlyBanks (s : State) (c : Nat) : OnlyBanks s (swapCluster c s) := rfl

/-- A run over distinct clusters changes each of them once, and no other. -/
theorem tblOf_foldl {f : State → Nat → State} {g : Nat → TblCluster → TblCluster}
    (hf : ∀ t c d, tblOf (f t c) d = if d = c then g c (tblOf t c) else tblOf t d) {cs : List Nat} (hn : cs.Nodup)
    (s : State) (d : Nat) : tblOf (cs.foldl f s) d = if d ∈ cs then g d (tblOf s d) else tblOf s d := by
  induction cs generalizing s with
  | nil => simp
  | cons c cs ih =>
    obtain ⟨hc, hn⟩ := List.nodup_cons.1 hn
    rw [List.foldl_cons, ih hn, hf]
    by_cases hd : d = c
    · subst hd; simp [hc]
    · simp [hd]

theorem nodup_maskClusters (mask : Nat) : (maskClusters mask).Nodup := List.nodup_range.filter _

theorem mem_maskClusters {mask c : Nat} : c ∈ maskClusters mask ↔ c < Config.clusters ∧ mask.testBit c = true := by
  simp [maskClusters]

theorem shadowCheck_ne_locked (s : State) (slot c : Nat) : shadowCheck s slot c ≠ 3 := by
  unfold shadowCheck imgResult
  split
  · decide
  · split <;> decide

/-! ## The end of an operation -/

/-- The table unit with an operation ended, a result and the first failing cluster. -/
def TblUnit.ended (u : TblUnit) (result failCluster : Nat) : TblUnit :=
  { u with busy := false, load := none, lockedSlots := [], result := result, failCluster := failCluster }

/-- The results of clusters, in ascending order, end an operation with the first that is not 0. -/
theorem endOp_map (cs : List Nat) (code : Nat → Nat) (s : State) :
    endOp (cs.map (fun c => (c, code c))) s =
      let first := cs.find? (fun c => code c != 0)
      { s with tbl := s.tbl.ended ((first.map code).getD 0) (first.getD 0xFF) } := by
  unfold endOp
  rw [List.find?_map]
  have hp : ((fun r : Nat × Nat => r.2 != 0) ∘ fun c => (c, code c)) = fun c => code c != 0 := rfl
  rw [hp]
  cases cs.find? (fun c => code c != 0) <;> rfl

theorem endOp_nil (s : State) : endOp [] s = { s with tbl := s.tbl.ended 0 0xFF } := rfl

/-! ## COMMIT, CLEAR and SWAP_IDLE -/

/-- The step of COMMIT in a cluster, by its code. -/
def commitCluster (slot : Nat) (code : Nat → Nat) (t : State) (c : Nat) : State :=
  if code c = 3 then t else shadowValid slot (code c == 0) c t

/-- The step of CLEAR in a cluster, by its code. -/
def clearCluster (slot : Nat) (code : Nat → Nat) (t : State) (c : Nat) : State :=
  if code c = 0 then shadowValid slot false c t else t

theorem commitOp_eq (mask slot : Nat) (s : State) :
    commitOp mask slot s =
      let code := fun c => if refusing s c then 3 else shadowCheck s slot c
      endOp ((maskClusters mask).map (fun c => (c, code c))) ((maskClusters mask).foldl (commitCluster slot code) s) := by
  simp only [commitOp, List.foldl_map]
  rfl

theorem clearOp_eq (mask slot : Nat) (s : State) :
    clearOp mask slot s =
      let code := fun c => if refusing s c then 3 else 0
      endOp ((maskClusters mask).map (fun c => (c, code c))) ((maskClusters mask).foldl (clearCluster slot code) s) := by
  simp only [clearOp, List.foldl_map]
  rfl

theorem commitCluster_onlyBanks (slot : Nat) (code : Nat → Nat) (t : State) (c : Nat) :
    OnlyBanks t (commitCluster slot code t c) := by
  unfold commitCluster
  split
  · exact rfl
  · exact shadowValid_onlyBanks ..

theorem clearCluster_onlyBanks (slot : Nat) (code : Nat → Nat) (t : State) (c : Nat) :
    OnlyBanks t (clearCluster slot code t c) := by
  unfold clearCluster
  split
  · exact shadowValid_onlyBanks ..
  · exact rfl

theorem tblOf_commitCluster (slot : Nat) (code : Nat → Nat) (t : State) (c d : Nat) :
    tblOf (commitCluster slot code t c) d =
      if d = c then (if code c = 3 then tblOf t c else (tblOf t c).markShadow slot (code c == 0)) else tblOf t d := by
  unfold commitCluster
  split
  · split
    · next h => rw [h]
    · rfl
  · exact tblOf_shadowValid ..

theorem tblOf_clearCluster (slot : Nat) (code : Nat → Nat) (t : State) (c d : Nat) :
    tblOf (clearCluster slot code t c) d =
      if d = c then (if code c = 0 then (tblOf t c).markShadow slot false else tblOf t c) else tblOf t d := by
  unfold clearCluster
  split
  · exact tblOf_shadowValid ..
  · split
    · next h => rw [h]
    · rfl

theorem tblOf_commitRun (slot : Nat) (code : Nat → Nat) {cs : List Nat} (hn : cs.Nodup) (s : State) (d : Nat) :
    tblOf (cs.foldl (commitCluster slot code) s) d =
      if d ∈ cs then (if code d = 3 then tblOf s d else (tblOf s d).markShadow slot (code d == 0)) else tblOf s d :=
  tblOf_foldl (g := fun c x => if code c = 3 then x else x.markShadow slot (code c == 0)) (tblOf_commitCluster slot code) hn s d

theorem tblOf_clearRun (slot : Nat) (code : Nat → Nat) {cs : List Nat} (hn : cs.Nodup) (s : State) (d : Nat) :
    tblOf (cs.foldl (clearCluster slot code) s) d =
      if d ∈ cs then (if code d = 0 then (tblOf s d).markShadow slot false else tblOf s d) else tblOf s d :=
  tblOf_foldl (g := fun c x => if code c = 0 then x.markShadow slot false else x) (tblOf_clearCluster slot code) hn s d

theorem tblOf_swapRun {cs : List Nat} (hn : cs.Nodup) (s : State) (d : Nat) :
    tblOf (cs.foldl (fun t c => swapCluster c t) s) d = if d ∈ cs then (tblOf s d).swapped else tblOf s d :=
  tblOf_foldl (g := fun _ x => x.swapped) (fun _ c d => tblOf_swapCluster c d) hn s d

theorem emptyLoading_of_none (h : s.tbl.load = none) (c : Nat) : emptyLoading c s = s := by
  simp [emptyLoading, h]

/-- While no LOAD runs an exchange of banks empties no slot. -/
theorem swapTables_of_no_load (h : s.tbl.load = none) (mask : Nat) :
    swapTables mask s = dropCachesOf mask ((maskClusters mask).foldl (fun t c => swapCluster c t) s) := by
  unfold swapTables
  congr 1
  generalize maskClusters mask = cs
  induction cs generalizing s with
  | nil => rfl
  | cons c cs ih =>
    have hc : (swapCluster c s).tbl.load = none := h
    rw [List.foldl_cons, List.foldl_cons, emptyLoading_of_none hc, ih hc]

/-- SWAP_IDLE accepted: the operation's end leaves no LOAD running. -/
theorem swapIdleOp_accepted (ha : s.man.active ≠ none) (hq : s.cq.takenSinceApply = false) (mask : Nat) :
    swapIdleOp mask s = dropCachesOf mask ((maskClusters mask).foldl (fun t c => swapCluster c t) (endOp [] s)) := by
  rw [swapIdleOp, if_pos ⟨Option.isSome_iff_ne_none.2 ha, by simp [hq]⟩, swapTables_of_no_load rfl]

theorem swapIdleOp_refused (h : s.man.active = none ∨ s.cq.takenSinceApply = true) (mask : Nat) :
    swapIdleOp mask s = { s with tbl := s.tbl.ended 6 0xFF } := by
  rw [swapIdleOp, if_neg (by rcases h with h | h <;> simp [h])]
  rfl

/-- A region's cache survives an exchange of banks when none of the region's clusters is masked (R173). -/
theorem region_unmasked_iff {mask : Nat} (hm : mask < 2 ^ Config.clusters) (x : Nat) :
    (!(List.range 4).any (fun q => mask.testBit (4 * x + q))) = true ↔ ∀ c ∈ maskClusters mask, c / 4 ≠ x := by
  simp only [Bool.not_eq_true', List.any_eq_false, List.mem_range, mem_maskClusters]
  constructor
  · rintro h c ⟨-, hc⟩ rfl
    exact h (c % 4) (Nat.mod_lt _ (by decide)) (by rwa [Nat.div_add_mod])
  · intro h q hq hb
    exact h (4 * x + q) ⟨(Nat.pow_lt_pow_iff_right (by decide)).1 ((Nat.ge_two_pow_of_testBit hb).trans_lt hm), hb⟩ (by omega)

/-- The pairs of a mask of 32 clusters lie among the 32 (R357). -/
theorem pairMask_lt (s : State) (mask : BitVec 32) : pairMask s mask.toNat < 2 ^ Config.clusters := by
  unfold pairMask
  have h := mask.isLt
  split
  · refine Nat.or_lt_two_pow (Nat.or_lt_two_pow h ?_) ?_
    · rw [Nat.shiftLeft_eq]
      show _ < 2 ^ 32
      omega
    · rw [Nat.shiftRight_eq_div_pow]
      show _ < 2 ^ 32
      omega
  · exact h

/-! ## A write to JQ_TBL_CTL -/

/-- The state with an operation begun: BUSY, its code, and no result. -/
def opBegun (code : Nat) (s : State) : State :=
  { s with tbl := { s.tbl with busy := true, lastOp := code, result := 0, failCluster := 0xFF } }

theorem startOp_busy (h : s.tbl.busy = true) (code mask slot : Nat) : startOp code mask slot s = s := by
  simp [startOp, h]

theorem startOp_idle (hb : s.tbl.busy = false) (hi : installing s = false) (code mask slot : Nat) :
    startOp code mask slot s = performOp code (pairMask s mask) slot (opBegun code s) := by
  simp only [startOp, hb, Bool.false_eq_true, ↓reduceIte]
  exact if_neg (by simp [hi])

@[simp] theorem pairMask_dropHeld (p : Port) (mask : Nat) : pairMask (dropHeld p s) mask = pairMask s mask := by
  cases p <;> rfl

@[simp] theorem installing_dropHeld (p : Port) : installing (dropHeld p s) = installing s := by
  cases p <;> rfl

@[simp] theorem refusing_opBegun_dropHeld (code : Nat) (p : Port) (c : Nat) :
    refusing (opBegun code (dropHeld p s)) c = refusing s c := by
  cases p <;> rfl

@[simp] theorem shadowCheck_opBegun_dropHeld (code : Nat) (p : Port) (slot c : Nat) :
    shadowCheck (opBegun code (dropHeld p s)) slot c = shadowCheck s slot c := by
  cases p <;> rfl

@[simp] theorem tblOf_opBegun_dropHeld (code : Nat) (p : Port) (c : Nat) :
    tblOf (opBegun code (dropHeld p s)) c = tblOf s c := by
  cases p <;> rfl


/-- What COMMIT and CLEAR share: a run over the masked clusters, each with its code, and the end that reports the first that failed. -/
theorem ended_run {f : State → Nat → State} (h : ∀ t c, OnlyBanks t (f t c)) (cs : List Nat) (code : Nat → Nat) (u : State)
    {t : State} (ht : t = endOp (cs.map (fun c => (c, code c))) (cs.foldl f u)) :
    t.tbl.busy = false ∧ t.tbl.lastOp = u.tbl.lastOp ∧ t.tbl.images = u.tbl.images ∧
      (∀ d, tblOf t d = tblOf (cs.foldl f u) d) ∧
      ((∀ c ∈ cs, code c = 0) → t.tbl.result = 0 ∧ t.tbl.failCluster = 0xFF) ∧
      (∀ c, cs.find? (fun x => code x != 0) = some c → t.tbl.result = code c ∧ t.tbl.failCluster = c) ∧
      t = { u with tbl := t.tbl } := by
  have hf : cs.foldl f u = _ := OnlyBanks.foldl h cs u
  rw [endOp_map] at ht
  subst ht
  refine ⟨rfl, by rw [hf]; rfl, by rw [hf]; rfl, fun d => rfl, fun hc => ?_, fun c hc => ?_, by rw [hf]⟩
  · have hn : cs.find? (fun c => code c != 0) = none := List.find?_eq_none.2 (by simpa using hc)
    simp [TblUnit.ended, hn]
  · simp [TblUnit.ended, hc]

/-- TBL_COMMIT with no application running. -/
theorem tblCommit_effect {p : Port} {mask : BitVec 32} {slot : BitVec 4} (hs : Served p 7 s) (hb : s.tbl.busy = false)
    (hi : installing s = false) :
    let cs := maskClusters (pairMask s mask.toNat)
    let code := fun (c : Nat) => if refusing s c then 3 else shadowCheck s slot.toNat c
    exec (.tblCommit p mask slot) s = .next (endOp (cs.map (fun c => (c, code c)))
      (cs.foldl (commitCluster slot.toNat code) (opBegun 1 (dropHeld p s)))) := by
  show Host.Outcome.next (onMain p 7 (startOp 1 mask.toNat slot.toNat) s) = _
  rw [onMain_served hs, startOp_idle (by simpa) (by simpa)]
  simp only [performOp, commitOp_eq, pairMask_dropHeld, refusing_opBegun_dropHeld, shadowCheck_opBegun_dropHeld]

/-- TBL_CLEAR with no application running. -/
theorem tblClear_effect {p : Port} {mask : BitVec 32} {slot : BitVec 4} (hs : Served p 7 s) (hb : s.tbl.busy = false)
    (hi : installing s = false) :
    let cs := maskClusters (pairMask s mask.toNat)
    let code := fun (c : Nat) => if refusing s c then 3 else 0
    exec (.tblClear p mask slot) s = .next (endOp (cs.map (fun c => (c, code c)))
      (cs.foldl (clearCluster slot.toNat code) (opBegun 2 (dropHeld p s)))) := by
  show Host.Outcome.next (onMain p 7 (startOp 2 mask.toNat slot.toNat) s) = _
  rw [onMain_served hs, startOp_idle (by simpa) (by simpa)]
  simp only [performOp, clearOp_eq, pairMask_dropHeld, refusing_opBegun_dropHeld]

/-- SWAP_IDLE with no application running. -/
theorem swapIdle_effect {p : Port} {mask : BitVec 32} (hs : Served p 7 s) (hb : s.tbl.busy = false) (hi : installing s = false) :
    exec (.swapIdle p mask) s = .next (swapIdleOp (pairMask s mask.toNat) (opBegun 4 (dropHeld p s))) := by
  show Host.Outcome.next (onMain p 7 (startOp 4 mask.toNat 0) s) = _
  rw [onMain_served hs, startOp_idle (by simpa) (by simpa), pairMask_dropHeld]
  rfl

/-- While an operation runs another one is ignored (R170). -/
theorem startOp_effect_busy {p : Port} (hs : Served p 7 s) (hb : s.tbl.busy = true) (code mask slot : Nat) :
    onMain p 7 (startOp code mask slot) s = dropHeld p s := by
  rw [onMain_served hs, startOp_busy (by simpa)]

/-- Settles O44: COMMIT and CLEAR run over distinct clusters, so each takes its own code; SWAP_IDLE runs with no LOAD under way. -/
theorem tableSlotsAreCommitted : Obligations.TableSlotsAreCommitted := by
  unfold Obligations.TableSlotsAreCommitted
  refine ⟨fun s p mask slot hs hb => ?_, fun s p mask slot hs hb hi => ?_⟩
  · exact ⟨congrArg _ (startOp_effect_busy hs hb ..), congrArg _ (startOp_effect_busy hs hb ..),
      congrArg _ (startOp_effect_busy hs hb ..), congrArg _ (startOp_effect_busy hs hb ..)⟩
  intro cs shadow code
  have hn : cs.Nodup := nodup_maskClusters _
  refine ⟨⟨_, tblCommit_effect hs hb hi, ?_⟩, ⟨_, tblClear_effect hs hb hi, ?_⟩, fun ha hq => ?_, fun h => ?_⟩
  · obtain ⟨hbusy, hop, himg, hbank, hall, hfirst, hrest⟩ :=
      ended_run (commitCluster_onlyBanks slot.toNat code) cs code (opBegun 1 (dropHeld p s)) rfl
    simp only [tblOf_commitRun slot.toNat code hn, tblOf_opBegun_dropHeld] at hbank
    refine ⟨hbusy, hop, himg.trans (by simp [opBegun]), fun c hc hr => ?_, fun c hc => ?_, hall, hfirst, hrest⟩
    · have hcode : code c = shadowCheck s slot.toNat c := by simp [code, hr]
      refine (shadow_of_markShadow (v := code c == 0) ((hbank c).trans ?_)).trans (if_congr (by rw [hcode, beq_iff_eq]) rfl rfl)
      rw [if_pos hc, if_neg (by rw [hcode]; exact shadowCheck_ne_locked s _ c)]
    · rw [hbank]
      rcases hc with hc | hr
      · simp [hc]
      · simp [code, hr]
  · obtain ⟨hbusy, hop, himg, hbank, hall, hfirst, hrest⟩ :=
      ended_run (clearCluster_onlyBanks slot.toNat _) cs (fun c => if refusing s c then 3 else 0) (opBegun 2 (dropHeld p s)) rfl
    simp only [tblOf_clearRun slot.toNat _ hn, tblOf_opBegun_dropHeld] at hbank
    refine ⟨hbusy, hop, himg.trans (by simp [opBegun]), fun c hc hr => ?_, fun c hc => ?_, fun h => hall (by simpa using h),
      fun c hc => ?_, hrest⟩
    · exact shadow_of_markShadow (v := false) ((hbank c).trans (by simp [hc, hr]))
    · rw [hbank]
      rcases hc with hc | hr
      · simp [hc]
      · simp [hr]
    · have hr : refusing s c = true := by simpa using List.find?_some hc
      have hp : (fun x => (if refusing s x then 3 else 0) != 0) = fun x => refusing s x := by
        funext x; cases refusing s x <;> rfl
      simpa [hr] using hfirst c (by rw [hp]; exact hc)
  · have hrun := OnlyBanks.foldl swapCluster_onlyBanks cs (endOp [] (opBegun 4 (dropHeld p s)))
    have hbank := tblOf_swapRun hn (endOp [] (opBegun 4 (dropHeld p s)))
    have hold : ∀ c, tblOf (endOp [] (opBegun 4 (dropHeld p s))) c = tblOf s c := tblOf_opBegun_dropHeld 4 p
    simp only [hold] at hbank
    refine ⟨_, (swapIdle_effect hs hb hi).trans (congrArg _ (swapIdleOp_accepted (by simpa [opBegun]) (by simpa [opBegun]) _)),
      ?_, ?_, fun c hc => ?_, fun c hc => ?_, ?_, fun x => ?_, ?_⟩
    · rw [hrun]; rfl
    · rw [hrun]; rfl
    · exact (hbank c).trans (if_pos hc)
    · exact (hbank c).trans (if_neg hc)
    · rw [hrun]; simp [dropCachesOf, endOp_nil, TblUnit.ended, opBegun]
    · rw [hrun]
      simp [dropCachesOf, endOp_nil, opBegun, region_unmasked_iff (pairMask_lt s mask), cs]
    · rw [hrun]; simp [dropCachesOf, endOp_nil, opBegun]
  · refine ⟨_, (swapIdle_effect hs hb hi).trans (congrArg _ (swapIdleOp_refused (by simpa [opBegun] using h) _)), rfl, rfl, ?_, rfl⟩
    simp [TblUnit.ended, opBegun]

end Sys2Proof.Machine
end

section
/-! SUPPORT. What an application of a manifest puts in force, and what the landing's work after it leaves alone (R77, R82 to R84). -/

namespace Sys2Proof.Machine

variable {α : Type} {s t u : State}

/-! ## Table writes and operations change the table unit and the region caches alone -/

/-- From `s` to `t` only the table unit and the region caches may differ, and empty caches stay empty. -/
structure OnlyTables (s t : State) : Prop where
  rest : t = { s with tbl := t.tbl, rtv := { s.rtv with cache := t.rtv.cache } } := by rfl
  cache : s.rtv.cache = [] → t.rtv.cache = [] := by exact id

theorem OnlyTables.refl (s : State) : OnlyTables s s := {}

theorem OnlyTables.trans (h : OnlyTables s t) (k : OnlyTables t u) : OnlyTables s u :=
  ⟨by rw [k.rest, h.rest], fun x => k.cache (h.cache x)⟩

theorem OnlyTables.man (h : OnlyTables s t) : t.man = s.man := by rw [h.rest]

theorem OnlyTables.crs (h : OnlyTables s t) : t.crs = s.crs := by rw [h.rest]

theorem OnlyTables.ite {c : Prop} [Decidable c] (h : OnlyTables s t) (k : OnlyTables s u) :
    OnlyTables s (if c then t else u) := by
  split <;> assumption

theorem OnlyTables.foldl {f : State → α → State} (h : ∀ t x, OnlyTables t (f t x)) (xs : List α) (s : State) :
    OnlyTables s (xs.foldl f s) :=
  List.foldlRecOn xs f (motive := OnlyTables s) (.refl s) (fun t ht x _ => ht.trans (h t x))

theorem OnlyBanks.onlyTables (h : OnlyBanks s t) : OnlyTables s t :=
  ⟨by rw [h], fun x => by rw [h]; exact x⟩

theorem endOp_onlyTables (rs : List (Nat × Nat)) (s : State) : OnlyTables s (endOp rs s) := by
  unfold endOp
  dsimp only
  split <;> exact {}

theorem slotWrite_onlyTables (c slot off : Nat) (bs : List Byte) (s : State) : OnlyTables s (slotWrite c slot off bs s) :=
  .ite {} {}

theorem windowWrite_onlyTables (off : Nat) (bs : List Byte) (s : State) : OnlyTables s (windowWrite off bs s) :=
  .ite (.refl s) (.foldl (fun t c => slotWrite_onlyTables c _ _ _ t) _ _)

theorem commitOp_onlyTables (mask slot : Nat) (s : State) : OnlyTables s (commitOp mask slot s) := by
  rw [commitOp_eq]
  exact (OnlyBanks.foldl (commitCluster_onlyBanks slot _) _ s).onlyTables.trans (endOp_onlyTables ..)

theorem clearOp_onlyTables (mask slot : Nat) (s : State) : OnlyTables s (clearOp mask slot s) := by
  rw [clearOp_eq]
  exact (OnlyBanks.foldl (clearCluster_onlyBanks slot _) _ s).onlyTables.trans (endOp_onlyTables ..)

theorem loadOp_onlyTables (mask slot : Nat) (s : State) : OnlyTables s (loadOp mask slot s) := by
  unfold loadOp
  extract_lets cs locked s1
  have h : OnlyTables s s1 := (OnlyBanks.foldl (fun t c => shadowValid_onlyBanks slot false c t) _ s).onlyTables
  exact .ite (h.trans (endOp_onlyTables ..)) (h.trans {})

theorem emptyLoading_onlyBanks (c : Nat) (s : State) : OnlyBanks s (emptyLoading c s) := by
  unfold emptyLoading
  split
  · split <;> exact rfl
  · exact rfl

theorem dropCachesOf_onlyTables (mask : Nat) (s : State) : OnlyTables s (dropCachesOf mask s) :=
  ⟨rfl, fun h => by simp [dropCachesOf, h]⟩

theorem swapTables_onlyTables (mask : Nat) (s : State) : OnlyTables s (swapTables mask s) :=
  (OnlyBanks.foldl (fun t c => (swapCluster_onlyBanks t c).trans (emptyLoading_onlyBanks c _)) _ s).onlyTables.trans
    (dropCachesOf_onlyTables ..)

theorem swapIdleOp_onlyTables (mask : Nat) (s : State) : OnlyTables s (swapIdleOp mask s) :=
  .ite ((endOp_onlyTables [] s).trans (swapTables_onlyTables ..)) ((endOp_onlyTables [] s).trans {})

theorem performOp_onlyTables (code mask slot : Nat) (s : State) : OnlyTables s (performOp code mask slot s) := by
  unfold performOp
  split
  · exact commitOp_onlyTables ..
  · exact clearOp_onlyTables ..
  · exact loadOp_onlyTables ..
  · exact swapIdleOp_onlyTables ..

theorem performHeld_onlyTables (s : State) (h : HeldTable) : OnlyTables s (performHeld h s) := by
  cases h with
  | window off bytes => exact windowWrite_onlyTables ..
  | op code mask slot => exact performOp_onlyTables ..

theorem lockLoads_onlyTables (s : State) : OnlyTables s (lockLoads s) := by
  unfold lockLoads
  split
  · exact .refl s
  · exact .ite (endOp_onlyTables ..) {}

theorem emptyShadows_onlyBanks (cs : List Nat) (s : State) : OnlyBanks s (emptyShadows cs s) := by
  unfold emptyShadows
  exact .foldl (fun _ _ => by exact rfl) cs s

theorem switchTables_onlyTables (m : Manifest) (s : State) : OnlyTables s (switchTables m s) := by
  unfold switchTables
  extract_lets written all s1
  have h : OnlyBanks s s1 := emptyShadows_onlyBanks ..
  have k : OnlyBanks s1 (all.foldl (fun t c => swapCluster c t) s1) := .foldl swapCluster_onlyBanks all s1
  exact ((h.trans k).trans (emptyShadows_onlyBanks all _)).onlyTables.trans ⟨rfl, fun _ => rfl⟩

/-- What was held is performed on the state that holds nothing more. -/
theorem releaseHeld_onlyTables (s : State) : OnlyTables { s with man := { s.man with held := [] } } (releaseHeld s) :=
  .foldl performHeld_onlyTables _ _

/-! ## What an application put in force stays -/

/-- From `s` to `t` what an application put in force stays: the manifest unit but for what it holds, the keep records, the
settings of the Retriever and of the towline, the map, what is latched, the landing's run, empty region caches, and what is raised. -/
structure InForce (s t : State) : Prop where
  man : t.man = { s.man with held := t.man.held } := by rfl
  noHeld : s.man.held = [] → t.man.held = [] := by exact id
  keep : t.keep = s.keep := by rfl
  lookahead : t.rtv.lookahead = s.rtv.lookahead := by rfl
  readTags : t.rtv.readTags = s.rtv.readTags := by rfl
  writeTags : t.rtv.writeTags = s.rtv.writeTags := by rfl
  cache : s.rtv.cache = [] → t.rtv.cache = [] := by exact id
  map : t.ken.map = s.ken.map := by rfl
  groups : t.tow.berthGroup = s.tow.berthGroup := by rfl
  pages : t.tow.mirrorPages = s.tow.mirrorPages := by rfl
  latched : t.crs.pendingLL = s.crs.pendingLL := by rfl
  discarded : t.crs.llDiscarded = s.crs.llDiscarded := by rfl
  run : t.crs.run = s.crs.run := by rfl
  taken : t.cq.takenSinceApply = s.cq.takenSinceApply := by rfl
  raised : ∀ k, s.evt.pending.getLsbD k = true → t.evt.pending.getLsbD k = true := by exact fun _ h => h

/-- From `s` to `t` what is in force stays, and the held restore messages are the same. -/
structure Passive (s t : State) : Prop extends InForce s t where
  restores : t.tow.heldRestore = s.tow.heldRestore := by rfl

theorem InForce.refl (s : State) : InForce s s := {}

theorem Passive.refl (s : State) : Passive s s := {}

theorem InForce.trans (h : InForce s t) (k : InForce t u) : InForce s u where
  man := by rw [k.man, h.man]
  noHeld := fun x => k.noHeld (h.noHeld x)
  keep := k.keep.trans h.keep
  lookahead := k.lookahead.trans h.lookahead
  readTags := k.readTags.trans h.readTags
  writeTags := k.writeTags.trans h.writeTags
  cache := fun x => k.cache (h.cache x)
  map := k.map.trans h.map
  groups := k.groups.trans h.groups
  pages := k.pages.trans h.pages
  latched := k.latched.trans h.latched
  discarded := k.discarded.trans h.discarded
  run := k.run.trans h.run
  taken := k.taken.trans h.taken
  raised := fun n x => k.raised n (h.raised n x)

theorem Passive.trans (h : Passive s t) (k : Passive t u) : Passive s u :=
  ⟨h.toInForce.trans k.toInForce, k.restores.trans h.restores⟩

/-- `Passive.trans`, the last step first. -/
theorem Passive.after (k : Passive t u) (h : Passive s t) : Passive s u := h.trans k

theorem InForce.ite {c : Prop} [Decidable c] (h : InForce s t) (k : InForce s u) : InForce s (if c then t else u) := by
  split <;> assumption

theorem Passive.ite {c : Prop} [Decidable c] (h : Passive s t) (k : Passive s u) : Passive s (if c then t else u) := by
  split <;> assumption

theorem InForce.foldl {f : State → α → State} (h : ∀ t x, InForce t (f t x)) (xs : List α) (s : State) :
    InForce s (xs.foldl f s) :=
  List.foldlRecOn xs f (motive := InForce s) (.refl s) (fun t ht x _ => ht.trans (h t x))

theorem Passive.foldl {f : State → α → State} (h : ∀ t x, Passive t (f t x)) (xs : List α) (s : State) :
    Passive s (xs.foldl f s) :=
  List.foldlRecOn xs f (motive := Passive s) (.refl s) (fun t ht x _ => ht.trans (h t x))

theorem OnlyTables.passive (h : OnlyTables s t) : Passive s t := by
  obtain ⟨hr, hc⟩ := h
  rw [hr] at hc ⊢
  exact { cache := hc }

/-! ## Events -/

theorem logEvent_pending (e : EvtUnit) (x : EvtEntry) : (logEvent e x).pending = e.pending ||| BitVec.ofNat 15 (2 ^ x.code) := by
  unfold logEvent
  dsimp only
  split <;> rfl

theorem raise_passive (code : Nat) (cmd : Option (Nat × Nat)) (d0 d1 : Nat) (s : State) :
    Passive s (raise code cmd d0 d1 s) := by
  unfold raise
  refine .ite {} { raised := fun k h => ?_ }
  rw [logEvent_pending, BitVec.getLsbD_or, h, Bool.true_or]

/-! ## Landings -/

theorem startCopies_passive (l : Nat) (req : Option Nat) (s : State) : Passive s (startCopies l req s) :=
  (lockLoads_onlyTables _).passive.after {}

/-- After a landing is reached no request expires that is not armed. -/
theorem afterReached_passive (h : s.man.apply ≠ .armed) (l : Nat) : Passive s (afterReached l s) := by
  unfold afterReached
  extract_lets c0 k0 s1 s2
  have h2 : Passive s s2 := by
    rw [show s2 = s1 from if_neg (fun x => h x.1)]
    exact {}
  split
  · exact h2.trans (startCopies_passive ..)
  · refine h2.trans (.ite ?_ (startCopies_passive ..))
    have k := startCopies_passive 0 none { s2 with crs := { s2.crs with crossing := s2.crs.crossing + 1 } }
    exact (Passive.trans {} k).trans {}

theorem noteReached_passive (l : Nat) (c : Option Nat) (s : State) : Passive s (noteReached l c s) := {}

theorem redecide_passive (s : State) : Passive s (redecide s) := {}

theorem rebindBanks_passive (s : State) : Passive s (rebindBanks s) := {}

theorem releaseHeld_passive (s : State) : Passive s (releaseHeld s) :=
  (releaseHeld_onlyTables s).passive.after { noHeld := fun _ => rfl }

theorem releaseHeld_held (s : State) : (releaseHeld s).man.held = [] :=
  (releaseHeld_onlyTables s).passive.noHeld rfl

theorem endCert_passive (st cause : Nat) (s : State) : Passive s (endCert st cause s) := {}

theorem certSwap_passive (l : Nat) (s : State) : Passive s (certSwap l s) := .ite {} (.refl s)

theorem certApplied_passive (l : Nat) (s : State) : Passive s (certApplied l s) := .ite (endCert_passive ..) (.refl s)

/-! ## The mirror -/

theorem nextSnapshot_passive (s : State) : Passive s (nextSnapshot s) := by
  unfold nextSnapshot
  split
  · exact .ite {} (.refl s)
  · exact .refl s

theorem takeSnapshot_passive (c l : Nat) (a b : Option DigRec) (s : State) : Passive s (takeSnapshot c l a b s) :=
  (nextSnapshot_passive _).after {}

theorem comparePartner_passive (s : State) (n : SnapHead) : Passive s (comparePartner n s) := by
  unfold comparePartner
  split
  · exact .refl s
  · exact .ite {} ((raise_passive ..).after {})

theorem promotePartner_passive (s : State) : Passive s (promotePartner s) := by
  unfold promotePartner
  split
  · exact .ite {} (.refl s)
  · exact .refl s

theorem refuseHead_passive (h : SnapHead) (s : State) : Passive s (refuseHead h s) := (raise_passive ..).after {}

theorem dropArriving_passive (s : State) : Passive s (dropArriving s) := by
  unfold dropArriving
  split
  · exact {}
  · exact .refl s

theorem acceptHead_passive (h : SnapHead) (s : State) : Passive s (acceptHead h s) :=
  .ite ((comparePartner_passive _ h).after {}) (.ite {} (refuseHead_passive ..))

theorem receiveHead_passive (h : SnapHead) (s : State) : Passive s (receiveHead h s) := by
  unfold receiveHead
  split
  · exact acceptHead_passive ..
  · exact acceptHead_passive ..
  · exact {}
  · exact refuseHead_passive ..

theorem settleSnapshot_passive (n : Snapshot) (r : RxSnap) (s : State) : Passive s (settleSnapshot n r s) := by
  unfold settleSnapshot
  split
  · exact (promotePartner_passive _).after {}
  · exact (dropArriving_passive s).trans {}
  · exact dropArriving_passive s

theorem headNow_passive (n : Snapshot) (s : State) : Passive s (headNow n s) := by
  unfold headNow
  split
  · exact .ite (.refl s) ((receiveHead_passive ..).after (dropArriving_passive s))
  · exact receiveHead_passive ..

theorem receiveSnapshot_passive (s : State) (n : Snapshot) : Passive s (receiveSnapshot n s) := by
  unfold receiveSnapshot
  dsimp only
  split
  · exact (settleSnapshot_passive ..).after (headNow_passive n s)
  · exact headNow_passive n s

theorem reexamineArriving_passive (s : State) : Passive s (reexamineArriving s) := by
  unfold reexamineArriving
  split
  · exact .ite ((receiveHead_passive ..).after (dropArriving_passive s)) (.refl s)
  · exact .refl s

theorem receiveReq_inForce (m : TowMsg) (s : State) : InForce s (receiveReq m s) := by
  unfold receiveReq
  split
  · exact {}
  · exact {}
  · exact .refl s
  · exact (raise_passive ..).toInForce

theorem restoreFrom_inForce (n : Snapshot) (s : State) : InForce s (restoreFrom n s) := by
  unfold restoreFrom
  extract_lets held a0 s1 s2
  have h1 : InForce s s1 := {}
  have h2 : InForce s1 s2 := .foldl (fun _ _ => {}) _ _
  exact (h1.trans h2).trans {}

theorem takeRestore_inForce (slot : Option Snapshot) (place : Option (Nat × Nat)) (s : State) :
    InForce s (takeRestore slot place s) := by
  unfold takeRestore
  refine .ite (.refl s) ?_
  split
  · exact {}
  · exact .ite (restoreFrom_inForce ..) {}

theorem receiveData_inForce (m : TowMsg) (s : State) : InForce s (receiveData m s) := by
  unfold receiveData
  dsimp only
  split
  · exact .ite (takeRestore_inForce ..) (.ite {} (raise_passive ..).toInForce)
  · exact {}
  · exact .refl s
  · exact (raise_passive ..).toInForce

/-- The examination of held snapshots and messages leaves what is in force; without held restore messages it writes no byte. -/
theorem reexamineSnaps_inForce (s : State) :
    InForce s (reexamineSnaps s) ∧ (s.tow.heldRestore = [] → (reexamineSnaps s).sp.mem = s.sp.mem) := by
  unfold reexamineSnaps
  extract_lets due c0 s1 c1 s2 c2 s3
  have h1 : Passive s s1 := (Passive.foldl comparePartner_passive due _).after {}
  have h2 : Passive s1 s2 := (Passive.foldl receiveSnapshot_passive _ _).after {}
  have h3 : Passive s2 s3 := (reexamineArriving_passive _).after {}
  have h : Passive s s3 := (h1.trans h2).trans h3
  refine ⟨h.toInForce.trans (InForce.trans {} (.foldl (fun t m => .ite (receiveReq_inForce m t) (receiveData_inForce m t)) _ _)),
    fun hr => ?_⟩
  have q1 : Quiet s s1 := (Quiet.foldl (fun t n => comparePartner_quiet n t) due _).after (.same rfl rfl rfl)
  have q2 : Quiet s1 s2 := (Quiet.foldl (fun t n => receiveSnapshot_quiet n t) _ _).after (.same rfl rfl rfl)
  have q3 : Quiet s2 s3 := (reexamineArriving_quiet _).after (.same rfl rfl rfl)
  rw [h.restores, hr]
  exact ((q1.trans q2).trans q3).mem

end Sys2Proof.Machine
end

section
/-! SUPPORT. The end of a verification and of an application's phases (R77, R82 to R84, R385, R386). -/

namespace Sys2Proof.Machine

variable {s t u : State}

/-! ## The reseeding before the checks (R385, R386) -/

/-- A reseeding changes the Tollhouse and the writes of a certificate that wait. -/
theorem reseedDrbg_frame (s : State) : ∃ x y, reseedDrbg s = { s with toll := x, rtv := y } := by
  unfold reseedDrbg seedDrbg
  extract_lets d h d0 seed
  split
  · unfold tollError
    split <;> exact ⟨_, _, rfl⟩
  · exact ⟨_, _, rfl⟩

/-- A reseeding that leaves no error state changes the generator and its tests alone. -/
theorem reseedDrbg_good (h : (reseedDrbg s).toll.errorState = false) :
    s.toll.errorState = false ∧ ∃ d x, reseedDrbg s = { s with toll := { s.toll with drbg := d, health := x } } := by
  unfold reseedDrbg seedDrbg at h ⊢
  extract_lets at h ⊢
  split at h
  · simp [tollError] at h
  · next hf => rw [if_neg hf]; exact ⟨h, _, _, rfl⟩

theorem countUse_frame (slot : Nat) (s : State) : ∃ x, countUse slot s = { s with toll := x } := by
  unfold countUse
  dsimp only
  split <;> exact ⟨_, rfl⟩

theorem countVerification_frame (s : State) : ∃ x, countVerification s = { s with toll := x } := by
  unfold countVerification
  obtain ⟨x, hx⟩ := countUse_frame (signSlot s) s
  split
  · exact ⟨_, rfl⟩
  · rw [hx]
    dsimp only
    split
    · obtain ⟨y, hy⟩ := countUse_frame (decryptSlot s) { s with toll := x }
      exact ⟨y, hy⟩
    · exact ⟨x, rfl⟩

theorem startWaiting_frame (s : State) : ∃ x, startWaiting s = { s with toll := x } := by
  unfold startWaiting
  split <;> exact ⟨_, rfl⟩

/-- In the error state a verification is refused with TOLL_ERROR before any check (R386). -/
theorem verifyStaged_errorState (h : s.toll.errorState = true) : verifyStaged s = .error 0x12 := by
  simp [verifyStaged, earlyReason, h]

/-- The checks do not read the generator. -/
theorem verifyStaged_reseeded (h : (reseedDrbg s).toll.errorState = false) : verifyStaged (reseedDrbg s) = verifyStaged s := by
  obtain ⟨-, d, x, hs⟩ := reseedDrbg_good h
  rw [hs]
  rfl

theorem refuseManifest_up (h : s.pwr.mainDown = false) (hc : s.man.stagedConf = none) (r : Nat) :
    refuseManifest r s = { s with
      man := { s.man with reason := r }, evt := logEvent s.evt ⟨0x0A, none, s.crs.tide, r % 2 ^ 64, 0⟩ } := by
  unfold refuseManifest
  simp only [hc]
  rw [raise_up (by exact h)]
  rfl

theorem mainDown_of_running (h : mainStopped s = false) : s.pwr.mainDown = false := by
  simp only [mainStopped, Bool.or_eq_false_iff] at h
  exact h.1

/-- The state on which a verification is judged differs from the one before it in the Tollhouse and in waiting writes. -/
theorem verification_frame (s : State) : ∃ x y, countVerification (reseedDrbg s) = { s with toll := x, rtv := y } := by
  obtain ⟨x, y, h0⟩ := reseedDrbg_frame s
  obtain ⟨z, h1⟩ := countVerification_frame (reseedDrbg s)
  exact ⟨z, y, by rw [h1, h0]⟩

/-- A verification that ends refused (R77). -/
theorem verificationEnd_refused (hm : mainStopped s = false) (hv : s.man.stage = .verifying) (hb : s.toll.busy = .none) {r : Nat}
    (hr : verifyStaged (reseedDrbg s) = .error r) :
    ∃ x y, exec .manifestVerificationEnd s = .next { s with
      toll := x, rtv := y, man := { s.man with stage := .refused, stagedConf := none, reason := r }
      evt := logEvent s.evt ⟨0x0A, none, s.crs.tide, r % 2 ^ 64, 0⟩ } := by
  obtain ⟨x, y, h1⟩ := verification_frame s
  obtain ⟨w, h2⟩ := startWaiting_frame { s with
    toll := x, rtv := y, man := { s.man with stage := .refused, stagedConf := none, reason := r }
    evt := logEvent s.evt ⟨0x0A, none, s.crs.tide, r % 2 ^ 64, 0⟩ }
  refine ⟨w, y, ?_⟩
  show execManifestVerificationEnd s = _
  rw [execManifestVerificationEnd, if_pos ⟨by simp [hm], hv, hb⟩]
  dsimp only
  rw [hr, h1]
  exact congrArg _ ((congrArg startWaiting (refuseManifest_up (by exact mainDown_of_running hm) rfl r)).trans h2)

/-- A verification that ends verified (R77). -/
theorem verificationEnd_verified (hm : mainStopped s = false) (hv : s.man.stage = .verifying) (hb : s.toll.busy = .none)
    {m : Manifest} (hr : verifyStaged (reseedDrbg s) = .ok m) :
    ∃ x y, exec .manifestVerificationEnd s = .next { s with
      toll := x, rtv := y, man := { s.man with stage := .verified, stagedConf := some m } } := by
  obtain ⟨x, y, h1⟩ := verification_frame s
  obtain ⟨w, h2⟩ := startWaiting_frame { s with
    toll := x, rtv := y, man := { s.man with stage := .verified, stagedConf := some m } }
  refine ⟨w, y, ?_⟩
  show execManifestVerificationEnd s = _
  rw [execManifestVerificationEnd, if_pos ⟨by simp [hm], hv, hb⟩]
  dsimp only
  rw [hr, h1]
  exact congrArg _ h2

/-! ## The landing after an application that aborted (R47, R82) -/

theorem latchIn_man (s : State) (p : Nat × Nat) : (latchIn s p).man = s.man := by
  unfold latchIn
  split <;> rfl

theorem rotate_man (r : Rotation) (acc : State × List Nat) : (rotate r acc).1.man = acc.1.man := by
  unfold rotate
  split <;> rfl

theorem postDigest_man (slot : Nat) (r : DigRec) (s : State) : (postDigest slot r s).man = s.man := by
  unfold postDigest
  extract_lets slots
  split <;> rfl

theorem certSwap_man (l : Nat) (s : State) : (certSwap l s).man = s.man := by
  unfold certSwap
  dsimp only
  split <;> rfl

theorem runEntry_man (l : Nat) (post : Option DigRec) (forced : List Rotation × List (Nat × Nat)) (a : LandingAcc) (t : TimeEntry) :
    (runEntry l post forced a t).state.man = a.state.man := by
  unfold runEntry
  split
  · exact (certSwap_man ..).trans (swapTables_onlyTables ..).man
  · dsimp only
    split
    · rfl
    · exact rotate_man _ (a.state, a.rotated)
  · dsimp only
    split
    · exact rotate_man _ (_, _)
    · split <;> rfl
  · split
    · exact postDigest_man ..
    · rfl
  · rfl
  · rfl

theorem runActions_man (l : Nat) (ll : PendingLL) (post : Option DigRec) (s : State) : (runActions l ll post s).state.man = s.man := by
  unfold runActions
  extract_lets s1 forced a x k s2
  have h1 : s1.man = s.man := List.foldlRecOn ll latchIn (motive := fun t => t.man = s.man) rfl (fun t h p _ => (latchIn_man t p).trans h)
  have h2 : a.state.man = s.man :=
    List.foldlRecOn (matching s1 l) (runEntry l post forced) (motive := fun b => b.state.man = s.man) h1
      (fun b h t _ => (runEntry_man l post forced b t).trans h)
  exact List.foldlRecOn (hostRotation (llValue ll llKenReq)) (fun acc r => rotate r acc)
    (motive := fun b : State × List Nat => b.1.man = s.man) h2 (fun b h r _ => (rotate_man r b).trans h)

/-- The rest of a landing's duties leaves the manifest unit, but for what it holds, where no request is armed; the landing then runs
up to its gate. -/
theorem landingActions_man (h : s.man.apply ≠ .armed) (l : Nat) (full : Bool) (ll : PendingLL) (c : Option Nat) (a b : Option DigRec) :
    let t := landingActions l full ll c a b s
    t.man = { s.man with held := t.man.held } ∧
      t.crs.run.map (fun r => (r.landing, r.stage)) = if full then some (l, .closing) else none := by
  unfold landingActions
  extract_lets post mirror x s1 s2
  have hx : x.state.man = s.man := runActions_man ..
  have h1 : Passive x.state s1 := .ite (takeSnapshot_passive ..) (.refl _)
  have hn : s1.man.apply ≠ .armed := by rw [h1.man, hx]; exact h
  have h2 : Passive x.state s2 := (h1.trans (noteReached_passive l c s1)).trans (afterReached_passive (s := noteReached l c s1) hn l)
  refine ⟨h2.man.trans (by rw [hx]), ?_⟩
  cases full <;> rfl

theorem refuseManifest_man (r : Nat) (s : State) : (refuseManifest r s).man = { s.man with reason := r } :=
  raise_man ..

theorem releaseHeld_man (s : State) : (releaseHeld s).man = { s.man with held := [] } :=
  (releaseHeld_onlyTables s).man

theorem releaseHeld_crs (s : State) : (releaseHeld s).crs = s.crs := (releaseHeld_onlyTables s).crs

/-- What an abort leaves in the manifest unit and of the landing (R82). -/
theorem abortApplication_effect (s : State) :
    (abortApplication s).man =
        { s.man with reason := 0x0E, stage := .refused, stagedConf := none, apply := .none, held := [] } ∧
      (abortApplication s).crs = { s.crs with run := s.crs.run.map (fun r => { r with stage := .closing }) } := by
  unfold abortApplication
  extract_lets s0 s1
  have h0 : OnlyBanks s s0 := by
    unfold s0
    split
    · exact emptyShadows_onlyBanks ..
    · exact rfl
  have hman : s1.man = { s.man with reason := 0x0E } :=
    (refuseManifest_man 0x0E s0).trans (congrArg (fun u : State => { u.man with reason := 0x0E }) h0)
  have hcrs : s1.crs = s.crs := (refuseManifest_crs s0 0x0E).trans h0.onlyTables.crs
  constructor
  · refine (releaseHeld_man _).trans ?_
    show ({ s1.man with stage := .refused, stagedConf := none, apply := .none, held := [] } : ManUnit) = _
    rw [hman]
  · refine (releaseHeld_crs _).trans ?_
    show ({ s1.crs with run := s1.crs.run.map (fun r => { r with stage := .closing }) } : CrsUnit) = _
    rw [hcrs]

/-- Phase 1 ends with a region that is not ready (R82). -/
theorem phase1End_abort {r : LandingRun} {xs : List Nat} (hm : mainStopped s = false) (hr : s.crs.run = some r) (hp : r.stage = .phase1)
    (hx : ∃ x ∈ xs, x < Config.regions) :
    exec (.applicationPhase1End xs) s = .next (if s.man.applyNow then abortApplication s
      else landingActions r.landing true r.ll r.closes r.seg r.cross (abortApplication s)) := by
  show execApplicationPhase1End xs s = _
  have hany : xs.any (· < Config.regions) = true := by simpa using hx
  simp [execApplicationPhase1End, hm, hr, hp, hany]

/-- Phase 1 ends with every region ready (R82). -/
theorem phase1End_ready {r : LandingRun} {xs : List Nat} (hm : mainStopped s = false) (hr : s.crs.run = some r) (hp : r.stage = .phase1)
    (hx : ∀ x ∈ xs, Config.regions ≤ x) :
    exec (.applicationPhase1End xs) s = .next { s with crs := { s.crs with run := some { r with stage := .phase2 } } } := by
  show execApplicationPhase1End xs s = _
  have hany : xs.any (· < Config.regions) = false := by simpa using hx
  simp [execApplicationPhase1End, hm, hr, hp, hany]

/-! ## Phase 2 (R83, R84) -/

/-- What the new map and tables leave: all but the kennel, the tables, the array and the region caches, which are empty. -/
theorem applyTopo_switchTables (m : Manifest) (s : State) :
    ∃ (a : TblUnit) (b : ArrayUnit) (k : KenUnit), k.map = m.topo ∧
      applyTopo m (switchTables m s) = { s with tbl := a, arr := b, ken := k, rtv := { s.rtv with cache := [] } } := by
  have hs := (switchTables_onlyTables m s).rest
  have hc : (switchTables m s).rtv.cache = [] := rfl
  rw [hc] at hs
  rw [hs]
  exact ⟨_, _, _, rfl, rfl⟩

/-- What phase 2 puts in force (R83, R84). -/
structure Installed (m : Manifest) (s t : State) : Prop where
  active : t.man.active = some m
  stage : t.man.stage = .empty
  staged : t.man.staged = []
  stagedConf : t.man.stagedConf = none
  apply : t.man.apply = .none
  keep : t.keep = { s.keep with keptTag := some m.tag, keptPermMgr := m.permMgr }
  lookahead : t.rtv.lookahead = m.lookahead
  readTags : t.rtv.readTags = m.readTags
  writeTags : t.rtv.writeTags = m.writeTags
  cache : t.rtv.cache = []
  map : t.ken.map = m.topo
  groups : t.tow.berthGroup = []
  pages : t.tow.mirrorPages = 0
  latched : t.crs.pendingLL = []
  discarded : t.crs.llDiscarded = true
  run : t.crs.run = s.crs.run.map (fun r => { r with stage := .closing, ll := [] })
  taken : t.cq.takenSinceApply = false

theorem install_installed (m : Manifest) (c l : Nat) (s : State) :
    Installed m s (install m c l s) ∧ (install m c l s).pwr = s.pwr ∧
      (install m c l s).tow.heldRestore = s.tow.heldRestore := by
  obtain ⟨a, b, k, hk, h⟩ := applyTopo_switchTables m s
  unfold install
  rw [h]
  refine ⟨?_, rfl, rfl⟩
  constructor
  case map => exact hk
  all_goals rfl

/-- What is in force stays installed. -/
theorem Installed.kept {m : Manifest} (h : Installed m s t) (k : InForce t u) : Installed m s u where
  active := by rw [k.man]; exact h.active
  stage := by rw [k.man]; exact h.stage
  staged := by rw [k.man]; exact h.staged
  stagedConf := by rw [k.man]; exact h.stagedConf
  apply := by rw [k.man]; exact h.apply
  keep := k.keep.trans h.keep
  lookahead := k.lookahead.trans h.lookahead
  readTags := k.readTags.trans h.readTags
  writeTags := k.writeTags.trans h.writeTags
  cache := k.cache h.cache
  map := k.map.trans h.map
  groups := k.groups.trans h.groups
  pages := k.pages.trans h.pages
  latched := k.latched.trans h.latched
  discarded := k.discarded.trans h.discarded
  run := k.run.trans h.run
  taken := k.taken.trans h.taken

/-- A raised event is pending (R431). -/
theorem raise_pending_bit {code : Nat} (hc : code < 15) (h : s.pwr.mainDown = false) (cmd : Option (Nat × Nat)) (d0 d1 : Nat) :
    (raise code cmd d0 d1 s).evt.pending.getLsbD code = true := by
  rw [raise_up h]
  dsimp only
  rw [logEvent_pending, BitVec.getLsbD_or, BitVec.getLsbD_ofNat]
  simp [hc]

/-- The end of a landing of crossing `c` that applied a manifest: the certificate's view, a snapshot, and the landing reached. -/
def landingApplied (c : Nat) (r : LandingRun) (s : State) : State :=
  let t := certSwap r.landing (certApplied r.landing s)
  afterReached r.landing (noteReached r.landing r.closes
    (if r.mirror then takeSnapshot c r.landing r.seg r.cross t else t))

theorem landingApplied_passive (h : s.man.apply = .none) (c : Nat) (r : LandingRun) : Passive s (landingApplied c r s) := by
  unfold landingApplied
  extract_lets t
  have ht : Passive s t := (certSwap_passive ..).after (certApplied_passive ..)
  have h1 := ht.trans (.ite (c := r.mirror) (takeSnapshot_passive c r.landing r.seg r.cross t) (.refl t))
  have h2 := h1.trans (noteReached_passive r.landing r.closes _)
  refine h2.trans (afterReached_passive ?_ _)
  rw [h2.man, h]
  decide

theorem landingApplied_quiet (c : Nat) (r : LandingRun) (s : State) : Quiet s (landingApplied c r s) := by
  unfold landingApplied
  extract_lets t
  have ht : Quiet s t := (certSwap_quiet ..).after (certApplied_quiet ..)
  exact (afterReached_quiet ..).after ((noteReached_quiet ..).after (ht.trans (.ite (takeSnapshot_quiet ..) (.refl t))))

/-- The end of phase 2 (R84). -/
theorem phase2End_eq {r : LandingRun} {m : Manifest} (hm : mainStopped s = false) (hr : s.crs.run = some r) (hp : r.stage = .phase2)
    (hc : s.man.stagedConf = some m) :
    ∃ d1, exec .applicationPhase2End s = .next (
      let t := releaseHeld (rebindBanks (redecide (raise evManifestApplied none m.tag d1 (install m s.crs.crossing r.landing s))))
      if s.man.applyNow then reexamineSnaps t else reexamineSnaps (landingApplied s.crs.crossing r t)) := by
  refine ⟨if s.man.applyNow then 0 else s.crs.crossing + r.landing * 2 ^ 48, ?_⟩
  show execApplicationPhase2End s = _
  rw [execApplicationPhase2End, if_neg (by simp [hm]), hr, hc]
  dsimp only
  rw [if_neg (by simp [hp])]
  rfl

/-- Phase 2 ends with the staged manifest installed, its event pending, and nothing held; without held restore messages no byte of the
scratchpad changes. -/
theorem phase2End_effect {r : LandingRun} {m : Manifest} (hm : mainStopped s = false) (hr : s.crs.run = some r)
    (hp : r.stage = .phase2) (hc : s.man.stagedConf = some m) :
    ∃ t, exec .applicationPhase2End s = .next t ∧ Installed m s t ∧ t.man.held = [] ∧ t.evt.pending.getLsbD 9 = true ∧
      (s.tow.heldRestore = [] → t.sp.mem = s.sp.mem) := by
  obtain ⟨d1, he⟩ := phase2End_eq hm hr hp hc
  obtain ⟨hi, hpwr, hrest⟩ := install_installed m s.crs.crossing r.landing s
  have hbit := raise_pending_bit (s := install m s.crs.crossing r.landing s) (code := evManifestApplied) (by decide)
    (by rw [hpwr]; exact mainDown_of_running hm) none m.tag d1
  have hraise := raise_passive evManifestApplied none m.tag d1 (install m s.crs.crossing r.landing s)
  have qraise := (raise_quiet evManifestApplied none m.tag d1 _).after (install_quiet m s.crs.crossing r.landing s)
  generalize raise evManifestApplied none m.tag d1 (install m s.crs.crossing r.landing s) = a at he hbit hraise qraise
  have hrel : Passive a (releaseHeld (rebindBanks (redecide a))) :=
    (releaseHeld_passive _).after ((rebindBanks_passive _).after (redecide_passive a))
  have qrel : Quiet s (releaseHeld (rebindBanks (redecide a))) :=
    (releaseHeld_quiet _).after ((rebindBanks_quiet _).after ((redecide_quiet a).after qraise))
  have hheld := releaseHeld_held (rebindBanks (redecide a))
  generalize releaseHeld (rebindBanks (redecide a)) = b at he hrel qrel hheld
  have hb : b.man.apply = .none := ((hi.kept hraise.toInForce).kept hrel.toInForce).apply
  obtain ⟨c, he, hbc, qc⟩ : ∃ c, exec .applicationPhase2End s = .next (reexamineSnaps c) ∧ Passive b c ∧ Quiet s c := by
    by_cases hn : s.man.applyNow = true
    · exact ⟨b, by rw [he]; simp [hn], .refl b, qrel⟩
    · exact ⟨landingApplied s.crs.crossing r b, by rw [he]; simp [hn], landingApplied_passive hb _ r, qrel.trans (landingApplied_quiet _ r b)⟩
  obtain ⟨hsnap, hmem⟩ := reexamineSnaps_inForce c
  have hac : Passive a c := hrel.trans hbc
  have hall := hac.toInForce.trans hsnap
  refine ⟨_, he, (hi.kept hraise.toInForce).kept hall, hsnap.noHeld (hbc.noHeld hheld), hall.raised _ hbit, fun h => ?_⟩
  rw [hmem (by rw [hac.restores, hraise.restores, hrest, h]), qc.mem]

/-- An end of phase 1 changes nothing where no phase 1 runs. -/
theorem phase1End_idle (h : mainStopped s = true ∨ ∀ r, s.crs.run = some r → r.stage ≠ .phase1) (xs : List Nat) :
    exec (.applicationPhase1End xs) s = .next s := by
  refine congrArg Host.Outcome.next ?_
  split
  · rfl
  · next hm =>
    split
    · rfl
    · next r hr => exact if_pos (h.resolve_left hm r hr)

/-- An end of phase 2 changes nothing where no phase 2 runs. -/
theorem phase2End_idle (h : mainStopped s = true ∨ ∀ r, s.crs.run = some r → r.stage ≠ .phase2) :
    exec .applicationPhase2End s = .next s := by
  refine congrArg Host.Outcome.next ?_
  split
  · rfl
  · next hm =>
    split
    · next r m hr hc => exact if_pos (h.resolve_left hm r hr)
    · rfl

theorem sameMemory_of_mem (h : t.sp.mem = s.sp.mem) : SameMemory s t := fun a => by rw [spByte, h, spByte]

/-- Phase 1 with a region that is not ready refuses the staged manifest and leads the landing on to its gate (R82). -/
theorem phase1End_abort_effect {r : LandingRun} {xs : List Nat} (hm : mainStopped s = false) (hr : s.crs.run = some r)
    (hp : r.stage = .phase1) (hx : ∃ x ∈ xs, x < Config.regions) :
    ∃ t, exec (.applicationPhase1End xs) s = .next t ∧ t.man.stage = .refused ∧ t.man.reason = 0x0E ∧
      t.man.active = s.man.active ∧ t.man.apply = .none ∧
      t.crs.run.map (fun r => (r.landing, r.stage)) = some (r.landing, .closing) ∧ SameMemory s t := by
  refine ⟨_, phase1End_abort hm hr hp hx, ?_⟩
  obtain ⟨hman, hcrs⟩ := abortApplication_effect s
  have hq := abortApplication_quiet s
  by_cases hn : s.man.applyNow = true
  · rw [if_pos hn, hman, hcrs, hr]
    exact ⟨rfl, rfl, rfl, rfl, rfl, sameMemory_of_mem hq.mem⟩
  · rw [if_neg hn]
    obtain ⟨hm', hrun⟩ := landingActions_man (s := abortApplication s) (by rw [hman]; nofun) r.landing true r.ll r.closes r.seg r.cross
    rw [hm', hman]
    exact ⟨rfl, rfl, rfl, rfl, hrun, sameMemory_of_mem (hq.trans (landingActions_quiet ..)).mem⟩

/-- Settles O43: the checks read nothing that the reseeding changes but the error state; an abort leaves no request armed for the landing's
work to expire; and what follows phase 2 leaves what it put in force. -/
theorem manifestsAreVerifiedAndApplied : Obligations.ManifestsAreVerifiedAndApplied := by
  unfold Obligations.ManifestsAreVerifiedAndApplied
  refine ⟨fun s hm hv hb => ⟨fun r hr => ?_, fun m hok => ?_⟩, fun s h => ?_, fun s r xs hm hr hp => ⟨fun hx => ?_, fun hx => ?_⟩,
    fun s r m hm hr hp hc => ?_, fun s xs h => ?_, fun s xs r hr => ⟨fun hp => ?_, fun hp => ?_⟩⟩
  · obtain ⟨x, y, h⟩ := verificationEnd_refused hm hv hb hr
    exact ⟨_, h, rfl, rfl, rfl, rfl, rfl, fun _ => rfl, rfl⟩
  · cases he : (reseedDrbg s).toll.errorState
    · obtain ⟨x, y, h⟩ := verificationEnd_verified hm hv hb ((verifyStaged_reseeded he).trans hok)
      exact ⟨_, h, rfl, fun _ => rfl, rfl, fun _ => ⟨rfl, rfl, rfl, rfl⟩, fun h => by cases h⟩
    · obtain ⟨x, y, h⟩ := verificationEnd_refused hm hv hb (verifyStaged_errorState he)
      exact ⟨_, h, rfl, fun _ => rfl, rfl, fun h => (by cases h), fun _ => ⟨rfl, rfl, rfl, rfl⟩⟩
  · exact congrArg _ (if_neg (fun ⟨hm, hv, hb⟩ => h.elim hm (fun h => h.elim (· hv) (· hb))))
  · exact phase1End_ready hm hr hp hx
  · exact phase1End_abort_effect hm hr hp hx
  · obtain ⟨t, he, hi, hheld, hbit, hmem⟩ := phase2End_effect hm hr hp hc
    exact ⟨t, he, hi.active, hi.stage, hi.staged, hi.stagedConf, hi.apply, hheld, by rw [hi.keep], by rw [hi.keep], hi.lookahead,
      hi.readTags, hi.writeTags, hi.map, hi.groups, hi.pages, hi.latched, hi.discarded, hi.taken, by rw [hi.run, hr]; rfl, hi.cache,
      hbit, by rw [hi.keep], fun h => sameMemory_of_mem (hmem h)⟩
  · have hno : ∀ st : LandStage, mainStopped s = true ∨ ∀ r, s.crs.run = some r → r.stage ≠ st :=
      fun st => h.imp_right (fun hr r h => by rw [hr] at h; cases h)
    exact ⟨phase1End_idle (hno _) xs, phase2End_idle (hno _)⟩
  · exact phase1End_idle (.inr fun x hx => by rw [hr] at hx; cases hx; exact hp) xs
  · exact phase2End_idle (.inr fun x hx => by rw [hr] at hx; cases hx; exact hp)

end Sys2Proof.Machine
end

section
/-! SUPPORT. Responses: how sectors enter operand buffers and region caches, and which commands a response reaches (R290, R294, R296, R297,
R300). -/

namespace Sys2Proof.Machine

variable {s t u : State}

/-! ## Operand buffers -/

/-- From `e` to `y` only the operand buffers may differ. -/
def OnlyBuffers (e y : Entry) : Prop := y = { e with got := y.got, held := y.held, bad := y.bad }

theorem OnlyBuffers.trans {e y z : Entry} (h : OnlyBuffers e y) (k : OnlyBuffers y z) : OnlyBuffers e z := by
  unfold OnlyBuffers at *
  rw [k, h]

theorem OnlyBuffers.foldl {α : Type} {f : Entry → α → Entry} (h : ∀ y x, OnlyBuffers y (f y x)) (xs : List α) (e : Entry) :
    OnlyBuffers e (xs.foldl f e) :=
  List.foldlRecOn xs f (motive := OnlyBuffers e) rfl (fun y hy x _ => hy.trans (h y x))

theorem take_onlyBuffers (e : Entry) (k : Nat) (x : Sector) : OnlyBuffers e (e.take k x) := rfl

theorem mem_take_held {e : Entry} {k j : Nat} {x : Sector} : j ∈ (e.take k x).held ↔ j ∈ e.held ∨ j = k := by
  unfold Entry.take
  dsimp only
  split
  · next h =>
    refine ⟨.inl, fun hj => hj.elim id ?_⟩
    rintro rfl
    simpa using h
  · simp

theorem take_got (e : Entry) (k j : Nat) (x : Sector) :
    sget default (e.take k x).got j = if j = k then x else sget default e.got j :=
  sget_sput ..

/-- Sectors enter the operand buffers one after the other. -/
def takeAll (ys : List (Nat × Sector)) (e : Entry) : Entry := ys.foldl (fun x y => x.take y.1 y.2) e

theorem takeAll_onlyBuffers (ys : List (Nat × Sector)) (e : Entry) : OnlyBuffers e (takeAll ys e) :=
  .foldl (α := Nat × Sector) (f := fun x y => x.take y.1 y.2) (fun y x => take_onlyBuffers y x.1 x.2) ys e

theorem mem_takeAll_held {ys : List (Nat × Sector)} {e : Entry} {j : Nat} :
    j ∈ (takeAll ys e).held ↔ j ∈ e.held ∨ j ∈ ys.map (·.1) := by
  induction ys generalizing e with
  | nil => simp [takeAll]
  | cons y ys ih =>
    show j ∈ (takeAll ys (e.take y.1 y.2)).held ↔ _
    rw [ih, mem_take_held, List.map_cons, List.mem_cons, or_assoc]

theorem takeAll_got_other {ys : List (Nat × Sector)} {e : Entry} {j : Nat} (h : j ∉ ys.map (·.1)) :
    sget default (takeAll ys e).got j = sget default e.got j := by
  induction ys generalizing e with
  | nil => rfl
  | cons y ys ih =>
    simp only [List.map_cons, List.mem_cons, not_or] at h
    show sget default (takeAll ys (e.take y.1 y.2)).got j = _
    rw [ih h.2, take_got, if_neg h.1]

theorem takeAll_got {ys : List (Nat × Sector)} {e : Entry} {y : Nat × Sector} (hn : (ys.map (·.1)).Nodup) (hy : y ∈ ys) :
    sget default (takeAll ys e).got y.1 = y.2 := by
  induction ys generalizing e with
  | nil => cases hy
  | cons z ys ih =>
    rw [List.map_cons, List.nodup_cons] at hn
    show sget default (takeAll ys (e.take z.1 z.2)).got y.1 = _
    rcases List.mem_cons.1 hy with rfl | hy
    · rw [takeAll_got_other hn.1, take_got, if_pos rfl]
    · exact ih hn.2 hy

/-! ## The sectors of a response -/

theorem mem_responseSectors {q : Req} {xs : List Sector} {y : Nat × Sector} :
    y ∈ responseSectors q xs ↔ ∃ i, i < q.len / 64 ∧ i < xs.length ∧ y = (q.addr / 64 + i, xs.getD i default) := by
  unfold responseSectors
  simp only [List.mem_map, Prod.exists, List.mem_zipIdx_iff_getElem?, List.getElem?_take]
  constructor
  · rintro ⟨v, i, h, rfl⟩
    split at h
    · next hi =>
      obtain ⟨hx, rfl⟩ := List.getElem?_eq_some_iff.1 h
      exact ⟨i, hi, hx, by simp [List.getD, h]⟩
    · cases h
  · rintro ⟨i, hi, hx, rfl⟩
    exact ⟨xs.getD i default, i, by simp [hi, hx, List.getD], rfl⟩

theorem responseSectors_keys (q : Req) (xs : List Sector) :
    (responseSectors q xs).map (·.1) = (List.range (xs.take (q.len / 64)).length).map (q.addr / 64 + ·) := by
  unfold responseSectors
  rw [List.map_map, List.range_eq_range', ← List.zipIdx_map_snd 0, List.map_map]
  rfl

theorem responseSectors_nodup (q : Req) (xs : List Sector) : ((responseSectors q xs).map (·.1)).Nodup := by
  rw [responseSectors_keys]
  exact List.nodup_range.map (fun _ _ h => Nat.add_left_cancel h)

theorem deliver_eq (s : State) (ys : List (Nat × Sector)) (e : Entry) :
    deliver s ys e = takeAll (ys.filter (fun y => ((frontNeeds s e).map (·.1)).contains y.1)) e := rfl

/-- A needed sector of a response is in the operand buffers with its data (R290, R300). -/
theorem deliver_needed {q : Req} {xs : List Sector} {e : Entry} {i : Nat} (hi : i < q.len / 64) (hx : i < xs.length)
    (hn : q.addr / 64 + i ∈ (frontNeeds s e).map (·.1)) :
    q.addr / 64 + i ∈ (deliver s (responseSectors q xs) e).held ∧
      sget default (deliver s (responseSectors q xs) e).got (q.addr / 64 + i) = xs.getD i default := by
  have hm : (q.addr / 64 + i, xs.getD i default) ∈
      (responseSectors q xs).filter (fun y => ((frontNeeds s e).map (·.1)).contains y.1) :=
    List.mem_filter.2 ⟨mem_responseSectors.2 ⟨i, hi, hx, rfl⟩, by simpa using hn⟩
  rw [deliver_eq]
  refine ⟨mem_takeAll_held.2 (.inr (List.mem_map_of_mem hm)), takeAll_got ?_ hm⟩
  exact (responseSectors_nodup q xs).sublist (List.filter_sublist.map _)

/-- Any other sector of the command stays as it was (R290). -/
theorem deliver_other {q : Req} {xs : List Sector} {e : Entry} {k : Nat}
    (hk : ∀ i, i < q.len / 64 → i < xs.length → k = q.addr / 64 + i → k ∉ (frontNeeds s e).map (·.1)) :
    (k ∈ (deliver s (responseSectors q xs) e).held ↔ k ∈ e.held) ∧
      sget default (deliver s (responseSectors q xs) e).got k = sget default e.got k := by
  have hm : k ∉ ((responseSectors q xs).filter (fun y => ((frontNeeds s e).map (·.1)).contains y.1)).map (·.1) := by
    rw [List.mem_map]
    rintro ⟨y, hy, rfl⟩
    obtain ⟨hy, hc⟩ := List.mem_filter.1 hy
    obtain ⟨i, hi, hx, rfl⟩ := mem_responseSectors.1 hy
    exact hk i hi hx rfl (by simpa using hc)
  rw [deliver_eq]
  exact ⟨mem_takeAll_held.trans (or_iff_left hm), takeAll_got_other hm⟩

/-! ## Region caches (R296) -/

/-- What one key of the front takes of its region's cache. -/
def takeHit (s : State) (y : Entry) (x : Nat × Nat) : Entry :=
  match (keyRegion x.1).bind (fun g => cachedSector s g (keySector x.1)) with
  | some v => y.take x.1 v
  | none => y

theorem takeHits_eq (s : State) (e : Entry) :
    takeHits s e = ((frontNeeds s e).filter (fun x => !e.held.contains x.1)).foldl (takeHit s) e := rfl

theorem takeHit_onlyBuffers (s : State) (y : Entry) (x : Nat × Nat) : OnlyBuffers y (takeHit s y x) := by
  unfold takeHit
  split <;> exact rfl

theorem takeHit_held {y : Entry} {x : Nat × Nat} {k : Nat} (h : k ∈ y.held) : k ∈ (takeHit s y x).held := by
  unfold takeHit
  split
  · exact mem_take_held.2 (.inl h)
  · exact h

theorem takeHits_keep {xs : List (Nat × Nat)} {y : Entry} {k : Nat} (h : k ∈ y.held) : k ∈ (xs.foldl (takeHit s) y).held :=
  List.foldlRecOn xs (takeHit s) (motive := fun z => k ∈ z.held) h (fun _ hz _ _ => takeHit_held hz)

theorem takeHits_onlyBuffers (s : State) (e : Entry) : OnlyBuffers e (takeHits s e) := .foldl (takeHit_onlyBuffers s) _ e

/-- A key of the front whose sector its region's cache holds is in the operand buffers (R296). -/
theorem takeHits_hit {e : Entry} {k : Nat} {v : Sector} (hk : k ∈ (frontNeeds s e).map (·.1))
    (hv : (keyRegion k).bind (fun g => cachedSector s g (keySector k)) = some v) : k ∈ (takeHits s e).held := by
  rw [takeHits_eq]
  by_cases hh : k ∈ e.held
  · exact takeHits_keep hh
  · obtain ⟨x, hx, rfl⟩ := List.mem_map.1 hk
    have hm : x ∈ (frontNeeds s e).filter (fun x => !e.held.contains x.1) := List.mem_filter.2 ⟨hx, by simpa using hh⟩
    obtain ⟨as, bs, hl⟩ := List.append_of_mem hm
    rw [hl, List.foldl_append, List.foldl_cons]
    refine takeHits_keep ?_
    rw [takeHit, hv]
    exact mem_take_held.2 (.inr rfl)

theorem keyRegion_cacheKey {g k : Nat} (h : k < 2 ^ 58) : keyRegion (cacheKey g k) = some g := by
  unfold keyRegion cacheKey
  rw [if_neg (by omega)]
  congr 1
  omega

theorem keySector_cacheKey {g k : Nat} (h : k < 2 ^ 58) : keySector (cacheKey g k) = k := by
  unfold keySector cacheKey
  omega

/-- The first value of a key in a list whose keys are distinct is the only one. -/
theorem find?_of_nodup_keys {α : Type} {ys : List (Nat × α)} (hn : (ys.map (·.1)).Nodup) {j : Nat} {v : α} (hy : (j, v) ∈ ys) :
    ys.find? (fun y => y.1 == j) = some (j, v) := by
  induction ys with
  | nil => cases hy
  | cons z ys ih =>
    rw [List.map_cons, List.nodup_cons] at hn
    rw [List.find?_cons]
    rcases List.mem_cons.1 hy with rfl | hy
    · rw [beq_self_eq_true]
    · have hne : (z.1 == j) = false := by
        simpa using fun h : z.1 = j => hn.1 (h ▸ List.mem_map_of_mem hy)
      rw [hne]
      exact ih hn.2 hy

theorem find?_erase_of_not {α : Type} [BEq α] [LawfulBEq α] {p : α → Bool} {y : α} (hp : p y = false) (xs : List α) :
    (xs.erase y).find? p = xs.find? p := by
  induction xs with
  | nil => rfl
  | cons x xs ih =>
    by_cases hxy : x = y
    · subst hxy
      rw [List.erase_cons_head, List.find?_cons, hp]
    · rw [List.erase_cons_tail (by simpa using hxy), List.find?_cons, List.find?_cons, ih]

/-- The lines that stay in the caches when a fill enters a line of a region. -/
def keptLines (s : State) (region block : Nat) : List CacheLine :=
  let others := s.rtv.cache.filter (fun x => !(x.region == region && x.block == block))
  let own := others.filter (fun x => x.region == region)
  if own.length < cacheLines then others else
    match own.head? with
    | some y => others.erase y
    | none => others

/-- The sectors of a line after a fill. -/
def filledSectors (s : State) (region block : Nat) (ys : List (Nat × Sector)) : List (Nat × Sector) :=
  (lineSectors s region block).filter (fun x => !(ys.any (fun y => y.1 == x.1))) ++ ys

theorem fillCache_cache (g block : Nat) (ys : List (Nat × Sector)) (s : State) :
    (fillCache g block ys s).rtv.cache = keptLines s g block ++ [⟨g, block, filledSectors s g block ys⟩] := rfl

theorem mem_keptLines {g block : Nat} {x : CacheLine} (h : x ∈ keptLines s g block) : (x.region == g && x.block == block) = false := by
  have hx : x ∈ s.rtv.cache.filter (fun x => !(x.region == g && x.block == block)) := by
    unfold keptLines at h
    dsimp only at h
    split at h
    · exact h
    · split at h
      · exact List.mem_of_mem_erase h
      · exact h
  simpa only [Bool.not_eq_true'] using (List.mem_filter.1 hx).2

/-- A search for a line of another region finds among the lines kept what it found before. -/
theorem find?_keptLines {g block : Nat} {p : CacheLine → Bool} (hp : ∀ x, p x = true → x.region ≠ g) :
    (keptLines s g block).find? p = s.rtv.cache.find? p := by
  have hothers : (s.rtv.cache.filter (fun x => !(x.region == g && x.block == block))).find? p = s.rtv.cache.find? p := by
    rw [List.find?_filter]
    congr 1
    funext x
    cases h : p x
    · simp
    · simp [hp x h]
  unfold keptLines
  extract_lets others own
  split
  · exact hothers
  · split
    · next y hy =>
      have hr : y.region = g := by simpa using (List.mem_filter.1 (List.mem_of_head? hy)).2
      rw [find?_erase_of_not (Bool.eq_false_iff.2 fun h => hp y h hr)]
      exact hothers
    · exact hothers

/-- A region's cache holds what a fill brought into the fill's block. -/
theorem cachedSector_fillCache_same {g block k : Nat} {ys : List (Nat × Sector)} {v : Sector} (hb : k / 8 = block)
    (hn : (ys.map (·.1)).Nodup) (hy : (k % 8, v) ∈ ys) : cachedSector (fillCache g block ys s) g k = some v := by
  have hkept : (keptLines s g block).find? (fun x => x.region == g && x.block == block) = none :=
    List.find?_eq_none.2 (fun x hx => by simpa using mem_keptLines hx)
  have hold : ((lineSectors s g block).filter (fun x => !(ys.any (fun y => y.1 == x.1)))).find? (fun y => y.1 == k % 8) = none := by
    rw [List.find?_eq_none]
    intro z hz hk
    have hany : ys.any (fun y => y.1 == z.1) = false := by simpa using (List.mem_filter.1 hz).2
    exact List.any_eq_false.1 hany _ hy (beq_iff_eq.2 (beq_iff_eq.1 hk).symm)
  rw [cachedSector, fillCache_cache, List.find?_append, hb, hkept]
  simp only [Option.none_or, List.find?_singleton, beq_self_eq_true, Bool.and_self, ↓reduceIte, Option.bind_some]
  rw [filledSectors, List.find?_append, hold, Option.none_or, find?_of_nodup_keys hn hy]
  rfl

/-- A fill leaves the other regions' caches. -/
theorem cachedSector_fillCache_other {g h block k : Nat} {ys : List (Nat × Sector)} (hg : h ≠ g) :
    cachedSector (fillCache g block ys s) h k = cachedSector s h k := by
  have hp : ∀ x : CacheLine, (x.region == h && x.block == k / 8) = true → x.region ≠ g := by
    intro x hx
    simp only [Bool.and_eq_true, beq_iff_eq] at hx
    rw [hx.1]
    exact hg
  have hline : (g == h) = false := by simpa using hg.symm
  rw [cachedSector, cachedSector, fillCache_cache, List.find?_append, find?_keptLines hp]
  simp [hline]

/-! ## What a response changes in the queue -/

/-- From `s` to `t` only the queue's entries and the event log may differ. -/
def OnlyQueue (s t : State) : Prop := t = { s with cq := { s.cq with entries := t.cq.entries }, evt := t.evt }

theorem OnlyQueue.trans (h : OnlyQueue s t) (k : OnlyQueue t u) : OnlyQueue s u := by
  unfold OnlyQueue at *
  rw [k, h]

theorem OnlyQueue.foldl {α : Type} {f : State → α → State} (h : ∀ t x, OnlyQueue t (f t x)) (xs : List α) (s : State) :
    OnlyQueue s (xs.foldl f s) :=
  List.foldlRecOn xs f (motive := OnlyQueue s) rfl (fun t ht x _ => ht.trans (h t x))

theorem raise_onlyQueue (code : Nat) (cmd : Option (Nat × Nat)) (d0 d1 : Nat) (s : State) : OnlyQueue s (raise code cmd d0 d1 s) := by
  unfold raise
  dsimp only
  split <;> exact rfl

/-- A late granule sets the entry's mark and raises an event, and no more (R62). -/
theorem lateCheck_effect (w : Nat) (e : Entry) (s : State) :
    (∃ r, (lateCheck w e s).1 = { e with res := r }) ∧ OnlyQueue s (lateCheck w e s).2 ∧
      (lateCheck w e s).2.cq.entries = s.cq.entries := by
  unfold lateCheck
  split
  · split
    · exact ⟨⟨_, rfl⟩, raise_onlyQueue .., by rw [raise_cq]⟩
    · exact ⟨⟨_, rfl⟩, rfl, rfl⟩
  · exact ⟨⟨_, rfl⟩, rfl, rfl⟩

/-- What a response does to one command that it reaches. -/
def reachOne (f : State → Entry → Entry) (t : State) (e : Entry) : State :=
  let e1 := f t e
  if e1 = e then t
  else
    let x := if granuleCame t e e1 then lateCheck 0 e1 t else (e1, t)
    setEntry x.1 x.2

theorem reachWith_eq (f : State → Entry → Entry) (es : List Entry) (s : State) : reachWith f es s = es.foldl (reachOne f) s := rfl

/-- A command that changes is set in the queue, with the mark of a late granule or without; nothing else of the queue changes. -/
theorem reachOne_effect (f : State → Entry → Entry) (t : State) (e : Entry) :
    (f t e = e ∧ reachOne f t e = t) ∨ ∃ r u, OnlyQueue t u ∧ u.cq.entries = t.cq.entries ∧
      reachOne f t e = setEntry { f t e with res := r } u := by
  unfold reachOne
  extract_lets e1 x
  split
  · next h => exact .inl ⟨h, rfl⟩
  · have hx : (∃ r, x.1 = { e1 with res := r }) ∧ OnlyQueue t x.2 ∧ x.2.cq.entries = t.cq.entries := by
      unfold x
      split
      · exact lateCheck_effect 0 e1 t
      · exact ⟨⟨e1.res, rfl⟩, rfl, rfl⟩
    obtain ⟨⟨r, hr⟩, hq, he⟩ := hx
    exact .inr ⟨r, x.2, hq, he, by rw [hr]⟩

theorem reachOne_onlyQueue (f : State → Entry → Entry) (t : State) (e : Entry) : OnlyQueue t (reachOne f t e) := by
  rcases reachOne_effect f t e with ⟨-, h⟩ | ⟨r, u, hq, -, h⟩
  · rw [h]; exact rfl
  · rw [h]; exact hq.trans rfl

theorem reachWith_onlyQueue (f : State → Entry → Entry) (es : List Entry) (s : State) : OnlyQueue s (reachWith f es s) := by
  rw [reachWith_eq]
  exact .foldl (reachOne_onlyQueue f) es s

theorem findEntry_congr {b n : Nat} (h : t.cq.entries = s.cq.entries) : findEntry t b n = findEntry s b n := by
  rw [findEntry, h, findEntry]

/-- Two entries that may differ in their VLEN and in what they have to report. -/
def SameSectors (a z : Entry) : Prop := ∃ r v, z = { a with res := r, vlen := v }

section

variable {f : State → Entry → Entry} (hk : ∀ t e, (f t e).berth = e.berth ∧ (f t e).seq = e.seq)

include hk

theorem reachOne_other {b n : Nat} {e : Entry} (h : (e.berth, e.seq) ≠ (b, n)) :
    findEntry (reachOne f t e) b n = findEntry t b n := by
  rcases reachOne_effect f t e with ⟨-, he⟩ | ⟨r, u, -, hu, he⟩
  · rw [he]
  · rw [he, findEntry_setEntry_other, findEntry_congr hu]
    rintro ⟨rfl, rfl⟩
    exact h (by rw [← (hk t e).1, ← (hk t e).2])

theorem reachOne_self {e x : Entry} (hx : findEntry t e.berth e.seq = some x) (h : f t e = e → SameSectors e x) :
    ∃ z, findEntry (reachOne f t e) e.berth e.seq = some z ∧ SameSectors (f t e) z := by
  rcases reachOne_effect f t e with ⟨hf, he⟩ | ⟨r, u, -, hu, he⟩
  · exact ⟨x, by rw [he, hx], by rw [hf]; exact h hf⟩
  · obtain ⟨hb, hn⟩ := hk t e
    have hu : findEntry u (f t e).berth (f t e).seq = some x := by rw [hb, hn, findEntry_congr hu, hx]
    have hset := findEntry_setEntry { f t e with res := r } x hu
    refine ⟨{ f t e with res := r }, ?_, r, (f t e).vlen, rfl⟩
    rw [he, ← hb, ← hn]
    exact hset

/-- A command that a response reaches alone stands in the queue as the response makes it: `a`, whatever it does to the others first. -/
theorem reachWith_found {e x a : Entry} {es : List Entry} (ha : ∀ t, OnlyQueue s t → f t e = a)
    (hx : findEntry s e.berth e.seq = some x) (hv : SameSectors e x) (he : e ∈ es)
    (hu : ∀ y ∈ es, (y.berth, y.seq) = (e.berth, e.seq) → y = e) :
    ∃ z, findEntry (reachWith f es s) e.berth e.seq = some z ∧ SameSectors a z := by
  have run : ∀ (es : List Entry) (t : State) (z : Entry), (∀ y ∈ es, (y.berth, y.seq) = (e.berth, e.seq) → y = e) → OnlyQueue s t →
      findEntry t e.berth e.seq = some z → (SameSectors a z ∨ (SameSectors e z ∧ e ∈ es)) →
      ∃ z, findEntry (es.foldl (reachOne f) t) e.berth e.seq = some z ∧ SameSectors a z := by
    intro es
    induction es with
    | nil => exact fun t z _ _ hz h => ⟨z, hz, h.resolve_right (by simp)⟩
    | cons y es ih =>
      intro t z hu hq hz h
      have hu' : ∀ y ∈ es, (y.berth, y.seq) = (e.berth, e.seq) → y = e := fun w hw => hu w (List.mem_cons_of_mem _ hw)
      have hq' : OnlyQueue s (reachOne f t y) := hq.trans (reachOne_onlyQueue f t y)
      rw [List.foldl_cons]
      by_cases hy : (y.berth, y.seq) = (e.berth, e.seq)
      · obtain rfl := hu y List.mem_cons_self hy
        have hself : f t y = y → SameSectors y z := by
          intro hf
          rw [ha t hq] at hf
          rw [hf] at h
          exact h.elim id (·.1)
        obtain ⟨w, hw, hs⟩ := reachOne_self hk hz hself
        rw [ha t hq] at hs
        exact ih _ w hu' hq' hw (.inl hs)
      · refine ih _ z hu' hq' (by rw [reachOne_other hk hy, hz]) (h.imp_right fun ⟨hs, hm⟩ => ⟨hs, ?_⟩)
        exact (List.mem_cons.1 hm).resolve_left (fun h => hy (by rw [h]))
  rw [reachWith_eq]
  exact run es s x hu rfl hx (.inr ⟨hv, he⟩)

end

theorem OnlyBuffers.key {e y : Entry} (h : OnlyBuffers e y) : y.berth = e.berth ∧ y.seq = e.seq := by
  rw [h]
  exact ⟨rfl, rfl⟩

theorem deliver_onlyBuffers (s : State) (ys : List (Nat × Sector)) (e : Entry) : OnlyBuffers e (deliver s ys e) :=
  takeAll_onlyBuffers ..

/-- What an entry that received sectors keeps, and its operand buffers. -/
theorem SameSectors.of_onlyBuffers {e a z : Entry} (h : OnlyBuffers e a) (k : SameSectors a z) :
    z.life = e.life ∧ z.pos = e.pos ∧ z.writes = e.writes ∧ z.bytes = e.bytes ∧ z.held = a.held ∧ z.got = a.got := by
  obtain ⟨r, v, rfl⟩ := k
  rw [h]
  exact ⟨rfl, rfl, rfl, rfl, rfl, rfl⟩

theorem deliver_onlyQueue (h : OnlyQueue s t) (ys : List (Nat × Sector)) (e : Entry) : deliver t ys e = deliver s ys e := by
  rw [h]
  rfl

theorem takeHits_onlyQueue (h : OnlyQueue s t) (e : Entry) : takeHits t e = takeHits s e := by
  rw [h]
  rfl

/-! ## The cases of a response, by the request's owner -/

/-- The state with a fill in its region's cache, from which a running table LOAD takes what it waits for (R296). -/
def fillState (q : Req) (xs : List Sector) (x : Nat) (s : State) : State :=
  let s1 := fillCache x (q.addr / 512) ((responseSectors q xs).map (fun y => (y.1 % 8, y.2))) s
  { s1 with tbl := { s1.tbl with load := s1.tbl.load.map (loadHits s1) } }

theorem takeResponse_entry {q : Req} {b n : Nat} (h : q.owner = .entry b n) (xs : List Sector) (s : State) :
    takeResponse q xs s = reachWith (fun t e => deliver t (responseSectors q xs) e) (reached s q) s := by
  simp only [takeResponse, h]

theorem takeResponse_stale {q : Req} {x : Nat} {o : Option (Nat × Nat)} (h : q.owner = .fill x o) (hp : q.pass ≠ 0)
    (xs : List Sector) (s : State) : takeResponse q xs s = s := by
  simp only [takeResponse, h, if_pos hp]

theorem takeResponse_fill {q : Req} {x : Nat} {o : Option (Nat × Nat)} (h : q.owner = .fill x o) (hp : q.pass = 0)
    (xs : List Sector) (s : State) : takeResponse q xs s = reachWith takeHits (reached s q) (fillState q xs x s) := by
  simp only [takeResponse, h, hp]
  rfl

theorem takeResponse_other {q : Req} (he : ∀ b n, q.owner ≠ .entry b n) (hf : ∀ x o, q.owner ≠ .fill x o)
    (xs : List Sector) (s : State) : takeResponse q xs s = s := by
  cases h : q.owner with
  | entry b n => exact absurd h (he b n)
  | fill x o => exact absurd h (hf x o)
  | post => simp only [takeResponse, h]
  | trace a b => simp only [takeResponse, h]
  | cert n => simp only [takeResponse, h]

/-- A response changes the queue's entries, the event log, the region caches and a table LOAD's blocks, and no more. -/
theorem takeResponse_frame (q : Req) (xs : List Sector) (s : State) :
    ∃ es v c l, takeResponse q xs s = { s with
      cq := { s.cq with entries := es }, evt := v, rtv := { s.rtv with cache := c }, tbl := { s.tbl with load := l } } := by
  cases h : q.owner with
  | entry b n => exact ⟨_, _, _, _, (takeResponse_entry h xs s).trans (reachWith_onlyQueue _ (reached s q) s)⟩
  | fill x o =>
    by_cases hp : q.pass = 0
    · exact ⟨_, _, _, _, (takeResponse_fill h hp xs s).trans (reachWith_onlyQueue takeHits (reached s q) (fillState q xs x s))⟩
    · exact ⟨_, _, _, _, takeResponse_stale h hp xs s⟩
  | post => exact ⟨_, _, _, _, takeResponse_other (by simp [h]) (by simp [h]) xs s⟩
  | trace a b => exact ⟨_, _, _, _, takeResponse_other (by simp [h]) (by simp [h]) xs s⟩
  | cert n => exact ⟨_, _, _, _, takeResponse_other (by simp [h]) (by simp [h]) xs s⟩

/-- A command that a response reaches and that no other entry reached shares its key with. -/
structure ReachedAlone (s : State) (q : Req) (e : Entry) : Prop where
  mem : e ∈ reached s q
  queued : ∃ x, findEntry s e.berth e.seq = some x ∧ e = { x with vlen := e.vlen }
  only : ∀ x ∈ reached s q, (x.berth, x.seq) = (e.berth, e.seq) → x = e

theorem sameSectors_of_vlen {e x : Entry} (h : e = { x with vlen := e.vlen }) : SameSectors e x :=
  ⟨e.res, x.vlen, by rw [h]⟩

/-- A response of a command's own request reaches each command with what its front needs (R290). -/
theorem takeResponse_entry_found {q : Req} {b n : Nat} (h : q.owner = .entry b n) (xs : List Sector) {e : Entry}
    (ha : ReachedAlone s q e) :
    ∃ z, findEntry (takeResponse q xs s) e.berth e.seq = some z ∧ SameSectors (deliver s (responseSectors q xs) e) z := by
  obtain ⟨x, hx, hv⟩ := ha.queued
  rw [takeResponse_entry h]
  exact reachWith_found (f := fun t e => deliver t (responseSectors q xs) e) (fun t e => (deliver_onlyBuffers t _ e).key)
    (fun t ht => deliver_onlyQueue ht _ e) hx (sameSectors_of_vlen hv) ha.mem ha.only

/-- A response for a region's cache reaches each command with what its front finds there (R296). -/
theorem takeResponse_fill_found {q : Req} {x : Nat} {o : Option (Nat × Nat)} (h : q.owner = .fill x o) (hp : q.pass = 0)
    (xs : List Sector) {e : Entry} (ha : ReachedAlone s q e) :
    ∃ z, findEntry (takeResponse q xs s) e.berth e.seq = some z ∧ SameSectors (takeHits (fillState q xs x s) e) z := by
  obtain ⟨y, hy, hv⟩ := ha.queued
  rw [takeResponse_fill h hp]
  exact reachWith_found (fun t e => (takeHits_onlyBuffers t e).key) (fun t ht => takeHits_onlyQueue ht e) (s := fillState q xs x s)
    hy (sameSectors_of_vlen hv) ha.mem ha.only

theorem cachedSector_congr (h : t.rtv.cache = s.rtv.cache) (g k : Nat) : cachedSector t g k = cachedSector s g k := by
  rw [cachedSector, h, cachedSector]

/-- The sectors of a response within one block have distinct places in it. -/
theorem responseSectors_places_nodup {q : Req} (hq : q.addr / 64 % 8 + q.len / 64 ≤ 8) (xs : List Sector) :
    (((responseSectors q xs).map (fun y => (y.1 % 8, y.2))).map (·.1)).Nodup := by
  have hkeys : ((responseSectors q xs).map (fun y => (y.1 % 8, y.2))).map (·.1) =
      (List.range (xs.take (q.len / 64)).length).map (fun i => (q.addr / 64 + i) % 8) := by
    rw [List.map_map]
    show (responseSectors q xs).map ((· % 8) ∘ (·.1)) = _
    rw [← List.map_map, responseSectors_keys, List.map_map]
    rfl
  rw [hkeys]
  refine List.nodup_range.map_on (fun i hi j hj h => ?_)
  simp only [List.mem_range, List.length_take] at hi hj
  omega

/-- A sector of a response for a region's cache is in that cache (R296). -/
theorem cachedSector_fillState_same {q : Req} {xs : List Sector} {i : Nat} (hq : q.addr / 64 % 8 + q.len / 64 ≤ 8)
    (hi : i < q.len / 64) (hx : i < xs.length) (x : Nat) (s : State) :
    cachedSector (fillState q xs x s) x (q.addr / 64 + i) = some (xs.getD i default) :=
  (cachedSector_congr rfl ..).trans (cachedSector_fillCache_same (by omega) (responseSectors_places_nodup hq xs)
    (List.mem_map.2 ⟨_, mem_responseSectors.2 ⟨i, hi, hx, rfl⟩, rfl⟩))

theorem readResponse_eq {tag : Nat} {q : Req} (hm : mainStopped s = false) (hr : reqOf s tag = some q) (xs : List Sector) :
    exec (.readResponse tag xs) s = .next (if q.write then s else if s.pwr.draining.isSome then dropReq tag s
      else takeResponse q xs (dropReq tag s)) := by
  show execReadResponse tag xs s = _
  simp only [execReadResponse, hm, hr, Bool.false_eq_true, ↓reduceIte]

theorem writeAck_eq {tag : Nat} {q : Req} (hm : mainStopped s = false) (hr : reqOf s tag = some q) :
    exec (.writeAck tag) s = .next (if q.write then dropWritten (q.addr / 512) (dropReq tag s) else s) := by
  show execWriteAck tag s = _
  simp only [execWriteAck, hm, hr, Bool.false_eq_true, ↓reduceIte]

/-- A tag that is not outstanding, and a stopped main side, change nothing. -/
theorem response_ignored {tag : Nat} (h : mainStopped s = true ∨ reqOf s tag = none) (xs : List Sector) :
    exec (.readResponse tag xs) s = .next s ∧ exec (.writeAck tag) s = .next s ∧ exec (.translationFault tag) s = .next s := by
  show execReadResponse tag xs s = _ ∧ execWriteAck tag s = _ ∧ execTranslationFault tag s = _
  rcases h with h | h <;> simp [execReadResponse, execWriteAck, execTranslationFault, h]

/-- The sectors that a command takes of a response to its own request or to another command's (R290, R294, R300). -/
theorem takeResponse_entry_sectors {q : Req} {b n : Nat} (h : q.owner = .entry b n) (xs : List Sector) {e : Entry}
    (ha : ReachedAlone s q e) :
    ∃ y, findEntry (takeResponse q xs s) e.berth e.seq = some y ∧ y.life = e.life ∧ y.pos = e.pos ∧ y.writes = e.writes ∧
      y.bytes = e.bytes ∧
      (∀ i, i < q.len / 64 → i < xs.length → q.addr / 64 + i ∈ (frontNeeds s e).map (·.1) →
        q.addr / 64 + i ∈ y.held ∧ sget default y.got (q.addr / 64 + i) = xs.getD i default) ∧
      (∀ k, (∀ i, i < q.len / 64 → i < xs.length → k = q.addr / 64 + i → k ∉ (frontNeeds s e).map (·.1)) →
        (k ∈ y.held ↔ k ∈ e.held) ∧ sget default y.got k = sget default e.got k) := by
  obtain ⟨y, hy, hs⟩ := takeResponse_entry_found h xs ha
  obtain ⟨hlife, hpos, hwrites, hbytes, hheld, hgot⟩ := hs.of_onlyBuffers (deliver_onlyBuffers ..)
  refine ⟨y, hy, hlife, hpos, hwrites, hbytes, ?_⟩
  rw [hheld, hgot]
  exact ⟨fun i hi hx hn => deliver_needed hi hx hn, fun k hk => deliver_other hk⟩

/-- The sectors that a region's cache, and from it a command, take of a fill (R296). -/
theorem takeResponse_fill_sectors {q : Req} {x : Nat} {o : Option (Nat × Nat)} (h : q.owner = .fill x o) (hp : q.pass = 0)
    (hlen : q.addr + q.len ≤ 2 ^ 64) (hq : q.addr / 64 % 8 + q.len / 64 ≤ 8) (xs : List Sector) :
    (∀ i, i < q.len / 64 → i < xs.length → cachedSector (takeResponse q xs s) x (q.addr / 64 + i) = some (xs.getD i default)) ∧
      (∀ g k, g ≠ x → cachedSector (takeResponse q xs s) g k = cachedSector s g k) ∧
      (∀ e, ReachedAlone s q e → ∃ y, findEntry (takeResponse q xs s) e.berth e.seq = some y ∧ y.life = e.life ∧ y.pos = e.pos ∧
        y.writes = e.writes ∧
        (∀ i, i < q.len / 64 → i < xs.length → cacheKey x (q.addr / 64 + i) ∈ (frontNeeds s e).map (·.1) →
          cacheKey x (q.addr / 64 + i) ∈ y.held)) := by
  have hcache : ∀ g k, cachedSector (takeResponse q xs s) g k = cachedSector (fillState q xs x s) g k := by
    rw [takeResponse_fill h hp]
    exact cachedSector_congr (by rw [reachWith_onlyQueue takeHits (reached s q) (fillState q xs x s)])
  refine ⟨fun i hi hx => (hcache ..).trans (cachedSector_fillState_same hq hi hx x s),
    fun g k hg => (hcache g k).trans ((cachedSector_congr rfl g k).trans (cachedSector_fillCache_other hg)), fun e ha => ?_⟩
  obtain ⟨y, hy, hs⟩ := takeResponse_fill_found h hp xs ha
  obtain ⟨hlife, hpos, hwrites, -, hheld, -⟩ := hs.of_onlyBuffers (takeHits_onlyBuffers ..)
  refine ⟨y, hy, hlife, hpos, hwrites, fun i hi hx hn => ?_⟩
  have hk : q.addr / 64 + i < 2 ^ 58 := by omega
  rw [hheld]
  refine takeHits_hit hn (v := xs.getD i default) ?_
  rw [keyRegion_cacheKey hk, keySector_cacheKey hk]
  exact cachedSector_fillState_same hq hi hx x s

/-- Settles O32: which commands a response reaches, and what their fronts need, does not depend on the queue, the event log, the caches or the
requests that are out, so each command takes its sectors whatever the response does to the others first. -/
theorem responsesReturnTags : Obligations.ResponsesReturnTags := by
  unfold Obligations.ResponsesReturnTags
  intro returned alone
  have halone : ∀ (s : State) (tag : Nat) (q : Req) (e : Entry), alone s q e → ReachedAlone (dropReq tag s) q e :=
    fun s tag q e ⟨hmem, hfound, honly⟩ => ⟨hmem, hfound, honly⟩
  refine ⟨fun s tag xs q hm hr hw hd => ?_, fun s tag xs q hm hr hw hd hlen => ?_, fun s tag xs q hm hr => ⟨fun hw => ⟨?_, ?_⟩, fun hw => ?_⟩,
    fun s tag xs h => response_ignored h xs⟩
  · rw [readResponse_eq hm hr, hw, hd]
    rfl
  · have hexec : exec (.readResponse tag xs) s = .next (takeResponse q xs (dropReq tag s)) := by
      rw [readResponse_eq hm hr, hw, hd]
      rfl
    obtain ⟨es, v, c, l, hframe⟩ := takeResponse_frame q xs (dropReq tag s)
    have hquiet : SameMemory s (takeResponse q xs (dropReq tag s)) := sameMemory_of_mem (takeResponse_quiet q xs (dropReq tag s)).mem
    refine ⟨_, hexec, by rw [hframe]; rfl, hquiet, by rw [hframe]; rfl, by rw [hframe]; rfl, by rw [hframe]; rfl, by rw [hframe]; rfl,
      fun b n ho => ⟨?_, fun e he => takeResponse_entry_sectors ho xs (halone s tag q e he)⟩,
      fun x o ho hp => takeResponse_stale ho hp xs _, fun x o ho hp hq => ?_, fun he hf => takeResponse_other he hf xs _⟩
    · rw [takeResponse_entry ho, reachWith_onlyQueue _ (reached (dropReq tag s) q) (dropReq tag s)]
      rfl
    · obtain ⟨hin, hother, hfound⟩ := takeResponse_fill_sectors (s := dropReq tag s) ho hp hlen hq xs
      exact ⟨hin, hother, fun e he => hfound e (halone s tag q e he)⟩
  · rw [readResponse_eq hm hr, hw]
    rfl
  · rw [writeAck_eq hm hr, hw]
    rfl
  · rw [writeAck_eq hm hr, hw]
    rfl

end Sys2Proof.Machine
end

section
/-! SUPPORT. The beacon's frames, the idle tick, and the writes that wait for a landing (R32 to R36, R49, R305, R409, R410, R429). -/

namespace Sys2Proof.Machine

variable {s : State}

/-! ## The idle step (R34) -/

theorem step_idle (h : s.pending = []) : step s = .next (tick s) := by
  unfold step
  rw [h]

/-- Settles O2: an idle step is the tick, which counts in the tide that runs. -/
theorem idleStepIsOneTick : Obligations.IdleStepIsOneTick := by
  unfold Obligations.IdleStepIsOneTick
  intro s h
  rw [step_idle h]
  unfold tick
  exact ⟨fun hd => by rw [if_pos hd], fun hd hm => by simp [hd, hm], fun hd hm => by simp [hd, hm]⟩

/-! ## Beacon frames (R409) -/

/-- A state from which a frame has left the pipeline to its effect edge. -/
def withFrames (rest : List BeaconBits) (s : State) : State := { s with crs := { s.crs with frames := rest } }

theorem beaconError_moored (h : s.crs.moored = true) :
    beaconError s = { s with crs := { s.crs with beaconErr := min 0xFFFF (s.crs.beaconErr + 1) } } := by
  rw [beaconError, if_pos h, satInc_eq_min]

theorem beaconError_unmoored (h : s.crs.moored = false) : beaconError s = s := by
  simp [beaconError, h]

theorem mooringOpen_iff : mooringOpen s = true ↔ s.pwr.fabReady = true ∧ s.pwr.draining ≠ some .warm := by
  simp [mooringOpen]

theorem beaconFrame_heard (ns : List (BitVec 4)) (hm : mainStopped s = false) (ho : mooringOpen s = true) :
    exec (.beaconFrame ns) s = .next (if ns.length < 56 then beaconError s else withFrames (s.crs.frames ++ [ns.take 56]) s) := by
  change execBeaconFrame ns s = _
  simp [execBeaconFrame, hm, ho, withFrames]

theorem beaconFrame_unheard (ns : List (BitVec 4)) (h : mainStopped s = true ∨ mooringOpen s = false) :
    exec (.beaconFrame ns) s = .next s := by
  change execBeaconFrame ns s = _
  rw [execBeaconFrame, if_pos (by simpa using h)]

/-- Nothing watches an effect edge in a draining warm reset, nor without a frame (Table 18-7). -/
theorem beaconFrameEffect_none (h : mainStopped s = true ∨ s.pwr.draining = some .warm ∨ s.crs.frames = []) :
    exec .beaconFrameEffect s = .next s := by
  change execBeaconFrameEffect s = _
  unfold execBeaconFrameEffect
  split
  · rfl
  · rename_i hn
    have hf : s.crs.frames = [] := by tauto
    rw [hf]

section
variable {f : BeaconBits} {rest : List BeaconBits} (hm : mainStopped s = false) (hd : s.pwr.draining ≠ some .warm)
  (hf : s.crs.frames = f :: rest)
include hm hd hf

/-- The effect edge of a frame on an unmoored engine (R410). -/
theorem beaconFrameEffect_unmoored (hu : s.crs.moored = false) :
    exec .beaconFrameEffect s = .next (if frameOk (frameNat f) then
      settle (recordMooring (frameNat f) { s with
        crs := { s.crs with frames := rest, moored := true, tide := bitsOf (frameNat f) 79 16, beaconErr := 0 }
        pwr := { s.pwr with moorWait := false } })
      else withFrames rest s) := by
  change execBeaconFrameEffect s = _
  simp [execBeaconFrameEffect, hm, hd, hf, hu, withFrames]

/-- The effect edge of a frame on a moored engine (R35). -/
theorem beaconFrameEffect_moored (hu : s.crs.moored = true) :
    exec .beaconFrameEffect s = .next (if frameOk (frameNat f) ∧ bitsOf (frameNat f) 79 16 = s.crs.tide ∧
        ¬(s.crs.annSeen ∧ landingLe (frameAnn (frameNat f)).1 (frameAnn (frameNat f)).2 s.crs.ann.1 s.crs.ann.2 ∧
          frameAnn (frameNat f) ≠ s.crs.ann) then recordAnn (frameNat f) (withFrames rest s)
      else beaconError (withFrames rest s)) := by
  change execBeaconFrameEffect s = _
  simp only [execBeaconFrameEffect, hm, hd, hf, hu, withFrames, Bool.false_eq_true, false_or, ↓reduceIte, Bool.not_true]

end

/-- An announcement is earlier than another, different one exactly where the order of R35 puts it lower. -/
theorem landingLe_and_ne_iff (a b : Nat × Nat) :
    landingLe a.1 a.2 b.1 b.2 = true ∧ a ≠ b ↔ a.1 < b.1 ∨ (a.1 = b.1 ∧ a.2 < b.2) := by
  obtain ⟨c, l⟩ := a
  obtain ⟨c', l'⟩ := b
  simp only [landingLe, Bool.or_eq_true, decide_eq_true_eq, Bool.and_eq_true, beq_iff_eq, ne_eq, Prod.mk.injEq]
  omega

/-- Settles O11: the three ways to be discarded are the three checks of the effect edge. -/
theorem discardedFrameOnlyCounts : Obligations.DiscardedFrameOnlyCounts := by
  unfold Obligations.DiscardedFrameOnlyCounts
  refine ⟨fun s f rest hm hd hf hu hk => ?_, fun s f rest hm hd hf hu => ?_⟩
  · rw [beaconFrameEffect_unmoored hm hd hf hu, hk]
    rfl
  · intro w a h
    rw [beaconFrameEffect_moored hm hd hf hu, if_neg, beaconError_moored (by exact hu)]
    · rfl
    · rintro ⟨hok, htide, hlow⟩
      rcases h with h | h | ⟨hs, h⟩
      · exact absurd hok (by simpa using h)
      · exact h htide
      · exact hlow ⟨hs, (landingLe_and_ne_iff a s.crs.ann).2 h⟩

/-- Settles O12: a later announcement is neither lower than the recorded one nor the same. -/
theorem newAnnouncementIsRecorded : Obligations.NewAnnouncementIsRecorded := by
  unfold Obligations.NewAnnouncementIsRecorded
  intro s f rest hm hd hf hu w a hok htide h
  have hlow : ¬(s.crs.annSeen = true ∧ landingLe a.1 a.2 s.crs.ann.1 s.crs.ann.2 = true ∧ a ≠ s.crs.ann) := by
    rintro ⟨hs, hl⟩
    rw [landingLe_and_ne_iff] at hl
    rcases h with h | h
    · simp [hs] at h
    · omega
  have hnew : ¬(s.crs.annSeen = true ∧ a = s.crs.ann) := by
    rintro ⟨hs, ha⟩
    rcases h with h | h
    · simp [hs] at h
    · rw [ha] at h
      omega
  rw [beaconFrameEffect_moored hm hd hf hu, if_pos ⟨hok, htide, hlow⟩]
  exact congrArg _ (if_neg hnew)

/-- Mooring sets the phase only once the engine is tested too (R411 step 8). -/
theorem settle_eq (s : State) : ∃ p, settle s = { s with crs := { s.crs with phase := p } } ∧
    (s.crs.moored = true → s.pwr.tested = true → s.pwr.warmTest = false → s.crs.phase = .notMoored → p = settledPhase s.crs) := by
  unfold settle
  split
  · exact ⟨_, rfl, fun _ _ _ _ => rfl⟩
  · rename_i h
    exact ⟨s.crs.phase, rfl, fun h1 h2 h3 h4 => absurd ⟨h1, h2, by simp [h3], h4⟩ h⟩

/-- Where no announcement has been recorded, any is recorded (R36). -/
theorem recordMooring_unseen (w : Nat) (h : s.crs.annSeen = false) :
    recordMooring w s = { s with crs := { s.crs with
      ann := frameAnn w, annTide := bitsOf w 143 80, annSeen := true
      ann0 := if (frameAnn w).2 = 0 then some ((frameAnn w).1, bitsOf w 143 80) else s.crs.ann0
      ann0New := false } } := by
  simp [recordMooring, recordAnn, h]

/-- Settles O10: a frame waits where something listens; and the first good one moors. -/
theorem framesQueueAndMoor : Obligations.FramesQueueAndMoor := by
  unfold Obligations.FramesQueueAndMoor
  refine ⟨fun s ns hm hf hd => ?_, fun s ns h => ?_, fun s h => beaconFrameEffect_none h,
    fun s f rest hm hd hf hu ha hok => ?_⟩
  · rw [beaconFrame_heard ns hm (mooringOpen_iff.2 ⟨hf, hd⟩)]
    refine ⟨fun h => ?_, fun h hu => ?_, fun h hu => ?_⟩
    · rw [if_neg (by omega)]
      rfl
    · rw [if_pos h, beaconError_moored hu]
    · rw [if_pos h, beaconError_unmoored hu]
  · refine beaconFrame_unheard ns (h.imp_right fun h => ?_)
    rw [← Bool.not_eq_true, mooringOpen_iff]
    rcases h with h | h <;> simp [h]
  · rw [beaconFrameEffect_unmoored hm hd hf hu, if_pos hok, recordMooring_unseen _ (by exact ha)]
    obtain ⟨p, hp, hphase⟩ := settle_eq { s with
      crs := { s.crs with
        frames := rest, moored := true, tide := bitsOf (frameNat f) 79 16, beaconErr := 0,
        ann := frameAnn (frameNat f), annTide := bitsOf (frameNat f) 143 80, annSeen := true
        ann0 := if (frameAnn (frameNat f)).2 = 0 then some ((frameAnn (frameNat f)).1, bitsOf (frameNat f) 143 80) else s.crs.ann0
        ann0New := false }
      pwr := { s.pwr with moorWait := false } }
    refine ⟨_, congrArg _ hp, rfl, rfl, rfl, rfl, rfl, rfl, rfl, rfl, rfl, rfl, rfl, rfl, fun ht hw hph hfo => ?_⟩
    rw [show p = _ from hphase rfl ht hw hph]
    exact if_pos (.inl hfo)

/-! ## Writes that wait for a landing (R49, R429) -/

theorem llValue_sput_same (m : PendingLL) (reg v : Nat) : llValue (sput m reg (some v)) reg = some v := by
  induction m with
  | nil => simp [sput, llValue]
  | cons p m ih =>
    unfold sput
    split
    · rename_i hlt
      rw [llValue, List.find?_cons_of_neg (by simpa using Nat.ne_of_lt hlt)]
      exact ih
    · simp [llValue]

theorem llValue_cons (p : Nat × Nat) (m : PendingLL) (r : Nat) :
    llValue (p :: m) r = if p.1 = r then some p.2 else llValue m r := by
  unfold llValue
  rw [List.find?_cons]
  split <;> simp_all

theorem llValue_without (m : PendingLL) {reg r : Nat} (h : r ≠ reg) : llValue (m.filter (fun p => p.1 != reg)) r = llValue m r := by
  unfold llValue
  rw [List.find?_filter]
  congr 2
  funext p
  by_cases hp : p.1 = r
  · simp [hp, h]
  · simp [hp]

theorem llValue_sput_other (m : PendingLL) {reg r : Nat} (v : Nat) (h : r ≠ reg) :
    llValue (sput m reg (some v)) r = llValue m r := by
  induction m with
  | nil => simp [sput, llValue, h.symm]
  | cons p m ih =>
    unfold sput
    split
    · rw [llValue_cons, llValue_cons, ih]
    · change llValue ((reg, v) :: (p :: m).filter _) r = _
      rw [llValue_cons, if_neg (Ne.symm h), llValue_without _ h]

/-- A latched write of a port is pending, the last one winning. -/
theorem latch_latched (p : Port) (reg v : Nat) (s : State) : Latched p reg v s (latch reg v (dropHeld p s)) where
  last := by
    unfold pendingOf
    rw [show llValue (latch reg v (dropHeld p s)).crs.pendingLL reg = some v from llValue_sput_same ..]
  others r h := by
    rw [show llValue (latch reg v (dropHeld p s)).crs.pendingLL r = _ from llValue_sput_other _ v h, dropHeld_crs]
  rest := by cases p <;> rfl

/-- A served write does its register's operation, the port's low half dropped (R428). -/
theorem next_onMain_served {p : Port} {b : Nat} {f : State → State} {t : State} (h : Served p b s) (k : f (dropHeld p s) = t) :
    (.next (onMain p b f s) : Host.Outcome State Fault Refusal) = .next t := by
  rw [onMain_served h, k]

theorem badWrite_dropHeld (p : Port) (s : State) : badWrite (dropHeld p s) = { dropHeld p s with rtv := { s.rtv with badWrite := true } } := by
  rw [badWrite, dropHeld_rtv]

/-- Settles O34: each write is its register's operation, which latches a legal value. -/
theorem latchedWritesWait : Obligations.LatchedWritesWait := by
  unfold Obligations.LatchedWritesWait
  intro s p v bad n
  refine ⟨fun hs => ⟨fun h1 h8 => ?_, fun h => ?_, fun hr1 hr2 hw1 hw2 hrw => ?_, fun h => ?_⟩,
    fun hs => ⟨fun b => ⟨fun h => ?_, fun h => ?_⟩, fun h => ?_, fun h => ?_⟩, fun hs => ?_⟩
  · refine ⟨_, next_onMain_served hs (if_neg ?_), latch_latched ..⟩
    rintro (h | h) <;> omega
  · exact next_onMain_served hs ((if_pos h).trans (badWrite_dropHeld p s))
  · exact ⟨_, next_onMain_served hs (if_pos ⟨hr1, hr2, hw1, hw2, hrw⟩), latch_latched ..⟩
  · refine next_onMain_served hs ((if_neg ?_).trans (badWrite_dropHeld p s))
    rintro ⟨h1, h2, h3, h4, h5⟩
    simp only [n] at h
    rcases h with h | h | h | h | h <;> omega
  · exact ⟨_, next_onMain_served hs (if_neg (Nat.not_lt.2 h)), latch_latched ..⟩
  · exact next_onMain_served hs (if_pos h)
  · exact ⟨_, next_onMain_served hs (if_neg (Nat.not_lt.2 h)), latch_latched ..⟩
  · exact next_onMain_served hs (if_pos h)
  · exact ⟨_, next_onMain_served hs rfl, latch_latched ..⟩

end Sys2Proof.Machine
end

section
/-! SUPPORT. The commitment of landings: what the ledger takes, and what a commitment leaves alone (R48, R270, Table 2-3). -/

namespace Sys2Proof.Machine

variable {s t u : State}

/-! ## Certificates change the Tollhouse and its writes that wait -/

/-- From `s` to `t` only the Tollhouse and the Retriever may differ. -/
def OnlyToll (s t : State) : Prop := t = { s with toll := t.toll, rtv := t.rtv }

theorem OnlyToll.refl (s : State) : OnlyToll s s := rfl

theorem OnlyToll.trans (h : OnlyToll s t) (k : OnlyToll t u) : OnlyToll s u := by
  unfold OnlyToll at *
  rw [k, h]

theorem OnlyToll.ite {c : Prop} [Decidable c] (h : OnlyToll s t) (k : OnlyToll s u) : OnlyToll s (if c then t else u) := by
  split <;> assumption

theorem onlyToll_of_eq {x : TollUnit} {y : RtvUnit} (h : t = { s with toll := x, rtv := y }) : OnlyToll s t := by
  rw [h]
  rfl

theorem setCert_onlyToll (c : CertUnit) (s : State) : OnlyToll s (setCert c s) := rfl

theorem withRtv_onlyToll (y : RtvUnit) (s : State) : OnlyToll s { s with rtv := y } := rfl

theorem endCert_onlyToll (st cause : Nat) (s : State) : OnlyToll s (endCert st cause s) := rfl

theorem drbgDue_onlyToll (s : State) : OnlyToll s (drbgDue s) := by
  obtain ⟨x, y, h⟩ := reseedDrbg_frame s
  exact .ite (onlyToll_of_eq h) (.refl s)

theorem countUse_onlyToll (slot : Nat) (s : State) : OnlyToll s (countUse slot s) := by
  obtain ⟨x, h⟩ := countUse_frame slot s
  exact onlyToll_of_eq (y := s.rtv) h

theorem scalarNext_onlyToll (s : State) : OnlyToll s (scalarNext s) := by
  unfold scalarNext
  generalize (drbgScalarFrom 64 s.toll.drbg).2 = d
  exact rfl

theorem certSign_onlyToll (s : State) : OnlyToll s (certSign s) := by
  unfold certSign
  extract_lets c
  split
  · exact .refl s
  · next j _ =>
    extract_lets slot key s0 body rs tail s1
    have h0 : OnlyToll s s0 := .ite (.refl s) (drbgDue_onlyToll s)
    have h1 : OnlyToll s s1 := (h0.trans (.ite (.refl s0) (scalarNext_onlyToll s0))).trans (countUse_onlyToll slot _)
    exact .ite (endCert_onlyToll ..) (.ite h0 (h1.trans ((withRtv_onlyToll ..).trans (setCert_onlyToll ..))))

theorem certCommit_onlyToll (c l : Nat) (closes : Option Nat) (s : State) : OnlyToll s (certCommit c l closes s) := by
  unfold certCommit
  extract_lets x fin s1
  exact .ite (.refl s) (.ite ((setCert_onlyToll _ s).trans (certSign_onlyToll s1)) (setCert_onlyToll _ s))

theorem certClose_onlyToll (k store : Nat) (i : Bool) (x : Option (Nat × Bool)) (s : State) : OnlyToll s (certClose k store i x s) := by
  unfold certClose
  extract_lets
  exact .ite (.refl s) (setCert_onlyToll ..)

theorem certSwap_onlyToll (l : Nat) (s : State) : OnlyToll s (certSwap l s) := .ite (setCert_onlyToll ..) (.refl s)

theorem certOpening_onlyToll (s : State) : OnlyToll s (certOpening s) := .ite (setCert_onlyToll ..) (.refl s)

theorem promotePartner_frame (s : State) : ∃ w, promotePartner s = { s with tow := w } := by
  unfold promotePartner
  repeat' split
  all_goals exact ⟨_, rfl⟩

/-! ## The ledger's committed counts (R270) -/

/-- One completed command's sequence number raises the count of its berth. -/
def coverSeq (acc : List (Nat × Nat)) (h : Nat × Nat × Nat × Nat) : List (Nat × Nat) :=
  if sget 0 acc h.1 < h.2.1 then sset 0 acc h.1 h.2.1 else acc

theorem sget_coverSeq (acc : List (Nat × Nat)) (h : Nat × Nat × Nat × Nat) (b : Nat) :
    sget 0 (coverSeq acc h) b = if b = h.1 then max (sget 0 acc b) h.2.1 else sget 0 acc b := by
  unfold coverSeq
  split
  · rw [sget_sset]
    split
    · subst b
      omega
    · rfl
  · split
    · subst b
      omega
    · rfl

/-- Counts that cover commands do not fall, cover each of them, and come from one of them where they rose. -/
theorem coverSeqs (hs : List (Nat × Nat × Nat × Nat)) (acc : List (Nat × Nat)) (b : Nat) :
    sget 0 acc b ≤ sget 0 (hs.foldl coverSeq acc) b ∧
      (∀ h ∈ hs, h.1 = b → h.2.1 ≤ sget 0 (hs.foldl coverSeq acc) b) ∧
      (sget 0 (hs.foldl coverSeq acc) b = sget 0 acc b ∨ ∃ h ∈ hs, h.1 = b ∧ h.2.1 = sget 0 (hs.foldl coverSeq acc) b) := by
  induction hs generalizing acc with
  | nil => simp
  | cons x hs ih =>
    obtain ⟨hle, hall, hfrom⟩ := ih (coverSeq acc x)
    have hx := sget_coverSeq acc x b
    rw [List.foldl_cons]
    refine ⟨?_, fun h hm hb => ?_, ?_⟩
    · split at hx <;> omega
    · rcases List.mem_cons.1 hm with rfl | hm
      · rw [if_pos hb.symm] at hx
        omega
      · exact hall h hm hb
    · rcases hfrom with hs | ⟨h, hm, hb, hq⟩
      · rw [hs, hx]
        split
        · next e =>
          rcases Nat.le_total x.2.1 (sget 0 acc b) with hl | hl
          · exact .inl (Nat.max_eq_left hl)
          · exact .inr ⟨x, List.mem_cons_self .., e.symm, (Nat.max_eq_right hl).symm⟩
        · exact .inl rfl
      · exact .inr ⟨h, List.mem_cons_of_mem _ hm, hb, hq⟩

/-- The completed commands that came before a landing. -/
def doneBefore (s : State) (c l : Nat) : List (Nat × Nat × Nat × Nat) :=
  s.cq.hist.filter (fun h => landingLe h.2.2.1 h.2.2.2 c l && !(h.2.2.1 == c && h.2.2.2 == l))

theorem mem_doneBefore {c l : Nat} {h : Nat × Nat × Nat × Nat} :
    h ∈ doneBefore s c l ↔ h ∈ s.cq.hist ∧ (h.2.2.1 < c ∨ (h.2.2.1 = c ∧ h.2.2.2 < l)) := by
  unfold doneBefore landingLe
  rw [List.mem_filter]
  simp only [Bool.and_eq_true, Bool.or_eq_true, decide_eq_true_eq, beq_iff_eq, Bool.not_eq_true', Bool.and_eq_false_iff,
    beq_eq_false_iff_ne]
  refine and_congr_right fun _ => ?_
  omega

/-! ## One commitment -/

/-- The ledger after the commitment of a landing (R48, R268). -/
def committedKeep (u : Uncommitted) (s : State) : Keep :=
  { s.keep with
    committed := (u.crossing, u.landing), crossCopy := some (u.crossing, u.landing), crossBase := u.deadlineBase, colls := u.colls
    commitSeq := commitSeqs s u.crossing u.landing }

/-- From `s` to `t` the first uncommitted landing was committed; between two crossings the last one lets the engine wait for the beacon. -/
structure CommittedFirst (u : Uncommitted) (s t : State) : Prop where
  keep : t.keep = committedKeep u s
  uncommitted : t.crs.uncommitted = s.crs.uncommitted.drop 1
  landing : t.crs.landing = s.crs.landing
  man : t.man = s.man
  mem : SameMemory s t
  last : s.crs.phase = .afterEnd → s.crs.uncommitted.drop 1 = [] → t.crs.phase = .waitBeacon
  phase : s.crs.phase ≠ .afterEnd → t.crs.phase = s.crs.phase

theorem commitFirst_effect (u : Uncommitted) (s : State) : CommittedFirst u s (commitFirst u s) := by
  have hmem : SameMemory s (commitFirst u s) := sameMemory_of_mem (commitFirst_quiet u s).mem
  revert hmem
  unfold commitFirst
  extract_lets _ _ _ s1 s2
  have h2 : ∃ x y w, s2 = { s1 with toll := x, rtv := y, tow := w } := by
    obtain ⟨w, hw⟩ := promotePartner_frame s1
    have h := certCommit_onlyToll u.crossing u.landing u.closes (promotePartner s1)
    exact ⟨_, _, w, by rw [show s2 = _ from h, hw]⟩
  obtain ⟨x, y, w, h2⟩ := h2
  have hkeep : s2.keep = committedKeep u s := by rw [h2]; rfl
  have hman : s2.man = s.man := by rw [h2]; rfl
  have hunc : s2.crs.uncommitted = s.crs.uncommitted.drop 1 := by rw [h2]; rfl
  have hland : s2.crs.landing = s.crs.landing := by rw [h2]; rfl
  have hphase : s2.crs.phase = s.crs.phase := by rw [h2]; rfl
  split
  · next h => exact fun hmem => ⟨hkeep, hunc, hland, hman, hmem, fun _ _ => rfl, fun hp => absurd (hphase ▸ h.1) hp⟩
  · next h =>
    refine fun hmem => ⟨hkeep, hunc, hland, hman, hmem, fun hp hl => ?_, fun _ => hphase⟩
    exact absurd ⟨hphase.trans hp, by rw [hunc, hl]; rfl⟩ h

/-! ## A crossing commits together -/

/-- From `s` to `t` the landings of `done` were committed, in order. -/
structure CommittedRun (done : List Uncommitted) (s t : State) : Prop where
  split : s.crs.uncommitted = done ++ t.crs.uncommitted
  unprotected : ∀ v ∈ done, v.prot = 0
  committed : t.keep.committed = (done.getLast?.map (fun v => (v.crossing, v.landing))).getD s.keep.committed
  crossBase : t.keep.crossBase = (done.getLast?.map (·.deadlineBase)).getD s.keep.crossBase
  accepted : t.keep.accepted = s.keep.accepted
  completed : t.keep.completed = s.keep.completed
  man : t.man = s.man
  mem : SameMemory s t

theorem CommittedRun.nil (s : State) : CommittedRun [] s s :=
  ⟨rfl, by simp, rfl, rfl, rfl, rfl, rfl, fun _ => rfl⟩

theorem CommittedRun.cons {v : Uncommitted} {done : List Uncommitted} (hv : v.prot = 0) (hs : s.crs.uncommitted.head? = some v)
    (h : CommittedFirst v s t) (k : CommittedRun done t u) : CommittedRun (v :: done) s u where
  split := by
    rw [List.cons_append, ← k.split, h.uncommitted]
    cases hc : s.crs.uncommitted <;> simp_all
  unprotected := List.forall_mem_cons.2 ⟨hv, k.unprotected⟩
  committed := by
    rw [k.committed, h.keep, List.getLast?_cons]
    cases done.getLast? <;> rfl
  crossBase := by
    rw [k.crossBase, h.keep, List.getLast?_cons]
    cases done.getLast? <;> rfl
  accepted := by rw [k.accepted, h.keep]; rfl
  completed := by rw [k.completed, h.keep]; rfl
  man := k.man.trans h.man
  mem a := (k.mem a).trans (h.mem a)

/-- With fuel for every landing a run commits all that stand in front under the unprotected level. -/
theorem commitRun_effect (n : Nat) (s : State) (h : s.crs.uncommitted.length ≤ n) :
    ∃ done, CommittedRun done s (commitRun n s) ∧ ∀ v ∈ (commitRun n s).crs.uncommitted.head?, v.prot ≠ 0 := by
  induction n generalizing s with
  | zero =>
    refine ⟨[], .nil s, ?_⟩
    rw [commitRun, List.length_eq_zero_iff.1 (Nat.le_zero.1 h)]
    simp
  | succ n ih =>
    unfold commitRun
    split
    · next v rest hs =>
      split
      · next hv =>
        have h1 := commitFirst_effect v s
        obtain ⟨done, hd, hh⟩ := ih (commitFirst v s) (by rw [h1.uncommitted, hs]; rw [hs] at h; simpa using h)
        exact ⟨v :: done, .cons hv (by rw [hs]; rfl) h1 hd, hh⟩
      · next hv =>
        exact ⟨[], .nil s, by rw [hs]; rintro w ⟨⟩; exact hv⟩
    · next hs => exact ⟨[], .nil s, by rw [hs]; simp⟩

theorem landingCommitted_eq {v : Uncommitted} {rest : List Uncommitted} (hm : mainStopped s = false)
    (hs : s.crs.uncommitted = v :: rest) :
    exec .landingCommitted s = .next (if mayCommit s v then
      (if v.prot = 0 then commitRun (rest.length + 1) s else commitFirst v s) else s) := by
  change execLandingCommitted s = _
  simp [execLandingCommitted, hm, hs]

/-- Settles O38: a commitment is that of the first landing; its counts cover exactly the completed commands before it. -/
theorem landingsCommitInOrder : Obligations.LandingsCommitInOrder := by
  unfold Obligations.LandingsCommitInOrder
  refine ⟨fun s v rest hm hs => ?_, fun s h => ?_⟩
  · rw [landingCommitted_eq hm hs]
    refine ⟨fun hn => by simp [hn], fun hy hp => ?_, fun hy hp => ?_⟩
    · rw [if_pos hy, if_neg hp]
      obtain ⟨hkeep, hunc, hland, hman, hmem, hlast, hphase⟩ := commitFirst_effect v s
      rw [hs] at hunc hlast
      have hseq : ∀ b, ldgCommitSeq (commitFirst v s) b =
          sget 0 ((doneBefore s v.crossing v.landing).foldl coverSeq s.keep.commitSeq) b := fun b => by
        rw [ldgCommitSeq, hkeep]
        rfl
      refine ⟨_, rfl, by rw [hkeep]; rfl, by rw [hkeep]; rfl, by rw [hkeep]; rfl, by rw [hkeep]; rfl, hunc, fun b => ?_,
        fun b q c l hh hb => ?_, fun b => ?_, by rw [hkeep]; rfl, by rw [hkeep]; rfl, hland, hman, hmem, hlast, hphase⟩
      · rw [hseq]
        exact (coverSeqs ..).1
      · rw [hseq]
        exact (coverSeqs ..).2.1 (b, q, c, l) (mem_doneBefore.2 ⟨hh, hb⟩) rfl
      · rw [hseq]
        rcases (coverSeqs (doneBefore s v.crossing v.landing) s.keep.commitSeq b).2.2 with h | ⟨⟨b', q, c, l⟩, hh, rfl, hq⟩
        · exact .inl h
        · obtain ⟨hin, hb⟩ := mem_doneBefore.1 hh
          exact .inr ⟨c, l, by rw [← hq]; exact hin, hb⟩
    · rw [if_pos hy, if_pos hp]
      obtain ⟨done, hd, hh⟩ := commitRun_effect (rest.length + 1) s (by rw [hs]; rfl)
      refine ⟨_, rfl, ⟨done, hd.split, hd.unprotected, fun w hw => ?_⟩, hh, hd.accepted, hd.completed, hd.man, hd.mem⟩
      rw [hd.committed, hd.crossBase, hw]
      exact ⟨rfl, rfl⟩
  · change execLandingCommitted s = _
    unfold execLandingCommitted
    split
    · rfl
    · rw [h.resolve_left (by assumption)]

end Sys2Proof.Machine
end

section
/-! SUPPORT. Landings: what their actions and the mirror leave alone, what entering one sets, and what waits for copies (R39, R45, R47, R265,
R351, R367). -/

namespace Sys2Proof.Machine

variable {α : Type} {s t u : State}

/-! ## What a landing's actions leave -/

/-- From `s` to `t` the engine's place in its crossing, the queue, the ledger, the active manifest, the collective numbers and the digests stay,
but for the deadline base, a skipped post and a partner's difference. -/
structure Placed (s t : State) : Prop where
  crs : t.crs = { s.crs with deadlineBase := t.crs.deadlineBase } := by rfl
  cq : t.cq = s.cq := by rfl
  keep : t.keep = s.keep := by rfl
  active : t.man.active = s.man.active := by rfl
  coll : t.tow.coll = s.tow.coll := by rfl
  dgst : t.dgst = { s.dgst with postSkipped := t.dgst.postSkipped, partnerDiffer := t.dgst.partnerDiffer } := by rfl

/-- From `s` to `t` the place stays, and the held restore messages do. -/
structure Calm (s t : State) : Prop extends Placed s t where
  restores : t.tow.heldRestore = s.tow.heldRestore := by rfl

theorem Placed.refl (s : State) : Placed s s := {}

theorem Calm.refl (s : State) : Calm s s := {}

theorem Placed.trans (h : Placed s t) (k : Placed t u) : Placed s u where
  crs := by rw [k.crs, h.crs]
  cq := k.cq.trans h.cq
  keep := k.keep.trans h.keep
  active := k.active.trans h.active
  coll := k.coll.trans h.coll
  dgst := by rw [k.dgst, h.dgst]

theorem Calm.trans (h : Calm s t) (k : Calm t u) : Calm s u := ⟨h.toPlaced.trans k.toPlaced, k.restores.trans h.restores⟩

/-- `Calm.trans`, the last step first. -/
theorem Calm.after (k : Calm t u) (h : Calm s t) : Calm s u := h.trans k

theorem Placed.ite {c : Prop} [Decidable c] (h : Placed s t) (k : Placed s u) : Placed s (if c then t else u) := by
  split <;> assumption

theorem Calm.ite {c : Prop} [Decidable c] (h : Calm s t) (k : Calm s u) : Calm s (if c then t else u) := by
  split <;> assumption

theorem Placed.foldl {f : State → α → State} (h : ∀ t x, Placed t (f t x)) (xs : List α) (s : State) : Placed s (xs.foldl f s) :=
  List.foldlRecOn xs f (motive := Placed s) (.refl s) (fun t ht x _ => ht.trans (h t x))

theorem Calm.foldl {f : State → α → State} (h : ∀ t x, Calm t (f t x)) (xs : List α) (s : State) : Calm s (xs.foldl f s) :=
  List.foldlRecOn xs f (motive := Calm s) (.refl s) (fun t ht x _ => ht.trans (h t x))

theorem OnlyTables.calm (h : OnlyTables s t) : Calm s t := by
  rw [h.rest]
  exact {}

theorem OnlyToll.calm (h : OnlyToll s t) : Calm s t := by
  rw [show t = _ from h]
  exact {}

theorem raise_calm (code : Nat) (cmd : Option (Nat × Nat)) (d0 d1 : Nat) (s : State) : Calm s (raise code cmd d0 d1 s) := by
  unfold raise
  exact .ite {} {}

theorem refuseManifest_calm (r : Nat) (s : State) : Calm s (refuseManifest r s) := (raise_calm ..).after {}

theorem expireRequest_calm (s : State) : Calm s (expireRequest s) := (refuseManifest_calm ..).after {}

theorem latchIn_calm (s : State) (p : Nat × Nat) : Calm s (latchIn s p) := by
  unfold latchIn
  split <;> exact {}

theorem rotate_calm (r : Rotation) (acc : State × List Nat) : Calm acc.1 (rotate r acc).1 := by
  unfold rotate
  split <;> exact {}

theorem postDigest_calm (slot : Nat) (r : DigRec) (s : State) : Calm s (postDigest slot r s) := by
  unfold postDigest
  extract_lets
  exact .ite {} {}

theorem startCopies_calm (l : Nat) (req : Option Nat) (s : State) : Calm s (startCopies l req s) :=
  (lockLoads_onlyTables _).calm.after {}

theorem runEntry_calm (l : Nat) (post : Option DigRec) (forced : List Rotation × List (Nat × Nat)) (a : LandingAcc) (t : TimeEntry) :
    Calm a.state (runEntry l post forced a t).state := by
  unfold runEntry
  split
  · exact (certSwap_onlyToll ..).calm.after (swapTables_onlyTables ..).calm
  · dsimp only
    split
    · exact .refl _
    · exact rotate_calm _ (a.state, a.rotated)
  · dsimp only
    have h : Calm a.state { a.state with ken := { a.state.ken with deadlineForced := true } } := {}
    split
    · exact h.trans (rotate_calm _ (_, _))
    · split
      · exact h
      · exact .refl _
  · split
    · exact postDigest_calm ..
    · exact .refl _
  · exact {}
  · exact .refl _

theorem runActions_calm (l : Nat) (ll : PendingLL) (post : Option DigRec) (s : State) : Calm s (runActions l ll post s).state := by
  unfold runActions
  extract_lets s1 forced a x k s2
  have h1 : Calm s s1 := .foldl latchIn_calm ll s
  have h2 : Calm s a.state := List.foldlRecOn (matching s1 l) (runEntry l post forced) (motive := fun b => Calm s b.state) h1
    (fun b h t _ => h.trans (runEntry_calm l post forced b t))
  have h3 : Calm s x.1 := List.foldlRecOn (hostRotation (llValue ll llKenReq)) (fun acc r => rotate r acc)
    (motive := fun b : State × List Nat => Calm s b.1) h2 (fun b h r _ => h.trans (rotate_calm r b))
  exact h3.trans {}

theorem nextSnapshot_calm (s : State) : Calm s (nextSnapshot s) := by
  unfold nextSnapshot
  split
  · exact .ite {} (.refl s)
  · exact .refl s

theorem takeSnapshot_calm (c l : Nat) (a b : Option DigRec) (s : State) : Calm s (takeSnapshot c l a b s) :=
  (nextSnapshot_calm _).after {}

theorem phase1Tables_onlyTables (m : Manifest) (s : State) : OnlyTables s (phase1Tables m s) := by
  unfold phase1Tables
  exact (emptyShadows_onlyBanks ..).onlyTables.trans (.foldl (fun t r => .foldl (fun u c => {}) _ t) _ _)

/-- Work for the crossing that comes next leaves the place in this one. -/
theorem Calm.of_crossing {c : Nat} (h : Calm { s with crs := { s.crs with crossing := c } } t) :
    Calm s { t with crs := { t.crs with crossing := s.crs.crossing } } where
  crs := by
    show ({ t.crs with crossing := s.crs.crossing } : CrsUnit) = _
    rw [h.crs]
  cq := h.cq
  keep := h.keep
  active := h.active
  coll := h.coll
  dgst := h.dgst
  restores := h.restores

theorem startCopies_crs (l : Nat) (req : Option Nat) (s : State) : (startCopies l req s).crs = s.crs :=
  (lockLoads_onlyTables _).crs

/-- The landing's own work after its markers, for the landing that comes next. -/
theorem afterReached_calm (l : Nat) (s : State) :
    Calm (markersReached l s) (afterReached l s) ∧ (afterReached l s).crs = s.crs := by
  unfold afterReached
  extract_lets c0 k0 s1 s2
  have h2 : Calm (markersReached l s) s2 := Calm.trans {} (.ite (expireRequest_calm s1) (.refl s1))
  have hcrs : s2.crs = s.crs := by
    unfold s2
    split
    · exact refuseManifest_crs ..
    · rfl
  split
  · exact ⟨h2.trans (startCopies_calm ..), (startCopies_crs ..).trans hcrs⟩
  · split
    · refine ⟨h2.trans (startCopies_calm ..).of_crossing, ?_⟩
      show ({ (startCopies ..).crs with crossing := s2.crs.crossing } : CrsUnit) = _
      rw [startCopies_crs]
      exact hcrs
    · exact ⟨h2.trans (startCopies_calm ..), (startCopies_crs ..).trans hcrs⟩

/-! ## A landing without an application -/

theorem protection_congr (h : t.man.active = s.man.active) : protection t = protection s := by
  rw [protection, h, protection]

/-- From `s` to `t` the duties of a landing were done, and it waits for its commitment. -/
structure Acted (l : Nat) (full : Bool) (closes : Option Nat) (s t : State) : Prop where
  crs : t.crs = { s.crs with
    deadlineBase := t.crs.deadlineBase
    uncommitted := s.crs.uncommitted ++ [⟨s.crs.crossing, l, t.crs.deadlineBase, s.tow.coll, closes, protection s⟩]
    run := t.crs.run, phase := if full then .fullLanding else .inSegment }
  run : t.crs.run.map (fun r => (r.landing, r.stage)) = if full then some (l, .closing) else none
  cq : t.cq = (markersReached l s).cq
  keep : t.keep = s.keep
  active : t.man.active = s.man.active
  coll : t.tow.coll = s.tow.coll
  dgst : t.dgst = { s.dgst with postSkipped := t.dgst.postSkipped, partnerDiffer := t.dgst.partnerDiffer }
  restores : t.tow.heldRestore = s.tow.heldRestore

theorem markersReached_congr (l : Nat) (hq : t.cq = s.cq) (hc : t.crs.crossing = s.crs.crossing) :
    (markersReached l t).cq = (markersReached l s).cq := by
  unfold markersReached
  rw [hq, hc]

/-- A crossing unit whose landing waits for its commitment, once the landing's run and phase are set. -/
theorem crs_ended {c c' : CrsUnit} {us : List Uncommitted} {r : Option LandingRun} {p : Phase}
    (h : c' = { c with deadlineBase := c'.deadlineBase, uncommitted := us }) :
    ({ c' with run := r, phase := p } : CrsUnit) =
      { c with deadlineBase := c'.deadlineBase, uncommitted := us, run := r, phase := p } := by
  rw [h]

theorem landingActions_effect (l : Nat) (full : Bool) (ll : PendingLL) (closes : Option Nat) (seg cross : Option DigRec) (s : State) :
    Acted l full closes s (landingActions l full ll closes seg cross s) := by
  unfold landingActions
  extract_lets post mirror a s1 s2
  have h1 : Calm s s1 := (runActions_calm l ll post s).trans (.ite (takeSnapshot_calm ..) (.refl _))
  obtain ⟨h2, hcrs⟩ := afterReached_calm l (noteReached l closes s1)
  have hbase : s2.crs.deadlineBase = s1.crs.deadlineBase := by rw [show s2.crs = _ from hcrs]; rfl
  have hnoted : s2.crs = { s.crs with
      deadlineBase := s2.crs.deadlineBase
      uncommitted := s.crs.uncommitted ++ [⟨s.crs.crossing, l, s2.crs.deadlineBase, s.tow.coll, closes, protection s⟩] } := by
    rw [hbase, ← protection_congr h1.active, ← h1.coll, show s2.crs = _ from hcrs]
    show ({ s1.crs with uncommitted := s1.crs.uncommitted ++ [_] } : CrsUnit) = _
    rw [h1.crs]
  refine ⟨?_, ?_, ?_, h2.keep.trans h1.keep, h2.active.trans h1.active, h2.coll.trans h1.coll, ?_, h2.restores.trans h1.restores⟩
  · exact crs_ended hnoted
  · cases full <;> rfl
  · exact h2.cq.trans (markersReached_congr l h1.cq (by show s1.crs.crossing = _; rw [h1.crs]))
  · show s2.dgst = _
    rw [h2.dgst]
    show ({ s1.dgst with postSkipped := s2.dgst.postSkipped, partnerDiffer := s2.dgst.partnerDiffer } : DgstUnit) = _
    rw [h1.dgst]

/-! ## Entering a landing (R45, R351) -/

/-- From `s` to `t` the digests of the segment in progress were closed (R351), and the registers show it. -/
structure SegmentClosed (s t : State) : Prop where
  segs : sget .zero t.dgst.segs s.crs.landing = .zero
  crossing : t.dgst.closedCrossing = s.crs.crossing
  closed : t.dgst.closed = s.dgst.closed ++ [(s.crs.landing, sget .zero s.dgst.segs s.crs.landing)]
  landing : t.dgst.closedLanding = s.crs.landing
  invalid : t.dgst.closedInvalid = (sget .zero s.dgst.segs s.crs.landing).invalid

theorem SegmentClosed.mono (h : SegmentClosed s t)
    (hd : u.dgst = { t.dgst with postSkipped := u.dgst.postSkipped, partnerDiffer := u.dgst.partnerDiffer }) : SegmentClosed s u := by
  obtain ⟨h1, h2, h3, h4, h5⟩ := h
  constructor <;> rw [hd] <;> assumption

/-- What closing a segment sets and leaves. -/
structure Closing (k : Nat) (s t : State) : Prop where
  crs : t.crs = s.crs
  cq : t.cq = s.cq
  keep : t.keep = s.keep
  man : t.man = s.man
  coll : t.tow.coll = s.tow.coll
  restores : t.tow.heldRestore = s.tow.heldRestore
  segs : sget .zero t.dgst.segs k = .zero
  closedCrossing : t.dgst.closedCrossing = s.crs.crossing
  closed : t.dgst.closed = s.dgst.closed ++ [(k, sget .zero s.dgst.segs k)]
  closedLanding : t.dgst.closedLanding = k
  closedInvalid : t.dgst.closedInvalid = (sget .zero s.dgst.segs k).invalid

theorem closeDigest_closing (k l : Nat) (s : State) : Closing k s (closeDigest k l s) := by
  unfold closeDigest
  extract_lets c g all x atEnd prot crossFails failed clean d0 w0 s1
  have h1 : Closing k s s1 := ⟨rfl, rfl, rfl, rfl, rfl, rfl, by simp [s1, sget_sput], rfl, rfl, rfl, rfl⟩
  split
  · obtain ⟨h1, h2, h3, h4, h5, h6, h7, h8, h9, h10, h11⟩ := h1
    constructor <;> simpa [mismatchDigest]
  · exact h1

/-- From `s` to `t` a landing was recorded in the ledger and became the current one. -/
structure Recorded (d : Decided) (s t : State) : Prop where
  crs : t.crs = { s.crs with landing := d.landing, decided := s.crs.decided.drop 1 }
  cq : t.cq = s.cq
  keep : t.keep = { s.keep with landing := (s.crs.crossing, d.landing) }
  active : t.man.active = s.man.active
  coll : t.tow.coll = s.tow.coll
  restores : t.tow.heldRestore = s.tow.heldRestore
  closed : d.landing ≠ 0 → SegmentClosed s t
  first : d.landing = 0 → t.dgst.segs = s.dgst.segs ∧ t.dgst.nextInvalid = s.dgst.nextInvalid

theorem Recorded.calm {d : Decided} (h : Recorded d s t) (k : Calm t u) (hc : u.crs = t.crs) : Recorded d s u where
  crs := hc.trans h.crs
  cq := k.cq.trans h.cq
  keep := k.keep.trans h.keep
  active := k.active.trans h.active
  coll := k.coll.trans h.coll
  restores := k.restores.trans h.restores
  closed x := (h.closed x).mono k.dgst
  first x := by
    rw [k.dgst]
    exact h.first x

/-- From `s` to `t` a landing was entered: it is recorded, its markers are done, and either its application runs or it waits for its commitment. -/
structure Entered (d : Decided) (s t : State) : Prop where
  crs : t.crs = { s.crs with
    landing := d.landing, decided := s.crs.decided.drop 1
    deadlineBase := t.crs.deadlineBase, uncommitted := t.crs.uncommitted, run := t.crs.run, phase := t.crs.phase }
  cq : t.cq = (markersReached d.landing s).cq
  keep : t.keep = { s.keep with landing := (s.crs.crossing, d.landing) }
  active : t.man.active = s.man.active
  coll : t.tow.coll = s.tow.coll
  restores : t.tow.heldRestore = s.tow.heldRestore
  closed : d.landing ≠ 0 → SegmentClosed s t
  first : d.landing = 0 → t.dgst.segs = s.dgst.segs ∧ t.dgst.nextInvalid = s.dgst.nextInvalid
  applies : d.applies = true → t.crs.phase = .fullLanding ∧ t.crs.uncommitted = s.crs.uncommitted ∧
    t.crs.run.map (fun r => (r.landing, r.stage)) = some (d.landing, .phase1)
  plain : d.applies = false → t.crs.uncommitted = s.crs.uncommitted ++
      [⟨s.crs.crossing, d.landing, t.crs.deadlineBase, s.tow.coll, if d.landing = 0 then none else some s.crs.landing, protection s⟩] ∧
    t.crs.run.map (fun r => (r.landing, r.stage)) = (if d.full then some (d.landing, .closing) else none) ∧
    t.crs.phase = if d.full then .fullLanding else .inSegment

theorem Recorded.acted {d : Decided} (hd : d.applies = false) (h : Recorded d s t)
    (k : Acted d.landing d.full (if d.landing = 0 then none else some s.crs.landing) t u) : Entered d s u where
  crs := by rw [k.crs, h.crs]
  cq := k.cq.trans (markersReached_congr d.landing h.cq (by rw [h.crs]))
  keep := k.keep.trans h.keep
  active := k.active.trans h.active
  coll := k.coll.trans h.coll
  restores := k.restores.trans h.restores
  closed x := (h.closed x).mono k.dgst
  first x := by
    rw [k.dgst]
    exact h.first x
  applies x := absurd x (by simp [hd])
  plain _ := by
    refine ⟨?_, k.run, by rw [k.crs]⟩
    rw [k.crs, h.crs, h.coll, protection_congr h.active]

/-- A landing recorded whose application begins its phase 1, beside which its markers complete. -/
theorem Recorded.applying {d : Decided} (hd : d.applies = true) (h : Recorded d s t) {r : LandingRun}
    (hr : r.landing = d.landing ∧ r.stage = .phase1) :
    Entered d s { markersReached d.landing t with crs := { (markersReached d.landing t).crs with run := some r, phase := .fullLanding } } where
  crs := by
    show ({ t.crs with run := some r, phase := .fullLanding } : CrsUnit) = { s.crs with
      landing := d.landing, decided := s.crs.decided.drop 1
      deadlineBase := t.crs.deadlineBase, uncommitted := t.crs.uncommitted, run := some r, phase := .fullLanding }
    rw [h.crs]
  cq := markersReached_congr d.landing h.cq (by rw [h.crs])
  keep := h.keep
  active := h.active
  coll := h.coll
  restores := h.restores
  closed x := (h.closed x).mono rfl
  first := h.first
  applies _ := ⟨rfl, by change t.crs.uncommitted = _; rw [h.crs], by rw [← hr.1, ← hr.2]; rfl⟩
  plain x := absurd x (by simp [hd])

theorem enterLanding_entered (d : Decided) (s : State) : Entered d s (enterLanding d s) := by
  unfold enterLanding
  extract_lets l prev c first g x seg cross closes c0 k1 s1 s2 s3 s4
  have h2 : Recorded d s s2 := by
    unfold s2
    split
    · next h0 =>
      have h0 : d.landing = 0 := by simpa [first] using h0
      exact ⟨rfl, rfl, rfl, rfl, rfl, rfl, fun hn => absurd h0 hn, fun _ => ⟨rfl, rfl⟩⟩
    · next h0 =>
      have h0 : d.landing ≠ 0 := by simpa [first] using h0
      obtain ⟨h1, h2, h3, h4, h5, h6, h7, h8, h9, h10, h11⟩ := closeDigest_closing prev l s1
      have hc : Recorded d s (closeDigest prev l s1) :=
        ⟨h1, h2, h3, congrArg ManUnit.active h4, h5, h6, fun _ => ⟨h7, h8, h9, h10, h11⟩, fun h => absurd h h0⟩
      have ht := certClose_onlyToll prev g.store g.invalid (if l = 0xFFFF then some (x.store, x.invalid) else none) (closeDigest prev l s1)
      exact hc.calm ht.calm (by rw [show certClose .. = _ from ht])
  have h3 : Recorded d s s3 := by
    unfold s3
    split
    · exact h2.calm (refuseManifest_calm ..) (refuseManifest_crs ..)
    · exact h2
  split
  · next ha =>
    refine Recorded.applying ha ?_ ⟨rfl, rfl⟩
    split
    · next m _ => exact h3.calm (phase1Tables_onlyTables m s3).calm (phase1Tables_onlyTables m s3).crs
    · exact h3
  · next ha =>
    have hcloses : closes = if d.landing = 0 then none else some s.crs.landing := by simp [closes, first, l, prev]
    exact h3.acted (by simpa using ha) (hcloses ▸ landingActions_effect l d.full d.ll closes seg cross s3)

/-! ## Static copies (R367) -/

/-- What a copy that begins does to a running LOAD: it may lose slots, and it ends where it loses all of them (R172). -/
theorem lockLoads_frame (s : State) :
    let t := lockLoads s
    t = { s with tbl := { s.tbl with
        lockedSlots := t.tbl.lockedSlots, load := t.tbl.load, busy := t.tbl.busy, result := t.tbl.result, failCluster := t.tbl.failCluster } } ∧
      (s.tbl.load = none → t.tbl = s.tbl) ∧ (∀ l, t.tbl.load = some l → s.tbl.load = some l ∧ t.tbl.busy = s.tbl.busy) := by
  unfold lockLoads
  split
  · next h => exact ⟨rfl, fun _ => rfl, fun l hl => ⟨hl, rfl⟩⟩
  · next l h =>
    have hn : ∀ {p : Prop}, s.tbl.load = none → p := fun hn => absurd (h.symm.trans hn) (by simp)
    dsimp only
    split
    · unfold endOp
      dsimp only
      split <;> exact ⟨rfl, hn, fun l' hl' => absurd hl' (by simp)⟩
    · exact ⟨rfl, hn, fun l' hl' => ⟨hl', rfl⟩⟩

/-- After the copies of a landing have been asked for, each of them runs or has ended. -/
theorem startCopies_copying (l : Nat) (req : Option Nat) (s : State) :
    ∀ r ∈ plannedRotations s l req,
      4 * r.region + r.position ∈ (startCopies l req s).ken.copying ∨ 4 * r.region + r.position ∈ (startCopies l req s).ken.copied := by
  intro r hr
  unfold startCopies
  extract_lets cs fresh
  rw [(lockLoads_frame _).1]
  have hc : 4 * r.region + r.position ∈ cs := List.mem_map.2 ⟨r, hr, rfl⟩
  by_cases hb : 4 * r.region + r.position ∈ s.ken.copying ∨ 4 * r.region + r.position ∈ s.ken.copied
  · exact hb.imp_left (List.mem_append_left _)
  · rw [not_or] at hb
    exact .inl (List.mem_append_right _ (List.mem_filter.2 ⟨hc, by simp [hb.1, hb.2]⟩))

theorem startCopies_frame (l : Nat) (req : Option Nat) (s : State) :
    let t := startCopies l req s
    t = { s with ken := { s.ken with copying := t.ken.copying }, tbl := { s.tbl with
        lockedSlots := t.tbl.lockedSlots, load := t.tbl.load, busy := t.tbl.busy, result := t.tbl.result, failCluster := t.tbl.failCluster } } ∧
      (s.tbl.load = none → t.tbl = s.tbl) ∧ (∀ l, t.tbl.load = some l → s.tbl.load = some l ∧ t.tbl.busy = s.tbl.busy) := by
  unfold startCopies
  extract_lets cs fresh _ t _
  obtain ⟨h1, h2, h3⟩ := lockLoads_frame { s with ken := { s.ken with copying := s.ken.copying ++ fresh } }
  refine ⟨?_, h2, h3⟩
  have hken : (lockLoads { s with ken := { s.ken with copying := s.ken.copying ++ fresh } }).ken =
      { s.ken with copying := s.ken.copying ++ fresh } := by rw [h1]
  rw [show t.ken = _ from hken]
  exact h1

/-! ## The first decided landing (R39, R45) -/

theorem landingReached_held {d : Decided} {rest : List Decided} (hm : mainStopped s = false) (hd : s.crs.decided = d :: rest)
    (h : s.cq.entries.any (holdsBack s d) = true) : exec .landingReached s = .next s := by
  change execLandingReached s = _
  simp only [execLandingReached, hm, hd, h, or_true, Bool.false_eq_true, ↓reduceIte]

theorem landingReached_free {d : Decided} {rest : List Decided} (hm : mainStopped s = false) (hd : s.crs.decided = d :: rest)
    (hp : s.crs.phase = .inSegment) (hr : s.crs.run = none) (h : s.cq.entries.any (holdsBack s d) = false) :
    exec .landingReached s = .next (landWhenReady d s) := by
  change execLandingReached s = _
  simp [execLandingReached, hm, hd, hp, hr, h]

/-- Entering a landing ends the markers that wait for it (R265). -/
theorem Entered.markers {d : Decided} (h : Entered d s t) {e : Entry} (he : e ∈ s.cq.entries) (hk : e.desc.kind = .marker)
    (hl : e.life = .taken) (hd : e.desc.landing = d.landing) :
    ∃ y ∈ t.cq.entries, y.berth = e.berth ∧ y.seq = e.seq ∧ y.life = .ran ∧ y.crossing = s.crs.crossing := by
  rw [h.cq]
  refine ⟨{ e with life := .ran, crossing := s.crs.crossing }, List.mem_map.2 ⟨e, he, if_pos ⟨hk, hl, hd⟩⟩, rfl, rfl, rfl, rfl⟩

/-- Settles O36: a landing is entered once nothing holds it back and its copies have ended; until then it asks for its copies. -/
theorem landingIsReached : Obligations.LandingIsReached := by
  unfold Obligations.LandingIsReached
  refine ⟨fun s d rest hm hd hp hr => ⟨landingReached_held hm hd, fun h hc => ?_, fun h hc => ?_⟩, fun s h => ?_⟩
  · obtain ⟨h1, h2, h3⟩ := startCopies_frame d.landing (llValue d.ll llKenReq) s
    exact ⟨_, (landingReached_free hm hd hp hr h).trans (congrArg _ (if_neg (by simp [hc]))), h1, h2, h3, startCopies_copying _ _ _⟩
  · have he := enterLanding_entered d s
    refine ⟨_, (landingReached_free hm hd hp hr h).trans (congrArg _ (if_pos hc)), by rw [he.crs], by rw [he.crs],
      by rw [he.crs, hd]; rfl, by rw [he.keep], by rw [he.keep], by rw [he.keep], he.active, by rw [he.crs],
      sameMemory_of_mem (enterLanding_quiet d s).mem, fun e hin hk hl hl' => he.markers hin hk hl hl', fun hn => ?_, he.applies, fun ha => ?_⟩
    · obtain ⟨h1, h2, h3, h4, h5⟩ := he.closed hn
      exact ⟨h1, h2, h3, h4, h5⟩
    · obtain ⟨hu, hrun, hphase⟩ := he.plain ha
      refine ⟨⟨_, hu, rfl, rfl, rfl, rfl, rfl, rfl⟩, fun hf => ?_, fun hf => ?_⟩
      · rw [hf] at hrun hphase
        exact ⟨hphase, hrun⟩
      · rw [hf] at hrun hphase
        exact ⟨hphase, by simpa using hrun⟩
  · change execLandingReached s = _
    unfold execLandingReached
    split
    · rfl
    · next hm =>
      split
      · rfl
      · next d rest hd =>
        rw [if_pos]
        rcases h with h | h | h | h
        · exact absurd h hm
        · exact absurd h (by simp [hd])
        · exact .inl h
        · exact .inr (.inl (Option.isSome_iff_ne_none.2 h))

end Sys2Proof.Machine
end

section
/-! SUPPORT. The gate of a landing, and the opening of the next crossing (R36, R40, R41, R46, R327, R333, R351, R367, R443). -/

namespace Sys2Proof.Machine

variable {α : Type} {s t u : State}

/-! ## The mirror at an opening -/

theorem comparePartner_calm (s : State) (n : SnapHead) : Calm s (comparePartner n s) := by
  unfold comparePartner
  split
  · exact .refl s
  · exact .ite {} ((raise_calm ..).after {})

theorem promotePartner_calm (s : State) : Calm s (promotePartner s) := by
  unfold promotePartner
  split
  · exact .ite {} (.refl s)
  · exact .refl s

theorem refuseHead_calm (h : SnapHead) (s : State) : Calm s (refuseHead h s) := (raise_calm ..).after {}

theorem dropArriving_calm (s : State) : Calm s (dropArriving s) := by
  unfold dropArriving
  split
  · exact {}
  · exact .refl s

theorem acceptHead_calm (h : SnapHead) (s : State) : Calm s (acceptHead h s) :=
  .ite ((comparePartner_calm _ h).after {}) (.ite {} (refuseHead_calm ..))

theorem receiveHead_calm (h : SnapHead) (s : State) : Calm s (receiveHead h s) := by
  unfold receiveHead
  split
  · exact acceptHead_calm ..
  · exact acceptHead_calm ..
  · exact {}
  · exact refuseHead_calm ..

theorem settleSnapshot_calm (n : Snapshot) (r : RxSnap) (s : State) : Calm s (settleSnapshot n r s) := by
  unfold settleSnapshot
  split
  · exact (promotePartner_calm _).after {}
  · exact (dropArriving_calm s).trans {}
  · exact dropArriving_calm s

theorem headNow_calm (n : Snapshot) (s : State) : Calm s (headNow n s) := by
  unfold headNow
  split
  · exact .ite (.refl s) ((receiveHead_calm ..).after (dropArriving_calm s))
  · exact receiveHead_calm ..

theorem receiveSnapshot_calm (s : State) (n : Snapshot) : Calm s (receiveSnapshot n s) := by
  unfold receiveSnapshot
  dsimp only
  split
  · exact (settleSnapshot_calm ..).after (headNow_calm n s)
  · exact headNow_calm n s

theorem reexamineArriving_calm (s : State) : Calm s (reexamineArriving s) := by
  unfold reexamineArriving
  split
  · exact .ite ((receiveHead_calm ..).after (dropArriving_calm s)) (.refl s)
  · exact .refl s

theorem receiveReq_placed (m : TowMsg) (s : State) : Placed s (receiveReq m s) := by
  unfold receiveReq
  split
  · exact {}
  · exact {}
  · exact .refl s
  · exact (raise_calm ..).toPlaced

theorem restoreFrom_placed (n : Snapshot) (s : State) : Placed s (restoreFrom n s) := by
  unfold restoreFrom
  extract_lets held a0 s1 s2
  have h1 : Placed s s1 := {}
  have h2 : Placed s1 s2 := .foldl (fun _ _ => {}) _ _
  exact (h1.trans h2).trans {}

theorem takeRestore_placed (slot : Option Snapshot) (place : Option (Nat × Nat)) (s : State) : Placed s (takeRestore slot place s) := by
  unfold takeRestore
  refine .ite (.refl s) ?_
  split
  · exact {}
  · exact .ite (restoreFrom_placed ..) {}

theorem receiveData_placed (m : TowMsg) (s : State) : Placed s (receiveData m s) := by
  unfold receiveData
  dsimp only
  split
  · exact .ite (takeRestore_placed ..) (.ite {} (raise_calm ..).toPlaced)
  · exact {}
  · exact .refl s
  · exact (raise_calm ..).toPlaced

/-- The examination of held snapshots and messages leaves the place of the engine. -/
theorem reexamineSnaps_placed (s : State) : Placed s (reexamineSnaps s) := by
  unfold reexamineSnaps
  extract_lets due c0 s1 c1 s2 c2 s3
  have h1 : Calm s s1 := (Calm.foldl comparePartner_calm due _).after {}
  have h2 : Calm s1 s2 := (Calm.foldl receiveSnapshot_calm _ _).after {}
  have h3 : Calm s2 s3 := (reexamineArriving_calm _).after {}
  exact ((h1.trans h2).trans h3).toPlaced.trans
    (Placed.trans {} (.foldl (fun t m => .ite (receiveReq_placed m t) (receiveData_placed m t)) _ _))

/-! ## Commands held at an opening (R37, R40) -/

/-- From `s` to `t` the crossing in progress and its landing stay, the decided landings keep their order and may become more, and of the ledger
only completed counts differ. -/
structure OpenKept (s t : State) : Prop where
  crs : t.crs = { s.crs with decided := t.crs.decided, pendingLL := t.crs.pendingLL } := by rfl
  decided : s.crs.decided <+: t.crs.decided := by exact List.prefix_refl _
  active : t.man.active = s.man.active := by rfl
  accepted : t.keep.accepted = s.keep.accepted := by rfl
  landing : t.keep.landing = s.keep.landing := by rfl
  tow : t.tow = s.tow := by rfl
  segs : t.dgst.segs = s.dgst.segs := by rfl
  nextInvalid : t.dgst.nextInvalid = s.dgst.nextInvalid := by rfl
  mem : t.sp.mem = s.sp.mem := by rfl

theorem OpenKept.refl (s : State) : OpenKept s s := {}

theorem OpenKept.trans (h : OpenKept s t) (k : OpenKept t u) : OpenKept s u where
  crs := by rw [k.crs, h.crs]
  decided := h.decided.trans k.decided
  active := k.active.trans h.active
  accepted := k.accepted.trans h.accepted
  landing := k.landing.trans h.landing
  tow := k.tow.trans h.tow
  segs := k.segs.trans h.segs
  nextInvalid := k.nextInvalid.trans h.nextInvalid
  mem := k.mem.trans h.mem

/-- `OpenKept.trans`, the last step first. -/
theorem OpenKept.after (k : OpenKept t u) (h : OpenKept s t) : OpenKept s u := h.trans k

theorem OpenKept.ite {c : Prop} [Decidable c] (h : OpenKept s t) (k : OpenKept s u) : OpenKept s (if c then t else u) := by
  split <;> assumption

theorem OpenKept.foldl {f : State → α → State} (h : ∀ t x, OpenKept t (f t x)) (xs : List α) (s : State) :
    OpenKept s (xs.foldl f s) :=
  List.foldlRecOn xs f (motive := OpenKept s) (.refl s) (fun t ht x _ => ht.trans (h t x))

theorem raise_openKept (code : Nat) (cmd : Option (Nat × Nat)) (d0 d1 : Nat) (s : State) : OpenKept s (raise code cmd d0 d1 s) := by
  unfold raise
  exact .ite {} {}

theorem lockLoads_openKept (s : State) : OpenKept s (lockLoads s) := by
  rw [(lockLoads_frame s).1]
  exact {}

theorem startCopies_openKept (l : Nat) (req : Option Nat) (s : State) : OpenKept s (startCopies l req s) :=
  (lockLoads_openKept _).after {}

theorem decideOne_openKept (s : State) (l : Nat) : OpenKept s (decideOne s l) where
  decided := List.prefix_append ..

theorem decideUpTo_openKept (k : Nat) (s : State) : OpenKept s (decideUpTo k s) := by
  unfold decideUpTo
  extract_lets s1
  have h : OpenKept s s1 := .foldl decideOne_openKept (toDecide s k) s
  split
  · exact .ite (h.trans (startCopies_openKept ..)) (h.trans (lockLoads_openKept _))
  · exact h

theorem windowReady_openKept (d : Desc) (e : Entry) (s : State) : OpenKept s (windowReady d e s) := by
  unfold windowReady
  exact .ite (.ite {} (.refl s)) (.refl s)

theorem complete_openKept (e : Entry) (s : State) : OpenKept s (complete e s) := by
  unfold complete
  extract_lets cmd r d k0 c0 s1 s2 quiet s3 s4
  have h2 : OpenKept s s2 := OpenKept.trans (OpenKept.trans {} (windowReady_openKept d e s1)) {}
  have h3 : OpenKept s s3 := by
    unfold s3
    split
    · exact .ite h2 (h2.trans (raise_openKept ..))
    · exact h2
  have h4 : OpenKept s s4 := .ite (h3.trans (raise_openKept ..)) h3
  exact .ite (h4.trans (raise_openKept ..)) h4

theorem completeRefused_openKept (fuel b : Nat) (s : State) : OpenKept s (completeRefused fuel b s) := by
  induction fuel generalizing s with
  | zero => exact .refl s
  | succ n ih =>
    unfold completeRefused
    split
    · exact .refl s
    · exact .ite ((ih _).after (complete_openKept ..)) (.refl s)

theorem refuseEntry_openKept (r : Nat) (e : Entry) (s : State) : OpenKept s (refuseEntry r e s) := by
  unfold refuseEntry
  exact (completeRefused_openKept ..).after {}

theorem advanceMarker_openKept (e : Entry) (s : State) : OpenKept s (advanceMarker e s) := by
  unfold advanceMarker
  split
  · exact refuseEntry_openKept ..
  · exact {}

theorem openHeld_openKept (s : State) (e : Entry) : OpenKept s (openHeld s e) := by
  unfold openHeld
  extract_lets k s1
  have h1 : OpenKept s s1 := (decideUpTo_openKept ..).after {}
  exact .ite (refuseEntry_openKept ..) (.ite (h1.trans (advanceMarker_openKept ..)) h1)

/-! ## The crossing that opens (R36, R41, R327, R333, R351) -/

/-- The segments that a list names, marked INVALID with nothing in them. -/
def invalidSegments (ks : List Nat) (m : List (Nat × SegDig)) : List (Nat × SegDig) :=
  ks.foldl (fun m k => sset .zero m k { SegDig.zero with invalid := true }) m

theorem sget_invalidSegments (ks : List Nat) (m : List (Nat × SegDig)) (k : Nat) :
    sget .zero (invalidSegments ks m) k = if k ∈ ks then { SegDig.zero with invalid := true } else sget .zero m k := by
  induction ks generalizing m with
  | nil => simp [invalidSegments]
  | cons x ks ih =>
    show sget _ (invalidSegments ks _) k = _
    rw [ih, sget_sset]
    by_cases h : k ∈ ks
    · simp [h]
    · by_cases hx : k = x <;> simp [h, hx]

/-- What the opening of a crossing sets and leaves. -/
structure Opened (c : Nat) (s t : State) : Prop where
  crs : t.crs = { s.crs with
    crossing := c, landing := 0, tOpen := openTide s c, deadlineBase := openTide s c, firstOpen := false, phase := .inSegment }
  coll : t.tow.coll = []
  restores : t.tow.heldRestore = s.tow.heldRestore
  segs : t.dgst.segs = invalidSegments s.dgst.nextInvalid []
  nextInvalid : t.dgst.nextInvalid = []
  man : t.man = s.man
  cq : t.cq = s.cq
  keep : t.keep = s.keep
  mem : t.sp.mem = s.sp.mem

theorem startupPasses_frame (c : Nat) (s : State) : ∃ k, startupPasses c s = { s with ken := k } := by
  unfold startupPasses
  split <;> exact ⟨_, rfl⟩

theorem openCrossing_opened (c : Nat) (s : State) : Opened c s (openCrossing c s) := by
  unfold openCrossing
  extract_lets x _ _ _ _ s1
  obtain ⟨k, hk⟩ := startupPasses_frame c s1
  rw [show certOpening _ = _ from certOpening_onlyToll _, hk]
  exact ⟨rfl, rfl, rfl, rfl, rfl, rfl, rfl, rfl, rfl⟩

/-- Landing 0 of the crossing that opens, as its decision point fixes it (R43, R443). -/
def firstLanding (c : Nat) (s : State) : Decided := decide' (openCrossing c s) 0 (openCrossing c s).crs.pendingLL false

/-- The crossing has opened and its landing 0 is decided. -/
def firstDecided (c : Nat) (s : State) : State :=
  let s1 := openCrossing c s
  let d := firstLanding c s
  { s1 with
    crs := { s1.crs with decided := [d], pendingLL := [] }
    man := { s1.man with apply := if d.applies then .applying else if requested s1 0 then .none else s1.man.apply } }

/-- The commands held at the opening have been looked at (R37, R40). -/
def heldOpened (c : Nat) (s : State) : State := (heldEntries (firstDecided c s)).foldl openHeld (firstDecided c s)

theorem heldOpened_openKept (c : Nat) (s : State) : OpenKept (firstDecided c s) (heldOpened c s) := .foldl openHeld_openKept ..

theorem heldOpened_mem (c : Nat) (s : State) : (heldOpened c s).sp.mem = s.sp.mem :=
  (heldOpened_openKept c s).mem.trans (openCrossing_opened c s).mem

/-- The crossing unit while the held commands are looked at. -/
theorem heldOpened_crs (c : Nat) (s : State) : (heldOpened c s).crs = { s.crs with
    crossing := c, landing := 0, tOpen := openTide s c, deadlineBase := openTide s c, firstOpen := false, phase := .inSegment
    decided := (heldOpened c s).crs.decided, pendingLL := (heldOpened c s).crs.pendingLL } := by
  rw [(heldOpened_openKept c s).crs]
  show ({ (openCrossing c s).crs with decided := _, pendingLL := _ } : CrsUnit) = _
  rw [(openCrossing_opened c s).crs]

theorem heldOpened_head (c : Nat) (s : State) : (heldOpened c s).crs.decided.head? = some (firstLanding c s) := by
  obtain ⟨ds, h⟩ := (heldOpened_openKept c s).decided
  rw [← h]
  rfl

theorem crossingOpen_eq {c : Nat} (hm : mainStopped s = false) (hp : s.crs.phase = .waitBeacon) (hr : s.crs.run = none)
    (hu : s.crs.uncommitted = []) (hh : heldEntries s ≠ []) (hn : nextCrossing s = some c) :
    exec .crossingOpen s = .next (reexamineSnaps (landWhenReady (firstLanding c s) (heldOpened c s))) := by
  change execCrossingOpen s = _
  simp only [execCrossingOpen, hm, hp, hr, hu, List.isEmpty_iff, hh, hn, Bool.false_eq_true, ne_eq, not_true_eq_false,
    Option.isSome_none, or_self, ↓reduceIte]
  rfl

/-- From `s` to `t` landing 0 was reached, or waits for its copies. -/
structure LandedFirst (d : Decided) (s t : State) : Prop where
  crs : t.crs = { s.crs with
    decided := t.crs.decided, deadlineBase := t.crs.deadlineBase, uncommitted := t.crs.uncommitted, run := t.crs.run, phase := t.crs.phase }
  phase : t.crs.phase = .inSegment ∨ t.crs.phase = .fullLanding
  active : t.man.active = s.man.active
  accepted : t.keep.accepted = s.keep.accepted
  coll : t.tow.coll = s.tow.coll
  restores : t.tow.heldRestore = s.tow.heldRestore
  segs : t.dgst.segs = s.dgst.segs
  nextInvalid : t.dgst.nextInvalid = s.dgst.nextInvalid
  mem : t.sp.mem = s.sp.mem
  reached : copiesReady s d = true → t.keep.landing = (s.crs.crossing, 0)
  waits : copiesReady s d = false → t.keep.landing = s.keep.landing ∧ t.crs.phase = .inSegment ∧ t.crs.decided = s.crs.decided

theorem landWhenReady_landedFirst {d : Decided} (h0 : d.landing = 0) (hl : s.crs.landing = 0) (hp : s.crs.phase = .inSegment) :
    LandedFirst d s (landWhenReady d s) := by
  unfold landWhenReady
  split
  · next hc =>
    have he := enterLanding_entered d s
    have hphase : (enterLanding d s).crs.phase = .inSegment ∨ (enterLanding d s).crs.phase = .fullLanding := by
      cases ha : d.applies with
      | true => exact .inr (he.applies ha).1
      | false =>
        rw [(he.plain ha).2.2]
        cases d.full
        · exact .inl rfl
        · exact .inr rfl
    obtain ⟨hsegs, hnext⟩ := he.first h0
    refine ⟨?_, hphase, he.active, by rw [he.keep], he.coll, he.restores, hsegs, hnext, (enterLanding_quiet d s).mem,
      fun _ => by rw [he.keep, h0], fun h => absurd hc (by simp [h])⟩
    rw [he.crs, h0, ← hl]
  · next hc =>
    have hk := startCopies_openKept d.landing (llValue d.ll llKenReq) s
    have hcrs := startCopies_crs d.landing (llValue d.ll llKenReq) s
    exact ⟨by rw [hcrs], .inl (by rw [hcrs, hp]), hk.active, hk.accepted, by rw [hk.tow], by rw [hk.tow], hk.segs, hk.nextInvalid, hk.mem,
      fun h => absurd h hc, fun _ => ⟨hk.landing, by rw [hcrs, hp], by rw [hcrs]⟩⟩

/-! ## Where no rotation is planned -/

theorem forcedTests_none {l : Nat} (h : ∀ x ∈ matching s l, x.action ≠ 4) : forcedTests s l = ([], []) := by
  unfold forcedTests
  rw [List.filter_eq_nil_iff.2 (by simpa using h)]
  rfl

theorem plannedRotations_none {l : Nat} (h : ∀ x ∈ matching s l, x.action ≠ 3 ∧ x.action ≠ 4) : plannedRotations s l none = [] := by
  unfold plannedRotations
  rw [forcedTests_none (fun x hx => (h x hx).2), List.filter_eq_nil_iff.2 (by simpa using fun x hx => (h x hx).1)]
  rfl

theorem copiesReady_none {d : Decided} (h : ∀ x ∈ matching s d.landing, x.action ≠ 3 ∧ x.action ≠ 4)
    (hl : llValue d.ll llKenReq = none) : copiesReady s d = true := by
  rw [copiesReady, hl, plannedRotations_none h]
  rfl

/-! ## The gate (R46) -/

theorem gateOpen_open {r : LandingRun} (hm : mainStopped s = false) (hr : s.crs.run = some r) (hs : r.stage = .closing)
    (ht : r.tests = []) (hc : ∀ c ∈ s.sp.copies, c.row = none ∧ r.landing ≠ 0xFFFF) :
    exec .landingGateOpen s = .next { s with
      crs := { s.crs with run := none, phase := if s.man.applyNow then s.crs.phase else phaseAfter s r.landing }
      man := { s.man with applyNow := false } } := by
  have hcopies : s.sp.copies.any (fun c => c.row.isSome || r.landing == 0xFFFF) = false := by
    rw [List.any_eq_false]
    intro c hin
    simp [(hc c hin).1, (hc c hin).2]
  change execLandingGateOpen s = _
  simp [execLandingGateOpen, hm, hr, hs, ht, hcopies]

theorem gateOpen_held {r : LandingRun} (hr : s.crs.run = some r)
    (h : r.stage ≠ .closing ∨ r.tests ≠ [] ∨ ∃ c ∈ s.sp.copies, c.row ≠ none ∨ r.landing = 0xFFFF) :
    exec .landingGateOpen s = .next s := by
  change execLandingGateOpen s = _
  unfold execLandingGateOpen
  rw [hr]
  split
  · rfl
  · dsimp only
    rw [if_pos]
    refine h.imp_right (.imp (by simp) fun ⟨c, hc, hx⟩ => List.any_eq_true.2 ⟨c, hc, ?_⟩)
    simpa [Option.isSome_iff_ne_none] using hx

theorem gateOpen_none (h : mainStopped s = true ∨ s.crs.run = none) : exec .landingGateOpen s = .next s := by
  change execLandingGateOpen s = _
  unfold execLandingGateOpen
  split
  · rfl
  · next hm => rw [h.resolve_left hm]

theorem phaseAfter_eq (s : State) (l : Nat) : phaseAfter s l =
    if l ≠ 0xFFFF then .inSegment else if s.crs.uncommitted = [] then .waitBeacon else .afterEnd := by
  unfold phaseAfter
  by_cases h : l = 0xFFFF <;> simp [h]

theorem crossingOpen_closed (h : mainStopped s = true ∨ s.crs.phase ≠ .waitBeacon ∨ s.crs.run ≠ none ∨ s.crs.uncommitted ≠ [] ∨
    heldEntries s = [] ∨ nextCrossing s = none) : exec .crossingOpen s = .next s := by
  change execCrossingOpen s = _
  unfold execCrossingOpen
  split
  · rfl
  · next hn =>
    have hnone : nextCrossing s = none := by
      simp only [List.isEmpty_iff, not_or, not_not, Option.not_isSome_iff_eq_none] at hn
      tauto
    rw [hnone]

/-- The crossing that the beacon condition names (R40, R41). -/
theorem nextCrossing_eq {c : Nat} (h : (s.crs.firstOpen = true ∧ s.crs.ann0New = true ∧ ∃ a, s.crs.ann0 = some (c, a)) ∨
    (s.crs.firstOpen = false ∧ s.crs.annSeen = true ∧ c = s.crs.crossing + 1 ∧ c ≤ s.crs.ann.1)) : nextCrossing s = some c := by
  unfold nextCrossing
  rcases h with ⟨hf, hn, a, ha⟩ | ⟨hf, hs, rfl, hc⟩
  · simp [hf, hn, ha]
  · simp [hf, hs, hc]

/-- The engine once the crossing has opened: landing 0 is reached or waits, and what was held is examined again. -/
def crossingOpened (c : Nat) (s : State) : State := reexamineSnaps (landWhenReady (firstLanding c s) (heldOpened c s))

theorem heldOpened_landed (c : Nat) (s : State) :
    LandedFirst (firstLanding c s) (heldOpened c s) (landWhenReady (firstLanding c s) (heldOpened c s)) :=
  landWhenReady_landedFirst rfl (by rw [heldOpened_crs]) (by rw [heldOpened_crs])

theorem crossingOpened_placed (c : Nat) (s : State) :
    Placed (landWhenReady (firstLanding c s) (heldOpened c s)) (crossingOpened c s) := reexamineSnaps_placed _

theorem heldOpened_active (c : Nat) (s : State) : (heldOpened c s).man.active = s.man.active :=
  (heldOpened_openKept c s).active.trans (show (openCrossing c s).man.active = _ by rw [(openCrossing_opened c s).man])

theorem Placed.phase (h : Placed s t) : t.crs.phase = s.crs.phase := by rw [h.crs]

theorem Placed.decided (h : Placed s t) : t.crs.decided = s.crs.decided := by rw [h.crs]

/-- The place in the crossing that has opened. -/
theorem crossingOpened_crs (c : Nat) (s : State) :
    let t := crossingOpened c s
    t.crs.crossing = c ∧ t.crs.landing = 0 ∧ t.crs.firstOpen = false ∧ t.crs.tOpen = openTide s c ∧
      (t.crs.phase = .inSegment ∨ t.crs.phase = .fullLanding) := by
  have hz := (crossingOpened_placed c s).crs
  have hl := (heldOpened_landed c s).crs
  have hcrs := heldOpened_crs c s
  have hphase := (heldOpened_landed c s).phase
  generalize landWhenReady (firstLanding c s) (heldOpened c s) = u at hz hl hphase
  generalize crossingOpened c s = t at hz
  dsimp only
  rw [hz]
  refine ⟨?_, ?_, ?_, ?_, hphase⟩
  all_goals show _ = _; rw [hl, hcrs]

theorem crossingOpened_segs (c : Nat) (s : State) : (crossingOpened c s).dgst.segs = invalidSegments s.dgst.nextInvalid [] ∧
    (crossingOpened c s).dgst.nextInvalid = [] := by
  have hl := heldOpened_landed c s
  have hk := heldOpened_openKept c s
  have ho := openCrossing_opened c s
  rw [(crossingOpened_placed c s).dgst]
  exact ⟨hl.segs.trans (hk.segs.trans ho.segs), hl.nextInvalid.trans (hk.nextInvalid.trans ho.nextInvalid)⟩

theorem crossingOpened_coll (c : Nat) (s : State) : (crossingOpened c s).tow.coll = [] :=
  (crossingOpened_placed c s).coll.trans ((heldOpened_landed c s).coll.trans
    ((congrArg TowUnit.coll (heldOpened_openKept c s).tow).trans (openCrossing_opened c s).coll))

theorem crossingOpened_active (c : Nat) (s : State) : (crossingOpened c s).man.active = s.man.active :=
  (crossingOpened_placed c s).active.trans ((heldOpened_landed c s).active.trans (heldOpened_active c s))

theorem crossingOpened_accepted (c : Nat) (s : State) : (crossingOpened c s).keep.accepted = s.keep.accepted := by
  rw [(crossingOpened_placed c s).keep, (heldOpened_landed c s).accepted, (heldOpened_openKept c s).accepted]
  exact congrArg Keep.accepted (openCrossing_opened c s).keep

theorem crossingOpened_mem (c : Nat) (s : State) (h : s.tow.heldRestore = []) : SameMemory s (crossingOpened c s) := by
  have hl := heldOpened_landed c s
  have hnone : (landWhenReady (firstLanding c s) (heldOpened c s)).tow.heldRestore = [] :=
    hl.restores.trans ((congrArg TowUnit.heldRestore (heldOpened_openKept c s).tow).trans ((openCrossing_opened c s).restores.trans h))
  have hsnap := (reexamineSnaps_inForce (landWhenReady (firstLanding c s) (heldOpened c s))).2 hnone
  rw [← crossingOpened] at hsnap
  exact sameMemory_of_mem (hsnap.trans (hl.mem.trans (heldOpened_mem c s)))

theorem crossingOpened_reached {c : Nat} (h : copiesReady (heldOpened c s) (firstLanding c s) = true) :
    (crossingOpened c s).keep.landing = (c, 0) := by
  rw [(crossingOpened_placed c s).keep, (heldOpened_landed c s).reached h, heldOpened_crs]

theorem crossingOpened_waits {c : Nat} (h : copiesReady (heldOpened c s) (firstLanding c s) = false) :
    (crossingOpened c s).keep.landing = s.keep.landing ∧ (crossingOpened c s).crs.phase = .inSegment ∧
      (crossingOpened c s).crs.decided.head? = some (firstLanding c s) := by
  obtain ⟨hkeep, hphase, hdec⟩ := (heldOpened_landed c s).waits h
  have hz := crossingOpened_placed c s
  refine ⟨?_, hz.phase.trans hphase, ?_⟩
  · rw [hz.keep, hkeep, (heldOpened_openKept c s).landing]
    exact congrArg Keep.landing (openCrossing_opened c s).keep
  · rw [hz.decided, hdec]
    exact heldOpened_head c s

/-- Without a rotation in the timetable or asked for by the host, landing 0 waits for no copy. -/
theorem copiesReady_opened {c : Nat}
    (ht : ∀ m, s.man.active = some m → ∀ x ∈ m.times, x.matches c 0 = true → x.action ≠ 3 ∧ x.action ≠ 4)
    (hreq : llValue s.crs.pendingLL llKenReq = none) : copiesReady (heldOpened c s) (firstLanding c s) = true := by
  refine copiesReady_none (fun x hx => ?_) ?_
  · have hnow : (heldOpened c s).crs.crossing = c := by rw [heldOpened_crs]
    unfold matching at hx
    rw [heldOpened_active, hnow] at hx
    split at hx
    · next m hm =>
      obtain ⟨hin, hmatch⟩ := List.mem_filter.1 hx
      exact ht m hm x hin hmatch
    · simp at hx
  · show llValue (openCrossing c s).crs.pendingLL llKenReq = none
    rw [(openCrossing_opened c s).crs]
    exact hreq

/-- Settles O37: landing 0 is the first landing decided, whatever the held commands decide after it, and it is entered once its copies have ended. -/
theorem gatesAndCrossingsOpen : Obligations.GatesAndCrossingsOpen := by
  unfold Obligations.GatesAndCrossingsOpen
  refine ⟨fun s r hm hr hs ht hc => ?_, fun s r hr h => gateOpen_held hr h, fun s h => gateOpen_none h,
    fun s c hm hp hr hu hh hb => ?_, fun s h => crossingOpen_closed h⟩
  · rw [gateOpen_open hm hr hs ht hc, phaseAfter_eq]
  · have hheld : heldEntries s ≠ [] := by
      obtain ⟨e, he, hl⟩ := hh
      exact List.ne_nil_of_mem (List.mem_filter.2 ⟨he, by simpa using hl⟩)
    obtain ⟨hcross, hland, hfirst, htide, hphase⟩ := crossingOpened_crs c s
    obtain ⟨hsegs, hnext⟩ := crossingOpened_segs c s
    refine ⟨crossingOpened c s, crossingOpen_eq hm hp hr hu hheld (nextCrossing_eq hb), hcross, hland, hfirst, htide, fun k hk => ?_, hnext,
      crossingOpened_coll c s, hphase, crossingOpened_active c s, crossingOpened_accepted c s, crossingOpened_mem c s, ?_,
      fun ht hreq => crossingOpened_reached (copiesReady_opened ht hreq)⟩
    · rw [hsegs, sget_invalidSegments, if_pos hk]
    · cases hc : copiesReady (heldOpened c s) (firstLanding c s) with
      | true => exact .inl (crossingOpened_reached hc)
      | false =>
        obtain ⟨hkeep, hsegment, hhead⟩ := crossingOpened_waits hc
        exact .inr ⟨hkeep, hsegment, firstLanding c s, hhead, rfl⟩

end Sys2Proof.Machine
end

section
/-! SUPPORT. Landing markers: how the queue's entries of a berth change, what a refusal leaves alone, and where a marker goes when it is taken
(R38, R39, R135, R265). -/

namespace Sys2Proof.Machine

variable {s t u : State}

/-! ## The entries of a berth -/

/-- Setting an entry keeps the berth's entries in their places. -/
theorem berthEntries_setEntry (e : Entry) (s : State) (b : Nat) :
    berthEntries (setEntry e s) b = (berthEntries s b).map (fun x => if x.berth == e.berth && x.seq == e.seq then e else x) := by
  unfold berthEntries setEntry
  dsimp only
  rw [List.filter_map]
  congr 1
  refine List.filter_congr fun x _ => ?_
  dsimp only [Function.comp]
  split
  · next h =>
    simp only [Bool.and_eq_true, beq_iff_eq] at h
    rw [h.1]
  · rfl

theorem berthEntries_dropEntry (b q : Nat) (s : State) :
    berthEntries (dropEntry b q s) b = (berthEntries s b).filter (fun x => x.seq != q) := by
  unfold berthEntries dropEntry
  dsimp only
  rw [List.filter_filter, List.filter_filter]
  refine List.filter_congr fun x _ => ?_
  by_cases hb : x.berth = b
  · simp [hb, bne]
  · rw [show (x.berth == b) = false by simpa using hb, Bool.false_and, Bool.and_false]

/-- The head of a berth stays when another entry of it is set. -/
theorem berthHead_setEntry {e x : Entry} (h : berthHead s e.berth = some x) (hx : x.seq ≠ e.seq) :
    berthHead (setEntry e s) e.berth = some x := by
  unfold berthHead at h ⊢
  rw [berthEntries_setEntry, List.head?_map, h]
  simp [hx]

theorem berthEntries_congr (h : t.cq.entries = s.cq.entries) (b : Nat) : berthEntries t b = berthEntries s b := by
  rw [berthEntries, h, berthEntries]

theorem berthHead_congr (h : t.cq.entries = s.cq.entries) (b : Nat) : berthHead t b = berthHead s b := by
  rw [berthHead, berthEntries_congr h, berthHead]

theorem writesOpen_congr {e x : Entry} (hb : x.berth = e.berth) (hq : x.seq = e.seq) (hw : x.writes = e.writes) (hr : t.rtv = s.rtv) :
    writesOpen t x = writesOpen s e := by
  simp only [writesOpen, hb, hq, hw, hr]

/-! ## What a refusal leaves alone (R135, R277) -/

/-- From `s` to `t` no length, window, event, byte or array state changed, nor the place in the crossing, what was accepted, or the manifests. -/
structure QuietRefusal (s t : State) : Prop where
  vlen : t.cq.vlen = s.cq.vlen := by rfl
  wins : t.cq.wins = s.cq.wins := by rfl
  mem : t.sp.mem = s.sp.mem := by rfl
  evt : t.evt = s.evt := by rfl
  arr : t.arr = s.arr := by rfl
  crs : t.crs = s.crs := by rfl
  accepted : t.keep.accepted = s.keep.accepted := by rfl
  man : t.man = s.man := by rfl

theorem QuietRefusal.refl (s : State) : QuietRefusal s s := {}

theorem QuietRefusal.trans (h : QuietRefusal s t) (k : QuietRefusal t u) : QuietRefusal s u :=
  ⟨k.vlen.trans h.vlen, k.wins.trans h.wins, k.mem.trans h.mem, k.evt.trans h.evt, k.arr.trans h.arr, k.crs.trans h.crs,
    k.accepted.trans h.accepted, k.man.trans h.man⟩

theorem windowReady_refused {e : Entry} (h : e.res.refused.isSome = true) (d : Desc) (s : State) : windowReady d e s = s := by
  unfold windowReady
  rw [if_neg]
  rintro ⟨-, hn⟩
  cases hr : e.res.refused <;> simp_all

/-- A refused command completes with its record alone: no window becomes READY, no event is raised. -/
theorem complete_refused {e : Entry} (h : e.res.refused.isSome = true) (s : State) :
    complete e s = dropEntry e.berth e.seq (journal [.completed e.berth]
      { s.keep with completed := sset 0 s.keep.completed e.berth e.seq } { s with
        cq := { s.cq with
          rings := sput s.cq.rings (32 * e.berth + e.seq % 32) (some (completionRecord s e))
          hist := s.cq.hist ++ [(e.berth, e.seq, e.crossing, e.desc.landing)] } }) := by
  unfold complete
  extract_lets cmd r d k0 c0 s1 s2 quiet s3 s4
  have h2 : s2 = dropEntry e.berth e.seq s1 := by rw [← windowReady_refused h d s1]
  have h3 : s3 = s2 := by
    unfold s3
    split
    · exact if_pos h
    · rfl
  have h4 : s4 = s3 := if_neg (by simp [quiet, r, h])
  rw [if_neg (by simp [quiet, r, h]), h4, h3, h2]

theorem complete_quietRefusal {e : Entry} (h : e.res.refused.isSome = true) (s : State) : QuietRefusal s (complete e s) := by
  rw [complete_refused h]
  exact {}

theorem completeRefused_quietRefusal (n b : Nat) (s : State) : QuietRefusal s (completeRefused n b s) := by
  induction n generalizing s with
  | zero => exact .refl s
  | succ n ih =>
    unfold completeRefused
    split
    · exact .refl s
    · next e _ =>
      split
      · next h =>
        simp only [Bool.and_eq_true] at h
        exact (complete_quietRefusal h.1 s).trans (ih _)
      · exact .refl s

theorem refuseEntry_quietRefusal (r : Nat) (e : Entry) (s : State) : QuietRefusal s (refuseEntry r e s) := by
  unfold refuseEntry
  exact QuietRefusal.trans {} (completeRefused_quietRefusal ..)

/-- A berth whose head has not been refused completes no refusal. -/
theorem completeRefused_head {b : Nat} {x : Entry} (h : berthHead s b = some x) (hx : x.res.refused = none) (n : Nat) :
    completeRefused n b s = s := by
  cases n with
  | zero => rfl
  | succ n => simp [completeRefused, h, hx]

/-- A refused command behind one that is not refused stays in the queue with its reason. -/
theorem refuseEntry_waits {e e' x : Entry} (r : Nat) (hf : findEntry s e.berth e.seq = some e') (h : berthHead s e.berth = some x)
    (hx : x.seq ≠ e.seq) (hn : x.res.refused = none) :
    ∃ y, findEntry (refuseEntry r e s) e.berth e.seq = some y ∧ y.life = .ran ∧ y.res.refused = some r ∧ y.crossing = s.crs.crossing := by
  unfold refuseEntry
  extract_lets e0 r0 e1
  rw [completeRefused_head (x := x) _ hn]
  · exact ⟨e1, (findEntry_congr rfl).trans (findEntry_setEntry (s := s) e1 e' hf), rfl, rfl, rfl⟩
  · exact (berthHead_congr rfl _).trans (berthHead_setEntry (e := e1) h hx)

/-- A refused command that stands alone in its berth, with no write open, completes at once. -/
theorem refuseEntry_alone {e x : Entry} (r : Nat) (h : berthEntries s e.berth = [x]) (hb : x.berth = e.berth) (hq : x.seq = e.seq)
    (hw : writesOpen s e = false) :
    ldgCompleted (refuseEntry r e s) e.berth = e.seq ∧ berthEntries (refuseEntry r e s) e.berth = [] := by
  unfold refuseEntry
  extract_lets e0 r0 e1
  have hentries : berthEntries (releaseIssue e.berth (setEntry e1 s)) e.berth = [e1] := by
    rw [berthEntries_congr (releaseIssue_entries _ _), berthEntries_setEntry, h]
    simp [hb, hq, e1, r0, e0, Entry.shed]
  have hmay : mayComplete (releaseIssue e.berth (setEntry e1 s)) e1 = true := by
    have hopen : writesOpen (releaseIssue e.berth (setEntry e1 s)) e1 = false := (writesOpen_congr rfl rfl rfl rfl).trans hw
    simp [mayComplete, hopen, e1]
  have hdone : berthEntries (complete e1 (releaseIssue e.berth (setEntry e1 s))) e.berth = [] := by
    rw [complete_refused rfl]
    refine (berthEntries_dropEntry e.berth e.seq _).trans ?_
    refine (congrArg (List.filter _) ((berthEntries_congr rfl _).trans hentries)).trans ?_
    simp [e1, r0, e0, Entry.shed]
  have hstop : ∀ n, completeRefused n e.berth (complete e1 (releaseIssue e.berth (setEntry e1 s))) =
      complete e1 (releaseIssue e.berth (setEntry e1 s)) := fun n => by
    cases n with
    | zero => rfl
    | succ n => simp [completeRefused, berthHead, hdone]
  have hrun : completeRefused 256 e.berth (releaseIssue e.berth (setEntry e1 s)) =
      complete e1 (releaseIssue e.berth (setEntry e1 s)) := by
    rw [completeRefused]
    simp only [berthHead, hentries, List.head?_cons, hmay, Bool.and_true]
    exact (if_pos rfl).trans (hstop 255)
  rw [hrun]
  refine ⟨?_, hdone⟩
  rw [complete_refused rfl]
  show sget 0 (sset 0 _ e.berth e.seq) e.berth = e.seq
  rw [sget_sset, if_pos rfl]

/-! ## Taking a marker (R39, R265) -/

/-- Deciding landings touches neither the queue nor the Retriever. -/
theorem decideUpTo_queue (k : Nat) (s : State) : (decideUpTo k s).cq = s.cq ∧ (decideUpTo k s).rtv = s.rtv := by
  unfold decideUpTo
  extract_lets s1
  have h : s1.cq = s.cq ∧ s1.rtv = s.rtv := List.foldlRecOn (toDecide s k) decideOne
    (motive := fun t => t.cq = s.cq ∧ t.rtv = s.rtv) ⟨rfl, rfl⟩ (fun t ht l _ => show (decideOne t l).cq = _ ∧ (decideOne t l).rtv = _ from ht)
  split
  · split
    · rw [(startCopies_frame ..).1]
      exact h
    · rw [(lockLoads_frame s1).1]
      exact h
  · exact h

/-- A landing that is decided, or reached, decides nothing more. -/
theorem decideUpTo_decided {k : Nat} (h : k ≤ lastDecided s) : QuietRefusal s (decideUpTo k s) := by
  unfold decideUpTo
  rw [show toDecide s k = [] from if_pos h]
  dsimp only [List.foldl_nil]
  split
  · next d ds hd =>
    rw [if_neg (by simp [hd]), (lockLoads_frame s).1]
    exact {}
  · exact .refl s

/-- The state in which a marker is taken, and the marker taken. -/
def markerTaken (e : Entry) (s : State) : Entry := { e with life := .taken, taken := true, vlen := vlenOf s e.berth }

/-- The state once a command has been taken from its berth. -/
def afterTaking (s : State) : State := { s with cq := { s.cq with takenSinceReset := true, takenSinceApply := true } }

/-- The state once a marker's landing has been decided. -/
def markerDecided (e : Entry) (s : State) : State :=
  lockLoads (setEntry (markerTaken e s) (decideUpTo e.desc.landing (noteTaken s.crs.crossing e.desc.landing (afterTaking s))))

theorem markerDecided_queue (e : Entry) (s : State) :
    (markerDecided e s).cq = (setEntry (markerTaken e s) (afterTaking s)).cq ∧ (markerDecided e s).rtv = s.rtv := by
  obtain ⟨hcq, hrtv⟩ := decideUpTo_queue e.desc.landing (noteTaken s.crs.crossing e.desc.landing (afterTaking s))
  unfold markerDecided
  rw [(lockLoads_frame _).1]
  refine ⟨?_, hrtv⟩
  show (setEntry _ (decideUpTo _ _)).cq = _
  unfold setEntry
  dsimp only
  rw [hcq]
  rfl

section
variable {b : BitVec 5} {e : Entry} (hmay : mayTake s = true) (hbar : issueBarred s = false) (hnext : berthNext s b.toNat = some e)
  (hkind : e.desc.kind = .marker) (hlife : e.life = .queued) (hact : s.man.active.isSome = true) (hin : inCrossing s = true)
include hmay hbar hnext hkind hlife hact hin

/-- A marker at the head of its berth is taken: it is refused where its landing has passed, and otherwise judged once its landing is decided. -/
theorem landingMarker_eq : exec (.landingMarker b) s = .next (if landingPassed s e then refuseEntry 2 e (afterTaking s)
    else advanceMarker (markerTaken e s) (markerDecided e s)) := by
  have hlatch : latchVlen e (afterTaking s) = afterTaking s := if_pos (.inr hkind)
  have hsome : s.man.active.isNone = false := by simpa [Option.isSome_iff_ne_none] using hact
  change execLandingMarker b s = _
  unfold execLandingMarker offer
  rw [if_neg (by simp [hmay, hbar]), hnext]
  simp only [hkind, ne_eq, not_true_eq_false, ↓reduceIte, hlife]
  unfold takeEntry
  rw [show ({ s with cq := { s.cq with takenSinceReset := true, takenSinceApply := true } } : State) = afterTaking s from rfl, hlatch]
  simp only [hsome, hin, hkind, Bool.false_eq_true, Bool.not_true, ↓reduceIte, ne_eq, not_true_eq_false, and_false, false_or]
  rfl

end

theorem markerDecided_found {e x : Entry} (h : findEntry s e.berth e.seq = some x) :
    findEntry (markerDecided e s) e.berth e.seq = some (markerTaken e s) :=
  (findEntry_congr (congrArg CqUnit.entries (markerDecided_queue e s).1)).trans
    (findEntry_setEntry (s := afterTaking s) (markerTaken e s) x ((findEntry_congr rfl).trans h))

theorem markerDecided_openKept (e : Entry) (s : State) : OpenKept s (markerDecided e s) :=
  (OpenKept.trans (OpenKept.trans {} (decideUpTo_openKept e.desc.landing (noteTaken s.crs.crossing e.desc.landing (afterTaking s)))) {}).trans
    (lockLoads_openKept _)

theorem markerDecided_quietRefusal {e : Entry} (h : e.desc.landing ≤ lastDecided s) : QuietRefusal s (markerDecided e s) := by
  have h1 : QuietRefusal s (decideUpTo e.desc.landing (noteTaken s.crs.crossing e.desc.landing (afterTaking s))) :=
    QuietRefusal.trans {} (decideUpTo_decided (by exact h))
  unfold markerDecided
  rw [(lockLoads_frame _).1]
  exact h1.trans {}

theorem markerDecided_head {e x : Entry} (h : berthHead s e.berth = some x) (hx : x.seq ≠ e.seq) :
    berthHead (markerDecided e s) e.berth = some x :=
  (berthHead_congr (congrArg CqUnit.entries (markerDecided_queue e s).1) _).trans
    (berthHead_setEntry (s := afterTaking s) (e := markerTaken e s) h hx)

theorem markerDecided_alone {e : Entry} (h : berthEntries s e.berth = [e]) :
    ∃ x, berthEntries (markerDecided e s) e.berth = [x] ∧ x.berth = e.berth ∧ x.seq = e.seq := by
  refine ⟨markerTaken e s, ?_, rfl, rfl⟩
  rw [berthEntries_congr (congrArg CqUnit.entries (markerDecided_queue e s).1), berthEntries_setEntry,
    berthEntries_congr (t := afterTaking s) (s := s) rfl, h]
  simp [markerTaken]

theorem advanceMarker_good {e : Entry} (h : lowest (fixedReasons e e.desc e.vlen) = none) : advanceMarker e s =
    setEntry (if s.crs.landing = e.desc.landing then { e with life := .ran, crossing := s.crs.crossing } else e) s := by
  rw [advanceMarker, h]

theorem advanceMarker_bad {e : Entry} {r : Nat} (h : lowest (fixedReasons e e.desc e.vlen) = some r) :
    advanceMarker e s = refuseEntry r e s := by
  rw [advanceMarker, h]

/-- A marker that has been taken is refused, or ends, as one that was found bad. -/
theorem markerRefused {e e0 : Entry} (r : Nat) (hk : e0.berth = e.berth ∧ e0.seq = e.seq ∧ e0.writes = e.writes)
    (hf : (findEntry t e.berth e.seq).isSome = true) (hc : t.crs.crossing = s.crs.crossing) (hr : t.rtv = s.rtv)
    (hhead : ∀ x, berthHead s e.berth = some x → x.seq ≠ e.seq → berthHead t e.berth = some x)
    (halone : berthEntries s e.berth = [e] → ∃ x, berthEntries t e.berth = [x] ∧ x.berth = e.berth ∧ x.seq = e.seq) :
    (∀ x, berthHead s e.berth = some x → x.seq ≠ e.seq → x.res.refused = none →
        ∃ y, findEntry (refuseEntry r e0 t) e.berth e.seq = some y ∧ y.life = .ran ∧ y.res.refused = some r ∧ y.crossing = s.crs.crossing) ∧
      (berthEntries s e.berth = [e] → writesOpen s e = false →
        ldgCompleted (refuseEntry r e0 t) e.berth = e.seq ∧ berthEntries (refuseEntry r e0 t) e.berth = []) := by
  obtain ⟨hb, hq, hw⟩ := hk
  obtain ⟨e', hf⟩ := Option.isSome_iff_exists.1 hf
  refine ⟨fun x hx hne hn => ?_, fun hx hopen => ?_⟩
  · rw [← hb, ← hq] at hf ⊢
    rw [← hc]
    exact refuseEntry_waits r hf (by rw [hb]; exact hhead x hx hne) (by rw [hq]; exact hne) hn
  · obtain ⟨x, hx, hxb, hxq⟩ := halone hx
    have ho : writesOpen t e0 = false := by
      rw [← hopen]
      simp only [writesOpen, hb, hq, hw, hr]
    have h := refuseEntry_alone r (by rw [hb]; exact hx) (by rw [hb]; exact hxb) (by rw [hq]; exact hxq) ho
    rwa [hb, hq] at h

/-- Settles O28: a marker is refused, judged and held in turn; none of these ways touches a length, a window, a byte or an event. -/
theorem markerEndsAtItsLanding : Obligations.MarkerEndsAtItsLanding := by
  unfold Obligations.MarkerEndsAtItsLanding
  intro s b e hmay hbar hnext hfind hkind hlife hact hin check refused quiet
  have hb : e.berth = b.toNat := (findEntry_mem hfind).2.1
  rw [landingMarker_eq hmay hbar hnext hkind hlife hact hin]
  rw [← hb] at hfind
  have hquiet : ∀ t, QuietRefusal s t → quiet t := fun t h =>
    ⟨h.vlen, h.wins, sameMemory_of_mem h.mem, h.evt, h.arr, by rw [h.crs], h.accepted⟩
  refine ⟨fun hp => ?_, fun hp hl hdec => ?_, fun hp hl hc => ?_⟩
  · rw [if_pos hp]
    have hq : QuietRefusal s (refuseEntry 2 e (afterTaking s)) := QuietRefusal.trans (t := afterTaking s) {} (refuseEntry_quietRefusal ..)
    have hr := markerRefused (s := s) (t := afterTaking s) (e := e) (e0 := e) 2 ⟨rfl, rfl, rfl⟩ (by rw [findEntry_congr (t := afterTaking s) (s := s) rfl, hfind]; rfl)
      rfl rfl (fun x hx _ => hx) (fun hx => ⟨e, hx, rfl, rfl⟩)
    rw [hb] at hr
    exact ⟨_, rfl, hr, hquiet _ hq, hq.man⟩
  · rw [if_neg (by simp [hp])]
    have hs := markerDecided_quietRefusal (s := s) (e := e) (by rw [hl]; exact hdec)
    have hfound := markerDecided_found hfind
    have hcheck : lowest (fixedReasons (markerTaken e s) (markerTaken e s).desc (markerTaken e s).vlen) = check := by
      simp only [check, markerTaken, hb]
      rfl
    have hq : QuietRefusal s (advanceMarker (markerTaken e s) (markerDecided e s)) := by
      unfold advanceMarker
      split
      · exact hs.trans (refuseEntry_quietRefusal ..)
      · exact hs.trans {}
    refine ⟨_, rfl, hquiet _ hq, hq.man, fun hn => ?_, fun r hr => ?_⟩
    · rw [advanceMarker_good (hcheck.trans hn), if_pos (by rw [hs.crs]; exact hl.symm)]
      rw [← hb]
      exact ⟨{ markerTaken e s with life := .ran, crossing := (markerDecided e s).crs.crossing },
        findEntry_setEntry (s := markerDecided e s) _ (markerTaken e s) hfound, rfl, rfl, congrArg CrsUnit.crossing hs.crs⟩
    · rw [advanceMarker_bad (hcheck.trans hr)]
      have hr := markerRefused (s := s) (t := markerDecided e s) (e := e) (e0 := markerTaken e s) r ⟨rfl, rfl, rfl⟩ (by rw [hfound]; rfl)
        (by rw [hs.crs]) (markerDecided_queue e s).2 (fun x hx hne => markerDecided_head hx hne) (fun hx => markerDecided_alone hx)
      rw [hb] at hr
      exact hr
  · rw [if_neg (by simp [hp])]
    have hk := markerDecided_openKept e s
    have hcq := (markerDecided_queue e s).1
    have hcheck : lowest (fixedReasons (markerTaken e s) (markerTaken e s).desc (markerTaken e s).vlen) = none := by
      rw [← hc]
      simp only [check, markerTaken, hb]
      rfl
    rw [advanceMarker_good hcheck, if_neg (by rw [hk.crs]; exact Ne.symm hl)]
    rw [← hb]
    refine ⟨_, markerTaken e s, rfl, findEntry_setEntry (markerTaken e s) _ (markerDecided_found hfind), rfl, rfl, ?_, ?_, sameMemory_of_mem hk.mem⟩
    · exact (show (markerDecided e s).cq.vlen = s.cq.vlen by rw [hcq]; rfl)
    · exact (show (markerDecided e s).cq.wins = s.cq.wins by rw [hcq]; rfl)

end Sys2Proof.Machine
end

section
/-! SUPPORT. A queue that lists one key twice, and what the start of its first entry does there: the head, put back in its place, overwrites the
second entry too, which alone kept the command of the chosen berth from the issue (R274, R275). The statement about commands that run in step
asks nothing of the keys of the queue, so it speaks of this state. -/

namespace Sys2Proof.Machine

/-- A LOAD into slipway A (class 3, operation 2) that has been taken and bound: sequence number 1 of a berth. -/
def boundLoad (b : Nat) : Entry :=
  { newEntry State.reset .host false b 1 (leBytes 8 (3 * 2 ^ 53) ++ leBytes 2 2) [] with life := .taken, lookahead := 1 }

/-- The key (3, 1) stands twice, the second time started, and holds slipway A; the scheduler has chosen the LOAD of berth 4, which waits for
that slipway. -/
def twiceListed : State :=
  { State.reset with
      crs := { State.reset.crs with phase := .inSegment, landing := 0, run := none }
      pwr := { PwrUnit.cold with mainDown := false, keepLost := false, fabReady := true, tested := true }
      cq := { State.reset.cq with entries := [boundLoad 3, { boundLoad 3 with started := true }, boundLoad 4], chosen := some 4 } }

theorem boundLoad_kind (b : Nat) : (boundLoad b).desc.kind = .load ∧ runsApart (boundLoad b).desc = false := by
  have h : (boundLoad b).desc = (boundLoad 0).desc := rfl
  rw [h]
  decide +kernel

theorem twiceListed_ready : ReadyToStart twiceListed 3 (boundLoad 3) := by
  constructor <;> decide +kernel

/-- The head is put back in its place, and the issue stays free for the chosen berth. -/
theorem load_twiceListed (env : RunEnv) : exec (.load 3 env) twiceListed = .next (setEntry (boundLoad 3) twiceListed) := by
  have hbar : (!(mayTake twiceListed) || issueBarred twiceListed) = false := by decide +kernel
  have hnext : berthNext twiceListed (3 : BitVec 5).toNat = some (boundLoad 3) := twiceListed_ready.head
  have hbound : (0 : Nat) < (boundLoad 3).lookahead := by decide
  have hnow : entryNow (boundLoad 3) (setEntry (boundLoad 3) twiceListed) = boundLoad 3 := by decide +kernel
  have hissue : issueOpen (setEntry (boundLoad 3) twiceListed) (boundLoad 3).berth = false := by decide +kernel
  have hadv : advanceTaken env (boundLoad 3) twiceListed = setEntry (boundLoad 3) twiceListed := by
    unfold advanceTaken
    simp [hbound, hnow, hissue]
  change execLoad 3 env twiceListed = _
  unfold execLoad offer
  rw [hbar, hnext]
  simp [(boundLoad_kind 3).1, hadv, show (boundLoad 3).life = .taken from rfl, show (boundLoad 3).started = false from rfl]

/-- Refutes O25: in `twiceListed` the LOAD of berth 3 is ready to start, and its row leaves it not started. -/
theorem not_inStepCommandsRun : ¬ Obligations.InStepCommandsRun := by
  unfold Obligations.InStepCommandsRun
  intro h
  have hk := boundLoad_kind 3
  obtain ⟨⟨t, y, hex, hfind, -, hstarted, -⟩, -⟩ :=
    h twiceListed 3 (boundLoad 3) (.clean 0) twiceListed_ready hk.2 (by rw [hk.1]; decide)
  rw [hk.1] at hex
  have ht : t = setEntry (boundLoad 3) twiceListed := by
    have := hex.symm.trans (load_twiceListed (.clean 0))
    simpa using this
  subst ht
  have hy : findEntry (setEntry (boundLoad 3) twiceListed) (3 : BitVec 5).toNat (boundLoad 3).seq = some (boundLoad 3) := by decide +kernel
  rw [hy] at hfind
  cases hfind
  exact absurd hstarted (by decide)

end Sys2Proof.Machine
end

section
/-! SUPPORT. A command that ends early: where its entry stands, who holds the issue then, and what stays (R280, R281, R359). -/

namespace Sys2Proof.Machine

variable {s t u : State}

/-! ## Marking outputs -/

theorem setMarks_cq (m : Bool) (us : List Nat) (s : State) : (us.foldl (fun t u => setMark u m t) s).cq = s.cq := by
  induction us generalizing s with
  | nil => rfl
  | cons x us ih => rw [List.foldl_cons, ih]; rfl

theorem setMarks_keep (m : Bool) (us : List Nat) (s : State) : (us.foldl (fun t u => setMark u m t) s).keep = s.keep := by
  induction us generalizing s with
  | nil => rfl
  | cons x us ih => rw [List.foldl_cons, ih]; rfl

theorem setEntry_cq {e : Entry} (h : t.cq = s.cq) : (setEntry e t).cq = (setEntry e s).cq := by
  unfold setEntry
  rw [h]

theorem poisonOutputs_cq (e : Entry) (s : State) :
    ∃ w, (poisonOutputs e s).cq = (setEntry { e with writes := w } s).cq :=
  ⟨_, setEntry_cq (setMarks_cq ..)⟩

theorem poisonOutputs_keep (e : Entry) (s : State) : (poisonOutputs e s).keep = s.keep := by
  unfold poisonOutputs
  exact setMarks_keep ..

theorem invalidateFor_cq (e : Entry) (s : State) : (invalidateFor e s).cq = s.cq := by
  unfold invalidateFor
  split <;> rfl

theorem invalidateFor_keep (e : Entry) (s : State) : (invalidateFor e s).keep = s.keep := by
  unfold invalidateFor
  split <;> rfl

/-! ## The end -/

theorem leaveIssue_entries (b : Nat) (s : State) : (leaveIssue b s).cq.entries = s.cq.entries := by
  unfold leaveIssue
  split <;> rfl

theorem leaveIssue_keep (b : Nat) (s : State) : (leaveIssue b s).keep = s.keep := by
  unfold leaveIssue
  split <;> rfl

/-- The queue after a command has ended: its entry is done, with its report and what it still sends. -/
theorem endEarly_entries (e : Entry) (r : Result) (s : State) :
    ∃ w, (endEarly e r s).cq.entries = (setEntry { e.shed with life := .ran, res := r, writes := w } s).cq.entries := by
  obtain ⟨w, hw⟩ := poisonOutputs_cq { e.shed with life := .ran, res := r } (setEntry { e.shed with life := .ran, res := r } s)
  refine ⟨w, ?_⟩
  unfold endEarly
  dsimp only
  rw [leaveIssue_entries, invalidateFor_cq, hw]
  unfold setEntry
  dsimp only
  rw [List.map_map]
  refine List.map_congr_left fun x _ => ?_
  dsimp only [Function.comp_apply]
  split <;> simp_all [Entry.shed]

theorem endEarly_keep (e : Entry) (r : Result) (s : State) : (endEarly e r s).keep = s.keep := by
  unfold endEarly
  dsimp only
  rw [leaveIssue_keep, invalidateFor_keep, poisonOutputs_keep]
  rfl

theorem endEarly_found {e x : Entry} (h : findEntry s e.berth e.seq = some x) (r : Result) :
    ∃ y, findEntry (endEarly e r s) e.berth e.seq = some y ∧ y.life = .ran ∧ y.res = r ∧ y.bytes = e.bytes := by
  obtain ⟨w, hw⟩ := endEarly_entries e r s
  exact ⟨_, (findEntry_congr hw).trans (findEntry_setEntry { e.shed with life := .ran, res := r, writes := w } x h), rfl, rfl, rfl⟩

/-- Once a command is done, its berth has a command under way exactly if another one of it is. -/
theorem any_underWay_setEntry {e : Entry} (h : e.life = .ran) (s : State) :
    (berthEntries (setEntry e s) e.berth).any (fun x => x.started && decide (x.life = .taken)) = othersIssue s e.berth e.seq := by
  rw [berthEntries_setEntry, List.any_map]
  unfold othersIssue
  rw [Bool.eq_iff_iff, List.any_eq_true, List.any_eq_true]
  refine exists_congr fun x => and_congr_right fun hx => ?_
  have hb : x.berth = e.berth := by simpa using (List.mem_filter.1 hx).2
  by_cases hq : x.seq = e.seq <;> simp [hb, hq, h]

/-- The key of an ended command is not among the others: setting its entry changes none of them. -/
theorem othersIssue_setEntry (e : Entry) (s : State) :
    othersIssue (setEntry e s) e.berth e.seq = othersIssue s e.berth e.seq := by
  unfold othersIssue
  rw [berthEntries_setEntry, List.any_map, Bool.eq_iff_iff, List.any_eq_true, List.any_eq_true]
  refine exists_congr fun x => and_congr_right fun hx => ?_
  have hb : x.berth = e.berth := by simpa using (List.mem_filter.1 hx).2
  by_cases hq : x.seq = e.seq <;> simp [hb, hq]

/-- The issue of a command that ends early goes free, unless another command of its berth holds it. -/
theorem endEarly_issuing (e : Entry) (r : Result) (s : State) :
    (endEarly e r s).cq.issuing = if othersIssue s e.berth e.seq = true then s.cq.issuing
      else if s.cq.issuing = some e.berth then none else s.cq.issuing := by
  let e1 : Entry := { e.shed with life := .ran, res := r }
  obtain ⟨w, hw⟩ := poisonOutputs_cq e1 (setEntry e1 s)
  have hcq : (invalidateFor e1 (poisonOutputs e1 (setEntry e1 s))).cq = (setEntry { e1 with writes := w } (setEntry e1 s)).cq :=
    (invalidateFor_cq ..).trans hw
  have hany : (berthEntries (invalidateFor e1 (poisonOutputs e1 (setEntry e1 s))) e.berth).any
      (fun x => x.started && decide (x.life = .taken)) = othersIssue s e.berth e.seq := by
    have h2 := any_underWay_setEntry (e := { e1 with writes := w }) rfl (setEntry e1 s)
    rw [berthEntries_congr (congrArg CqUnit.entries hcq)]
    exact h2.trans (othersIssue_setEntry e1 s)
  have hi : (invalidateFor e1 (poisonOutputs e1 (setEntry e1 s))).cq.issuing = s.cq.issuing := by rw [hcq]; rfl
  change (leaveIssue e.berth (invalidateFor e1 (poisonOutputs e1 (setEntry e1 s)))).cq.issuing = _
  unfold leaveIssue
  rw [hany]
  split
  · exact hi
  · unfold releaseIssue
    dsimp only
    rw [hi]

end Sys2Proof.Machine
end

section
/-! SUPPORT. What the steps of a command leave of its entry: the writing of outputs changes its report, its store areas, its open pieces and its
signatures, and a step besides those only what it has gathered of its operands and rows (R274, R297, R349, R358). -/

namespace Sys2Proof.Machine

variable {s t u : State}

/-! ## Writing outputs -/

/-- `x` is `e` after outputs were written. -/
structure Emitted (e x : Entry) : Prop where
  rest : x = { e with res := x.res, writes := x.writes, pieces := x.pieces, tiles := x.tiles, sigs := x.sigs }
  charged : x.res.charged = e.res.charged

theorem Emitted.refl (e : Entry) : Emitted e e := ⟨rfl, rfl⟩

theorem Emitted.trans {e x y : Entry} (h : Emitted e x) (k : Emitted x y) : Emitted e y :=
  ⟨by rw [k.rest, h.rest], k.charged.trans h.charged⟩

theorem Emitted.after {e x y : Entry} (k : Emitted x y) (h : Emitted e x) : Emitted e y := h.trans k

theorem Emitted.foldOn {α β : Type} (g : β → Entry) {f : β → α → β} (h : ∀ b x, Emitted (g b) (g (f b x))) (xs : List α) (b : β) :
    Emitted (g b) (g (xs.foldl f b)) := by
  induction xs generalizing b with
  | nil => exact .refl _
  | cons x xs ih => exact (h b x).trans (ih (f b x))

theorem addNotes_emitted (n : Notes) (e : Entry) : Emitted e (addNotes n e) := ⟨rfl, rfl⟩

theorem storeEmit_emitted (h : Option Nat) (m : Emit) (ts : List Stored) (acc : Entry × State) :
    Emitted acc.1 (storeEmit h m ts acc).1 := by
  unfold storeEmit
  dsimp only
  split
  · exact ⟨rfl, rfl⟩
  · exact .refl _

theorem emitOne_emitted (h : Option Nat) (delta : Nat) (m : Emit) (acc : Entry × State) : Emitted acc.1 (emitOne h delta m acc).1 := by
  unfold emitOne
  exact (storeEmit_emitted h m _ (_, _)).after ⟨rfl, rfl⟩

theorem emitAll_emitted (h : Option Nat) (delta : Nat) (ms : List Emit) (e : Entry) (s : State) : Emitted e (emitAll h delta ms e s).1 :=
  Emitted.foldOn (fun (a : Nat × (Entry × State)) => a.2.1) (fun a m => emitOne_emitted h a.1 m a.2) ms (delta, (e, s))

theorem closeTile_emitted (delta rb c : Nat) (x : Coord) (ms : List Emit) (n : Notes) (sent : List (Coord × PVal)) (e : Entry) (s : State) :
    Emitted e (closeTile delta rb c x ms n sent e s).1 := by
  unfold closeTile
  dsimp only
  split
  · exact (addNotes_emitted n e).trans (emitAll_emitted ..)
  · exact (addNotes_emitted n e).trans ((emitAll_emitted ..).trans ⟨rfl, rfl⟩)

theorem emitLate_emitted (rb delta : Nat) (ms : List Emit) (fl : Flags) (e : Entry) (s : State) :
    Emitted e (emitLate rb delta ms fl e s).1 := by
  unfold emitLate
  dsimp only
  split
  · exact ⟨rfl, rfl⟩
  · exact (closeTile_emitted ..).after ⟨rfl, rfl⟩

theorem finishPieces_emitted (done : Piece → Bool) (e : Entry) (s : State) : Emitted e (finishPieces done e s).1 := ⟨rfl, rfl⟩

theorem outputMeet_emitted (x : RestErr) (a : Entry × State) : Emitted a.1 (outputMeet x a).1 := by
  unfold outputMeet
  dsimp only
  split
  · exact .refl _
  · split
    · exact ⟨rfl, rfl⟩
    · exact .refl _
    · exact .refl _

/-! ## Steps -/

/-- Every row of an ATTN command that an entry holds has the width of its output. -/
def RowsWide (e : Entry) : Prop := ∀ x ∈ e.rows, x.2.o.length = e.desc.nx

/-- What an entry keeps while its steps run: besides its command its life, its places in the sequences, its charge and the rows of the
finisher; and the widths of its ATTN rows. -/
structure Worked (e x : Entry) : Prop extends SameCommand e x where
  life : x.life = e.life
  pos : x.pos = e.pos
  front : x.front = e.front
  fin : x.fin = e.fin
  charged : x.res.charged = e.res.charged
  wide : RowsWide e → RowsWide x

theorem Worked.refl (e : Entry) : Worked e e := ⟨.refl e, rfl, rfl, rfl, rfl, rfl, id⟩

theorem Worked.trans {e x y : Entry} (h : Worked e x) (k : Worked x y) : Worked e y :=
  ⟨h.toSameCommand.trans k.toSameCommand, k.life.trans h.life, k.pos.trans h.pos, k.front.trans h.front, k.fin.trans h.fin,
    k.charged.trans h.charged, fun w => k.wide (h.wide w)⟩

theorem Worked.after {e x y : Entry} (k : Worked x y) (h : Worked e x) : Worked e y := h.trans k

theorem Worked.foldOn {α β : Type} (g : β → Entry) {f : β → α → β} (h : ∀ b x, Worked (g b) (g (f b x))) (xs : List α) (b : β) :
    Worked (g b) (g (xs.foldl f b)) := by
  induction xs generalizing b with
  | nil => exact .refl _
  | cons x xs ih => exact (h b x).trans (ih (f b x))

/-- A change of what an entry has gathered. -/
theorem Worked.of_gathered (e : Entry) (reds : List (Nat × RedEl)) (lads : List (Nat × Ladder)) (recs : List (Nat × RowRec))
    (sent : List (Nat × AccRec)) (rowIn : List (Nat × Nat)) :
    Worked e { e with reds := reds, lads := lads, recs := recs, sent := sent, rowIn := rowIn } :=
  ⟨⟨rfl, rfl, rfl, rfl, rfl, rfl, rfl⟩, rfl, rfl, rfl, rfl, rfl, id⟩

theorem Emitted.worked {e x : Entry} (h : Emitted e x) : Worked e x := by
  obtain ⟨h1, h2⟩ := h
  rw [h1]
  exact ⟨⟨rfl, rfl, rfl, rfl, rfl, rfl, rfl⟩, rfl, rfl, rfl, rfl, h2, id⟩

theorem chainTile_worked (delta : Nat) (t : Tile) (e : Entry) (s : State) : Worked e (chainTile delta t e s).1 :=
  Worked.after (closeTile_emitted ..).worked (.of_gathered ..)

theorem ladderTile_worked (delta : Nat) (t : Tile) (e : Entry) (s : State) : Worked e (ladderTile delta t e s).1 := by
  unfold ladderTile
  exact Worked.after (closeTile_emitted ..).worked (.of_gathered ..)

theorem statsTile_worked (delta : Nat) (t : Tile) (e : Entry) (s : State) : Worked e (statsTile delta t e s).1 := by
  unfold statsTile
  dsimp only
  split
  · exact Worked.after (closeTile_emitted ..).worked (.of_gathered ..)
  · exact Worked.after (closeTile_emitted ..).worked (.of_gathered ..)

theorem passOneTile_worked (delta : Nat) (t : Tile) (e : Entry) (s : State) : Worked e (passOneTile delta t e s).1 := by
  unfold passOneTile
  split
  · exact ladderTile_worked ..
  · exact statsTile_worked ..

theorem attnTile_width (r : Reader) (f : MParam) (row : Coord) (kt : Nat) (a : AttnRow) :
    (attnTile r f row kt a).1.o.length = a.o.length := by
  unfold attnTile mapNotes
  simp

/-- The rows of a block after a key tile, one write at a time. -/
theorem rowsWide_puts {rb nx : Nat} (xs : List (Coord × AttnRow)) (hx : ∀ x ∈ xs, x.2.o.length = nx) (m : List (Nat × AttnRow))
    (hm : ∀ y ∈ m, y.2.o.length = nx) : ∀ y ∈ xs.foldl (fun m x => sput m (rowNo rb x.1) (some x.2)) m, y.2.o.length = nx := by
  induction xs generalizing m with
  | nil => exact hm
  | cons x xs ih =>
    refine ih (fun z hz => hx z (List.mem_cons_of_mem _ hz)) _ fun y hy => ?_
    rcases mem_sput hy with hy | ⟨_, hy⟩
    · exact hm y hy
    · have hv : y.2 = x.2 := by simpa using hy.symm
      rw [hv]
      exact hx x (List.mem_cons_self ..)

theorem sget_mem_or {α : Type} (d : α) (m : List (Nat × α)) (k : Nat) : sget d m k = d ∨ (k, sget d m k) ∈ m := by
  induction m with
  | nil => exact .inl rfl
  | cons p rest ih =>
    obtain ⟨k', v⟩ := p
    simp only [sget]
    split
    · rename_i h
      exact .inr (h ▸ List.mem_cons_self ..)
    · exact ih.imp id (List.mem_cons_of_mem _)

/-- A row as an entry holds it is as wide as the output. -/
theorem RowsWide.sget {e : Entry} (h : RowsWide e) (k : Nat) : (sget (AttnRow.start e.desc.nx) e.rows k).o.length = e.desc.nx := by
  rcases sget_mem_or (AttnRow.start e.desc.nx) e.rows k with h' | h'
  · rw [h']
    exact List.length_replicate ..
  · exact h _ h'

theorem attnStep_worked (delta rb kt : Nat) (e : Entry) (s : State) : Worked e (attnStep delta rb kt e s).1 := by
  unfold attnStep
  dsimp only
  refine Worked.after (closeTile_emitted ..).worked
    ⟨⟨rfl, rfl, rfl, rfl, rfl, rfl, rfl⟩, rfl, rfl, rfl, rfl, rfl, fun h => rowsWide_puts _ ?_ _ h⟩
  intro x hx
  simp only [List.mem_map, attnBlock] at hx
  obtain ⟨_, ⟨_, ⟨c, _, rfl⟩, rfl⟩, rfl⟩ := hx
  exact (attnTile_width ..).trans (h.sget _)

theorem runWork_worked (delta : Nat) (w : Work) (e : Entry) (s : State) : Worked e (runWork delta w e s).1 := by
  cases w with
  | slab g => exact (addNotes_emitted _ e).worked
  | chain t => exact chainTile_worked ..
  | product t n => exact (closeTile_emitted ..).worked
  | load l => exact (closeTile_emitted ..).worked
  | store l => exact (closeTile_emitted ..).worked
  | pass second t =>
    cases second with
    | false => exact passOneTile_worked ..
    | true => exact (closeTile_emitted ..).worked
  | key rb kt => exact attnStep_worked ..

theorem runWorks_worked (delta : Nat) (ws : List Work) (e : Entry) (s : State) : Worked e (runWorks delta ws e s).2.1 :=
  Worked.foldOn (fun (a : Nat × (Entry × State)) => a.2.1) (fun _ w => runWork_worked _ w _ _) ws (delta, (e, s))

theorem chainBlock_worked (delta rb : Nat) (e : Entry) (s : State) : Worked e (chainBlock delta rb e s).1 :=
  Worked.after (emitLate_emitted ..).worked (.of_gathered ..)

theorem chainBlocks_worked (rbs : List Nat) (d : Nat) (e : Entry) (s : State) :
    Worked e (rbs.foldl (fun (a : Nat × (Entry × State)) rb => (0, chainBlock a.1 rb a.2.1 a.2.2)) (d, (e, s))).2.1 :=
  Worked.foldOn (fun (a : Nat × (Entry × State)) => a.2.1) (f := fun a rb => (0, chainBlock a.1 rb a.2.1 a.2.2))
    (fun a rb => chainBlock_worked a.1 rb a.2.1 a.2.2) rbs (d, (e, s))

end Sys2Proof.Machine
end

section
/-! SUPPORT. Where the bytes of an output lie: a slice that fits its shape is stored inside the span of R263, and the slices of different rows do
not share a byte (R91, R92, R262, R263). -/

namespace Sys2Proof.Machine

variable {s t u : State}

/-! ## Lengths -/

theorem length_leBytes (n v : Nat) : (leBytes n v).length = n := by
  induction n generalizing v with
  | zero => rfl
  | succ n ih => exact congrArg (· + 1) (ih _)

/-- Splitting a list keeps its elements. -/
theorem length_chunksFrom {α : Type} {n : Nat} (hn : 0 < n) (fuel first : Nat) (xs : List α) (hf : 0 < first) (h : xs.length ≤ fuel) :
    ((chunksFrom n fuel first xs).map List.length).sum = xs.length := by
  induction fuel generalizing first xs with
  | zero => simp_all [chunksFrom]
  | succ fuel ih =>
    cases xs with
    | nil => simp [chunksFrom]
    | cons x xs =>
      have hd : ((x :: xs).drop first).length ≤ fuel := by simp at h ⊢; omega
      rw [chunksFrom, List.map_cons, List.sum_cons, ih n _ hn hd, List.length_take, List.length_drop]
      · omega
      · simp

/-- The number of MX blocks of a list that is split from its beginning. -/
theorem length_blocks {α : Type} (fuel : Nat) (xs : List α) (h : xs.length ≤ fuel) :
    (chunksFrom 32 fuel 32 xs).length = ceilDiv xs.length 32 := by
  induction fuel generalizing xs with
  | zero =>
    have : xs = [] := by simpa using h
    subst this
    simp [chunksFrom, ceilDiv]
  | succ fuel ih =>
    cases xs with
    | nil => simp [chunksFrom, ceilDiv]
    | cons x xs =>
      have hd : ((x :: xs).drop 32).length ≤ fuel := by simp at h ⊢; omega
      rw [chunksFrom, List.length_cons, ih _ hd, List.length_drop, List.length_cons]
      · unfold ceilDiv
        omega
      · simp

theorem length_mxConvertReads (f : Fmt) (mode : RMode) (reads : List (Option FVal × Nat)) :
    (mxConvertReads f mode reads).2.1.length = reads.length := by
  unfold mxConvertReads
  dsimp only
  split <;> simp

/-- A block has one element for each position. -/
theorem length_storeBlock (ftz : Bool) (f : Fmt) (mode : RMode) (els : List (OutVal × Nat)) :
    (storeBlock ftz f mode els).1.length = els.length := by
  unfold storeBlock
  dsimp only
  split
  · simp
  · split <;> simp [length_mxConvertReads]

/-! ## Slices as they are stored -/

/-- A slice lies within a shape, and in an MX format begins with a block. -/
structure SliceFits (h : Shape) (x : Slot) (sl : OutSlice) : Prop where
  some : 0 < sl.els.length
  i0 : sl.c.i0 + sl.els.length ≤ h.n0
  i1 : sl.c.i1 < h.n1
  i2 : sl.c.i2 < h.n2
  i3 : sl.c.i3 < h.n3
  whole : codeIsMx x.fmt = true → sl.c.i0 % 32 = 0

theorem convertSlice_c (s : State) (e : Entry) (x : Slot) (h : Shape) (sl : OutSlice) : (convertSlice s e x h sl).1.c = sl.c := by
  unfold convertSlice
  dsimp only
  split
  · rfl
  · split <;> rfl

/-- A reserved format stores nothing, at word addresses. -/
theorem codeBits_reserved {code : Nat} (h : fmtOfCode code = none) : codeBits code = 32 ∧ codeIsMx code = false := by
  have hc : 15 ≤ code := by
    by_contra hlt
    have : code < 15 := by omega
    interval_cases code <;> simp [fmtOfCode] at h
  refine ⟨?_, by simp only [codeIsMx, Bool.and_eq_false_iff, decide_eq_false_iff_not]; omega⟩
  unfold codeBits
  split <;> omega

/-- A stored slice has one element for each position of the slice, or none in a reserved format. -/
theorem convertSlice_els (s : State) (e : Entry) (x : Slot) (h : Shape) (sl : OutSlice) :
    (convertSlice s e x h sl).1.els.length = sl.els.length ∨
      (convertSlice s e x h sl).1.els.length = 0 ∧ codeBits x.fmt = 32 := by
  unfold convertSlice
  dsimp only
  split
  · rename_i hn
    exact .inr ⟨rfl, (codeBits_reserved hn).1⟩
  · left
    split
    · dsimp only
      rw [List.length_flatten, List.map_map, List.map_map]
      have hl : ((List.length ∘ fun (y : List (Nat × Bool) × (Nat × Bool) × Flags) => y.1) ∘ storeBlock (numCfg s).ftz ‹Fmt› (modeOf s x.rmode)) =
          List.length := funext fun els => length_storeBlock ..
      rw [hl, length_chunksFrom (by decide) _ _ _ (by omega) (by simp)]
      simp
    · simp

/-- A stored slice has one scale for each block, in an MX format alone. -/
theorem convertSlice_scales {x : Slot} {h : Shape} {sl : OutSlice} (f : SliceFits h x sl) (s : State) (e : Entry) :
    (convertSlice s e x h sl).1.scales.length = if codeIsMx x.fmt then ceilDiv sl.els.length 32 else 0 := by
  unfold convertSlice
  dsimp only
  split
  · rename_i hn
    simp [(codeBits_reserved hn).2]
  · split
    · rename_i hm
      have h0 : 32 - sl.c.i0 % 32 = 32 := by rw [f.whole hm]
      dsimp only
      rw [List.length_map, List.length_map, h0, length_blocks _ _ (by simp)]
      simp
    · rfl

/-! ## Runs -/

/-- Bytes of the elements of a stored slice, from the byte in which the first begins. -/
def elementBytes (x : Slot) (h : Shape) (t : Stored) : Nat :=
  let k := elemOffset x h 1 t.c * codeBits x.fmt % 8
  if k = 0 then sliceBytes x.fmt t.els.length (t.c.i0 + t.els.length == h.n0) else ceilDiv (k + t.els.length * codeBits x.fmt) 8

/-- The runs of a slice: its elements, then a byte for each scale. -/
theorem runsOf_shape (x : Slot) (h : Shape) (t : Stored) :
    ∃ r rs, runsOf x h t = r :: rs ∧ r.addr = x.base + elemOffset x h 1 t.c * codeBits x.fmt / 8 ∧
      r.low = elemOffset x h 1 t.c * codeBits x.fmt % 8 ∧ r.bytes.length = elementBytes x h t ∧
      rs.map (fun q => (q.addr, q.low, q.bytes.length)) =
        (List.range t.scales.length).map (fun v => (scaleBase x (lastOffset x h 1) + elemOffset x h 1 t.c / 32 + v, 0, 1)) := by
  refine ⟨_, _, rfl, rfl, rfl, length_leBytes .., ?_⟩
  rw [List.map_map]
  refine List.ext_getElem (by simp) fun i h1 h2 => ?_
  simp

/-! ## Addresses -/

theorem codeBits_cases (code : Nat) :
    codeBits code = 1 ∨ codeBits code = 4 ∨ codeBits code = 6 ∨ codeBits code = 8 ∨ codeBits code = 16 ∨ codeBits code = 32 := by
  unfold codeBits
  split <;> simp

/-- A slice ends no later than the last element of its shape. -/
theorem SliceFits.offset {h : Shape} {x : Slot} {sl : OutSlice} (f : SliceFits h x sl) :
    elemOffset x h 1 sl.c + sl.els.length ≤ lastOffset x h 1 + 1 := by
  have h1 : sl.c.i1 * x.stride1 ≤ (h.n1 - 1) * x.stride1 := Nat.mul_le_mul_right _ (by have := f.i1; omega)
  have h3 : sl.c.i3 * h.n2 ≤ (h.n3 - 1) * h.n2 := Nat.mul_le_mul_right _ (by have := f.i3; omega)
  have h2 : (sl.c.i2 + sl.c.i3 * h.n2) * 64 * x.stride2 ≤ (h.n2 - 1 + (h.n3 - 1) * h.n2) * 64 * x.stride2 :=
    Nat.mul_le_mul_right _ (Nat.mul_le_mul_right _ (by have := f.i2; omega))
  have h0 := f.i0
  have hs := f.some
  simp only [lastOffset, elemOffset]
  omega

/-- The bytes of a slice's elements lie in the element plane. -/
theorem elementBytes_le {x : Slot} {h : Shape} {c : Stored} {n last : Nat} (hn : 0 < n)
    (ho : elemOffset x h 1 c.c + n ≤ last + 1) (hc : c.els.length = n ∨ c.els.length = 0 ∧ codeBits x.fmt = 32) :
    elemOffset x h 1 c.c * codeBits x.fmt / 8 + elementBytes x h c ≤ planeBytes x.fmt last := by
  unfold elementBytes planeBytes sliceBytes ceilDiv
  dsimp only
  generalize hl : c.els.length = k at *
  generalize elemOffset x h 1 c.c = off at *
  generalize (c.c.i0 + k == h.n0) = q
  rcases codeBits_cases x.fmt with hw | hw | hw | hw | hw | hw <;> rw [hw] at hc ⊢ <;> rcases hc with rfl | ⟨rfl, hc⟩
  all_goals split <;> split <;> simp at * <;> omega

/-- The bytes before an element that begins on a byte. -/
theorem planeBytes_whole {code off : Nat} (h0 : 0 < off) (h : off * codeBits code % 8 = 0) :
    planeBytes code (off - 1) = off * codeBits code / 8 := by
  unfold planeBytes ceilDiv
  rw [Nat.sub_add_cancel h0]
  rcases codeBits_cases code with hw | hw | hw | hw | hw | hw <;> rw [hw] at h ⊢ <;> simp <;> omega

theorem scaleBase_ge (x : Slot) (last : Nat) : x.base + planeBytes x.fmt last ≤ scaleBase x last := by
  unfold scaleBase
  omega

/-- A run of a stored slice holds its elements or one of its scales. -/
theorem mem_runsOf {x : Slot} {h : Shape} {c : Stored} {r : Run} (hr : r ∈ runsOf x h c) :
    (r.addr = x.base + elemOffset x h 1 c.c * codeBits x.fmt / 8 ∧ r.bytes.length = elementBytes x h c) ∨
      ∃ v < c.scales.length, r.addr = scaleBase x (lastOffset x h 1) + elemOffset x h 1 c.c / 32 + v ∧ r.bytes.length = 1 := by
  obtain ⟨q, qs, hq, ha, -, hl, hs⟩ := runsOf_shape x h c
  rw [hq] at hr
  rcases List.mem_cons.1 hr with rfl | hr
  · exact .inl ⟨ha, hl⟩
  · have : (r.addr, r.low, r.bytes.length) ∈ qs.map (fun q => (q.addr, q.low, q.bytes.length)) := List.mem_map_of_mem hr
    rw [hs] at this
    obtain ⟨v, hv, h1⟩ := List.mem_map.1 this
    simp only [Prod.mk.injEq] at h1
    exact .inr ⟨v, List.mem_range.1 hv, h1.1.symm, h1.2.2.symm⟩

/-- The elements of a slice are its first run. -/
theorem low_of_runsOf {x : Slot} {h : Shape} {c : Stored} (hr : ∀ r ∈ runsOf x h c, r.low = 0) :
    elemOffset x h 1 c.c * codeBits x.fmt % 8 = 0 := by
  obtain ⟨q, qs, hq, -, hw, -⟩ := runsOf_shape x h c
  rw [← hw]
  exact hr q (hq ▸ List.mem_cons_self ..)

/-- No byte of an output lies below its BASE. -/
theorem base_le_of_mem_runsOf {x : Slot} {h : Shape} {c : Stored} {r : Run} (hr : r ∈ runsOf x h c) : x.base ≤ r.addr := by
  have := scaleBase_ge x (lastOffset x h 1)
  rcases mem_runsOf hr with ⟨h, -⟩ | ⟨v, -, h, -⟩ <;> omega

theorem ceilDiv_lt {v n : Nat} (h : v < ceilDiv n 32) : 32 * v < n := by
  unfold ceilDiv at h
  omega

/-- A slice that fits its shape is stored inside the output's span. -/
theorem runsOf_inside {x : Slot} {h : Shape} {sl : OutSlice} (f : SliceFits h x sl) (s : State) (e : Entry) {r : Run}
    (hr : r ∈ runsOf x h (convertSlice s e x h sl).1) : r.addr + r.bytes.length ≤ x.base + spanBytes x (lastOffset x h 1) := by
  have hb := scaleBase_ge x (lastOffset x h 1)
  have ho := f.offset
  rw [← convertSlice_c s e x h sl] at ho
  rcases mem_runsOf hr with ⟨ha, hl⟩ | ⟨v, hv, ha, hl⟩
  · have := elementBytes_le f.some ho (convertSlice_els s e x h sl)
    rw [ha, hl, spanBytes]
    split <;> omega
  · rw [convertSlice_scales f] at hv
    rw [ha, hl, spanBytes]
    split at hv
    · rename_i hm
      have := ceilDiv_lt hv
      rw [if_pos hm]
      omega
    · omega

/-- Two runs that share no byte. -/
def Run.Apart (r q : Run) : Prop := r.addr + r.bytes.length ≤ q.addr ∨ q.addr + q.bytes.length ≤ r.addr

/-- The runs of one slice share no byte. -/
theorem runsOf_apart {x : Slot} {h : Shape} {sl : OutSlice} (f : SliceFits h x sl) (s : State) (e : Entry) :
    (runsOf x h (convertSlice s e x h sl).1).Pairwise Run.Apart := by
  have hb := scaleBase_ge x (lastOffset x h 1)
  have ho := f.offset
  rw [← convertSlice_c s e x h sl] at ho
  have he := elementBytes_le f.some ho (convertSlice_els s e x h sl)
  obtain ⟨q, qs, hq, ha, -, hl, hs⟩ := runsOf_shape x h (convertSlice s e x h sl).1
  rw [hq, List.pairwise_cons]
  have hscale : ∀ r ∈ qs, scaleBase x (lastOffset x h 1) ≤ r.addr := fun r hr => by
    have : (r.addr, r.low, r.bytes.length) ∈ qs.map (fun q => (q.addr, q.low, q.bytes.length)) := List.mem_map_of_mem hr
    rw [hs] at this
    obtain ⟨v, -, h1⟩ := List.mem_map.1 this
    simp only [Prod.mk.injEq] at h1
    omega
  refine ⟨fun r hr => .inl ?_, ?_⟩
  · have := hscale r hr
    omega
  · have hp : (qs.map (fun q => (q.addr, q.low, q.bytes.length))).Pairwise (fun a b => a.1 + a.2.2 ≤ b.1) := by
      rw [hs, List.pairwise_map]
      exact (List.pairwise_lt_range).imp fun hlt => by dsimp only; omega
    exact (List.pairwise_map.1 hp).imp .inl

/-- A slice of a later row of the same columns. -/
structure LaterRow (a b : OutSlice) : Prop where
  i0 : b.c.i0 = a.c.i0
  i1 : a.c.i1 < b.c.i1
  i2 : b.c.i2 = a.c.i2
  i3 : b.c.i3 = a.c.i3

/-- Rows as far apart as they are long: a later row begins past the end of an earlier one. -/
theorem LaterRow.offset {x : Slot} {h : Shape} {a b : OutSlice} (l : LaterRow a b) :
    elemOffset x h 1 a.c + x.stride1 ≤ elemOffset x h 1 b.c := by
  have h1 : (a.c.i1 + 1) * x.stride1 ≤ b.c.i1 * x.stride1 := Nat.mul_le_mul_right _ l.i1
  rw [Nat.succ_mul] at h1
  simp only [elemOffset, l.i0, l.i2, l.i3]
  omega

/-- With rows of whole blocks a slice begins with a block in storage too. -/
theorem SliceFits.offset_whole {x : Slot} {h : Shape} {sl : OutSlice} (f : SliceFits h x sl) (hm : codeIsMx x.fmt = true)
    (hs : x.stride1 % 32 = 0) : elemOffset x h 1 sl.c % 32 = 0 := by
  have h1 : 32 ∣ sl.c.i1 * x.stride1 := Dvd.dvd.mul_left (Nat.dvd_of_mod_eq_zero hs) _
  have h2 : 32 ∣ (sl.c.i2 + sl.c.i3 * h.n2) * 64 * x.stride2 := ((Dvd.intro 2 rfl : 32 ∣ 64).mul_left _).mul_right _
  have h0 := f.whole hm
  simp only [elemOffset]
  omega

/-- The runs of slices of different rows share no byte, where the rows do not overlap and each begins on a byte (R262). -/
theorem runsOf_apart_rows {x : Slot} {h : Shape} {a b : OutSlice} (fa : SliceFits h x a) (fb : SliceFits h x b) (l : LaterRow a b)
    (hn : h.n0 ≤ x.stride1) (hm : codeIsMx x.fmt = true → x.stride1 % 32 = 0) (s : State) (e : Entry)
    (ha : ∀ r ∈ runsOf x h (convertSlice s e x h a).1, r.low = 0) (hb : ∀ r ∈ runsOf x h (convertSlice s e x h b).1, r.low = 0)
    {r q : Run} (hr : r ∈ runsOf x h (convertSlice s e x h a).1) (hq : q ∈ runsOf x h (convertSlice s e x h b).1) : Run.Apart r q := by
  have hsb := scaleBase_ge x (lastOffset x h 1)
  have hoa := fa.offset
  have hob := fb.offset
  have hab := l.offset (x := x) (h := h)
  have hla := low_of_runsOf ha
  have hlb := low_of_runsOf hb
  have hna := fa.i0
  rw [← convertSlice_c s e x h a] at hoa hab
  rw [← convertSlice_c s e x h b] at hob hab
  have hea := elementBytes_le fa.some hoa (convertSlice_els s e x h a)
  have heb := elementBytes_le fb.some hob (convertSlice_els s e x h b)
  rcases mem_runsOf hr with ⟨h1, h2⟩ | ⟨v, hv, h1, h2⟩ <;> rcases mem_runsOf hq with ⟨h3, h4⟩ | ⟨w, hw, h3, h4⟩
  · refine .inl ?_
    rw [h1, h2, h3]
    have := elementBytes_le (x := x) (h := h) (c := (convertSlice s e x h a).1) (last := elemOffset x h 1 (convertSlice s e x h b).1.c - 1)
      fa.some (by have := fa.some; omega) (convertSlice_els s e x h a)
    rw [planeBytes_whole (by have := fa.some; omega) hlb] at this
    omega
  · exact .inl (by omega)
  · exact .inr (by omega)
  · rw [convertSlice_scales fa] at hv
    split at hv
    · rename_i hx
      have w1 := fa.offset_whole hx (hm hx)
      have w2 := fb.offset_whole hx (hm hx)
      rw [← convertSlice_c s e x h a] at w1
      rw [← convertSlice_c s e x h b] at w2
      have := ceilDiv_lt hv
      exact .inl (by omega)
    · omega

end Sys2Proof.Machine
end

section
/-! SUPPORT. What writing outputs does to the scratchpad: it changes the bytes of their runs alone, and where these share no byte it leaves
each of them there (R91, R128, R263). -/

namespace Sys2Proof.Machine

variable {s t u : State} {A B : Nat → Prop}

/-! ## Bytes that stay -/

/-- From `s` to `t` no byte outside `A` changes. -/
def Spared (A : Nat → Prop) (s t : State) : Prop := ∀ a, ¬A a → spByte t a = spByte s a

theorem Spared.refl (A : Nat → Prop) (s : State) : Spared A s s := fun _ _ => rfl

theorem Spared.trans (h : Spared A s t) (k : Spared A t u) : Spared A s u := fun a ha => (k a ha).trans (h a ha)

theorem Spared.after (k : Spared A t u) (h : Spared A s t) : Spared A s u := h.trans k

theorem Spared.of_mem (h : t.sp.mem = s.sp.mem) : Spared A s t := fun a _ => by rw [spByte, h, spByte]

theorem Quiet.spared (h : Quiet s t) : Spared A s t := .of_mem h.mem

theorem Spared.mono (h : Spared A s t) (hab : ∀ a, A a → B a) : Spared B s t := fun a ha => h a fun x => ha (hab a x)

theorem Spared.foldl {α : Type} {f : State → α → State} {xs : List α} (h : ∀ t, ∀ x ∈ xs, Spared A t (f t x)) (s : State) :
    Spared A s (xs.foldl f s) := by
  induction xs generalizing s with
  | nil => exact .refl A s
  | cons x xs ih =>
    exact (h s x (List.mem_cons_self ..)).trans (ih (fun t y hy => h t y (List.mem_cons_of_mem _ hy)) (f s x))

/-! ## Runs -/

theorem writeRun_inside {r : Run} (hl : r.low = 0) (s : State) {i : Nat} (hi : i < r.bytes.length) :
    spByte (writeRun r s) (r.addr + i) = r.bytes.getD i 0 := by
  have hj : r.joined (sget 0 s.sp.mem r.addr) = r.bytes := by
    unfold Run.joined
    split <;> simp_all
  unfold writeRun
  extract_lets c0 s1
  have h1 := (Quiet.foldl (f := fun t u => if r.bad.contains u then setMark u true t
    else if r.addr ≤ 64 * u ∧ 64 * u + 64 ≤ r.addr + r.bytes.length then setMark u false t else t)
    (fun t u => .ite (setMark_quiet ..) (.ite (setMark_quiet ..) (.refl t))) (unitsOf r.addr r.bytes.length) s1).mem
  have h2 : s1.sp.mem = sblit 0 s.sp.mem r.addr r.bytes := by
    rw [← hj]
  unfold spByte
  rw [h1, h2]
  exact sget_sblit_inside 0 _ _ _ i hi

/-- The address of a byte of a run. -/
def Run.Has (r : Run) (a : Nat) : Prop := r.addr ≤ a ∧ a < r.addr + r.bytes.length

theorem writeRun_spared {r : Run} (h : ∀ a, r.Has a → A a) (s : State) : Spared A s (writeRun r s) := fun a ha =>
  writeRun_outside r s a (by
    by_contra hc
    exact ha (h a ⟨by omega, by omega⟩))

theorem writeRuns_spared {rs : List Run} (h : ∀ r ∈ rs, ∀ a, r.Has a → A a) (s : State) :
    Spared A s (rs.foldl (fun t r => writeRun r t) s) :=
  .foldl (fun t r hr => writeRun_spared (h r hr) t) s

/-- Runs that share no byte read as written. -/
theorem writeRuns_inside {rs : List Run} (hp : rs.Pairwise Run.Apart) (hl : ∀ r ∈ rs, r.low = 0) (s : State) {r : Run} (hr : r ∈ rs) {i : Nat}
    (hi : i < r.bytes.length) : spByte (rs.foldl (fun t r => writeRun r t) s) (r.addr + i) = r.bytes.getD i 0 := by
  induction rs generalizing s with
  | nil => exact nomatch hr
  | cons q rs ih =>
    rw [List.pairwise_cons] at hp
    rw [List.foldl_cons]
    rcases List.mem_cons.1 hr with rfl | hr
    · have hs := writeRuns_spared (A := fun a => ∃ q ∈ rs, q.Has a) (fun q hq a ha => ⟨q, hq, ha⟩) (writeRun r s)
      rw [hs]
      · exact writeRun_inside (hl r (List.mem_cons_self ..)) s hi
      · rintro ⟨q, hq, ha⟩
        have := hp.1 q hq
        obtain ⟨h1, h2⟩ := ha
        rcases this with h | h <;> omega
    · exact ih hp.2 (fun q hq => hl q (List.mem_cons_of_mem _ hq)) _ hr

/-! ## What the manifest in force settles -/

theorem numCfg_congr (h : t.man = s.man) : numCfg t = numCfg s := by rw [numCfg, h, numCfg]
theorem srSeed_congr (h : t.man = s.man) : srSeed t = srSeed s := by rw [srSeed, h, srSeed]
theorem rowSpan_congr (h : t.man = s.man) : rowSpan t = rowSpan s := by rw [rowSpan, h, rowSpan]
theorem modeOf_congr (h : t.man = s.man) (c : Nat) : modeOf t c = modeOf s c := by rw [modeOf, numCfg_congr h, modeOf]
theorem writerOf_congr (h : t.man = s.man) (c : Nat) : writerOf t c = writerOf s c := by 
  rw [writerOf, protection_congr (congrArg ManUnit.active h), writerOf]

theorem drawAt_congr (h : t.man = s.man) (mode : RMode) (a b c : Nat) (g : Shape) (x : Coord) :
    drawAt t mode a b c g x = drawAt s mode a b c g x := by
  rw [drawAt, srSeed_congr h, drawAt]

theorem storeElement_congr (h : t.man = s.man) (x : Slot) (f : Fmt) (mode : RMode) (d : Nat) (v : OutVal) :
    storeElement t x f mode d v = storeElement s x f mode d v := by
  unfold storeElement
  rw [numCfg_congr h]

/-! ## Outputs -/

theorem convertSlice_congr {e x : Entry} (hm : t.man = s.man) (hc : x.crossing = e.crossing) (y : Slot) (h : Shape) (sl : OutSlice) :
    convertSlice t x y h sl = convertSlice s e y h sl := by
  simp only [convertSlice, storeElement_congr hm, writerOf_congr hm, modeOf_congr hm, drawAt_congr hm, numCfg_congr hm, hc]

theorem emitRuns_congr {e x : Entry} (hm : t.man = s.man) (h : SameCommand e x) (m : Emit) : emitRuns t x m = emitRuns s e m := by
  simp only [emitRuns, emitStored, convertSlice_congr hm h.crossing, h.desc]

/-- The bytes of the scratchpad that an output writes. -/
def Touches (s : State) (e : Entry) (m : Emit) (a : Nat) : Prop :=
  (e.desc.slot m.slot).job = false ∧ ∃ r ∈ emitRuns s e m, r.Has a

theorem touches_congr {e x : Entry} (hm : t.man = s.man) (h : SameCommand e x) (m : Emit) : Touches t x m = Touches s e m := by
  funext a
  rw [Touches, emitRuns_congr hm h, h.desc, Touches]

/-- In `t` the scratchpad holds the bytes of an output, where each of its slices begins on a byte. -/
def Written (s : State) (e : Entry) (m : Emit) (t : State) : Prop :=
  (e.desc.slot m.slot).job = false → (∀ r ∈ emitRuns s e m, r.low = 0) →
    ∀ r ∈ emitRuns s e m, ∀ i, i < r.bytes.length → spByte t (r.addr + i) = r.bytes.getD i 0

theorem written_congr {e x : Entry} (hm : t.man = s.man) (h : SameCommand e x) (m : Emit) (u : State) :
    Written t x m u = Written s e m u := by
  simp only [Written, emitRuns_congr hm h, h.desc]

/-- What has been written stays while its bytes are spared. -/
theorem Written.spared {e : Entry} {m : Emit} (h : Written s e m t) (k : Spared A t u) (hd : ∀ a, Touches s e m a → ¬A a) :
    Written s e m u := fun hj hl r hr i hi =>
  (k _ (hd _ ⟨hj, r, hr, Nat.le_add_right .., Nat.add_lt_add_left hi _⟩)).trans (h hj hl r hr i hi)

theorem storeEmit_spared {e : Entry} {m : Emit} (held : Option Nat) (h : ∀ a, Touches s e m a → A a) (x : Entry) (hx : x.desc = e.desc)
    (u : State) : Spared A u (storeEmit held m (emitStored s e m) (x, u)).2 := by
  unfold storeEmit
  dsimp only
  rw [hx]
  split
  · exact .refl A u
  · rename_i hj
    exact writeRuns_spared (fun r hr a ha => h a ⟨by simpa using hj, r, hr, ha⟩) u

/-- One output, as it is written: quietly, but for its own bytes. -/
theorem emitOne_eq (held : Option Nat) (delta : Nat) (m : Emit) (acc : Entry × State) :
    ∃ x u, (emitOne held delta m acc).2 = (storeEmit held m (emitStored acc.2 acc.1 m) (x, u)).2 ∧ SameCommand acc.1 x ∧ Quiet acc.2 u := by
  unfold emitOne emitStored
  dsimp only
  rw [List.map_map]
  exact ⟨_, _, rfl, by constructor <;> rfl, (tracePieces_quiet ..).after (digestPieces_quiet ..)⟩

theorem emitOne_spared (held : Option Nat) (delta : Nat) {m : Emit} {acc : Entry × State} (h : ∀ a, Touches acc.2 acc.1 m a → A a) :
    Spared A acc.2 (emitOne held delta m acc).2 := by
  obtain ⟨x, u, he, hx, hu⟩ := emitOne_eq held delta m acc
  rw [he]
  exact (storeEmit_spared held h x hx.desc u).after hu.spared

/-- The runs of an output share no byte, where each of its slices begins on a byte. -/
def RunsApart (s : State) (e : Entry) (m : Emit) : Prop := (∀ r ∈ emitRuns s e m, r.low = 0) → (emitRuns s e m).Pairwise Run.Apart

theorem runsApart_congr {e x : Entry} (hm : t.man = s.man) (h : SameCommand e x) (m : Emit) : RunsApart t x m = RunsApart s e m := by
  rw [RunsApart, emitRuns_congr hm h, RunsApart]

theorem emitOne_written (held : Option Nat) (delta : Nat) {m : Emit} {acc : Entry × State} (h : RunsApart acc.2 acc.1 m) :
    Written acc.2 acc.1 m (emitOne held delta m acc).2 := by
  intro hj hl r hr i hi
  obtain ⟨x, u, he, hx, -⟩ := emitOne_eq held delta m acc
  rw [he]
  unfold storeEmit
  dsimp only
  rw [hx.desc, if_neg (by rw [hj]; decide)]
  exact writeRuns_inside (h hl) hl u hr hi

theorem emitAll_cons (held : Option Nat) (delta : Nat) (m : Emit) (ms : List Emit) (e : Entry) (s : State) :
    emitAll held delta (m :: ms) e s =
      emitAll held 0 ms (emitOne held delta m (e, s)).1 (emitOne held delta m (e, s)).2 := rfl

/-- Outputs change the bytes that they write alone. -/
theorem emitAll_spared (held : Option Nat) (delta : Nat) {ms : List Emit} {e : Entry} {s : State}
    (h : ∀ m ∈ ms, ∀ a, Touches s e m a → A a) : Spared A s (emitAll held delta ms e s).2 := by
  induction ms generalizing delta e s with
  | nil => exact .refl A s
  | cons m ms ih =>
    rw [emitAll_cons]
    refine (emitOne_spared held delta (h m (List.mem_cons_self ..))).trans (ih 0 fun n hn a ha => h n (List.mem_cons_of_mem _ hn) a ?_)
    rwa [touches_congr (emitOne_near held delta m (e, s)).man (emitOne_same held delta m (e, s))] at ha

/-- Outputs that share no byte all stand in the scratchpad in the end. -/
theorem emitAll_written (held : Option Nat) (delta : Nat) {ms : List Emit} {e : Entry} {s : State} (hr : ∀ m ∈ ms, RunsApart s e m)
    (hd : ms.Pairwise (fun m n => ∀ a, Touches s e m a → ¬Touches s e n a)) : ∀ m ∈ ms, Written s e m (emitAll held delta ms e s).2 := by
  induction ms generalizing delta e s with
  | nil => exact fun _ h => nomatch h
  | cons m ms ih =>
    have hman := (emitOne_near held delta m (e, s)).man
    have hsame := emitOne_same held delta m (e, s)
    rw [List.pairwise_cons] at hd
    intro n hn
    rw [emitAll_cons]
    rcases List.mem_cons.1 hn with rfl | hn
    · refine (emitOne_written held delta (acc := (e, s)) (hr n (List.mem_cons_self ..))).spared
        (emitAll_spared (A := fun a => ∃ k ∈ ms, Touches s e k a) held 0 fun k hk a ha => ⟨k, hk, ?_⟩) ?_
      · rwa [touches_congr hman hsame] at ha
      · rintro a ha ⟨k, hk, h⟩
        exact hd.1 k hk a ha h
    · have := ih (e := (emitOne held delta m (e, s)).1) (s := (emitOne held delta m (e, s)).2) 0
        (fun k hk => by rw [runsApart_congr hman hsame]; exact hr k (List.mem_cons_of_mem _ hk))
        (by simp only [touches_congr hman hsame]; exact hd.2) n hn
      rwa [written_congr hman hsame] at this

/-- The state after a tile is the one in which its outputs have been written. -/
theorem closeTile_state (delta rb c : Nat) (x : Coord) (ms : List Emit) (n : Notes) (sent : List (Coord × PVal)) (e : Entry) (s : State) :
    ∃ held, (closeTile delta rb c x ms n sent e s).2 = (emitAll held delta ms (addNotes n e) s).2 := by
  unfold closeTile
  dsimp only
  split
  · exact ⟨_, rfl⟩
  · exact ⟨_, rfl⟩

theorem addNotes_same (n : Notes) (e : Entry) : SameCommand e (addNotes n e) := by constructor <;> rfl

theorem withFlags_same (fl : Flags) (e : Entry) : SameCommand e (withFlags fl e) := by constructor <;> rfl

theorem closeTile_spared {delta rb c : Nat} {x : Coord} {ms : List Emit} {n : Notes} {sent : List (Coord × PVal)} {e : Entry} {s : State}
    (h : ∀ m ∈ ms, ∀ a, Touches s e m a → A a) : Spared A s (closeTile delta rb c x ms n sent e s).2 := by
  obtain ⟨held, he⟩ := closeTile_state delta rb c x ms n sent e s
  rw [he]
  refine emitAll_spared held delta fun m hm a ha => h m hm a ?_
  rwa [touches_congr rfl (addNotes_same n e)] at ha

theorem closeTile_written {delta rb c : Nat} {x : Coord} {ms : List Emit} {n : Notes} {sent : List (Coord × PVal)} {e : Entry} {s : State}
    (hr : ∀ m ∈ ms, RunsApart s e m) (hd : ms.Pairwise (fun m n => ∀ a, Touches s e m a → ¬Touches s e n a)) :
    ∀ m ∈ ms, Written s e m (closeTile delta rb c x ms n sent e s).2 := by
  obtain ⟨held, he⟩ := closeTile_state delta rb c x ms n sent e s
  have hs := addNotes_same n e
  intro m hm
  rw [he, ← written_congr rfl hs]
  refine emitAll_written held delta (fun k hk => by rw [runsApart_congr rfl hs]; exact hr k hk) ?_ m hm
  simp only [touches_congr rfl hs]
  exact hd

theorem emitLate_spared {rb delta : Nat} {ms : List Emit} {fl : Flags} {e : Entry} {s : State} (h : ∀ m ∈ ms, ∀ a, Touches s e m a → A a) :
    Spared A s (emitLate rb delta ms fl e s).2 := by
  unfold emitLate
  dsimp only
  split
  · exact .refl A s
  · refine closeTile_spared fun m hm a ha => h m hm a ?_
    exact (touches_congr (s := s) (t := s) rfl (withFlags_same fl e) m) ▸ ha

end Sys2Proof.Machine
end

section
/-! SUPPORT. The bytes of a command's outputs and what lies in them: rows of tiles, and the spans of a command that has passed its checks, which
are apart (R111, R129, R262, R263). -/

namespace Sys2Proof.Machine

variable {s t u : State} {O P : Nat → Prop} {full : Bool}

/-! ## The bytes of outputs -/

/-- The addresses of those outputs of a command in the scratchpad that `O` names: from BASE on, or with `full` over the span of R263. -/
def Desc.area (d : Desc) (full : Bool) (O : Nat → Prop) (a : Nat) : Prop :=
  ∃ i < 2, O i ∧ d.writesOut i = true ∧ (d.slot (4 + i)).job = false ∧ (d.slot (4 + i)).base ≤ a ∧
    (full = true → 0 < (outShape d i).size ∧
      a < (d.slot (4 + i)).base + spanBytes (d.slot (4 + i)) (lastOffset (d.slot (4 + i)) (outShape d i) 1))

/-- Every output. -/
def anyOut : Nat → Prop := fun _ => True

theorem Desc.area_mono {d : Desc} (h : ∀ i, O i → P i) {a : Nat} (k : d.area full O a) : d.area full P a := by
  obtain ⟨i, hi, ho, k⟩ := k
  exact ⟨i, hi, h i ho, k⟩

theorem Desc.area_any {d : Desc} {a : Nat} (k : d.area full O a) : d.area full anyOut a := Desc.area_mono (fun _ _ => trivial) k

/-- Outside the outputs lies no address of them. -/
theorem not_area_of_outside {d : Desc} {a : Nat} (h : OutsideOutputs d a) : ¬d.area true O a := by
  rintro ⟨i, hi, -, hw, hj, hb, hs⟩
  have := (hs rfl).2
  rcases h i hi hw hj with h | h <;> omega

/-- What a command writes lies in an output that `O` names; with `full`, in that output's shape. -/
def Lands (d : Desc) (full : Bool) (O : Nat → Prop) (m : Emit) : Prop :=
  ∃ i < 2, O i ∧ m.slot = 4 + i ∧ d.writesOut i = true ∧
    (full = true → m.shape = outShape d i ∧ ∀ sl ∈ m.slices, SliceFits (outShape d i) (d.slot (4 + i)) sl)

theorem Lands.mono {d : Desc} {m : Emit} (h : ∀ i, O i → P i) (k : Lands d full O m) : Lands d full P m := by
  obtain ⟨i, hi, ho, k⟩ := k
  exact ⟨i, hi, h i ho, k⟩

theorem SliceFits.size {h : Shape} {x : Slot} {sl : OutSlice} (f : SliceFits h x sl) : 0 < h.size := by
  have h0 : 0 < h.n0 := by have := f.some; have := f.i0; omega
  have h1 : 0 < h.n1 := by have := f.i1; omega
  have h2 : 0 < h.n2 := by have := f.i2; omega
  have h3 : 0 < h.n3 := by have := f.i3; omega
  exact Nat.mul_pos (Nat.mul_pos (Nat.mul_pos h0 h1) h2) h3

/-- The runs of an output are those of its slices. -/
theorem mem_emitRuns {e : Entry} {m : Emit} {r : Run} (h : r ∈ emitRuns s e m) :
    ∃ sl ∈ m.slices, r ∈ runsOf (e.desc.slot m.slot) m.shape (convertSlice s e (e.desc.slot m.slot) m.shape sl).1 := by
  simp only [emitRuns, emitStored, List.mem_flatMap, List.mem_map] at h
  obtain ⟨_, ⟨sl, hs, rfl⟩, hr⟩ := h
  exact ⟨sl, hs, hr⟩

/-- An output that lands in the named outputs touches their bytes alone. -/
theorem Lands.touches {e : Entry} {m : Emit} (h : Lands e.desc full O m) {a : Nat} (k : Touches s e m a) : e.desc.area full O a := by
  obtain ⟨i, hi, ho, hs, hw, hf⟩ := h
  obtain ⟨hj, r, hr, ha⟩ := k
  obtain ⟨sl, hsl, hr⟩ := mem_emitRuns hr
  rw [hs] at hj hr
  refine ⟨i, hi, ho, hw, hj, (base_le_of_mem_runsOf hr).trans ha.1, fun hfull => ?_⟩
  obtain ⟨hm, hfit⟩ := hf hfull
  rw [hm] at hr
  exact ⟨(hfit sl hsl).size, ha.2.trans_le (runsOf_inside (hfit sl hsl) s e hr)⟩

/-! ## Descriptors that have passed their checks -/

/-- The outputs that a command writes are there, their rows do not overlap, and neither do they (R129, R262). -/
structure Desc.Tidy (d : Desc) : Prop where
  present : ∀ i < 2, d.writesOut i = true → (d.slot (4 + i)).present = true
  spread : ∀ i < 2, d.writesOut i = true → (outShape d i).n0 ≤ (d.slot (4 + i)).stride1 ∧
    (codeIsMx (d.slot (4 + i)).fmt = true → (d.slot (4 + i)).stride1 % 32 = 0)
  apart : overlaps (outRange d 0) (outRange d 1) = false

/-- The bytes of different outputs are apart. -/
theorem Desc.Tidy.area_apart {d : Desc} (h : d.Tidy) (hop : ∀ i, O i → P i → False) {a : Nat} (k : d.area true O a) : ¬d.area true P a := by
  obtain ⟨i, hi, ho, hw, hj, hb, hs⟩ := k
  rintro ⟨j, hj2, hp, hwj, hjj, hbj, hsj⟩
  obtain ⟨hsi, hai⟩ := hs rfl
  obtain ⟨hsj, haj⟩ := hsj rfl
  have hne : i ≠ j := fun e => hop i ho (e ▸ hp)
  have span : ∀ k < 2, d.writesOut k = true → 0 < (outShape d k).size →
      outSpan d k = ((d.slot (4 + k)).base, spanBytes (d.slot (4 + k)) (lastOffset (d.slot (4 + k)) (outShape d k) 1)) := by
    intro k hk hwk hsk
    unfold outSpan
    simp [h.present k hk hwk, hwk, hsk]
  have hov := h.apart
  unfold overlaps outRange at hov
  have h01 : (i = 0 ∧ j = 1) ∨ (i = 1 ∧ j = 0) := by omega
  rcases h01 with ⟨rfl, rfl⟩ | ⟨rfl, rfl⟩
  · rw [span 0 hi hw hsi, span 1 hj2 hwj hsj] at hov
    simp only [hj, hjj, beq_self_eq_true, Bool.true_and, Bool.and_eq_false_iff, decide_eq_false_iff_not] at hov
    omega
  · rw [span 1 hi hw hsi, span 0 hj2 hwj hsj] at hov
    simp only [hj, hjj, beq_self_eq_true, Bool.true_and, Bool.and_eq_false_iff, decide_eq_false_iff_not] at hov
    omega

/-- The runs of an output of rows share no byte. -/
theorem Lands.runsApart {e : Entry} {m : Emit} (h : Lands e.desc true O m) (ht : e.desc.Tidy) (hl : m.slices.Pairwise LaterRow) (s : State) :
    RunsApart s e m := by
  intro hlow
  obtain ⟨i, hi, -, hs, hw, hf⟩ := h
  obtain ⟨hm, hfit⟩ := hf rfl
  obtain ⟨hn, hx⟩ := ht.spread i hi hw
  have hlow' : ∀ sl ∈ m.slices, ∀ r ∈ runsOf (e.desc.slot (4 + i)) (outShape e.desc i)
      (convertSlice s e (e.desc.slot (4 + i)) (outShape e.desc i) sl).1, r.low = 0 := by
    intro sl hsl r hr
    refine hlow r ?_
    simp only [emitRuns, emitStored, List.mem_flatMap, List.mem_map]
    exact ⟨_, ⟨sl, hsl, rfl⟩, by rw [hs, hm]; exact hr⟩
  unfold emitRuns emitStored
  rw [hs, hm, List.pairwise_flatMap, List.pairwise_map]
  refine ⟨fun c hc => ?_, List.Pairwise.imp_of_mem (fun {a b} ha hb hab r hr q hq => ?_) hl⟩
  · obtain ⟨sl, hsl, rfl⟩ := List.mem_map.1 hc
    exact runsOf_apart (hfit sl hsl) s e
  · exact runsOf_apart_rows (hfit a ha) (hfit b hb) hab hn hx s e (hlow' a ha) (hlow' b hb) hr hq

/-! ## Tiles -/

/-- A tile of a shape. -/
structure Tile.In (h : Shape) (t : Tile) : Prop where
  rb : t.rb < h.rowBlocks
  ct : t.ct < h.colTiles
  i0 : t.c.i0 = 64 * t.ct
  number : t.t = t.rb * h.colTiles + t.ct

theorem mem_tileList {h : Shape} {span : Option Nat} {t : Tile} (k : t ∈ h.tileList span) : t.In h := by
  simp only [Shape.tileList, List.mem_flatMap, List.mem_map, List.mem_range] at k
  obtain ⟨rb, hr, ct, hc, rfl⟩ := k
  exact ⟨hr, hc, rfl, rfl⟩

/-- A row of a row block lies in the shape, in the block's plane. -/
structure BlockRow (h : Shape) (rb : Nat) (c : Coord) : Prop where
  i0 : c.i0 = 0
  i1 : c.i1 < h.n1
  i2 : c.i2 < h.n2
  i3 : c.i3 < h.n3

theorem blockRow_lt {h : Shape} {rb : Nat} (k : rb < h.rowBlocks) : (h.blockRow rb).i2 < h.n2 ∧ (h.blockRow rb).i3 < h.n3 := by
  unfold Shape.rowBlocks at k
  unfold Shape.blockRow
  dsimp only
  have hq : 0 < ceilDiv h.n1 16 := by
    rcases Nat.eq_zero_or_pos (ceilDiv h.n1 16) with h0 | h0
    · rw [h0] at k; simp at k
    · exact h0
  have h2 : 0 < h.n2 := by
    rcases Nat.eq_zero_or_pos h.n2 with h0 | h0
    · rw [h0] at k; simp at k
    · exact h0
  refine ⟨Nat.mod_lt _ h2, ?_⟩
  rw [Nat.div_div_eq_div_mul]
  exact Nat.div_lt_of_lt_mul (by rwa [Nat.mul_assoc] at k ⊢)

theorem mem_blockRows {h : Shape} {rb : Nat} {c : Coord} (k : rb < h.rowBlocks) (hc : c ∈ h.blockRows rb) : BlockRow h rb c := by
  have hb := blockRow_lt k
  simp only [Shape.blockRows, List.mem_map, List.mem_range] at hc
  obtain ⟨j, hj, rfl⟩ := hc
  exact ⟨rfl, by dsimp only; omega, hb.1, hb.2⟩

/-- The slices at the rows of a tile, each as wide as the tile. -/
structure TileSlices (h : Shape) (t : Tile) (xs : List OutSlice) : Prop where
  rows : xs.map (·.c) = t.rows h
  width : ∀ x ∈ xs, x.els.length = min 64 (h.n0 - t.c.i0)

theorem TileSlices.fits {h : Shape} {t : Tile} {xs : List OutSlice} (k : TileSlices h t xs) (ht : t.In h) (x : Slot) :
    ∀ sl ∈ xs, SliceFits h x sl := by
  intro sl hsl
  have hc : sl.c ∈ t.rows h := k.rows ▸ List.mem_map_of_mem hsl
  obtain ⟨c, hc, he⟩ := List.mem_map.1 hc
  have hb := mem_blockRows ht.rb hc
  have hw := k.width sl hsl
  have hi := ht.i0
  have hct := ht.ct
  unfold Shape.colTiles ceilDiv at hct
  have h0 : sl.c.i0 = t.c.i0 := by rw [← he]
  have h1 : sl.c.i1 = c.i1 := by rw [← he]
  have h2 : sl.c.i2 = c.i2 := by rw [← he]
  have h3 : sl.c.i3 = c.i3 := by rw [← he]
  exact ⟨by omega, by omega, h1 ▸ hb.i1, h2 ▸ hb.i2, h3 ▸ hb.i3, fun _ => by omega⟩

/-- The rows of a tile follow one another. -/
theorem tileRows_rising (h : Shape) (t : Tile) :
    (t.rows h).Pairwise (fun a b => b.i0 = a.i0 ∧ a.i1 < b.i1 ∧ b.i2 = a.i2 ∧ b.i3 = a.i3) := by
  unfold Tile.rows Shape.blockRows
  dsimp only
  rw [List.pairwise_map, List.pairwise_map]
  exact List.pairwise_lt_range.imp fun hlt => ⟨rfl, by dsimp only; omega, rfl, rfl⟩

theorem TileSlices.later {h : Shape} {t : Tile} {xs : List OutSlice} (k : TileSlices h t xs) : xs.Pairwise LaterRow := by
  have hp := tileRows_rising h t
  rw [← k.rows, List.pairwise_map] at hp
  exact hp.imp fun ⟨h0, h1, h2, h3⟩ => ⟨h0, h1, h2, h3⟩

/-- Slices formed row by row. -/
theorem tileSlices_map {h : Shape} {t : Tile} {f : Coord → OutSlice} (hc : ∀ c, (f c).c = c)
    (hw : ∀ c, c.i0 = t.c.i0 → (f c).els.length = min 64 (h.n0 - t.c.i0)) : TileSlices h t ((t.rows h).map f) := by
  constructor
  · rw [List.map_map]
    exact (List.map_congr_left fun c _ => hc c).trans (List.map_id _)
  · intro x hx
    obtain ⟨c, hc', rfl⟩ := List.mem_map.1 hx
    refine hw c ?_
    obtain ⟨b, -, rfl⟩ := List.mem_map.1 hc'
    rfl

theorem length_sliceCoords (h : Shape) (row : Coord) : (sliceCoords h row).length = min 64 (h.n0 - row.i0) := by
  simp [sliceCoords]

end Sys2Proof.Machine
end

section
/-! SUPPORT. What a descriptor that has passed its checks says of its outputs (Tables 5-6, 9-2 and 10-9, R129, R262, R278). -/

namespace Sys2Proof.Machine

variable {s t u : State} {O P : Nat → Prop} {full : Bool} {e : Entry} {d : Desc}

/-! ## The checks by class -/

/-- A descriptor of one of the classes 1 to 3 without a reason to refuse it. -/
structure Passed (e : Entry) (d : Desc) (vlen : Nat) : Prop where
  cls : d.cls = 1 ∨ d.cls = 2 ∨ d.cls = 3
  chain : d.cls = 1 → chainBad d = false
  fused : d.cls = 2 → fusedBad e d vlen = false
  mac : d.cls = 3 → macBad d vlen = false
  slots : slotBad d = false
  overlap : overlapBad d = false

theorem passed_of_fixedReasons {vlen : Nat} (h : fixedReasons e d vlen = []) (h4 : d.cls ≠ 4) : Passed e d vlen := by
  unfold fixedReasons at h
  rw [if_neg h4] at h
  split at h
  · exact nomatch h
  · rename_i hc
    simp only [List.append_eq_nil_iff] at h
    obtain ⟨⟨⟨⟨⟨⟨⟨h1, h2⟩, h3⟩, -⟩, h5⟩, h6⟩, -⟩, -⟩ := h
    have off : ∀ {c : Prop} [Decidable c] {n : Nat}, (if c then [n] else []) = [] → ¬c := by
      intro c _ n hh hc
      simp [hc] at hh
    refine ⟨by omega, fun hx => ?_, fun hx => ?_, fun hx => ?_, ?_, ?_⟩
    · simpa [hx] using off h1
    · simpa [hx] using off h2
    · simpa [hx] using off h3
    · simpa using off h5
    · simpa using off h6

/-- A forerunner's descriptor is of class 1 (R139). -/
theorem desc_fore (h : e.desc.fore = true) : e.desc.cls = 1 := by
  unfold Entry.desc at h ⊢
  dsimp only at h ⊢
  split
  · rfl
  · rename_i hf
    rw [if_neg hf] at h
    exact nomatch h

theorem kind_fused (hf : d.fore = false) (hc : d.cls = 2) :
    d.kind = .normFwd ∧ bitsOf d.param 3 0 ∉ [2, 3, 4, 5, 6] ∨ d.kind = .rmsFwd ∧ bitsOf d.param 3 0 = 2 ∨
      d.kind = .normBwd ∧ bitsOf d.param 3 0 = 3 ∨ d.kind = .rmsBwd ∧ bitsOf d.param 3 0 = 4 ∨
      d.kind = .smaxFwd ∧ bitsOf d.param 3 0 = 5 ∨ d.kind = .smaxBwd ∧ bitsOf d.param 3 0 = 6 := by
  simp only [Desc.kind, hf, hc, Bool.false_eq_true, ↓reduceIte]
  split <;> simp_all

theorem kind_mac (hf : d.fore = false) (hc : d.cls = 3) :
    d.kind = .matmul ∧ bitsOf d.param 3 0 ∉ [2, 3, 4] ∨ d.kind = .load ∧ bitsOf d.param 3 0 = 2 ∨
      d.kind = .store ∧ bitsOf d.param 3 0 = 3 ∨ d.kind = .attn ∧ bitsOf d.param 3 0 = 4 := by
  simp only [Desc.kind, hf, hc, Bool.false_eq_true, ↓reduceIte]
  split <;> simp_all

theorem kind_marker (hf : d.fore = false) (hc : d.cls = 4) : d.kind = .marker := by
  simp [Desc.kind, hf, hc]

theorem kind_chain (hf : d.fore = false) (h2 : d.cls ≠ 2) (h3 : d.cls ≠ 3) (h4 : d.cls ≠ 4) : d.kind = .chain := by
  simp only [Desc.kind, hf, Bool.false_eq_true, ↓reduceIte]

theorem kind_fore (hf : d.fore = true) : d.kind = .fore := by
  simp [Desc.kind, hf]

/-- The class behind a kind. -/
theorem cls_of_kind (d : Desc) : match d.kind with
    | .fore => d.fore = true
    | .chain => d.cls ≠ 2 ∧ d.cls ≠ 3 ∧ d.cls ≠ 4
    | .matmul | .load | .store | .attn => d.cls = 3
    | .marker => d.cls = 4
    | _ => d.cls = 2 := by
  by_cases hf : d.fore = true
  · rw [kind_fore hf]
    exact hf
  · have hf : d.fore = false := by simpa using hf
    by_cases h2 : d.cls = 2
    · rcases kind_fused hf h2 with h | h | h | h | h | h <;> rw [h.1] <;> exact h2
    · by_cases h3 : d.cls = 3
      · rcases kind_mac hf h3 with h | h | h | h <;> rw [h.1] <;> exact h3
      · by_cases h4 : d.cls = 4
        · rw [kind_marker hf h4]
          exact h4
        · rw [kind_chain hf h2 h3 h4]
          exact ⟨h2, h3, h4⟩

theorem Checked.passed_kind (h : Checked e) (hk : e.desc.kind ≠ .marker) : Passed e e.desc e.vlen := by
  refine passed_of_fixedReasons h.passed fun h4 => hk ?_
  by_cases hf : e.desc.fore = true
  · rw [desc_fore hf] at h4
    exact absurd h4 (by decide)
  · unfold Desc.kind
    simp [hf, h4]

theorem Checked.chain (h : Checked e) (hk : e.desc.kind = .chain ∨ e.desc.kind = .fore) : chainBad e.desc = false := by
  have hp := h.passed_kind (by rcases hk with hk | hk <;> rw [hk] <;> decide)
  have hc := cls_of_kind e.desc
  refine hp.chain ?_
  rcases hk with hk | hk <;> rw [hk] at hc
  · have := hp.cls
    omega
  · exact desc_fore hc

theorem Checked.fused (h : Checked e) (hk : e.desc.cls = 2) : fusedBad e e.desc e.vlen = false := by
  refine (passed_of_fixedReasons h.passed ?_).fused hk
  omega

theorem Checked.mac (h : Checked e) (hk : e.desc.cls = 3) : macBad e.desc e.vlen = false := by
  refine (passed_of_fixedReasons h.passed ?_).mac hk
  omega

/-! ## The outputs of a chain (Table 5-6) -/

theorem add_le_sum {f : Nat → Nat} {ws : List Nat} {v w : Nat} (hv : v ∈ ws) (hw : w ∈ ws) (hne : v ≠ w) :
    f v + f w ≤ (ws.map f).sum := by
  have one : ∀ {xs : List Nat} {x : Nat}, x ∈ xs → f x ≤ (xs.map f).sum := fun {xs x} hx =>
    List.single_le_sum (fun _ _ => Nat.zero_le _) _ (List.mem_map_of_mem hx)
  induction ws with
  | nil => exact nomatch hv
  | cons x xs ih =>
    rw [List.map_cons, List.sum_cons]
    rcases List.mem_cons.1 hv with hvx | hvx <;> rcases List.mem_cons.1 hw with hwx | hwx
    · exact absurd (hvx.trans hwx.symm) hne
    · exact Nat.add_le_add (hvx ▸ le_refl (f v)) (one hwx)
    · rw [Nat.add_comm]
      exact Nat.add_le_add (hwx ▸ le_refl (f w)) (one hvx)
    · exact (ih hvx hwx).trans (Nat.le_add_left ..)

theorem chain_outputs (h : chainBad d = false) : outputsBad d d.chainStages = false ∧ compressBad d d.chainStages = false := by
  unfold chainBad at h
  simp only [Bool.or_eq_false_iff] at h
  obtain ⟨⟨⟨⟨-, h1⟩, h2⟩, -⟩, -⟩ := h
  exact ⟨h2, h1⟩

/-- Each output has one stage that writes it. -/
theorem chain_writer_unique (h : chainBad d = false) {i v w : Nat} (hi : i < 2) (hv : v ∈ d.chainStages) (hw : w ∈ d.chainStages)
    (hiv : i ∈ writersOf v) (hiw : i ∈ writersOf w) : v = w := by
  by_contra hne
  have hb := (chain_outputs h).1
  unfold outputsBad at hb
  simp only [Bool.or_eq_false_iff, decide_eq_false_iff_not] at hb
  obtain ⟨⟨⟨⟨-, h0⟩, h1⟩, -⟩, -⟩ := hb
  have hsum := add_le_sum (f := List.count i ∘ writersOf) hv hw hne
  rw [← List.count_flatMap] at hsum
  have c1 : 0 < List.count i (writersOf v) := List.count_pos_iff.2 hiv
  have c2 : 0 < List.count i (writersOf w) := List.count_pos_iff.2 hiw
  simp only [Function.comp_apply] at hsum
  have : i = 0 ∨ i = 1 := by omega
  rcases this with rfl | rfl <;> omega

theorem chain_writer_present (h : chainBad d = false) {i w : Nat} (hi : i < 2) (hw : w ∈ d.chainStages) (hiw : i ∈ writersOf w) :
    (d.slot (4 + i)).present = true := by
  have hb := (chain_outputs h).1
  unfold outputsBad at hb
  simp only [Bool.or_eq_false_iff, Bool.and_eq_false_iff] at hb
  obtain ⟨⟨-, h0⟩, h1⟩ := hb
  have hm : i ∈ d.chainStages.flatMap writersOf := List.mem_flatMap.2 ⟨w, hw, hiw⟩
  have : i = 0 ∨ i = 1 := by omega
  rcases this with rfl | rfl
  · simpa [hm, Desc.slot] using h0
  · simpa [hm, Desc.slot] using h1

theorem mem_writersOf_store {w : Nat} (h : stageKind w = 11) : bit (w.testBit 11) ∈ writersOf w := by
  simp [writersOf, h]

theorem bit_lt (b : Bool) : bit b < 2 := by cases b <;> decide

theorem sinkOut_lt (w : Nat) : sinkOut w < 2 := bit_lt _

theorem writersOf_sink {w : Nat} (h : stageKind w = 7) :
    writersOf w = if bitsOf w 11 8 = 2 ∨ bitsOf w 11 8 = 3 then [0, 1] else [bit (w.testBit 1)] := by
  simp only [writersOf, h]

theorem mem_writersOf_sink {w : Nat} (h : stageKind w = 7) : sinkOut w ∈ writersOf w := by
  have := sinkOut_lt w
  rw [writersOf_sink h]
  split
  · have : sinkOut w = 0 ∨ sinkOut w = 1 := by omega
    rcases this with h | h <;> simp [h]
  · exact List.mem_singleton.2 rfl

theorem mem_writersOf_index {w : Nat} (h : stageKind w = 7) (ho : bitsOf w 11 8 = 2 ∨ bitsOf w 11 8 = 3) {i : Nat} (hi : i < 2) :
    i ∈ writersOf w := by
  rw [writersOf_sink h, if_pos ho]
  have : i = 0 ∨ i = 1 := by omega
  rcases this with h | h <;> simp [h]

/-- The stage whose results an output takes. -/
theorem reduceTo_some {i w : Nat} {c : Bool} (hi : i < 2) (h : d.reduceTo i c = some w) :
    w ∈ d.chainStages ∧ stageKind w = 7 ∧ i ∈ writersOf w ∧ (if c then sinkOut w + i = 1 else sinkOut w = i) := by
  unfold Desc.reduceTo at h
  have hm := List.mem_of_find?_eq_some h
  have hp := List.find?_some h
  simp only [Bool.and_eq_true, beq_iff_eq] at hp
  obtain ⟨hk, hp⟩ := hp
  refine ⟨hm, hk, ?_, ?_⟩
  · cases c with
    | true =>
      simp only [↓reduceIte, Bool.and_eq_true, Bool.or_eq_true, beq_iff_eq] at hp
      exact mem_writersOf_index hk hp.1 hi
    | false =>
      simp only [Bool.false_eq_true, ↓reduceIte, beq_iff_eq] at hp
      exact hp ▸ mem_writersOf_sink hk
  · cases c with
    | true =>
      simp only [↓reduceIte, Bool.and_eq_true, Bool.or_eq_true, beq_iff_eq] at hp
      exact hp.2
    | false => simpa [sinkOut] using hp

theorem reduceTo_isSome {i w : Nat} (hw : w ∈ d.chainStages) (hk : stageKind w = 7) (h : sinkOut w = i) :
    (d.reduceTo i false).isSome = true := by
  unfold Desc.reduceTo
  rw [List.find?_isSome]
  exact ⟨w, hw, by simpa [hk, sinkOut] using h⟩

theorem reduceTo_index {i w : Nat} (hw : w ∈ d.chainStages) (hk : stageKind w = 7) (ho : bitsOf w 11 8 = 2 ∨ bitsOf w 11 8 = 3)
    (h : sinkOut w + i = 1) : (d.reduceTo i true).isSome = true := by
  unfold Desc.reduceTo
  rw [List.find?_isSome]
  refine ⟨w, hw, ?_⟩
  simp only [hk, beq_self_eq_true, ↓reduceIte, Bool.true_and, Bool.and_eq_true, Bool.or_eq_true, beq_iff_eq]
  exact ⟨ho, h⟩

/-- A chain that writes its counts to OUT1 writes nothing else there. -/
theorem chain_counts (h : chainBad d = false) (hc : d.countsOut = true) :
    d.out1.present = true ∧ codeIsMx d.out1.fmt = false ∧ ∀ w ∈ d.chainStages, 1 ∉ writersOf w := by
  have hb := (chain_outputs h).2
  unfold Desc.countsOut at hc
  simp only [Bool.and_eq_true, Bool.not_eq_true', List.any_eq_true, List.any_eq_false, beq_iff_eq] at hc
  obtain ⟨⟨w9, hw9, hk9⟩, hx⟩ := hc
  unfold compressBad at hb
  dsimp only at hb
  have hcomp : 0 < (d.chainStages.filter (fun w => stageKind w == 9)).length :=
    List.length_pos_of_mem (List.mem_filter.2 ⟨hw9, by simp [hk9]⟩)
  have hexp : (d.chainStages.filter (fun w => stageKind w == 10)).length = 0 := by
    rw [List.length_eq_zero_iff, List.filter_eq_nil_iff]
    exact fun w hw => by simpa using hx w hw
  simp only [hcomp, hexp, decide_true, beq_self_eq_true, Bool.true_and, Bool.or_eq_false_iff, Bool.not_eq_false'] at hb
  obtain ⟨-, ⟨hp, hf⟩, hw⟩ := hb
  refine ⟨hp, ?_, fun w hws hm => ?_⟩
  · unfold Slot.fmtOther at hf
    simp only [Bool.and_eq_false_iff, bne_eq_false_iff_eq, Bool.not_eq_false'] at hf
    rcases hf with hf | hf
    · rw [hf]; rfl
    · have : d.out1.fmt = 14 := by simpa using hf
      rw [this]; rfl
  · have := List.any_eq_false.1 hw w hws
    simp only [Bool.or_eq_true, Bool.and_eq_true, beq_iff_eq, not_or, not_and] at this
    unfold writersOf at hm
    split at hm
    · rename_i hk
      have h2 := this.1 hk
      simp [bit, h2] at hm
    · rename_i hk
      have h2 := this.2 hk
      simp [h2, bit] at hm
    · exact nomatch hm

/-! ## Shapes of a chain's outputs (Table 11-4) -/

/-- The outputs that a chain's tiles write as they pass, and those that take results. -/
def Desc.tileOut (d : Desc) (i : Nat) : Prop :=
  (∃ w ∈ d.chainStages, stageKind w = 11 ∧ bit (w.testBit 11) = i) ∨ (i = 1 ∧ d.countsOut = true)
def Desc.resultOut (d : Desc) (i : Nat) : Prop := ∃ w ∈ d.chainStages, stageKind w = 7 ∧ i ∈ writersOf w

/-- No output takes both. -/
theorem tileOut_resultOut (h : chainBad d = false) {i : Nat} (hi : i < 2) (k : d.tileOut i) : ¬d.resultOut i := by
  rintro ⟨w, hw, hk, hm⟩
  rcases k with ⟨v, hv, hkv, rfl⟩ | ⟨rfl, hc⟩
  · have := chain_writer_unique h hi hv hw (mem_writersOf_store hkv) hm
    rw [this, hk] at hkv
    exact absurd hkv (by decide)
  · exact (chain_counts h hc).2.2 w hw hm

theorem reduceTo_none (h : chainBad d = false) {i : Nat} (hi : i < 2) (k : d.tileOut i) (c : Bool) : d.reduceTo i c = none := by
  by_contra hn
  obtain ⟨w, hw⟩ := Option.ne_none_iff_exists'.1 hn
  obtain ⟨h1, h2, h3, -⟩ := reduceTo_some hi hw
  exact tileOut_resultOut h hi k ⟨w, h1, h2, h3⟩

theorem outShape_chain (hk : d.kind = .chain ∨ d.kind = .fore) (i : Nat) : outShape d i = chainOutShape d i := by
  unfold outShape
  rcases hk with hk | hk <;> rw [hk]

/-- An output of stores has the chain's own shape. -/
theorem chainOutShape_store (h : chainBad d = false) {w : Nat} (hw : w ∈ d.chainStages) (hk : stageKind w = 11) :
    chainOutShape d (bit (w.testBit 11)) = d.shape := by
  have hi := bit_lt (w.testBit 11)
  have hn := reduceTo_none h hi (.inl ⟨w, hw, hk, rfl⟩)
  unfold chainOutShape
  dsimp only
  rw [hn, hn]
  dsimp only
  rw [if_neg]
  rintro ⟨h1, hc⟩
  exact (chain_counts h hc).2.2 w hw (h1 ▸ mem_writersOf_store hk)

theorem chainOutShape_counts (h : chainBad d = false) (hc : d.countsOut = true) : chainOutShape d 1 = ⟨d.shape.tiles, 1, 1, 1⟩ := by
  have hn := reduceTo_none h (i := 1) (by decide) (.inr ⟨rfl, hc⟩)
  unfold chainOutShape
  dsimp only
  rw [hn, hn]
  simp [hc]

/-- An output of results has one element for a row, or for the command, or the words of a raw record. -/
theorem chainOutShape_sink (h : chainBad d = false) {w : Nat} (hw : w ∈ d.chainStages) (hk : stageKind w = 7) :
    chainOutShape d (sinkOut w) = if w.testBit 3 then ⟨reduceW w (d.slot (4 + sinkOut w)).fmt, 1, 1, 1⟩
      else ⟨reduceW w (d.slot (4 + sinkOut w)).fmt, d.n1, d.n2, d.n3⟩ := by
  obtain ⟨v, hv⟩ := Option.isSome_iff_exists.1 (reduceTo_isSome hw hk rfl)
  obtain ⟨h1, h2, h3, -⟩ := reduceTo_some (sinkOut_lt w) hv
  have := chain_writer_unique h (sinkOut_lt w) h1 hw h3 (mem_writersOf_sink hk)
  subst this
  unfold chainOutShape
  dsimp only
  rw [hv]

/-- The output of the indices. -/
theorem chainOutShape_index (h : chainBad d = false) (hg : d.grouped = false) {w : Nat} (hw : w ∈ d.chainStages) (hk : stageKind w = 7)
    (ho : bitsOf w 11 8 = 2 ∨ bitsOf w 11 8 = 3) :
    chainOutShape d (1 - sinkOut w) = if w.testBit 3 then ⟨1, 1, 1, 1⟩ else ⟨1, d.n1, d.n2, d.n3⟩ := by
  have hs := sinkOut_lt w
  have hi : 1 - sinkOut w < 2 := by omega
  have hn : d.reduceTo (1 - sinkOut w) false = none := by
    by_contra hn
    obtain ⟨v, hv⟩ := Option.ne_none_iff_exists'.1 hn
    obtain ⟨h1, h2, h3, h4⟩ := reduceTo_some hi hv
    have := chain_writer_unique h hi h1 hw h3 (mem_writersOf_index hk ho hi)
    subst this
    simp only [Bool.false_eq_true, ↓reduceIte] at h4
    omega
  obtain ⟨v, hv⟩ := Option.isSome_iff_exists.1 (reduceTo_index hw hk ho (i := 1 - sinkOut w) (by omega))
  obtain ⟨h1, h2, h3, -⟩ := reduceTo_some hi hv
  have := chain_writer_unique h hi h1 hw h3 (mem_writersOf_index hk ho hi)
  subst this
  unfold chainOutShape
  dsimp only
  rw [hn, hv]
  simp [hg]

/-- A chain writes the outputs that its stages name. -/
theorem writesOut_chain (hk : d.kind = .chain ∨ d.kind = .fore) {i : Nat} (hi : i < 2) :
    d.writesOut i = true ↔ d.tileOut i ∨ d.resultOut i := by
  have hw : d.writesOut i = (d.chainStages.any (fun w => stageKind w == 11 && bit (w.testBit 11) == i) || (d.reduceTo i false).isSome ||
      (d.reduceTo i true).isSome || (i == 1 && d.countsOut)) := by
    unfold Desc.writesOut
    rcases hk with hk | hk <;> rw [hk]
  rw [hw]
  simp only [Bool.or_eq_true, List.any_eq_true, Bool.and_eq_true, beq_iff_eq]
  constructor
  · rintro (((⟨w, h1, h2⟩ | h) | h) | h)
    · exact .inl (.inl ⟨w, h1, h2⟩)
    · obtain ⟨w, hw⟩ := Option.isSome_iff_exists.1 h
      obtain ⟨h1, h2, h3, -⟩ := reduceTo_some hi hw
      exact .inr ⟨w, h1, h2, h3⟩
    · obtain ⟨w, hw⟩ := Option.isSome_iff_exists.1 h
      obtain ⟨h1, h2, h3, -⟩ := reduceTo_some hi hw
      exact .inr ⟨w, h1, h2, h3⟩
    · exact .inl (.inr h)
  · rintro ((⟨w, h1, h2⟩ | h) | ⟨w, h1, h2, h3⟩)
    · exact .inl (.inl (.inl ⟨w, h1, h2⟩))
    · exact .inr h
    · by_cases hs : sinkOut w = i
      · exact .inl (.inl (.inr (reduceTo_isSome h1 h2 hs)))
      · refine .inl (.inr (reduceTo_index h1 h2 ?_ ?_))
        · rw [writersOf_sink h2] at h3
          split at h3
          · assumption
          · exact absurd (List.mem_singleton.1 h3).symm hs
        · have := sinkOut_lt w
          omega

/-! ## Outputs of every kind -/

theorem writesOut_marker (hk : d.kind = .marker) (i : Nat) : d.writesOut i = false := by
  unfold Desc.writesOut
  rw [hk]

/-- The outputs that a fused row command writes are there (Table 9-2). -/
theorem fused_present {vlen i : Nat} (h : fusedBad e d vlen = false) (hf : d.fore = false) (hc : d.cls = 2) (hi : i < 2)
    (hw : d.writesOut i = true) : (d.slot (4 + i)).present = true := by
  unfold fusedBad at h
  simp only [Bool.or_eq_false_iff, Bool.and_eq_false_iff, Bool.not_eq_false'] at h
  obtain ⟨⟨⟨⟨⟨⟨-, h0⟩, -⟩, h1⟩, -⟩, -⟩, -⟩ := h
  have hcases : i = 0 ∨ i = 1 := by omega
  rcases hcases with rfl | rfl
  · exact h0
  · have hs : (fparam d).stats = true ∧ (fparam d).op ≠ 6 := by
      rcases kind_fused hf hc with k | k | k | k | k | k
      all_goals
        obtain ⟨hk, ho⟩ := k
        unfold Desc.writesOut at hw
        rw [hk] at hw
        simp at hw
      · exact ⟨hw, fun h6 => ho (by rw [show bitsOf d.param 3 0 = 6 from h6]; decide)⟩
      all_goals exact ⟨hw, fun h6 => absurd (ho.symm.trans h6) (by decide)⟩
    rcases h1 with (h1 | h1) | h1
    · rw [hs.1] at h1
      exact nomatch h1
    · exact absurd (by simpa using h1) hs.2
    · exact h1.1.1

/-- The outputs that a MAC command writes are there (Table 10-9). -/
theorem mac_present {vlen i : Nat} (h : macBad d vlen = false) (hf : d.fore = false) (hc : d.cls = 3) (hi : i < 2)
    (hw : d.writesOut i = true) : (d.slot (4 + i)).present = true := by
  unfold macBad at h
  simp only [Bool.or_eq_false_iff, decide_eq_false_iff_not, beq_eq_false_iff_ne] at h
  obtain ⟨⟨⟨⟨⟨⟨h0, h4⟩, -⟩, -⟩, -⟩, -⟩, hm⟩ := h
  have hop : (mparam d).op = bitsOf d.param 3 0 := rfl
  have hcases : i = 0 ∨ i = 1 := by omega
  rcases kind_mac hf hc with ⟨hk, ho⟩ | ⟨hk, ho⟩ | ⟨hk, ho⟩ | ⟨hk, ho⟩ <;> unfold Desc.writesOut at hw <;> rw [hk] at hw
  · have h1 : (mparam d).op = 1 := by
      simp at ho
      omega
    rw [h1] at hm
    unfold matmulBad at hm
    simp only [Bool.or_eq_false_iff, Bool.and_eq_false_iff, Bool.not_eq_false'] at hm
    obtain ⟨⟨-, hd⟩, -⟩ := hm
    simp only [Bool.and_eq_true, beq_iff_eq] at hw
    obtain ⟨rfl, hw⟩ := hw
    rcases hd with hd | hd
    · rw [show (mparam d).drain = true from hw] at hd
      exact nomatch hd
    · exact hd
  · exact nomatch hw
  · rw [hop, ho] at hm
    simp only [Bool.or_eq_false_iff, Bool.not_eq_false'] at hm
    simp only [beq_iff_eq] at hw
    subst hw
    exact hm.2
  · rw [hop, ho] at hm
    unfold attnBad at hm
    simp only [Bool.or_eq_false_iff, Bool.and_eq_false_iff, Bool.not_eq_false'] at hm
    obtain ⟨⟨⟨⟨⟨⟨-, hs⟩, h0⟩, -⟩, -⟩, -⟩, -⟩ := hm
    rcases hcases with rfl | rfl
    · exact h0
    · rcases hs with hs | hs
      · rw [show (mparam d).stats = true by simpa [mparam] using hw] at hs
        exact nomatch hs
      · exact hs.1

/-- The outputs that a chain writes are there (Table 5-6). -/
theorem chain_present (h : chainBad d = false) (hk : d.kind = .chain ∨ d.kind = .fore) {i : Nat} (hi : i < 2) (hw : d.writesOut i = true) :
    (d.slot (4 + i)).present = true := by
  rcases (writesOut_chain hk hi).1 hw with (⟨w, h1, h2, rfl⟩ | ⟨rfl, hc⟩) | ⟨w, h1, -, h3⟩
  · exact chain_writer_present h hi h1 (mem_writersOf_store h2)
  · exact (chain_counts h hc).1
  · exact chain_writer_present h hi h1 h3

theorem overlaps_unwritten (hw : ∀ i, d.writesOut i = false) : overlaps (outRange d 0) (outRange d 1) = false := by
  unfold overlaps outRange outSpan
  simp [hw]

/-- A command that has passed its checks has its outputs in order. -/
theorem Checked.tidy (h : Checked e) : e.desc.Tidy := by
  by_cases hk : e.desc.kind = .marker
  · have hw := writesOut_marker hk
    exact ⟨fun i _ hi => absurd hi (by simp [hw]), fun i _ hi => absurd hi (by simp [hw]), overlaps_unwritten hw⟩
  · have hp := h.passed_kind hk
    have present : ∀ i < 2, e.desc.writesOut i = true → (e.desc.slot (4 + i)).present = true := by
      intro i hi hw
      by_cases hf : e.desc.fore = true
      · exact chain_present (hp.chain (desc_fore hf)) (.inr (kind_fore hf)) hi hw
      · have hf : e.desc.fore = false := by simpa using hf
        rcases hp.cls with hc | hc | hc
        · exact chain_present (hp.chain hc) (.inl (kind_chain hf (by omega) (by omega) (by omega))) hi hw
        · exact fused_present (hp.fused hc) hf hc hi hw
        · exact mac_present (hp.mac hc) hf hc hi hw
    refine ⟨present, fun i hi hw => ?_, ?_⟩
    · have hs := hp.slots
      unfold slotBad at hs
      simp only [Bool.or_eq_false_iff] at hs
      obtain ⟨⟨⟨⟨⟨-, hs⟩, -⟩, -⟩, -⟩, -⟩ := hs
      have hm : i ∈ [0, 1] := by simp; omega
      have := List.any_eq_false.1 hs i hm
      simp only [present i hi hw, Bool.true_and, Bool.not_eq_true, Bool.or_eq_false_iff, decide_eq_false_iff_not,
        Bool.and_eq_false_iff, bne_eq_false_iff_eq] at this
      obtain ⟨⟨h1, h2⟩, -⟩ := this
      exact ⟨by omega, fun hx => by rcases h1 with h1 | h1 <;> simp_all⟩
    · have ho := hp.overlap
      unfold overlapBad at ho
      rw [Bool.or_eq_false_iff] at ho
      exact ho.1

end Sys2Proof.Machine
end

section
/-! SUPPORT. Where a chain writes: the stores of its tiles row by row, its counts, and its results in the outputs that take them (R122, R127,
R128, R190, R196). -/

namespace Sys2Proof.Machine

variable {s t u : State} {O P : Nat → Prop} {full : Bool} {e : Entry} {d : Desc}

/-! ## Stores of a tile -/

theorem packTile_slices (h : Shape) (t : Tile) (sect pos w : Nat) (fl : Flight) :
    ∃ xs, TileSlices h t xs ∧ packTile h t sect pos w fl = xs.map (fun sl => (bit (w.testBit 11), sl)) := by
  refine ⟨(packTile h t sect pos w fl).map (·.2), ⟨?_, ?_⟩, ?_⟩
  · unfold packTile
    dsimp only
    rw [List.map_map, List.map_map]
    conv => rhs; rw [← List.zipIdx_map_fst 0 (t.rows h)]
    refine List.map_congr_left fun x _ => ?_
    simp only [Function.comp_apply, outRow]
    split <;> rfl
  · intro x hx
    unfold packTile at hx
    dsimp only at hx
    rw [List.map_map] at hx
    obtain ⟨y, hy, rfl⟩ := List.mem_map.1 hx
    have hrow : y.1.i0 = t.c.i0 := by
      have := List.fst_mem_of_mem_zipIdx hy
      obtain ⟨b, -, hb⟩ := List.mem_map.1 this
      rw [← hb]
    simp only [Function.comp_apply, outRow]
    split
    · simp
    · simp [length_sliceCoords, hrow]
  · rw [List.map_map]
    unfold packTile
    dsimp only
    rw [List.map_map]
    rfl

/-- The stores of a tile, one list of its rows for each PACK/STORE stage. -/
structure Stores (h : Shape) (t : Tile) (outs : List Nat) (xs : List (Nat × OutSlice)) : Prop where
  parts : ∃ ys : List (Nat × List OutSlice), ys.map (·.1) = outs ∧ (∀ y ∈ ys, TileSlices h t y.2) ∧
    xs = ys.flatMap (fun y => y.2.map (fun sl => (y.1, sl)))

theorem Stores.nil (h : Shape) (t : Tile) : Stores h t [] [] := ⟨⟨[], rfl, (fun _ h => nomatch h), rfl⟩⟩

theorem Stores.append {h : Shape} {t : Tile} {o p : List Nat} {xs ys : List (Nat × OutSlice)} (k : Stores h t o xs) (l : Stores h t p ys) :
    Stores h t (o ++ p) (xs ++ ys) := by
  obtain ⟨as, h1, h2, h3⟩ := k
  obtain ⟨bs, k1, k2, k3⟩ := l
  refine ⟨as ++ bs, by rw [List.map_append, h1, k1], fun y hy => ?_, by rw [List.flatMap_append, h3, k3]⟩
  rcases List.mem_append.1 hy with hy | hy
  · exact h2 y hy
  · exact k2 y hy

/-- The output of a stage that stores. -/
def storeOuts (ws : List Nat) : List Nat := (ws.filter (fun w => stageKind w == 11)).map (fun w => bit (w.testBit 11))

theorem tileStage_stores (r : Reader) (t : Tile) (closed packed : Bool) (fl : Flight) (x : Nat × Nat) :
    ∃ xs, Stores r.h t (storeOuts [x.1]) xs ∧ (tileStage r t closed packed fl x).stores = fl.stores ++ xs := by
  unfold tileStage storeOuts
  dsimp only
  split
  · rename_i hk
    exact ⟨[], by rw [List.filter_cons_of_neg (by simp [hk])]; exact .nil _ _, by simp⟩
  · rename_i hk
    exact ⟨[], by rw [List.filter_cons_of_neg (by simp [hk])]; exact .nil _ _, by simp⟩
  · rename_i hk
    exact ⟨[], by rw [List.filter_cons_of_neg (by simp [hk])]; exact .nil _ _, by simp⟩
  · rename_i hk
    obtain ⟨xs, h1, h2⟩ := packTile_slices r.h t (if packed then 2 else if closed then 1 else 0) x.2 x.1 fl
    refine ⟨_, ⟨[(bit (x.1.testBit 11), xs)], ?_, ?_, rfl⟩, ?_⟩
    · rw [List.filter_cons_of_pos (by simp [hk])]
      rfl
    · intro y hy
      rw [List.mem_singleton.1 hy]
      exact h1
    · simp [h2]
  · rename_i h7 h9 h10 h11
    exact ⟨[], by rw [List.filter_cons_of_neg (by simpa using h11)]; exact .nil _ _, by simp⟩

theorem runTile_stores (r : Reader) (words : List Nat) (t : Tile) : Stores r.h t (storeOuts words) (runTile r words t).stores := by
  have key : ∀ (g : Nat × Nat → Bool × Bool) (ws : List (Nat × Nat)) (fl : Flight),
      ∃ xs, Stores r.h t (storeOuts (ws.map (·.1))) xs ∧
        (ws.foldl (fun fl x => tileStage r t (g x).1 (g x).2 fl x) fl).stores = fl.stores ++ xs := by
    intro g ws
    induction ws with
    | nil => exact fun fl => ⟨[], .nil _ _, by simp⟩
    | cons w ws ih =>
      intro fl
      obtain ⟨xs, h1, h2⟩ := tileStage_stores r t (g w).1 (g w).2 fl w
      obtain ⟨ys, k1, k2⟩ := ih (tileStage r t (g w).1 (g w).2 fl w)
      refine ⟨xs ++ ys, ?_, ?_⟩
      · have := h1.append k1
        rwa [show storeOuts ((w :: ws).map (·.1)) = storeOuts [w.1] ++ storeOuts (ws.map (·.1)) by
          unfold storeOuts
          rw [List.map_cons, ← List.map_append, ← List.filter_append]
          rfl]
      · rw [List.foldl_cons, k2, h2, List.append_assoc]
  unfold runTile
  dsimp only
  obtain ⟨xs, h1, h2⟩ := key (fun x => (_, _)) words.zipIdx ⟨(enterTile r t).1, [], 0, [], [], (enterTile r t).2⟩
  rw [List.zipIdx_map_fst] at h1
  rw [List.nil_append] at h2
  exact (congrArg (Stores r.h t (storeOuts words)) h2).mpr h1

/-- The slices that go to an output with one store are the rows of the tile. -/
theorem Stores.later {h : Shape} {t : Tile} {outs : List Nat} {xs : List (Nat × OutSlice)} (k : Stores h t outs xs) {i : Nat}
    (hi : outs.count i ≤ 1) : ((xs.filter (fun x => x.1 == i)).map (·.2)).Pairwise LaterRow := by
  obtain ⟨ys, rfl, hy, rfl⟩ := k
  induction ys with
  | nil => exact .nil
  | cons y ys ih =>
    have hrest := ih ((List.Sublist.count_le _ (List.sublist_cons_self ..)).trans hi) (fun z hz => hy z (List.mem_cons_of_mem _ hz))
    rw [List.flatMap_cons, List.filter_append, List.map_append]
    by_cases hyi : y.1 = i
    · have hnone : (ys.flatMap (fun y => y.2.map (fun sl => (y.1, sl)))).filter (fun x => x.1 == i) = [] := by
        rw [List.filter_eq_nil_iff]
        intro x hx
        obtain ⟨z, hz, hx⟩ := List.mem_flatMap.1 hx
        obtain ⟨sl, -, rfl⟩ := List.mem_map.1 hx
        have hc : (ys.map (·.1)).count i = 0 := by
          rw [List.map_cons, hyi, List.count_cons_self] at hi
          omega
        have := List.count_eq_zero.1 hc
        have hne : z.1 ≠ i := fun h => this (h ▸ List.mem_map_of_mem hz)
        simpa using hne
      have hall : ((y.2.map (fun sl => (y.1, sl))).filter (fun x => x.1 == i)).map (·.2) = y.2 := by
        rw [List.filter_eq_self.2]
        · rw [List.map_map]
          exact List.map_id _
        · intro x hx
          obtain ⟨sl, -, rfl⟩ := List.mem_map.1 hx
          simpa using hyi
      rw [hnone, hall, List.map_nil, List.append_nil]
      exact (hy y (List.mem_cons_self ..)).later
    · have hnone : (y.2.map (fun sl => (y.1, sl))).filter (fun x => x.1 == i) = [] := by
        rw [List.filter_eq_nil_iff]
        intro x hx
        obtain ⟨sl, -, rfl⟩ := List.mem_map.1 hx
        simpa using hyi
      rw [hnone]
      exact hrest

/-- A slice of the stores is a row of the tile, for one of the outputs. -/
theorem Stores.mem {h : Shape} {t : Tile} {outs : List Nat} {xs : List (Nat × OutSlice)} (k : Stores h t outs xs) {x : Nat × OutSlice}
    (hx : x ∈ xs) : x.1 ∈ outs ∧ ∃ ys, TileSlices h t ys ∧ x.2 ∈ ys := by
  obtain ⟨ys, rfl, hy, rfl⟩ := k
  obtain ⟨y, hym, hx⟩ := List.mem_flatMap.1 hx
  obtain ⟨sl, hsl, rfl⟩ := List.mem_map.1 hx
  exact ⟨List.mem_map_of_mem hym, y.2, hy y hym, hsl⟩

/-! ## Slices by output -/

/-- Slices gathered by output land where each of them does. -/
theorem emitsOf_lands {xs : List (Nat × OutSlice)} (h : ∀ x ∈ xs, x.1 < 2 → O x.1 ∧ d.writesOut x.1 = true ∧
    (full = true → SliceFits (outShape d x.1) (d.slot (4 + x.1)) x.2)) : ∀ m ∈ emitsOf d xs, Lands d full O m := by
  intro m hm
  unfold emitsOf at hm
  obtain ⟨i, hi, rfl⟩ := List.mem_map.1 hm
  obtain ⟨hi, hany⟩ := List.mem_filter.1 hi
  have hi2 : i < 2 := by simp at hi; omega
  obtain ⟨x, hx, hxi⟩ := List.any_eq_true.1 hany
  have hxi : x.1 = i := by simpa using hxi
  subst hxi
  obtain ⟨ho, hw, -⟩ := h x hx hi2
  refine ⟨x.1, hi2, ho, rfl, hw, fun hf => ⟨rfl, fun sl hsl => ?_⟩⟩
  obtain ⟨y, hy, rfl⟩ := List.mem_map.1 hsl
  obtain ⟨hy, hyi⟩ := List.mem_filter.1 hy
  have hyi : y.1 = x.1 := by simpa using hyi
  have := (h y hy (hyi ▸ hi2)).2.2 hf
  rwa [hyi] at this

/-- Different emits go to different outputs. -/
theorem emitsOf_slots (d : Desc) (xs : List (Nat × OutSlice)) : (emitsOf d xs).Pairwise (fun m n => m.slot ≠ n.slot) := by
  unfold emitsOf
  rw [List.pairwise_map]
  have : ([0, 1] : List Nat).Pairwise (fun i j => 4 + i ≠ 4 + j) := by decide
  exact this.sublist List.filter_sublist

/-! ## What a chain's tiles write -/

theorem storeOuts_count (ws : List Nat) (i : Nat) : (storeOuts ws).count i ≤ (ws.flatMap writersOf).count i := by
  induction ws with
  | nil => exact le_refl _
  | cons w ws ih =>
    rw [List.flatMap_cons, List.count_append]
    unfold storeOuts at ih ⊢
    by_cases hw : stageKind w = 11
    · rw [List.filter_cons_of_pos (by simp [hw]), List.map_cons, ← List.singleton_append, List.count_append]
      have : writersOf w = [bit (w.testBit 11)] := by simp [writersOf, hw]
      rw [this]
      omega
    · rw [List.filter_cons_of_neg (by simp [hw])]
      omega

/-- An output has at most one store. -/
theorem storeOuts_one (h : chainBad d = false) {i : Nat} (hi : i < 2) : (storeOuts d.chainStages).count i ≤ 1 := by
  have hb := (chain_outputs h).1
  unfold outputsBad at hb
  simp only [Bool.or_eq_false_iff, decide_eq_false_iff_not] at hb
  obtain ⟨⟨⟨⟨-, h0⟩, h1⟩, -⟩, -⟩ := hb
  have := storeOuts_count d.chainStages i
  have : i = 0 ∨ i = 1 := by omega
  rcases this with rfl | rfl <;> omega

theorem mem_storeOuts {ws : List Nat} {i : Nat} (h : i ∈ storeOuts ws) : ∃ w ∈ ws, stageKind w = 11 ∧ bit (w.testBit 11) = i := by
  obtain ⟨w, hw, rfl⟩ := List.mem_map.1 h
  obtain ⟨hw, hk⟩ := List.mem_filter.1 hw
  exact ⟨w, hw, by simpa using hk, rfl⟩

/-- A single element at an output of one. -/
theorem sliceFits_single {h : Shape} {x : Slot} {c : Coord} {cl st : Nat} {v : OutVal} (h0 : c.i0 = 0) (hn : 0 < h.n0) (h1 : c.i1 < h.n1)
    (h2 : c.i2 < h.n2) (h3 : c.i3 < h.n3) : SliceFits h x ⟨c, cl, st, [v]⟩ :=
  ⟨Nat.one_pos, by dsimp only; simp [h0]; omega, h1, h2, h3, fun _ => by dsimp only; omega⟩

theorem tile_lt {h : Shape} {t : Tile} (ht : t.In h) : t.t < h.tiles := by
  have hr := ht.rb
  have hc := ht.ct
  rw [ht.number]
  unfold Shape.tiles Shape.rowBlocks Shape.colTiles at *
  calc t.rb * ceilDiv h.n0 64 + t.ct < t.rb * ceilDiv h.n0 64 + ceilDiv h.n0 64 := by omega
    _ = (t.rb + 1) * ceilDiv h.n0 64 := by rw [Nat.succ_mul]
    _ ≤ _ := Nat.mul_le_mul_right _ hr

end Sys2Proof.Machine
end

section
/-! SUPPORT. What a chain writes lies in its outputs: its tiles in those of its stores and its counts, its row blocks and its end in those of
its results (R122, R127, R128, R190, R196). -/

namespace Sys2Proof.Machine

variable {s t u : State} {O P : Nat → Prop} {full : Bool} {e : Entry} {d : Desc}

/-! ## Tiles -/

/-- The count of a tile lies in the output of the counts. -/
theorem countSlice_fits (h : chainBad d = false) (hk : d.kind = .chain ∨ d.kind = .fore) (hc : d.countsOut = true) {t : Tile} (ht : t.In d.shape)
    {x : Slot} (hx : codeIsMx x.fmt = false) (cl st : Nat) (v : OutVal) : SliceFits (outShape d 1) x ⟨⟨0, 0, 0, t.t⟩, cl, st, [v]⟩ := by
  rw [outShape_chain hk, chainOutShape_counts h hc]
  exact ⟨Nat.one_pos, tile_lt ht, Nat.one_pos, Nat.one_pos, Nat.one_pos, fun hm => absurd hm (by rw [hx]; decide)⟩

/-- What a tile of a chain writes lies in the outputs of its stores and its counts. -/
theorem chainEmits_lands (hk : d.kind = .chain ∨ d.kind = .fore) {r : Reader} (hr : r.h = d.shape) {t : Tile}
    (hf : full = true → chainBad d = false ∧ t.In d.shape) :
    ∀ m ∈ chainEmits d t (runTile r d.chainStages t), Lands d full d.tileOut m := by
  unfold chainEmits
  refine emitsOf_lands fun x hx hx2 => ?_
  rcases List.mem_append.1 hx with hx | hx
  · obtain ⟨ho, ys, hys, hxy⟩ := (runTile_stores r d.chainStages t).mem hx
    obtain ⟨w, hw, hk11, hout⟩ := mem_storeOuts ho
    have hto : d.tileOut x.1 := .inl ⟨w, hw, hk11, hout⟩
    refine ⟨hto, (writesOut_chain hk hx2).2 (.inl hto), fun hfull => ?_⟩
    obtain ⟨hb, ht⟩ := hf hfull
    rw [outShape_chain hk, ← hout, chainOutShape_store hb hw hk11]
    rw [hr] at hys
    exact hys.fits ht _ _ hxy
  · split at hx
    · rename_i hc
      have hto : d.tileOut x.1 := .inr ⟨by rw [List.mem_singleton.1 hx], hc⟩
      refine ⟨hto, (writesOut_chain hk hx2).2 (.inl hto), fun hfull => ?_⟩
      obtain ⟨hb, ht⟩ := hf hfull
      rw [List.mem_singleton.1 hx]
      exact countSlice_fits hb hk hc ht (chain_counts hb hc).2.1 _ _ _
    · exact nomatch hx

/-- The slices that a tile writes to one output are rows, or one count. -/
theorem chainEmits_later (hb : chainBad d = false) (r : Reader) (t : Tile) :
    ∀ m ∈ chainEmits d t (runTile r d.chainStages t), m.slices.Pairwise LaterRow := by
  intro m hm
  unfold chainEmits emitsOf at hm
  obtain ⟨i, hi, rfl⟩ := List.mem_map.1 hm
  have hi2 : i < 2 := by
    have := (List.mem_filter.1 hi).1
    simp at this
    omega
  have hs := runTile_stores r d.chainStages t
  dsimp only
  rw [List.filter_append, List.map_append]
  split
  · rename_i hc
    by_cases h1 : i = 1
    · subst h1
      have hnone : (runTile r d.chainStages t).stores.filter (fun x => x.1 == 1) = [] := by
        rw [List.filter_eq_nil_iff]
        intro x hx
        obtain ⟨w, hw, hk11, hout⟩ := mem_storeOuts (hs.mem hx).1
        have := (chain_counts hb hc).2.2 w hw
        have hne : x.1 ≠ 1 := fun h => this (h ▸ hout ▸ mem_writersOf_store hk11)
        simpa using hne
      rw [hnone]
      exact List.pairwise_singleton _ _
    · rw [List.filter_cons_of_neg (by simpa using fun h => h1 h.symm), List.filter_nil, List.map_nil, List.append_nil]
      exact hs.later (storeOuts_one hb hi2)
  · rw [List.filter_nil, List.map_nil, List.append_nil]
    exact hs.later (storeOuts_one hb hi2)

/-! ## Results -/

/-- Where a REDUCE stage has a result: a row of the shape, or the command's one place. -/
def Desc.resultAt (d : Desc) (w : Nat) (c : Coord) : Prop :=
  c.i0 = 0 ∧ (if w.testBit 3 = true then c.i1 = 0 ∧ c.i2 = 0 ∧ c.i3 = 0 else c.i1 < d.n1 ∧ c.i2 < d.n2 ∧ c.i3 < d.n3)

/-- The slice of a result lies in the output of its stage. -/
theorem sinkSlice_fits (hb : chainBad d = false) (hk : d.kind = .chain ∨ d.kind = .fore) {w : Nat} (hw : w ∈ d.chainStages)
    (h7 : stageKind w = 7) {c : Coord} (hc : d.resultAt w c) {els : List OutVal}
    (hl : els.length = reduceW w (d.slot (4 + sinkOut w)).fmt) (x : Slot) (cl st : Nat) :
    SliceFits (outShape d (sinkOut w)) x ⟨c, cl, st, els⟩ := by
  have hpos : 0 < reduceW w (d.slot (4 + sinkOut w)).fmt := by
    unfold reduceW
    split <;> omega
  obtain ⟨h0, hc⟩ := hc
  rw [outShape_chain hk, chainOutShape_sink hb hw h7]
  split at hc
  · rename_i h3
    rw [if_pos h3]
    exact ⟨by rw [hl]; exact hpos, by rw [h0, hl]; exact (Nat.zero_add _).le, by rw [hc.1]; exact Nat.one_pos,
      by rw [hc.2.1]; exact Nat.one_pos, by rw [hc.2.2]; exact Nat.one_pos, fun _ => by rw [h0]⟩
  · rename_i h3
    rw [if_neg h3]
    exact ⟨by rw [hl]; exact hpos, by rw [h0, hl]; exact (Nat.zero_add _).le, hc.1, hc.2.1, hc.2.2, fun _ => by rw [h0]⟩

/-- The slice of an index lies in the other output. -/
theorem indexSlice_fits (hb : chainBad d = false) (hk : d.kind = .chain ∨ d.kind = .fore) (hg : d.grouped = false) {w : Nat}
    (hw : w ∈ d.chainStages) (h7 : stageKind w = 7) (ho : bitsOf w 11 8 = 2 ∨ bitsOf w 11 8 = 3) {c : Coord} (hc : d.resultAt w c)
    (x : Slot) (cl st : Nat) (v : OutVal) : SliceFits (outShape d (1 - sinkOut w)) x ⟨c, cl, st, [v]⟩ := by
  obtain ⟨h0, hc⟩ := hc
  rw [outShape_chain hk, chainOutShape_index hb hg hw h7 ho]
  split at hc
  · rename_i h3
    rw [if_pos h3]
    exact sliceFits_single h0 Nat.one_pos (hc.1 ▸ Nat.one_pos) (hc.2.1 ▸ Nat.one_pos) (hc.2.2 ▸ Nat.one_pos)
  · rename_i h3
    rw [if_neg h3]
    exact sliceFits_single h0 Nat.one_pos hc.1 hc.2.1 hc.2.2

/-- What has to hold of a slice of a result. -/
def ResultLands (d : Desc) (full : Bool) (x : Nat × OutSlice) : Prop :=
  x.1 < 2 → d.resultOut x.1 ∧ d.writesOut x.1 = true ∧ (full = true → SliceFits (outShape d x.1) (d.slot (4 + x.1)) x.2)

/-- What a chain has to meet for its results to fit their outputs. -/
structure ResultsFit (d : Desc) : Prop where
  bad : chainBad d = false
  grouped : d.grouped = false

theorem length_entryOut (w : Nat) (a : AccRec) (d : Desc) (hx : isExact w = true) :
    (entryOut (sinkRaw d w) a).1.length = reduceW w (d.slot (4 + sinkOut w)).fmt := by
  have hop : 10 ≤ bitsOf w 11 8 := by simpa [isExact] using hx
  unfold entryOut sinkRaw reduceW
  by_cases hf : (d.slot (4 + sinkOut w)).fmt = 12
  · simp [hx, hf, hop, accWords]
  · simp [hf]

/-- The readout of an exact entry. -/
theorem entrySlice_lands (hk : d.kind = .chain ∨ d.kind = .fore) {w : Nat} (hw : w ∈ d.chainStages) (h7 : stageKind w = 7)
    (hx : isExact w = true) {c : Coord} (hf : full = true → ResultsFit d ∧ d.resultAt w c) (a : AccRec) (cl st : Nat) :
    ResultLands d full (sinkOut w, ⟨c, cl, st, (entryOut (sinkRaw d w) a).1⟩) := fun hi =>
  have hro : d.resultOut (sinkOut w) := ⟨w, hw, h7, mem_writersOf_sink h7⟩
  ⟨hro, (writesOut_chain hk hi).2 (.inr hro), fun hfull =>
    sinkSlice_fits (hf hfull).1.bad hk hw h7 (hf hfull).2 (length_entryOut w a d hx) _ _ _⟩

/-- An index comes with MAXI and MINI alone. -/
theorem plainResult_index {w : Nat × Nat} {whole : Bool} {xs : List RedEl} {i : Nat} (h : (plainResult s d w whole xs).2 = some i) :
    bitsOf w.1 11 8 = 2 ∨ bitsOf w.1 11 8 = 3 := by
  unfold plainResult at h
  dsimp only at h
  split at h
  · exact nomatch h
  · split at h
    · omega
    · exact nomatch h

/-- The result of a plain reduction. -/
theorem plainSlices_land (hk : d.kind = .chain ∨ d.kind = .fore) {w : Nat × Nat} (hw : w.1 ∈ d.chainStages) (h7 : stageKind w.1 = 7)
    (hx : isExact w.1 = false) {c : Coord} (hf : full = true → ResultsFit d ∧ d.resultAt w.1 c) (whole : Bool) (xs : List RedEl) (cl : Nat) :
    ∀ x ∈ resultSlices w c cl (plainResult s d w whole xs), ResultLands d full x := by
  intro x hm
  unfold resultSlices at hm
  rcases List.mem_cons.1 hm with rfl | hm
  · intro hi
    have hro : d.resultOut (sinkOut w.1) := ⟨w.1, hw, h7, mem_writersOf_sink h7⟩
    refine ⟨hro, (writesOut_chain hk hi).2 (.inr hro), fun hfull =>
      sinkSlice_fits (hf hfull).1.bad hk hw h7 (hf hfull).2 ?_ _ _ _⟩
    have hop : ¬10 ≤ bitsOf w.1 11 8 := by simpa [isExact] using hx
    simp [reduceW, hop]
  · split at hm
    · rename_i i hidx
      have hop := plainResult_index hidx
      rw [List.mem_singleton.1 hm]
      intro hi
      have hro : d.resultOut (1 - sinkOut w.1) := ⟨w.1, hw, h7, mem_writersOf_index h7 hop hi⟩
      exact ⟨hro, (writesOut_chain hk hi).2 (.inr hro), fun hfull =>
        indexSlice_fits (hf hfull).1.bad hk (hf hfull).1.grouped hw h7 hop (hf hfull).2 _ _ _ _⟩
    · exact nomatch hm

theorem mem_sinks {w : Nat × Nat} (h : w ∈ d.sinks) : w.1 ∈ d.chainStages ∧ stageKind w.1 = 7 := by
  obtain ⟨h1, h2⟩ := List.mem_filter.1 h
  exact ⟨List.fst_mem_of_mem_zipIdx h1, by simpa using h2⟩

/-- What a fold gathers, its items alone. -/
theorem forall_mem_foldl {α β γ : Type} {P : γ → Prop} (g : β → List γ) {f : β → α → β} {xs : List α}
    (h : ∀ b, ∀ x ∈ xs, (∀ y ∈ g b, P y) → ∀ y ∈ g (f b x), P y) (b : β) (hb : ∀ y ∈ g b, P y) : ∀ y ∈ g (xs.foldl f b), P y := by
  induction xs generalizing b with
  | nil => exact hb
  | cons x xs ih =>
    exact ih (fun c y hy => h c y (List.mem_cons_of_mem _ hy)) (f b x) (h b x (List.mem_cons_self ..) hb)

/-! ## Row blocks -/

/-- The results of a row block lie in their outputs. -/
theorem chainBlock_spared {delta rb : Nat} (hk : e.desc.kind = .chain ∨ e.desc.kind = .fore)
    (hf : full = true → ResultsFit e.desc ∧ rb < e.desc.shape.rowBlocks) (s : State) :
    Spared (e.desc.area full e.desc.resultOut) s (chainBlock delta rb e s).2 := by
  unfold chainBlock
  extract_lets d h home ks rows cs r done
  have hland : ∀ x ∈ r.1, ResultLands d full x := by
    refine forall_mem_foldl (fun (a : List (Nat × OutSlice) × Accs × Flags) => a.1) (fun a x hx ha => ?_) ([], s.arr.accs, flagNone)
      (fun y hy => nomatch hy)
    obtain ⟨w, hw, hx⟩ := List.mem_flatMap.1 hx
    obtain ⟨c, hc, rfl⟩ := List.mem_map.1 hx
    obtain ⟨hw, h3⟩ := List.mem_filter.1 hw
    obtain ⟨hws, h7⟩ := mem_sinks hw
    have hat : full = true → ResultsFit d ∧ d.resultAt w.1 c := fun hfull => by
      have hrow := mem_blockRows (hf hfull).2 hc
      refine ⟨(hf hfull).1, hrow.i0, ?_⟩
      rw [if_neg (by simpa using h3)]
      exact ⟨hrow.i1, hrow.i2, hrow.i3⟩
    dsimp only
    split
    · rename_i hx
      intro y hy
      rcases List.mem_append.1 hy with hy | hy
      · exact ha y hy
      · rw [List.mem_singleton.1 hy]
        exact entrySlice_lands hk hws h7 hx hat _ _ _
    · rename_i hx
      intro y hy
      rcases List.mem_append.1 hy with hy | hy
      · exact ha y hy
      · exact plainSlices_land hk hws h7 (by simpa using hx) hat _ _ _ y hy
  exact Spared.after (emitLate_spared fun m hm a ha => (emitsOf_lands (d := d) hland m hm).touches (e := dropSent rb { e with reds := e.reds.filter (fun y => !done y) }) ha) (.of_mem rfl)

/-! ## The end -/

theorem finishPieces_spared {A : Nat → Prop} (done : Piece → Bool) (e : Entry) (s : State) : Spared A s (finishPieces done e s).2 :=
  (tracePieces_quiet ..).spared

theorem chainBlock_same (delta rb : Nat) (e : Entry) (s : State) : SameCommand e (chainBlock delta rb e s).1 :=
  (chainBlock_worked delta rb e s).toSameCommand

/-- Row blocks, one after the other. -/
theorem chainBlocks_spared {β : Type} (g : β → Entry × State) (hk : e.desc.kind = .chain ∨ e.desc.kind = .fore)
    (hf : full = true → ResultsFit e.desc) {f : β → Nat → β} (hc : ∀ b rb, ∃ delta, g (f b rb) = chainBlock delta rb (g b).1 (g b).2)
    {rbs : List Nat} (hr : full = true → ∀ rb ∈ rbs, rb < e.desc.shape.rowBlocks) {b : β} (he : SameCommand e (g b).1) :
    SameCommand e (g (rbs.foldl f b)).1 ∧ Spared (e.desc.area full e.desc.resultOut) (g b).2 (g (rbs.foldl f b)).2 := by
  induction rbs generalizing b with
  | nil => exact ⟨he, .refl _ _⟩
  | cons rb rbs ih =>
    obtain ⟨delta, hd⟩ := hc b rb
    obtain ⟨h1, h2⟩ := ih (fun h q hq => hr h q (List.mem_cons_of_mem _ hq)) (b := f b rb)
      (by rw [hd]; exact he.trans (chainBlock_same ..))
    refine ⟨h1, Spared.trans ?_ h2⟩
    have hb := chainBlock_spared (e := (g b).1) (full := full) (delta := delta) (rb := rb) (by rw [he.desc]; exact hk)
      (fun h => by rw [he.desc]; exact ⟨hf h, hr h rb (List.mem_cons_self ..)⟩) (g b).2
    rwa [he.desc, ← hd] at hb

/-- An AXIS 1 result lies in its output. -/
theorem wholeResult_lands (hk : e.desc.kind = .chain ∨ e.desc.kind = .fore) (hf : full = true → ResultsFit e.desc) {w : Nat × Nat}
    (hw : w.1 ∈ e.desc.chainStages) (h7 : stageKind w.1 = 7) (h3 : w.1.testBit 3 = true) (s : State) :
    ∀ x ∈ (wholeResult s e w).1, ResultLands e.desc full x := by
  have hat : full = true → ResultsFit e.desc ∧ e.desc.resultAt w.1 ⟨0, 0, 0, 0⟩ := fun h => ⟨hf h, rfl, by rw [if_pos h3]; exact ⟨rfl, rfl, rfl⟩⟩
  unfold wholeResult
  dsimp only
  split
  · rename_i hx
    intro x hm
    rw [List.mem_singleton.1 hm]
    exact entrySlice_lands hk hw h7 hx hat _ _ _
  · rename_i hx
    exact plainSlices_land hk hw h7 (by simpa using hx) hat _ _ _

/-- The end of a chain writes the outputs of its results alone. -/
theorem chainEnd_spared (delta : Nat) (hk : e.desc.kind = .chain ∨ e.desc.kind = .fore) (hf : full = true → ResultsFit e.desc) (s : State) :
    Spared (e.desc.area full e.desc.resultOut) s (chainEnd delta e s).2 := by
  unfold chainEnd
  extract_lets d x y ys
  have hx : SameCommand e x.1 ∧ Spared (e.desc.area full e.desc.resultOut) s x.2 := by
    unfold x
    split
    · exact chainBlocks_spared id hk hf (fun _ _ => ⟨delta, rfl⟩) (fun _ rb h => List.mem_range.1 h) (b := (e, s)) (.refl e)
    · exact ⟨.refl e, .refl _ _⟩
  have hy : SameCommand e y.1 ∧ Spared (e.desc.area full e.desc.resultOut) s y.2 :=
    ⟨hx.1.trans (finishPieces_emitted _ x.1 x.2).worked.toSameCommand, hx.2.trans (finishPieces_spared _ x.1 x.2)⟩
  split
  · exact hy.2
  · refine hy.2.trans (emitLate_spared fun m hm a ha => ?_)
    have hd := hy.1.desc
    have := Lands.touches (full := full) (O := e.desc.resultOut) (e := y.1) (s := y.2) (m := m) ?_ ha
    · rwa [hd] at this
    · rw [hd]
      refine emitsOf_lands (fun x hx => ?_) m hm
      obtain ⟨r, hr, hx⟩ := List.mem_flatMap.1 hx
      obtain ⟨w, hw, rfl⟩ := List.mem_map.1 hr
      obtain ⟨hw, h3⟩ := List.mem_filter.1 hw
      obtain ⟨hws, h7⟩ := mem_sinks hw
      have := wholeResult_lands (e := y.1) (full := full) (by rw [hd]; exact hk) (by rw [hd]; exact hf) (by rw [hd]; exact hws) h7 h3 y.2 x hx
      rwa [hd] at this

end Sys2Proof.Machine
end

section
/-! SUPPORT. What every step of a command writes lies in its outputs: the steps of a plan fit the command's shape, and the tiles of a MATMUL, a
STORE and a second pass are rows of their outputs (R212, R218, R219, R239, R242, R243). -/

namespace Sys2Proof.Machine

variable {s t u : State} {O P : Nat → Prop} {full : Bool} {e : Entry} {d : Desc}

/-! ## The steps of a plan -/

/-- A fused row command. -/
def Desc.fused (d : Desc) : Prop :=
  d.kind ≠ .chain ∧ d.kind ≠ .fore ∧ d.kind ≠ .matmul ∧ d.kind ≠ .load ∧ d.kind ≠ .store ∧ d.kind ≠ .attn ∧ d.kind ≠ .marker

/-- A step is one of a command's kind and shape. -/
def Work.Suits (d : Desc) : Work → Prop
  | .slab _ => True
  | .chain t => (d.kind = .chain ∨ d.kind = .fore) ∧ t.In d.shape
  | .product t _ => d.kind = .matmul ∧ t.In d.shapeC
  | .load _ => True
  | .store l => d.kind = .store ∧ l < Config.clusters
  | .pass _ t => d.fused ∧ t.In d.shape
  | .key _ _ => d.kind = .attn

theorem mem_getD_flatten {α : Type} {xs : List (List α)} {i : Nat} {x : α} (h : x ∈ xs.getD i []) : x ∈ xs.flatten := by
  rw [List.getD_eq_getElem?_getD] at h
  rcases hi : xs[i]? with _ | y
  · rw [hi] at h
    exact nomatch h
  · rw [hi] at h
    exact List.mem_flatten.2 ⟨y, List.mem_of_getElem? hi, h⟩

theorem mem_passSequence {blocks : List (List Tile)} {x : PassItem} (h : x ∈ passSequence blocks) : x.tile ∈ blocks.flatten := by
  obtain ⟨i, -, h⟩ := List.mem_flatMap.1 h
  rcases List.mem_append.1 h with h | h
  · obtain ⟨t, ht, rfl⟩ := List.mem_map.1 h
    exact mem_getD_flatten ht
  · split at h
    · exact nomatch h
    · obtain ⟨t, ht, rfl⟩ := List.mem_map.1 h
      exact mem_getD_flatten ht

theorem mem_fusedItems {c : Nat} {x : PassItem} (h : x ∈ fusedItems s d c) : x.tile.In d.shape := by
  have h := mem_passSequence h
  rw [groupRuns, List.flatten_splitBy] at h
  exact mem_tileList (List.mem_of_mem_filter h)

/-- Every step of a cluster suits its command. -/
theorem stepsOf_suits {c : Nat} (hc : c < Config.clusters) {x : Granule × Work} (h : x ∈ stepsOf s e c) : x.2.Suits e.desc := by
  unfold stepsOf at h
  dsimp only at h
  split at h
  case h_1 | h_2 =>
    rename_i hk
    obtain ⟨t, ht, rfl⟩ := List.mem_map.1 h
    exact ⟨by simp [hk], mem_tileList (List.mem_of_mem_filter ht)⟩
  case h_3 hk =>
    obtain ⟨t, ht, h⟩ := List.mem_flatMap.1 h
    obtain ⟨y, -, rfl⟩ := List.mem_map.1 h
    dsimp only
    split
    · exact ⟨hk, mem_tileList (List.mem_of_mem_filter ht)⟩
    · trivial
  case h_4 hk =>
    rw [List.mem_singleton.1 h]
    trivial
  case h_5 hk =>
    rw [List.mem_singleton.1 h]
    exact ⟨hk, hc⟩
  case h_6 hk =>
    obtain ⟨y, -, rfl⟩ := List.mem_map.1 h
    exact hk
  case h_7 hk => exact nomatch h
  case h_8 h1 h2 h3 h4 h5 h6 h7 =>
    obtain ⟨y, hy, rfl⟩ := List.mem_map.1 h
    exact ⟨⟨h1, h2, h3, h4, h5, h6, h7⟩, mem_fusedItems hy⟩

theorem mem_execClusters {c : Nat} (h : c ∈ execClusters s) : c < Config.clusters := by
  have := List.mem_range.1 h
  have hc : Config.clusters = 32 := rfl
  split at this <;> omega

/-- The steps of a plan suit their command. -/
theorem planOf_suits {x : Nat × List (Granule × Work)} (hx : x ∈ planOf s e) {y : Granule × Work} (hy : y ∈ x.2) : y.2.Suits e.desc := by
  obtain ⟨c, hc, rfl⟩ := List.mem_map.1 hx
  exact stepsOf_suits (mem_execClusters hc) hy

/-! ## MATMUL and STORE -/

theorem drainRow_slice (h : Shape) (cl : Nat) (row : Coord) (x : SlipTile) (e : Entry) (s : State) :
    (drainRow (readerIn s e h cl) cl row x).1.c = row ∧ (drainRow (readerIn s e h cl) cl row x).1.els.length = min 64 (h.n0 - row.i0) :=
  ⟨rfl, (List.length_map ..).trans (length_sliceCoords ..)⟩

/-- A drained tile is a tile of its output. -/
theorem drainEmits_rows (t : Tile) (x : SlipTile) (h : Shape) (e : Entry) (s : State) :
    ∃ xs, TileSlices h t xs ∧ (drainEmits t x h e s).1 = [⟨4, h, xs⟩] := by
  refine ⟨_, ?_, rfl⟩
  rw [List.map_map]
  exact tileSlices_map (fun c => (drainRow_slice h t.cluster c x e s).1) fun c hc => by
    rw [← hc]
    exact (drainRow_slice h t.cluster c x e s).2

/-- A tile that goes to an output as rows. -/
theorem rows_land {i : Nat} (hi : i < 2) (ho : O i) (hw : d.writesOut i = true) {t : Tile} (ht : t.In (outShape d i)) {xs : List OutSlice}
    (hx : TileSlices (outShape d i) t xs) : Lands d full O ⟨4 + i, outShape d i, xs⟩ :=
  ⟨i, hi, ho, rfl, hw, fun _ => ⟨rfl, hx.fits ht _⟩⟩

theorem slipTile_in {l : Nat} (hl : l < Config.clusters) : (slipTileOf l).In slipShape := by
  have hc : Config.clusters = 32 := rfl
  rw [hc] at hl
  refine ⟨by change 0 < slipShape.rowBlocks; decide, ?_, rfl, ?_⟩
  · change l < ceilDiv (64 * Config.clusters) 64
    rw [hc]
    exact hl
  · change l = 0 * _ + l
    omega

/-! ## The second pass -/

/-- What the kind of a fused row command says of its outputs. -/
theorem fused_kind (hf : d.fused) :
    d.kind = .normFwd ∧ (fparam d).op ∉ [2, 3, 4, 5, 6] ∨ d.kind = .rmsFwd ∧ (fparam d).op = 2 ∨
      d.kind = .normBwd ∧ (fparam d).op = 3 ∨ d.kind = .rmsBwd ∧ (fparam d).op = 4 ∨
      d.kind = .smaxFwd ∧ (fparam d).op = 5 ∨ d.kind = .smaxBwd ∧ (fparam d).op = 6 := by
  obtain ⟨h1, h2, h3, h4, h5, h6, h7⟩ := hf
  have hc := cls_of_kind d
  refine kind_fused ?_ ?_
  · by_contra h
    exact h2 (kind_fore (by simpa using h))
  · rcases hk : d.kind <;> simp_all

theorem fused_out0 (hf : d.fused) : outShape d 0 = d.shape ∧ d.writesOut 0 = true := by
  unfold outShape Desc.writesOut
  rcases fused_kind hf with h | h | h | h | h | h <;> rw [h.1] <;> exact ⟨rfl, rfl⟩

/-- OUT1 of a backward command: the column partials. -/
theorem fused_partials (hf : d.fused) (hs : (fparam d).stats = true) (ho : (fparam d).op = 3 ∨ (fparam d).op = 4) :
    outShape d 1 = ⟨d.n0, 2, d.shape.rowBlocks, 1⟩ ∧ d.writesOut 1 = true := by
  have hs : d.param.testBit 6 = true := hs
  unfold outShape Desc.writesOut
  rcases fused_kind hf with h | h | h | h | h | h
  · rcases ho with ho | ho <;> simp [ho] at h
  · omega
  · rw [h.1]; exact ⟨rfl, by simp [hs]⟩
  · rw [h.1]; exact ⟨rfl, by simp [hs]⟩
  · omega
  · omega

/-- OUT1 of the other commands with STATS: the statistics of their rows. -/
theorem fused_stats (hf : d.fused) (hs : (fparam d).stats = true) (h3 : (fparam d).op ≠ 3) (h4 : (fparam d).op ≠ 4) (h6 : (fparam d).op ≠ 6) :
    outShape d 1 = ⟨if (fparam d).op = 5 then 1 else 2, d.n1, d.n2, d.n3⟩ ∧ d.writesOut 1 = true := by
  have hs : d.param.testBit 6 = true := hs
  unfold outShape Desc.writesOut
  rcases fused_kind hf with h | h | h | h | h | h
  · have h5 : (fparam d).op ≠ 5 := fun h5 => by simp [h5] at h
    rw [h.1, if_neg h5]
    exact ⟨rfl, by simp [hs]⟩
  · rw [h.1, h.2]; exact ⟨rfl, by simp [hs]⟩
  · exact absurd h.2 h3
  · exact absurd h.2 h4
  · rw [h.1, h.2]; exact ⟨rfl, by simp [hs]⟩
  · exact absurd h.2 h6

/-- The outputs of the second pass: OUT0, and for a backward command OUT1. -/
def Desc.passOut (d : Desc) (i : Nat) : Prop := i = 0 ∨ (fparam d).op = 3 ∨ (fparam d).op = 4

theorem length_voidSlice (cl : Nat) (row : Coord) (n : Nat) : (voidSlice cl row n).els.length = n := List.length_replicate ..

/-- The rows of OUT0 that a tile of the second pass writes. -/
theorem passTwo_rows (t : Tile) (e : Entry) (s : State) :
    ∃ xs ys, TileSlices e.desc.shape t xs ∧ (passTwoEmits t e s).1 = ⟨4, e.desc.shape, xs⟩ :: ys ∧
      (ys = [] ∨ (fparam e.desc).stats = true ∧ ((fparam e.desc).op = 3 ∨ (fparam e.desc).op = 4) ∧
        ys = [⟨5, outShape e.desc 1, (partialSlices (readerIn s e e.desc.shape t.cluster) (fparam e.desc) t (voided e t.rb)).map (·.1)⟩]) := by
  unfold passTwoEmits
  extract_lets d r f ys side ms
  refine ⟨_, _, ?_, rfl, ?_⟩
  · unfold ys
    rw [List.map_map]
    refine tileSlices_map (fun c => ?_) fun c hc => ?_
    · simp only [Function.comp_apply]
      split <;> rfl
    · simp only [Function.comp_apply]
      split
      · rw [← hc]
        exact (List.length_map ..).trans (length_sliceCoords ..)
      · exact length_voidSlice ..
  · split
    · exact .inl rfl
    · rename_i hne
      right
      unfold side at hne ⊢
      split at hne
      · rename_i hs
        rw [if_pos hs]
        simp only [Bool.and_eq_true, Bool.or_eq_true, beq_iff_eq] at hs
        exact ⟨hs.1, hs.2, rfl⟩
      · simp at hne

/-- The column partials of a tile: rows 0 and 1 of its row block. -/
theorem partialSlices_rows (r : Reader) (f : FParam) (t : Tile) (v : Bool) :
    ∃ a b, (partialSlices r f t v).map (·.1) = [a, b] ∧ a.c = ⟨0, t.rb, 0, t.c.i0⟩ ∧ b.c = ⟨0, t.rb, 1, t.c.i0⟩ ∧
      a.els.length = min 64 (r.h.n0 - t.c.i0) ∧ b.els.length = min 64 (r.h.n0 - t.c.i0) := by
  unfold partialSlices
  dsimp only
  refine ⟨_, _, rfl, ?_, ?_, ?_, ?_⟩
  all_goals dsimp only [List.map_cons]
  all_goals cases v <;> simp [voidSlice, mapNotes]

theorem passTwoEmits_lands (hf : e.desc.fused) {t : Tile} (ht : t.In e.desc.shape) (s : State) :
    ∀ m ∈ (passTwoEmits t e s).1, Lands e.desc full e.desc.passOut m ∧ m.slices.Pairwise LaterRow := by
  obtain ⟨xs, ys, hx, hm, hy⟩ := passTwo_rows t e s
  obtain ⟨h0, hw0⟩ := fused_out0 hf
  rw [hm]
  intro m hm
  rcases List.mem_cons.1 hm with rfl | hm
  · refine ⟨?_, hx.later⟩
    rw [← h0] at hx ht ⊢
    exact rows_land (i := 0) (by decide) (.inl rfl) hw0 ht hx
  · rcases hy with rfl | ⟨hs, ho, rfl⟩
    · exact nomatch hm
    · obtain ⟨h1, hw1⟩ := fused_partials hf hs ho
      rw [List.mem_singleton.1 hm]
      obtain ⟨a, b, hab, ha, hb, hla, hlb⟩ := partialSlices_rows (readerIn s e e.desc.shape t.cluster) (fparam e.desc) t (voided e t.rb)
      rw [hab]
      have hi := ht.i0
      have hct := ht.ct
      unfold Shape.colTiles ceilDiv at hct
      have hn : (readerIn s e e.desc.shape t.cluster).h.n0 = e.desc.n0 := rfl
      have hn' : e.desc.shape.n0 = e.desc.n0 := rfl
      rw [hn] at hla hlb
      have fits : ∀ c : OutSlice, c.els.length = min 64 (e.desc.n0 - t.c.i0) → ∀ w < 2, c.c = ⟨0, t.rb, w, t.c.i0⟩ →
          SliceFits (outShape e.desc 1) (e.desc.slot 5) c := by
        intro c hl w hw hc
        rw [h1]
        refine ⟨by omega, ?_, ?_, ?_, ?_, fun _ => ?_⟩ <;> simp only [hc]
        · omega
        · exact hw
        · exact ht.rb
        · exact Nat.one_pos
        · omega
      refine ⟨⟨1, by decide, .inr ho, rfl, hw1, fun _ => ⟨rfl, fun sl hsl => ?_⟩⟩, ?_⟩
      · simp only [List.mem_cons, List.not_mem_nil, or_false] at hsl
        rcases hsl with rfl | rfl
        · exact fits _ hla 0 (by decide) ha
        · exact fits _ hlb 1 (by decide) hb
      · refine List.pairwise_pair.2 ⟨?_, ?_, ?_, ?_⟩ <;> simp [ha, hb]

/-! ## Statistics -/

/-- The output of the rows' statistics: OUT1 of a command that is not backward. -/
def Desc.statOut (d : Desc) (i : Nat) : Prop := i = 1 ∧ (fparam d).op ≠ 3 ∧ (fparam d).op ≠ 4

theorem passOut_statOut {i : Nat} (h : d.passOut i) (k : d.statOut i) : False := by
  obtain ⟨rfl, h3, h4⟩ := k
  rcases h with h | h | h
  · exact absurd h (by decide)
  · exact h3 h
  · exact h4 h

theorem statSlice_length (f : FParam) (rb : Nat) (x : Coord × Option RowStat) :
    (statSlice s f rb x).c = x.1 ∧ (statSlice s f rb x).els.length = if f.op = 5 then 1 else 2 := by
  unfold statSlice
  dsimp only
  split
  · exact ⟨rfl, length_voidSlice ..⟩
  · split <;> exact ⟨rfl, rfl⟩

theorem statEmits_lands (hf : e.desc.fused) {rb : Nat} (hr : rb < e.desc.shape.rowBlocks) (s : State) :
    ∀ m ∈ statEmits rb e s, Lands e.desc full e.desc.statOut m := by
  intro m hm
  unfold statEmits at hm
  dsimp only at hm
  split at hm
  · exact nomatch hm
  · rename_i hc
    simp only [Bool.or_eq_true, Bool.not_eq_true', beq_iff_eq, not_or, Bool.not_eq_false] at hc
    obtain ⟨⟨⟨hs, h3⟩, h4⟩, h6⟩ := hc
    obtain ⟨h1, hw1⟩ := fused_stats hf hs h3 h4 h6
    rw [List.mem_singleton.1 hm]
    refine ⟨1, by decide, ⟨rfl, h3, h4⟩, rfl, hw1, fun _ => ⟨rfl, fun sl hsl => ?_⟩⟩
    obtain ⟨c, hc, rfl⟩ := List.mem_map.1 hsl
    have hb := mem_blockRows hr hc
    obtain ⟨hcc, hl⟩ := statSlice_length (s := s) (fparam e.desc) rb (c, rowStatOf e rb c)
    rw [h1]
    refine ⟨?_, ?_, ?_, ?_, ?_, fun _ => ?_⟩ <;> simp only [hcc, hl, hb.i0]
    · split <;> decide
    · exact (Nat.zero_add _).le
    · exact hb.i1
    · exact hb.i2
    · exact hb.i3

end Sys2Proof.Machine
end

section
/-! SUPPORT. A step of a cluster writes what its tile writes, into the outputs of its command alone, and leaves it in the scratchpad (R128, R212,
R243, R274). -/

namespace Sys2Proof.Machine

variable {s t u : State} {O P : Nat → Prop} {full : Bool} {e : Entry} {d : Desc} {A : Nat → Prop}

/-! ## What a step writes -/

/-- The outputs that the steps of a command write before its row blocks are formed. -/
def Desc.workOut (d : Desc) (i : Nat) : Prop := ((d.kind = .chain ∨ d.kind = .fore) → d.tileOut i) ∧ (d.fused → d.passOut i)

/-- A chain that has passed its checks, if the command is one. -/
def ChainFits (d : Desc) : Prop := (d.kind = .chain ∨ d.kind = .fore) → chainBad d = false

theorem workOut_chain (hk : d.kind = .chain ∨ d.kind = .fore) {i : Nat} (h : d.tileOut i) : d.workOut i :=
  ⟨fun _ => h, fun hf => by rcases hk with hk | hk; exacts [absurd hk hf.1, absurd hk hf.2.1]⟩

theorem workOut_fused (hf : d.fused) {i : Nat} (h : d.passOut i) : d.workOut i :=
  ⟨fun hk => by rcases hk with hk | hk; exacts [absurd hk hf.1, absurd hk hf.2.1], fun _ => h⟩

theorem workOut_mac (hk : d.kind = .matmul ∨ d.kind = .store) (i : Nat) : d.workOut i := by
  refine ⟨fun h => ?_, fun hf => ?_⟩
  · rcases hk with hk | hk <;> rcases h with h | h <;> rw [hk] at h <;> exact nomatch h
  · obtain ⟨-, -, h3, -, h5, -⟩ := hf
    rcases hk with hk | hk
    · exact absurd hk h3
    · exact absurd hk h5

theorem matmul_outShape (hk : d.kind = .matmul) : outShape d 0 = d.shapeC := by
  unfold outShape
  rw [hk]
  rfl

theorem store_outShape (hk : d.kind = .store) : outShape d 0 = slipShape ∧ d.writesOut 0 = true := by
  unfold outShape Desc.writesOut
  rw [hk]
  exact ⟨rfl, rfl⟩

theorem matmul_writes (hk : d.kind = .matmul) (hd : (mparam d).drain = true) : d.writesOut 0 = true := by
  have hd : d.param.testBit 4 = true := hd
  unfold Desc.writesOut
  rw [hk]
  simp [hd]

/-- The tile of a drain lies in OUT0. -/
theorem drainEmits_land {t : Tile} {h : Shape} (ht : t.In h) (hk : d.kind = .matmul ∨ d.kind = .store) (hs : outShape d 0 = h)
    (hw : d.writesOut 0 = true) (x : SlipTile) (e : Entry) (s : State) :
    ∀ m ∈ (drainEmits t x h e s).1, Lands d full d.workOut m ∧ m.slices.Pairwise LaterRow := by
  obtain ⟨xs, hx, hm⟩ := drainEmits_rows t x h e s
  subst hs
  rw [hm]
  intro m hm
  rw [List.mem_singleton.1 hm]
  exact ⟨rows_land (i := 0) (by decide) (workOut_mac hk 0) hw ht hx, hx.later⟩

/-- What a step writes lies in the outputs of the steps of its command. -/
theorem workEmits_lands {w : Work} (hw : w.Suits e.desc) (hf : full = true → ChainFits e.desc) (s : State) :
    ∀ m ∈ workEmits w e s, Lands e.desc full e.desc.workOut m := by
  cases w with
  | slab | load | key => exact fun _ h => nomatch h
  | chain t =>
    obtain ⟨hk, ht⟩ := hw
    exact fun m hm => (chainEmits_lands hk rfl (fun h => ⟨hf h hk, ht⟩) m hm).mono fun i => workOut_chain hk
  | product t n =>
    obtain ⟨hk, ht⟩ := hw
    unfold workEmits
    dsimp only
    split
    · rename_i hd
      exact fun m hm => (drainEmits_land ht (.inl hk) (matmul_outShape hk) (matmul_writes hk hd) _ _ _ m hm).1
    · exact fun _ h => nomatch h
  | store l =>
    obtain ⟨hk, hl⟩ := hw
    exact fun m hm => (drainEmits_land (slipTile_in hl) (.inr hk) (store_outShape hk).1 (store_outShape hk).2 _ _ _ m hm).1
  | pass second t =>
    cases second with
    | false => exact fun _ h => nomatch h
    | true =>
      obtain ⟨hfu, ht⟩ := hw
      exact fun m hm => (passTwoEmits_lands hfu ht s m hm).1.mono fun i => workOut_fused hfu

/-- The slices that a step writes to an output are rows of it. -/
theorem workEmits_later {w : Work} (hw : w.Suits e.desc) (hf : ChainFits e.desc) (s : State) :
    ∀ m ∈ workEmits w e s, m.slices.Pairwise LaterRow := by
  cases w with
  | slab | load | key => exact fun _ h => nomatch h
  | chain t => exact chainEmits_later (hf hw.1) _ t
  | product t n =>
    obtain ⟨hk, ht⟩ := hw
    unfold workEmits
    dsimp only
    split
    · rename_i hd
      exact fun m hm => (drainEmits_land (full := true) ht (.inl hk) (matmul_outShape hk) (matmul_writes hk hd) _ _ _ m hm).2
    · exact fun _ h => nomatch h
  | store l =>
    obtain ⟨hk, hl⟩ := hw
    exact fun m hm => (drainEmits_land (full := true) (slipTile_in hl) (.inr hk) (store_outShape hk).1 (store_outShape hk).2 _ _ _ m hm).2
  | pass second t =>
    cases second with
    | false => exact fun _ h => nomatch h
    | true =>
      obtain ⟨hfu, ht⟩ := hw
      exact fun m hm => (passTwoEmits_lands (full := true) hfu ht s m hm).2

/-- A step writes to each output once. -/
theorem workEmits_slots (w : Work) (e : Entry) (s : State) : (workEmits w e s).Pairwise (fun m n => m.slot ≠ n.slot) := by
  cases w with
  | slab | load | key => exact .nil
  | chain t => exact emitsOf_slots ..
  | product t n =>
    unfold workEmits
    dsimp only
    split
    · exact List.pairwise_singleton ..
    · exact .nil
  | store l => exact List.pairwise_singleton ..
  | pass second t =>
    cases second with
    | false => exact .nil
    | true =>
      obtain ⟨xs, ys, -, hm, hy⟩ := passTwo_rows t e s
      change (passTwoEmits t e s).1.Pairwise _
      rw [hm]
      rcases hy with rfl | ⟨-, -, rfl⟩
      · exact List.pairwise_singleton ..
      · exact List.pairwise_pair.2 (show (4 : Nat) ≠ 5 by decide)

/-! ## How it writes -/

/-- A tile writes outputs, where nothing of the scratchpad and the manifest has changed before. -/
structure Tiled (e : Entry) (s : State) (ms : List Emit) (t : State) : Prop where
  tile : ∃ delta rb c x n sent e1 s1, t = (closeTile delta rb c x ms n sent e1 s1).2 ∧ SameCommand e e1 ∧ s1.sp.mem = s.sp.mem ∧
    s1.man = s.man

theorem closeTile_tiled {delta rb c : Nat} {x : Coord} {ms : List Emit} {n : Notes} {sent : List (Coord × PVal)} {e e1 : Entry} {s s1 : State}
    (he : SameCommand e e1) (hm : s1.sp.mem = s.sp.mem) (hs : s1.man = s.man) :
    Tiled e s ms (closeTile delta rb c x ms n sent e1 s1).2 :=
  ⟨⟨delta, rb, c, x, n, sent, e1, s1, rfl, he, hm, hs⟩⟩

/-- A step that is not a k-slab of an unfinished tile closes a tile. -/
theorem runWork_tiled (delta : Nat) {w : Work} (hw : ∀ g, w ≠ .slab g) (e : Entry) (s : State) :
    Tiled e s (workEmits w e s) (runWork delta w e s).2 := by
  cases w with
  | slab g => exact absurd rfl (hw g)
  | chain t => exact closeTile_tiled (by constructor <;> rfl) rfl rfl
  | product t n =>
    have h : workEmits (.product t n) e s = (if (mparam e.desc).drain then drainEmits t
        (slipWrite (matmulCells s e t (sget [] s.arr.slips (slipKey t.cluster (slipOf e.desc.slip n)))).1
          (sget [] s.arr.slips (slipKey t.cluster (slipOf e.desc.slip n)))) e.desc.shapeC e s else ([], Notes.none)).1 := by
      unfold workEmits
      dsimp only
      split <;> rfl
    rw [h]
    exact closeTile_tiled (.refl e) rfl rfl
  | load l => exact closeTile_tiled (.refl e) rfl rfl
  | store l => exact closeTile_tiled (.refl e) rfl rfl
  | pass second t =>
    cases second with
    | true => exact closeTile_tiled (.refl e) rfl rfl
    | false =>
      change Tiled e s [] (passOneTile delta t e s).2
      unfold passOneTile
      split
      · unfold ladderTile
        exact closeTile_tiled (by constructor <;> rfl) rfl rfl
      · unfold statsTile
        dsimp only
        split
        · exact closeTile_tiled (by constructor <;> rfl) rfl rfl
        · exact closeTile_tiled (by constructor <;> rfl) rfl rfl
  | key rb kt =>
    exact closeTile_tiled (by constructor <;> rfl) (attnSlips_quiet ..).mem (attnSlips_near ..).man

/-- What a tile writes changes those bytes alone. -/
theorem Tiled.spared {ms : List Emit} (h : Tiled e s ms t) (hl : ∀ m ∈ ms, Lands e.desc full O m) : Spared (e.desc.area full O) s t := by
  obtain ⟨delta, rb, c, x, n, sent, e1, s1, rfl, he, hm, -⟩ := h
  refine Spared.after (closeTile_spared fun m hmm a ha => ?_) (.of_mem hm)
  rw [← he.desc]
  exact Lands.touches (e := e1) (by rw [he.desc]; exact hl m hmm) ha

/-- An output that lands somewhere lands in its own slot. -/
theorem Lands.own {m : Emit} (h : Lands d full O m) : Lands d full (fun i => m.slot = 4 + i) m := by
  obtain ⟨i, hi, -, hs, hw, hf⟩ := h
  exact ⟨i, hi, hs, hs, hw, hf⟩

/-- Outputs of different slots share no byte. -/
theorem Lands.apart {m n : Emit} (hm : Lands e.desc true O m) (hn : Lands e.desc true P n) (ht : e.desc.Tidy) (hs : m.slot ≠ n.slot) (a : Nat)
    (h : Touches s e m a) : ¬Touches s e n a := fun k =>
  ht.area_apart (fun _ hi hj => hs (hi.trans hj.symm)) (hm.own.touches h) (hn.own.touches k)

/-- What a tile writes stands in the scratchpad. -/
theorem Tiled.written {ms : List Emit} (h : Tiled e s ms t) (hl : ∀ m ∈ ms, Lands e.desc true O m) (hr : ∀ m ∈ ms, m.slices.Pairwise LaterRow)
    (hp : ms.Pairwise (fun m n => m.slot ≠ n.slot)) (ht : e.desc.Tidy) : ∀ m ∈ ms, Written s e m t := by
  obtain ⟨delta, rb, c, x, n, sent, e1, s1, rfl, he, -, hman⟩ := h
  intro m hm
  rw [← written_congr hman he]
  refine closeTile_written (fun k hk => ?_) ?_ m hm
  · exact Lands.runsApart (O := O) (by rw [he.desc]; exact hl k hk) (by rw [he.desc]; exact ht) (hr k hk) s1
  · refine List.Pairwise.imp_of_mem (fun {a b} ha hb hab => ?_) hp
    intro y hy
    rw [touches_congr hman he] at hy ⊢
    exact (hl a ha).apart (hl b hb) ht hab y hy

/-! ## Steps -/

theorem runWork_spared (delta : Nat) {w : Work} (hw : w.Suits e.desc) (hf : full = true → ChainFits e.desc) (s : State) :
    Spared (e.desc.area full e.desc.workOut) s (runWork delta w e s).2 := by
  by_cases h : ∃ g, w = .slab g
  · obtain ⟨g, rfl⟩ := h
    exact .refl _ _
  · exact (runWork_tiled delta (fun g hg => h ⟨g, hg⟩) e s).spared (workEmits_lands hw hf s)

theorem runWork_written (delta : Nat) {w : Work} (hw : w.Suits e.desc) (hf : ChainFits e.desc) (ht : e.desc.Tidy) (s : State) :
    ∀ m ∈ workEmits w e s, Written s e m (runWork delta w e s).2 := by
  by_cases h : ∃ g, w = .slab g
  · obtain ⟨g, rfl⟩ := h
    exact fun _ h => nomatch h
  · exact (runWork_tiled delta (fun g hg => h ⟨g, hg⟩) e s).written (workEmits_lands hw (fun _ => hf) s) (workEmits_later hw hf s)
      (workEmits_slots w e s) ht

theorem runWorks_spared (delta : Nat) {ws : List Work} (hw : ∀ w ∈ ws, w.Suits e.desc) (hf : full = true → ChainFits e.desc) (s : State) :
    Spared (e.desc.area full e.desc.workOut) s (runWorks delta ws e s).2.2 := by
  have key : ∀ (ws : List Work) (a : Nat × (Entry × State)), (∀ w ∈ ws, w.Suits e.desc) → SameCommand e a.2.1 →
      Spared (e.desc.area full e.desc.workOut) a.2.2 (ws.foldl (fun (a : Nat × (Entry × State)) w =>
        let now := workWrites e.desc w
        (if now then 0 else a.1, runWork (if now then a.1 else 0) w a.2.1 a.2.2)) a).2.2 := by
    intro ws
    induction ws with
    | nil => exact fun a _ _ => .refl _ _
    | cons w ws ih =>
      intro a hw he
      refine Spared.trans ?_ (ih _ (fun v hv => hw v (List.mem_cons_of_mem _ hv)) (he.trans (runWork_worked _ w a.2.1 a.2.2).toSameCommand))
      have := runWork_spared (e := a.2.1) (full := full) (if workWrites e.desc w then a.1 else 0) (w := w)
        (by rw [he.desc]; exact hw w (List.mem_cons_self ..)) (by rw [he.desc]; exact hf) a.2.2
      rwa [he.desc] at this
  exact key ws (delta, (e, s)) hw (.refl e)

end Sys2Proof.Machine
end

section
/-! SUPPORT. What a boundary has met before it issues: the region caches' sectors, a deadline that has passed, and the errors of a step's reads;
the plan of the command does not depend on them (R62, R274, R289, R311). -/

namespace Sys2Proof.Machine

variable {s t u : State} {e x : Entry} {d : Desc} {A : Nat → Prop}

/-! ## The plan -/

/-- The plan of a command is a matter of the manifest in force. -/
theorem planOf_congr (h : t.man = s.man) (e : Entry) : planOf t e = planOf s e := by
  have hp : protection t = protection s := protection_congr (congrArg ManUnit.active h)
  simp only [planOf, execClusters, stepsOf, cacheRegions, chainSpan, fusedItems, attnItems, writerOf_congr h, rowSpan_congr h, hp] <;> rfl

theorem errorOf_congr (h : t.man = s.man) (e : Entry) (env : RunEnv) : errorOf t e env = errorOf s e env := by
  unfold errorOf
  rw [protection_congr (congrArg ManUnit.active h)]

/-- An entry that differs in what the reads of a step lost and in its report, but for the charge. -/
structure Met (e x : Entry) : Prop where
  rest : x = { e with bad := x.bad, res := x.res }
  charged : x.res.charged = e.res.charged

theorem Met.refl (e : Entry) : Met e e := ⟨rfl, rfl⟩

theorem Met.trans {y : Entry} (h : Met e x) (k : Met x y) : Met e y := ⟨by rw [k.rest, h.rest], k.charged.trans h.charged⟩

theorem Met.worked (h : Met e x) : Worked e x := by
  obtain ⟨h1, h2⟩ := h
  rw [h1]
  exact ⟨⟨rfl, rfl, rfl, rfl, rfl, rfl, rfl⟩, rfl, rfl, rfl, rfl, h2, id⟩

theorem Met.plan (h : Met e x) (s : State) : planOf s x = planOf s e := by
  rw [h.rest]
  rfl

theorem Met.errorOf (h : Met e x) (s : State) (env : RunEnv) : Machine.errorOf s x env = Machine.errorOf s e env := by
  rw [h.rest]
  rfl

theorem lateCheck_met (w : Nat) (e : Entry) (s : State) : Met e (lateCheck w e s).1 := by
  unfold lateCheck
  split
  · split
    · exact ⟨rfl, rfl⟩
    · exact .refl e
  · exact .refl e

theorem restMeet_met (r : RestErr) (a : Entry × State) : Met a.1 (restMeet r a).1 := by
  unfold restMeet
  dsimp only
  split
  · exact ⟨rfl, rfl⟩
  · exact .refl _
  · exact .refl _
  · exact .refl _
  · exact .refl _

theorem meetStep_met (env : RunEnv) (e : Entry) (s : State) : Met e (meetStep env e s).1 := by
  unfold meetStep
  exact List.foldlRecOn env.rest _ (motive := fun (a : Entry × State) => Met e a.1) (.refl e) (fun a ha r _ => ha.trans (restMeet_met r a))

/-! ## Lateness -/

/-- On time, or late before, nothing is noted. -/
theorem lateCheck_none {w : Nat} (h : OnTime s e ∨ e.res.late = true) : lateCheck w e s = (e, s) := by
  unfold lateCheck
  split
  · rename_i d hd
    rw [if_neg]
    rintro ⟨hlt, hl⟩
    rcases h with h | h
    · exact absurd (h d hd) (by omega)
    · exact hl h
  · rfl

/-- A granule that comes late is noted once, with its event (R62). -/
theorem lateCheck_late {w d : Nat} (hm : mainStopped s = false) (hd : deadlineNow s e = some d) (hlt : d < s.crs.tide)
    (hl : e.res.late = false) : lateCheck w e s = ({ e with res := { e.res with late := true } },
      { s with evt := logEvent s.evt ⟨0x01, some (e.berth, e.seq), s.crs.tide, s.crs.tide % 2 ^ 64, w % 2 ^ 64⟩ }) := by
  have hup := mainDown_of_running hm
  unfold lateCheck
  rw [hd]
  dsimp only
  rw [if_pos ⟨hlt, by simp [hl]⟩]
  unfold raise tideNow
  simp [hup, evDeadlineMiss]

/-! ## Region caches -/

/-- From an entry to one that has taken sectors and perhaps a mark of lateness, and from a state to one with that event. -/
structure Hit (e x : Entry) (s t : State) : Prop where
  entry : x = { e with got := x.got, held := x.held, bad := x.bad, res := x.res }
  charged : x.res.charged = e.res.charged
  state : t = { s with evt := t.evt }

theorem takeHits_fields (s : State) (e : Entry) :
    takeHits s e = { e with got := (takeHits s e).got, held := (takeHits s e).held, bad := (takeHits s e).bad } :=
  takeHits_onlyBuffers s e

theorem lateCheck_evt (hm : mainStopped s = false) (w : Nat) (e : Entry) :
    (lateCheck w e s).2 = { s with evt := (lateCheck w e s).2.evt } := by
  have hup := mainDown_of_running hm
  unfold lateCheck
  split
  · split
    · unfold raise
      simp [hup]
    · rfl
  · rfl

theorem hitGranules_hit (hm : mainStopped s = false) (e : Entry) : Hit e (hitGranules e s).1 s (hitGranules e s).2 := by
  have hb := takeHits_fields s e
  unfold hitGranules
  dsimp only
  split
  · have hl := lateCheck_met 0 (takeHits s e) s
    refine ⟨?_, ?_, lateCheck_evt hm 0 _⟩
    · rw [hl.rest, hb]
    · rw [hl.charged, hb]
  · refine ⟨?_, ?_, rfl⟩
    · rw [hb]
    · rw [hb]

/-- Nothing is noted where no granule came, or none too late. -/
theorem hitGranules_timely (h : granuleCame s e (takeHits s e) = false ∨ OnTime s e ∨ e.res.late = true) :
    hitGranules e s = (takeHits s e, s) := by
  have hb := takeHits_fields s e
  unfold hitGranules
  dsimp only
  split
  · rename_i hc
    refine lateCheck_none ?_
    rcases h with h | h | h
    · rw [h] at hc
      exact nomatch hc
    · left
      intro d hd
      rw [hb] at hd
      exact h d hd
    · right
      rw [hb]
      exact h
  · rfl

/-- A granule that the caches complete after the deadline is late (R62). -/
theorem hitGranules_late {d : Nat} (hm : mainStopped s = false) (hc : granuleCame s e (takeHits s e) = true) (hd : deadlineNow s e = some d)
    (hlt : d < s.crs.tide) (hl : e.res.late = false) : (hitGranules e s).1.res.late = true ∧ (hitGranules e s).2 =
      { s with evt := logEvent s.evt ⟨0x01, some (e.berth, e.seq), s.crs.tide, s.crs.tide % 2 ^ 64, 0⟩ } := by
  have hb := takeHits_fields s e
  have hk : (takeHits s e).berth = e.berth ∧ (takeHits s e).seq = e.seq ∧ (takeHits s e).res = e.res := by
    rw [hb]
    exact ⟨rfl, rfl, rfl⟩
  have hd' : deadlineNow s (takeHits s e) = some d := by
    rw [hb]
    exact hd
  unfold hitGranules
  dsimp only
  rw [if_pos hc, lateCheck_late hm hd' hlt (by rw [hk.2.2]; exact hl), hk.1, hk.2.1]
  exact ⟨rfl, rfl⟩

end Sys2Proof.Machine
end

section
/-! SUPPORT. One step of a command whose clusters run in step: what it leaves of the entry and of the scratchpad, and what it writes (R39, R61,
R274, R281, R297). -/

namespace Sys2Proof.Machine

variable {s t u : State} {e x : Entry} {d : Desc} {A : Nat → Prop} {full : Bool} {env : RunEnv} {p : Plan}

/-! ## What a step meets -/

/-- A command and the state once the reads of its step are made: charged, with what they lost, and late where it reads no job memory. -/
def metStep (env : RunEnv) (e : Entry) (s : State) : Entry × State :=
  let m := meetStep env (charge env e) s
  if readsJob e.desc then m else lateCheck 2 m.1 m.2

theorem metStep_met (env : RunEnv) (e : Entry) (s : State) : Met (charge env e) (metStep env e s).1 := by
  have h := meetStep_met env (charge env e) s
  unfold metStep
  dsimp only
  split
  · exact h
  · exact h.trans (lateCheck_met ..)

theorem metStep_near (env : RunEnv) (e : Entry) (s : State) : Near s (metStep env e s).2 := by
  have h := meetStep_near env (charge env e) s
  unfold metStep
  dsimp only
  split
  · exact h
  · exact h.trans (lateCheck_near ..)

theorem metStep_mem (env : RunEnv) (e : Entry) (s : State) : (metStep env e s).2.sp.mem = s.sp.mem := by
  have h := (meetStep_quiet env (charge env e) s).mem
  unfold metStep
  dsimp only
  split
  · exact h
  · exact (lateCheck_quiet ..).mem.trans h

/-- Reads without errors, and no lateness. -/
theorem metStep_quietEnv (h : QuietEnv env) (ht : readsJob e.desc = true ∨ OnTime s e) : metStep env e s = (charge env e, s) := by
  obtain ⟨h1, h2, h3⟩ := h
  have hm : meetStep env (charge env e) s = (charge env e, s) := by
    unfold meetStep readMeets
    rw [h1, h2, h3]
    rfl
  unfold metStep
  dsimp only
  rw [hm]
  split
  · rfl
  · rename_i hj
    exact lateCheck_none (.inl (ht.resolve_left hj))

/-- The plan after the reads is the plan before them. -/
theorem metStep_plan (env : RunEnv) (e : Entry) (s : State) : planOf (metStep env e s).2 (metStep env e s).1 = planOf s e := by
  rw [planOf_congr (metStep_near env e s).man, (metStep_met env e s).plan]
  rfl

theorem storeFault_state (env : RunEnv) (e : Entry) (s : State) : ∃ n, (storeFault env e s).2 = { s with free := n } := by
  unfold storeFault
  split <;> exact ⟨_, rfl⟩

theorem storeFault_quietEnv (h : QuietEnv env) (e : Entry) (s : State) : storeFault env e s = (env.storeDelta, s) := by
  obtain ⟨-, -, h3⟩ := h
  unfold storeFault
  rw [h3]
  rfl

theorem outputMeet_spared (r : RestErr) (a : Entry × State) : Spared A a.2 (outputMeet r a).2 := by
  unfold outputMeet
  dsimp only
  split
  · exact .refl _ _
  · split
    · exact .refl _ _
    · exact (setMark_quiet ..).spared
    · exact .refl _ _

theorem outputMeets_spared (rs : List RestErr) (a : Entry × State) : Spared A a.2 (rs.foldl (fun a r => outputMeet r a) a).2 :=
  List.foldlRecOn rs _ (motive := fun (b : Entry × State) => Spared A a.2 b.2) (.refl _ _) (fun b hb r _ => hb.trans (outputMeet_spared r b))

theorem outputMeets_emitted (rs : List RestErr) (a : Entry × State) : Emitted a.1 (rs.foldl (fun a r => outputMeet r a) a).1 :=
  Emitted.foldOn (fun (a : Entry × State) => a.1) (f := fun a r => outputMeet r a) (fun a r => outputMeet_emitted r a) rs a

theorem trimHeld_worked (s : State) (e : Entry) : Worked e (trimHeld s e) :=
  ⟨⟨rfl, rfl, rfl, rfl, rfl, rfl, rfl⟩, rfl, rfl, rfl, rfl, rfl, id⟩

/-! ## One step in every cluster -/

theorem mem_insertByKey {α : Type} {key : α → Nat} {x y : α} {xs : List α} (h : y ∈ insertByKey key x xs) : y = x ∨ y ∈ xs := by
  induction xs with
  | nil => exact .inl (List.mem_singleton.1 h)
  | cons z zs ih =>
    unfold insertByKey at h
    split at h
    · exact List.mem_cons.1 h
    · rcases List.mem_cons.1 h with h | h
      · exact .inr (h ▸ List.mem_cons_self ..)
      · exact (ih h).imp id (List.mem_cons_of_mem _)

theorem mem_of_mem_sortByKey {α : Type} {key : α → Nat} {y : α} {xs : List α} (h : y ∈ sortByKey key xs) : y ∈ xs := by
  induction xs with
  | nil => exact h
  | cons x xs ih =>
    rcases mem_insertByKey h with h | h
    · exact h ▸ List.mem_cons_self ..
    · exact List.mem_cons_of_mem _ (ih h)

/-- The next steps of a plan suit the command. -/
theorem nextWorks_suits {y : Nat × Granule × Work} (h : y ∈ nextWorks (planOf s e) x) : y.2.2.Suits e.desc := by
  obtain ⟨z, hz, h⟩ := List.mem_filterMap.1 h
  obtain ⟨w, hw, rfl⟩ := Option.map_eq_some_iff.1 h
  exact planOf_suits hz (List.mem_of_getElem? hw)

theorem Worked.at (h : Worked e x) (n : Nat) : Worked { e with pos := n } { x with pos := n } := by
  obtain ⟨hs, h1, -, h3, h4, h5, h6⟩ := h
  exact ⟨⟨hs.berth, hs.seq, hs.fore, hs.bytes, hs.crossing, hs.coll, hs.started⟩, h1, rfl, h3, h4, h5, h6⟩

/-- A step takes the command one position further. -/
theorem stepTogether_worked (p : Plan) (delta : Nat) (e : Entry) (s : State) :
    Worked { e with pos := e.pos + 1 } (stepTogether p delta e s).2.1 := by
  unfold stepTogether
  extract_lets ws x e0 e1 ahead done chain
  have h : Worked { e with pos := e.pos + 1 } e1 := (runWorks_worked delta ws e s).at _
  split
  · exact h.trans (chainBlocks_worked done x.1 e1 x.2.2)
  · exact h

/-- The row block of a chain's step is one of its shape. -/
theorem suits_block (hk : d.kind = .chain ∨ d.kind = .fore) {w : Work} (hw : w.Suits d) {rb : Nat} (h : w.block = some rb) :
    rb < d.shape.rowBlocks := by
  cases w with
  | slab | product | load | store => exact nomatch h
  | chain t => exact Option.some.inj h ▸ hw.2.rb
  | pass second t =>
    cases second with
    | false => exact Option.some.inj h ▸ hw.2.rb
    | true => exact nomatch h
  | key b kt =>
    have ha : d.kind = .attn := hw
    rcases hk with hk | hk <;> rw [ha] at hk <;> exact nomatch hk

/-- What the row blocks of a chain write besides its tiles. -/
def ResultsOnly (d : Desc) (full : Bool) (s t : State) : Prop :=
  (d.kind = .chain ∨ d.kind = .fore) ∧ Spared (d.area full d.resultOut) s t ∨ t.sp.mem = s.sp.mem

theorem ResultsOnly.spared (h : ResultsOnly d full s t) : Spared (d.area full anyOut) s t := by
  rcases h with ⟨-, h⟩ | h
  · exact h.mono fun _ => Desc.area_any
  · exact .of_mem h

/-- A step runs its tiles, and then forms row blocks. -/
theorem stepTogether_results (delta : Nat) (hf : full = true → e.desc.kind = .chain ∨ e.desc.kind = .fore → ResultsFit e.desc)
    (hp : ∀ y ∈ nextWorks p e, y.2.2.Suits e.desc) (s : State) :
    ResultsOnly e.desc full (runWorks delta ((nextWorks p e).map (fun x => x.2.2)) e s).2.2 (stepTogether p delta e s).2.2 := by
  unfold stepTogether
  extract_lets ws x e0 e1 ahead done chain
  split
  · rename_i hc
    have hk : e.desc.kind = .chain ∨ e.desc.kind = .fore := by
      simp only [chain, Bool.and_eq_true, Bool.or_eq_true, beq_iff_eq] at hc
      exact hc.1
    have he : SameCommand e e1 := (runWorks_worked delta ws e s).toSameCommand.trans (by constructor <;> rfl)
    refine .inl ⟨hk, (chainBlocks_spared (fun (a : Nat × (Entry × State)) => a.2) hk (fun h => hf h hk) (fun a rb => ⟨a.1, rfl⟩)
      (fun _ rb hrb => ?_) (b := (x.1, (e1, x.2.2))) he).2⟩
    obtain ⟨w, hw, hb⟩ := List.mem_filterMap.1 (List.mem_eraseDups.1 (List.mem_of_mem_filter (mem_of_mem_sortByKey hrb)))
    obtain ⟨y, hy, rfl⟩ := List.mem_map.1 hw
    exact suits_block hk (hp y hy) hb
  · exact .inr rfl

end Sys2Proof.Machine
end

section
/-! SUPPORT. A boundary at which a command whose clusters run in step goes on: its place, its charge, the issue, and what stands in the scratchpad
(R274, R281). -/

namespace Sys2Proof.Machine

variable {s t u : State} {e x : Entry} {d : Desc} {A : Nat → Prop} {full : Bool} {env : RunEnv} {p : Plan}

/-! ## The step as it is run -/

/-- The command and the state after its step, with what is left of a fault on the way to storage. -/
def ranTogether (env : RunEnv) (e : Entry) (s : State) : Nat × (Entry × State) :=
  let l := metStep env e s
  let f := storeFault env l.1 l.2
  runSteps (planOf l.2 l.1) 1 f.1 l.1 f.2

/-- After what its outputs met on the way, with what the front still needs. -/
def leftTogether (env : RunEnv) (e : Entry) (s : State) : Entry × State :=
  let y := env.rest.foldl (fun a r => outputMeet r a) (ranTogether env e s).2
  (trimHeld y.2 y.1, y.2)

theorem runTogether_clean (h : StepClean s e env) : runTogether false env e s =
    if allPast (planOf s e) (leftTogether env e s).1 then
      endTogether (ranTogether env e s).1 (leftTogether env e s).1 (setEntry (leftTogether env e s).1 (leftTogether env e s).2)
    else setEntry (leftTogether env e s).1 (leftTogether env e s).2 := by
  obtain ⟨h1, h2⟩ := h
  rw [← metStep_plan env e s]
  unfold runTogether
  rw [h1]
  simp only [h2, Bool.false_eq_true, ↓reduceIte]
  rfl

theorem runTogether_error {r : DetSrc × Nat} (h : errorOf s e env = some r) (w : Bool) : runTogether w env e s = detectedError r.1 r.2 e s := by
  unfold runTogether
  rw [h]

theorem runTogether_cap (h : errorOf s e env = none) (hc : overCap env e = true) (w : Bool) : runTogether w env e s = capEntry e s := by
  unfold runTogether
  rw [h]
  exact if_pos hc

theorem runSteps_one (p : Plan) (delta : Nat) (e : Entry) (s : State) :
    runSteps p 1 delta e s = if allPast p e then (delta, (e, s)) else stepTogether p delta e s := rfl

/-- A step, if one is ahead. -/
theorem ranTogether_eq (env : RunEnv) (e : Entry) (s : State) : ranTogether env e s =
    if allPast (planOf s e) (metStep env e s).1 then ((storeFault env (metStep env e s).1 (metStep env e s).2).1,
        ((metStep env e s).1, (storeFault env (metStep env e s).1 (metStep env e s).2).2))
    else stepTogether (planOf s e) (storeFault env (metStep env e s).1 (metStep env e s).2).1 (metStep env e s).1
      (storeFault env (metStep env e s).1 (metStep env e s).2).2 := by
  unfold ranTogether
  dsimp only
  rw [runSteps_one, metStep_plan]

/-! ## The entry after the step -/

theorem Met.next (h : Met e x) (c : Nat) : nextOf x c = nextOf e c := by
  rw [h.rest]
  rfl

theorem allPast_congr (h : ∀ c, nextOf x c = nextOf e c) (p : Plan) : allPast p x = allPast p e := by
  simp only [allPast, h]

theorem metStep_next (env : RunEnv) (e : Entry) (s : State) (c : Nat) : nextOf (metStep env e s).1 c = nextOf e c :=
  (metStep_met env e s).next c

/-- What stays of the entry, and where it stands after its step. -/
theorem leftTogether_worked (env : RunEnv) (e : Entry) (s : State) :
    Worked { charge env e with pos := if allPast (planOf s e) e then e.pos else e.pos + 1 } (leftTogether env e s).1 := by
  have hm := (metStep_met env e s).worked
  have hx : Worked { charge env e with pos := if allPast (planOf s e) e then e.pos else e.pos + 1 } (ranTogether env e s).2.1 := by
    rw [ranTogether_eq, allPast_congr (metStep_next env e s)]
    split
    · exact hm
    · have hpos : (metStep env e s).1.pos = e.pos := hm.pos
      refine Worked.trans ?_ (stepTogether_worked ..)
      rw [hpos]
      exact hm.at _
  exact (hx.trans (outputMeets_emitted env.rest _).worked).trans (trimHeld_worked ..)

theorem leftTogether_near (env : RunEnv) (e : Entry) (s : State) : Near s (leftTogether env e s).2 := by
  have hm := metStep_near env e s
  have hx : Near s (ranTogether env e s).2.2 := by
    rw [ranTogether_eq]
    split
    · exact hm.trans (storeFault_near ..)
    · exact (hm.trans (storeFault_near ..)).trans (stepTogether_near ..)
  exact hx.trans (outputMeets_near env.rest _)

/-! ## The scratchpad after the step -/

/-- What the checks of a descriptor settle of a chain, if the command is one. -/
def FitsAll (d : Desc) : Prop := (d.kind = .chain ∨ d.kind = .fore) → ResultsFit d

theorem FitsAll.chain (h : FitsAll d) : ChainFits d := fun hk => (h hk).bad

theorem Checked.grouped (h : Checked e) : e.desc.grouped = false := by
  have : e.desc.grouped = e.coll.isSome := rfl
  rw [this, h.alone]
  rfl

theorem Checked.fitsAll (h : Checked e) : FitsAll e.desc := fun hk => ⟨h.chain hk, h.grouped⟩

theorem metFault_mem (env : RunEnv) (e : Entry) (s : State) :
    (storeFault env (metStep env e s).1 (metStep env e s).2).2.sp.mem = s.sp.mem := by
  obtain ⟨n, h⟩ := storeFault_state env (metStep env e s).1 (metStep env e s).2
  rw [h]
  exact metStep_mem env e s

/-- A step changes no byte outside its command's outputs. -/
theorem leftTogether_spared (hf : full = true → FitsAll e.desc) (env : RunEnv) (s : State) :
    Spared (e.desc.area full anyOut) s (leftTogether env e s).2 := by
  have hd : (metStep env e s).1.desc = e.desc := (metStep_met env e s).worked.toSameCommand.desc
  have hx : Spared (e.desc.area full anyOut) s (ranTogether env e s).2.2 := by
    rw [ranTogether_eq]
    split
    · exact .of_mem (metFault_mem env e s)
    · have hsuit : ∀ y ∈ nextWorks (planOf s e) (metStep env e s).1, y.2.2.Suits (metStep env e s).1.desc := fun y hy => by
        rw [hd]
        exact nextWorks_suits hy
      have hw := runWorks_spared (e := (metStep env e s).1) (full := full) (storeFault env (metStep env e s).1 (metStep env e s).2).1
        (ws := (nextWorks (planOf s e) (metStep env e s).1).map (fun x => x.2.2))
        (fun w hw => by
          obtain ⟨y, hy, rfl⟩ := List.mem_map.1 hw
          exact hsuit y hy)
        (fun h => by rw [hd]; exact (hf h).chain) (storeFault env (metStep env e s).1 (metStep env e s).2).2
      have hr := stepTogether_results (e := (metStep env e s).1) (full := full) (p := planOf s e)
        (storeFault env (metStep env e s).1 (metStep env e s).2).1 (fun h => by rw [hd]; exact hf h) hsuit
        (storeFault env (metStep env e s).1 (metStep env e s).2).2
      rw [hd] at hw hr
      exact ((Spared.of_mem (metFault_mem env e s)).trans (hw.mono fun _ => Desc.area_any)).trans hr.spared
  exact hx.trans (outputMeets_spared env.rest _)

/-! ## What one cluster's step has written -/

theorem allPast_of_next {y : Nat × Granule × Work} (h : y ∈ nextWorks p e) : allPast p e = false := by
  obtain ⟨z, hz, h⟩ := List.mem_filterMap.1 h
  obtain ⟨w, hw, -⟩ := Option.map_eq_some_iff.1 h
  refine List.all_eq_false.2 ⟨z, hz, ?_⟩
  have := (List.getElem?_eq_some_iff.1 hw).1
  simpa using this

/-- What a step wrote stays while row blocks and results are written. -/
theorem Written.results {m : Emit} (h : Written s e m t) (hl : Lands e.desc true e.desc.workOut m) (ht : e.desc.Tidy) (hb : ChainFits e.desc)
    (k : ResultsOnly e.desc true t u) : Written s e m u := by
  rcases k with ⟨hk, k⟩ | k
  · refine h.spared k fun a ha hr => ht.area_apart (O := e.desc.workOut) (P := fun i => i < 2 ∧ e.desc.resultOut i) (fun i hi hj => ?_)
      (hl.touches ha) ?_
    · exact tileOut_resultOut (hb hk) hj.1 (hi.1 hk) hj.2
    · obtain ⟨i, hi, ho, k⟩ := hr
      exact ⟨i, hi, ⟨hi, ho⟩, k⟩
  · exact h.spared (A := fun _ => False) (.of_mem k) fun _ _ => id

theorem Checked.charged (h : Checked e) (env : RunEnv) : Checked (charge env e) := ⟨h.passed, h.alone, h.rows, h.widths⟩

theorem runWorks_single (delta : Nat) (w : Work) (e : Entry) (s : State) :
    (runWorks delta [w] e s).2 = runWork (if workWrites e.desc w then delta else 0) w e s := rfl

/-- Where one cluster alone issues, and nothing is met, the scratchpad holds what its tile writes. -/
theorem leftTogether_written {c : Nat} {g : Granule} {w : Work} (hc : Checked e) (hn : nextWorks (planOf s e) e = [(c, g, w)])
    (hq : QuietEnv env) (ht : readsJob e.desc = true ∨ OnTime s e) :
    ∀ m ∈ workEmits w (charge env e) s, Written s (charge env e) m (leftTogether env e s).2 := by
  have hmet := metStep_quietEnv (e := e) (s := s) hq ht
  have hpast : allPast (planOf s e) (charge env e) = false := allPast_of_next (e := e) (y := (c, g, w)) (by rw [hn]; exact List.mem_singleton.2 rfl)
  have hnext : nextWorks (planOf s e) (charge env e) = [(c, g, w)] := hn
  have hsuit : ∀ y ∈ nextWorks (planOf s e) (charge env e), y.2.2.Suits (charge env e).desc := fun y hy => nextWorks_suits hy
  have hx := hc.charged env
  have hran : (leftTogether env e s).2 = (stepTogether (planOf s e) env.storeDelta (charge env e) s).2.2 := by
    unfold leftTogether
    dsimp only
    rw [hq.2.2, List.foldl_nil, ranTogether_eq, hmet, storeFault_quietEnv hq, if_neg (by rw [hpast]; decide)]
  intro m hm
  have hw := hsuit _ (by rw [hnext]; exact List.mem_singleton.2 rfl)
  have hr := stepTogether_results (e := charge env e) (full := true) (p := planOf s e) env.storeDelta (fun _ => hx.fitsAll) hsuit s
  rw [hnext, List.map_singleton, runWorks_single] at hr
  rw [hran]
  exact (runWork_written _ hw hx.fitsAll.chain hx.tidy s m hm).results (workEmits_lands hw (fun _ => hx.fitsAll.chain) s m hm) hx.tidy
    hx.fitsAll.chain hr

/-! ## The end -/

theorem chainEnd_same (delta : Nat) (e : Entry) (s : State) : SameCommand e (chainEnd delta e s).1 := by
  unfold chainEnd
  extract_lets d x y ys
  have hx : SameCommand e x.1 := by
    unfold x
    split
    · exact SameCommand.foldOn (fun (a : Entry × State) => a.1) (fun a rb => chainBlock_same delta rb a.1 a.2) _ (e, s)
    · exact .refl e
  have hy : SameCommand e y.1 := hx.trans (finishPieces_emitted _ x.1 x.2).worked.toSameCommand
  split
  · exact hy
  · exact hy.trans (emitLate_same ..)

/-- The end of a command without a group: its last results, and then it has formed its outputs. -/
theorem endTogether_formed (delta : Nat) (ha : e.coll = none) (hf : full = true → FitsAll e.desc) (s : State) :
    ∃ y v, endTogether delta e s = formed y v ∧ SameCommand e y ∧ Near s v ∧ ResultsOnly e.desc full s v := by
  unfold endTogether
  split
  · rename_i hk
    refine ⟨(chainEnd delta e s).1, (chainEnd delta e s).2, ?_, chainEnd_same .., chainEnd_near .., .inl ⟨hk, chainEnd_spared delta hk (fun h => hf h hk) s⟩⟩
    simp [ha]
  · exact ⟨e, macHolds e s, rfl, .refl e, macHolds_near .., .inr (macHolds_quiet ..).mem⟩

end Sys2Proof.Machine
end

section
/-! SUPPORT. A boundary of a command whose clusters run in step: it is suspended, waits, stands aside or goes on, and forms its outputs after its
last position (R274, R281, R302, R359). -/

namespace Sys2Proof.Machine

variable {s t u : State} {e x : Entry} {d : Desc} {A : Nat → Prop} {full : Bool} {env : RunEnv} {p : Plan}

/-! ## The branches of the boundary -/

theorem boundaryTogether_fault (h : (e.pos % stepsPerTile e = 0 ∧ writeFaulted e = true) ∨ (nextGranules s e).any (granuleFaulted e) = true) :
    boundaryTogether env e s = releaseIssue e.berth (setEntry { e with suspended := true, aside := true } s) := by
  unfold boundaryTogether
  exact if_pos (by simpa [Bool.or_eq_true, Bool.and_eq_true] using h)

theorem boundaryTogether_free (h1 : ¬(e.pos % stepsPerTile e = 0 ∧ writeFaulted e = true))
    (h2 : ¬(nextGranules s e).any (granuleFaulted e) = true) : boundaryTogether env e s =
      if (nextGranules s e).all (granuleDone e) = true then
        (if areasFull s e = true then setEntry e s else runTogether false env e (setEntry e s))
      else if e.pos % stepsPerTile e = 0 then waitOrAside e s else setEntry e s := by
  have hc : ((decide (e.pos % stepsPerTile e = 0) && writeFaulted e) || (nextGranules s e).any (granuleFaulted e)) = false := by
    rw [Bool.or_eq_false_iff]
    exact ⟨by simpa using h1, by simpa using h2⟩
  unfold boundaryTogether
  dsimp only
  rw [hc]
  cases (nextGranules s e).all (granuleDone e) <;> simp

theorem waitOrAside_waits (h : ∀ b ∈ othersAfter e.berth, couldIssue s b = false) : waitOrAside e s = setEntry e s := by
  have hn : (othersAfter e.berth).find? (couldIssue s) = none := List.find?_eq_none.2 fun b hb => by simp [h b hb]
  unfold waitOrAside
  rw [hn]

/-- The first berth that could issue is chosen. -/
theorem waitOrAside_aside {b : Nat} (h : (othersAfter e.berth).find? (couldIssue s) = some b) : waitOrAside e s =
    { releaseIssue e.berth (setEntry { e with aside := true } s) with
      cq := { (releaseIssue e.berth (setEntry { e with aside := true } s)).cq with chosen := some b } } := by
  unfold waitOrAside
  rw [h]

theorem setEntry_onlyEntry (e : Entry) (s : State) : OnlyEntry e.berth e.seq s (setEntry e s) :=
  ⟨rfl, fun b q h => findEntry_setEntry_other e b q fun k => h (Prod.ext k.1 k.2)⟩

theorem releaseIssue_issuing {b : Nat} (h : s.cq.issuing = some b) : (releaseIssue b s).cq.issuing = none := if_pos h

theorem releaseIssue_found (b : Nat) {c q : Nat} : findEntry (releaseIssue b s) c q = findEntry s c q := findEntry_congr rfl

/-! ## A step that goes on -/

theorem nextOf_together (ha : runsApart e.desc = false) (c : Nat) : nextOf e c = e.pos := by
  unfold nextOf
  simp [ha]

theorem allPast_together (ha : runsApart e.desc = false) (p : Plan) : allPast p e = p.all (fun x => decide (x.2.length ≤ e.pos)) := by
  simp only [allPast, nextOf_together ha]

theorem not_allPast {n : Nat} (h : p.any (fun x => decide (n < x.2.length)) = true) : p.all (fun x => decide (x.2.length ≤ n)) = false := by
  obtain ⟨x, hx, hl⟩ := List.any_eq_true.1 h
  refine List.all_eq_false.2 ⟨x, hx, ?_⟩
  simpa using hl

theorem any_length_lt {n : Nat} (h : p.any (fun x => decide (n + 1 < x.2.length)) = true) : p.any (fun x => decide (n < x.2.length)) = true := by
  obtain ⟨x, hx, hl⟩ := List.any_eq_true.1 h
  refine List.any_eq_true.2 ⟨x, hx, ?_⟩
  have : n + 1 < x.2.length := by simpa using hl
  simpa using (by omega : n < x.2.length)

theorem leftTogether_same (env : RunEnv) (e : Entry) (s : State) : SameCommand e (leftTogether env e s).1 :=
  SameCommand.trans (by constructor <;> rfl) (leftTogether_worked env e s).toSameCommand

/-- The place of the command after its step. -/
theorem leftTogether_pos (ha : runsApart e.desc = false) (env : RunEnv) (s : State) :
    (leftTogether env e s).1.pos = if (planOf s e).any (fun x => decide (e.pos < x.2.length)) = true then e.pos + 1 else e.pos := by
  have hp : (leftTogether env e s).1.pos = if allPast (planOf s e) e then e.pos else e.pos + 1 := (leftTogether_worked env e s).pos
  rw [hp, allPast_together ha]
  by_cases h : (planOf s e).any (fun x => decide (e.pos < x.2.length)) = true
  · rw [if_pos h, not_allPast h]
    rfl
  · rw [if_neg h, if_pos]
    rw [List.all_eq_true]
    intro y hy
    have := mt (fun hl => List.any_eq_true.2 ⟨y, hy, hl⟩) h
    simpa using this

/-- Whether the step was the last. -/
theorem leftTogether_past (ha : runsApart e.desc = false) (env : RunEnv) (s : State) :
    allPast (planOf s e) (leftTogether env e s).1 = !((planOf s e).any (fun x => decide (e.pos + 1 < x.2.length))) := by
  have hs := leftTogether_same env e s
  rw [allPast_together (by rw [hs.desc]; exact ha), leftTogether_pos ha]
  by_cases h1 : (planOf s e).any (fun x => decide (e.pos + 1 < x.2.length)) = true
  · rw [if_pos (any_length_lt h1), not_allPast h1, h1]
    rfl
  · have h1 : (planOf s e).any (fun x => decide (e.pos + 1 < x.2.length)) = false := by simpa using h1
    rw [h1, Bool.not_false, List.all_eq_true]
    intro y hy
    have hy1 := List.any_eq_false.1 h1 y hy
    by_cases h : (planOf s e).any (fun x => decide (e.pos < x.2.length)) = true
    · rw [if_pos h]
      simpa using hy1
    · rw [if_neg h]
      have := mt (fun hl => List.any_eq_true.2 ⟨y, hy, hl⟩) h
      simpa using this

theorem planOf_setEntry (e x : Entry) (s : State) : planOf (setEntry x s) e = planOf s e := planOf_congr rfl e

theorem errorOf_setEntry (e x : Entry) (s : State) (env : RunEnv) : errorOf (setEntry x s) e env = errorOf s e env := errorOf_congr rfl e env

theorem StepClean.setEntry (h : StepClean s e env) (x : Entry) : StepClean (setEntry x s) e env := ⟨(errorOf_setEntry ..).trans h.1, h.2⟩

/-- One position further, with its charge; the issue stays. -/
theorem runTogether_goesOn (hc : StepClean s e env) (ha : runsApart e.desc = false) (hf : (findEntry s e.berth e.seq).isSome)
    (hn : (planOf s e).any (fun x => decide (e.pos + 1 < x.2.length)) = true) (hl : e.life = .taken) :
    ∃ y, findEntry (runTogether false env e (setEntry e s)) e.berth e.seq = some y ∧ y.bytes = e.bytes ∧ y.pos = e.pos + 1 ∧
      y.life = .taken ∧ y.res.charged = e.res.charged + env.cycles ∧
      (runTogether false env e (setEntry e s)).cq.issuing = s.cq.issuing ∧ (runTogether false env e (setEntry e s)).crs = s.crs ∧
      (runTogether false env e (setEntry e s)).man = s.man := by
  have hs := leftTogether_same env e (setEntry e s)
  have hnear := leftTogether_near env e (setEntry e s)
  have hw := leftTogether_worked env e (setEntry e s)
  have hpast := leftTogether_past ha env (setEntry e s)
  have hpos := leftTogether_pos ha env (setEntry e s)
  rw [planOf_setEntry] at hpast hpos
  rw [hn] at hpast
  rw [if_pos (any_length_lt hn)] at hpos
  rw [runTogether_clean (hc.setEntry e), planOf_setEntry, if_neg (by rw [hpast]; decide)]
  refine ⟨(leftTogether env e (setEntry e s)).1, ?_, hs.bytes, hpos, hw.life.trans hl, hw.charged, ?_, hnear.crs, hnear.man⟩
  · rw [← hs.berth, ← hs.seq]
    refine setEntry_found _ _ ?_
    rw [hs.berth, hs.seq, findEntry_congr (congrArg CqUnit.entries hnear.cq), setEntry_found e s hf]
    rfl
  · exact (congrArg CqUnit.issuing hnear.cq :)

/-! ## The last step -/

theorem Near.setEntry (h : Near s t) (x : Entry) : Near (setEntry x s) (setEntry x t) :=
  ⟨h.pending, h.man, h.crs, h.tow, h.ken, h.toll, h.pwr, h.hostp, h.sb, setEntry_cq h.cq⟩

/-- The end of the command after its last step. -/
theorem runTogether_last (hc : StepClean s e env) (ha : runsApart e.desc = false) (hcoll : e.coll = none)
    (hn : (planOf s e).any (fun x => decide (e.pos + 1 < x.2.length)) = false) (hf : full = true → FitsAll e.desc) :
    ∃ y v, runTogether false env e (setEntry e s) = formed y v ∧ SameCommand e y ∧
      Near (setEntry (leftTogether env e (setEntry e s)).1 (setEntry e s)) v ∧
      ResultsOnly e.desc full (leftTogether env e (setEntry e s)).2 v := by
  have hs := leftTogether_same env e (setEntry e s)
  have hnear := leftTogether_near env e (setEntry e s)
  have hpast := leftTogether_past ha env (setEntry e s)
  rw [planOf_setEntry, hn, Bool.not_false] at hpast
  rw [runTogether_clean (hc.setEntry e), planOf_setEntry, if_pos hpast]
  obtain ⟨y, v, h1, h2, h3, h4⟩ := endTogether_formed (full := full) (ranTogether env e (setEntry e s)).1 (e := (leftTogether env e (setEntry e s)).1)
    (hs.coll.trans hcoll) (by rw [hs.desc]; exact hf) (setEntry (leftTogether env e (setEntry e s)).1 (leftTogether env e (setEntry e s)).2)
  rw [hs.desc] at h4
  exact ⟨y, v, h1, hs.trans h2, Near.after h3 (hnear.setEntry _), h4⟩

theorem formed_mem (e : Entry) (s : State) : (formed e s).sp.mem = s.sp.mem := rfl

/-- A boundary that goes on changes no byte outside the command's outputs. -/
theorem runTogether_spared (hc : StepClean s e env) (ha : runsApart e.desc = false) (hcoll : e.coll = none) (hf : full = true → FitsAll e.desc) :
    Spared (e.desc.area full anyOut) s (runTogether false env e (setEntry e s)) := by
  have hl : Spared (e.desc.area full anyOut) s (leftTogether env e (setEntry e s)).2 := (leftTogether_spared hf env (setEntry e s)).after (.of_mem rfl)
  by_cases hn : (planOf s e).any (fun x => decide (e.pos + 1 < x.2.length)) = true
  · have hpast := leftTogether_past ha env (setEntry e s)
    rw [planOf_setEntry, hn] at hpast
    rw [runTogether_clean (hc.setEntry e), planOf_setEntry, if_neg (by rw [hpast]; decide)]
    exact hl.trans (.of_mem rfl)
  · obtain ⟨y, v, h1, -, -, h4⟩ := runTogether_last hc ha hcoll (by simpa using hn) hf
    rw [h1]
    exact (hl.trans h4.spared).trans (.of_mem (formed_mem y v))

theorem not_area_of_below {a : Nat} (h : ∀ i < 2, (d.slot (4 + i)).job = false → a < (d.slot (4 + i)).base) : ¬d.area full anyOut a := by
  rintro ⟨i, hi, -, -, hj, hb, -⟩
  have := h i hi hj
  omega

theorem not_area_of_unwritten (h : ∀ i < 2, (d.slot (4 + i)).job = true ∨ d.writesOut i = false) (a : Nat) : ¬d.area full anyOut a := by
  rintro ⟨i, hi, -, hw, hj, -⟩
  rcases h i hi with h | h
  · rw [h] at hj
    exact nomatch hj
  · rw [h] at hw
    exact nomatch hw

theorem fitsAll_mac (h : d.kind = .matmul ∨ d.kind = .store) : FitsAll d := fun hk => by
  rcases h with h | h <;> rw [h] at hk <;> rcases hk with hk | hk <;> exact nomatch hk

/-- After its last position a command without a group has formed its outputs. -/
theorem runTogether_forms (hc : StepClean s e env) (ha : runsApart e.desc = false) (hcoll : e.coll = none)
    (hf : (findEntry s e.berth e.seq).isSome) (hi : s.cq.issuing = some e.berth)
    (hn : (planOf s e).any (fun x => decide (e.pos + 1 < x.2.length)) = false) : Formed s e (runTogether false env e (setEntry e s)) := by
  obtain ⟨y, v, h1, hy, hv, -⟩ := runTogether_last (full := false) hc ha hcoll hn (fun h => nomatch h)
  have hs := leftTogether_same env e (setEntry e s)
  have hent : v.cq.entries = (setEntry (leftTogether env e (setEntry e s)).1 (setEntry e s)).cq.entries := congrArg CqUnit.entries hv.cq
  have hfound : (findEntry v y.berth y.seq).isSome := by
    rw [hy.berth, hy.seq, findEntry_congr hent, ← hs.berth, ← hs.seq, setEntry_found _ _ (by rw [hs.berth, hs.seq, setEntry_found e s hf]; rfl)]
    rfl
  have hsp : ∀ full, (full = true → FitsAll e.desc) → Spared (e.desc.area full anyOut) s (runTogether false env e (setEntry e s)) :=
    fun full => runTogether_spared hc ha hcoll
  rw [h1] at hsp ⊢
  obtain ⟨z, hz, hlife, hsame, -⟩ := formed_found y v hfound
  have hissue : v.cq.issuing = some y.berth := by
    rw [hy.berth, ← hi]
    exact (congrArg CqUnit.issuing hv.cq :)
  exact {
    entry := ⟨z, by rw [← hy.berth, ← hy.seq]; exact hz, hlife, hsame.bytes.trans hy.bytes, hsame.crossing.trans hy.crossing⟩
    others := fun b q hbq => by
      have h0 : ¬(b = e.berth ∧ q = e.seq) := fun k => hbq (Prod.ext k.1 k.2)
      have hk : findEntry (formed y v) b q = findEntry v b q := by
        refine (releaseIssue_found y.berth).trans (findEntry_setEntry_other _ b q ?_)
        change ¬(b = y.berth ∧ q = y.seq)
        rw [hy.berth, hy.seq]
        exact h0
      rw [hk, findEntry_congr hent, findEntry_setEntry_other _ b q (by rw [hs.berth, hs.seq]; exact h0), findEntry_setEntry_other e b q h0]
    issue := releaseIssue_issuing hissue
    below := fun a h => hsp false (fun h => nomatch h) a (not_area_of_below h)
    unwritten := fun h a => hsp false (fun h => nomatch h) a (not_area_of_unwritten h a)
    outside := fun h a hout => hsp true (fun _ => by
      rcases h with h | h
      · exact h.fitsAll
      · exact fitsAll_mac h.1) a (not_area_of_outside hout)
    pending := hv.pending
    man := hv.man
    crs := hv.crs
    tow := hv.tow
    ken := hv.ken
    toll := hv.toll
    pwr := hv.pwr
    hostp := hv.hostp
    sb := hv.sb
    wins := (congrArg CqUnit.wins hv.cq :)
    rings := (congrArg CqUnit.rings hv.cq :)
    vlen := (congrArg CqUnit.vlen hv.cq :) }

/-! ## What a lane reads does not depend on the queue -/

/-- The reader over the same state with another queue. -/
def Reader.withQueue (r : Reader) (c : CqUnit) : Reader := { r with s := { r.s with cq := c } }

section
variable (r : Reader) (c : CqUnit)

@[simp] theorem Reader.withQueue_e : (r.withQueue c).e = r.e := rfl
@[simp] theorem Reader.withQueue_d : (r.withQueue c).d = r.d := rfl
@[simp] theorem Reader.withQueue_h : (r.withQueue c).h = r.h := rfl
@[simp] theorem Reader.withQueue_copy : (r.withQueue c).copy = r.copy := rfl

@[simp] theorem numCfg_withQueue : numCfg (r.withQueue c).s = numCfg r.s := rfl
@[simp] theorem modeOf_withQueue : modeOf (r.withQueue c).s = modeOf r.s := rfl
@[simp] theorem laneDraw_withQueue : laneDraw (r.withQueue c) = laneDraw r := rfl
@[simp] theorem boundImage_withQueue : boundImage (r.withQueue c).s = boundImage r.s := rfl
@[simp] theorem badWord_withQueue : badWord (r.withQueue c).s = badWord r.s := rfl
@[simp] theorem recipeOf_withQueue : recipeOf (r.withQueue c).s = recipeOf r.s := rfl
@[simp] theorem element_withQueue : element (r.withQueue c).s = element r.s := rfl

@[simp] theorem elementAt_withQueue : elementAt (r.withQueue c).s = elementAt r.s := by
  funext e x h k
  rw [elementAt, element_withQueue, elementAt]

@[simp] theorem vectorAt_withQueue : vectorAt (r.withQueue c).s = vectorAt r.s := by
  funext e x n i k
  rw [vectorAt, element_withQueue, vectorAt]

@[simp] theorem opOperand_withQueue : opOperand (r.withQueue c) = opOperand r := by
  funext sel n i l
  simp [opOperand]

theorem stageConvert_withQueue (pos w : Nat) (sl : List Lane) : stageConvert (r.withQueue c) pos w sl = stageConvert r pos w sl := by
  simp [stageConvert, convertBlocks]

theorem stageAffine_withQueue (w : Nat) (sl : List Lane) : stageAffine (r.withQueue c) w sl = stageAffine r w sl := by
  simp [stageAffine]

theorem stageCompare_withQueue (w : Nat) (sl : List Lane) : stageCompare (r.withQueue c) w sl = stageCompare r w sl := by
  simp [stageCompare]

theorem stageBuiltin_withQueue (w : Nat) (sl : List Lane) : stageBuiltin (r.withQueue c) w sl = stageBuiltin r w sl := by
  simp [stageBuiltin]

theorem stageShape_withQueue (l w : Nat) (sl : List Lane) : stageShape (r.withQueue c) l w sl = stageShape r l w sl := by
  simp [stageShape]

theorem stageRecipe_withQueue (l w : Nat) (sl : List Lane) : stageRecipe (r.withQueue c) l w sl = stageRecipe r l w sl := by
  simp [stageRecipe]

theorem stagePermute_withQueue (w : Nat) (sl : List Lane) : stagePermute (r.withQueue c) w sl = stagePermute r w sl := by
  simp [stagePermute]

@[simp] theorem laneStage_withQueue : laneStage (r.withQueue c) = laneStage r := by
  funext l pos w sl
  simp only [laneStage, stageConvert_withQueue, stageAffine_withQueue, stageCompare_withQueue, stageBuiltin_withQueue, stageShape_withQueue,
    stageRecipe_withQueue, stagePermute_withQueue]

theorem runTile_withQueue (ws : List Nat) (t : Tile) : runTile (r.withQueue c) ws t = runTile r ws t := by
  simp [runTile, enterTile, tileStage]

theorem runEpilogue_withQueue (l : Nat) (ws : List (Nat × Nat)) (sl : List Lane) :
    runEpilogue (r.withQueue c) l ws sl = runEpilogue r l ws sl := by
  simp [runEpilogue]

theorem drainRow_withQueue (l : Nat) (k : Coord) (y : SlipTile) : drainRow (r.withQueue c) l k y = drainRow r l k y := by
  rw [drainRow, runEpilogue_withQueue]
  rfl

end

theorem readerIn_queue (c : CqUnit) (s : State) (x : Entry) (h : Shape) (l : Nat) :
    readerIn { s with cq := c } x h l = (readerIn s x h l).withQueue c := rfl

theorem drainEmits_queue (c : CqUnit) (t : Tile) (y : SlipTile) (h : Shape) (x : Entry) (s : State) :
    drainEmits t y h x { s with cq := c } = drainEmits t y h x s := by
  simp only [drainEmits, readerIn_queue, drainRow_withQueue]

theorem matmulCells_queue (c : CqUnit) (t : Tile) (y : SlipTile) (x : Entry) (s : State) :
    matmulCells { s with cq := c } x t y = matmulCells s x t y := rfl

/-! ## What one cluster's boundary has written -/

theorem fused_runsApart (h : d.fused) : runsApart d = true := by
  obtain ⟨h1, h2, h3, h4, h5, -, h7⟩ := h
  unfold runsApart
  split <;> simp_all

/-- What a step in step writes does not depend on the queue. -/
theorem workEmits_cq {w : Work} (hw : w.Suits e.desc) (ha : runsApart e.desc = false) (x : Entry) (c : CqUnit) (s : State) :
    workEmits w x { s with cq := c } = workEmits w x s := by
  cases w with
  | slab | load | key => rfl
  | chain t => simp only [workEmits, readerIn_queue, runTile_withQueue]
  | product t n => simp only [workEmits, drainEmits_queue, matmulCells_queue]
  | store l => simp only [workEmits, drainEmits_queue]
  | pass second t =>
    rw [fused_runsApart hw.1] at ha
    exact nomatch ha

theorem workEmits_setEntry {w : Work} (hw : w.Suits e.desc) (ha : runsApart e.desc = false) (x y : Entry) (s : State) :
    workEmits w x (setEntry y s) = workEmits w x s :=
  workEmits_cq hw ha x (setEntry y s).cq s

/-- Where one cluster alone issues, the scratchpad then holds what its tile writes. -/
theorem runTogether_holds {c : Nat} {g : Granule} {w : Work} (hc : StepClean s e env) (ha : runsApart e.desc = false) (hk : Checked e)
    (hw : nextWorks (planOf s e) e = [(c, g, w)]) (hq : QuietEnv env) (ht : readsJob e.desc = true ∨ OnTime s e) :
    Holds s (charge env e) (workEmits w (charge env e) s) (runTogether false env e (setEntry e s)) := by
  have hsuit : w.Suits e.desc := nextWorks_suits (s := s) (x := e) (y := (c, g, w)) (by rw [hw]; exact List.mem_singleton.2 rfl)
  have hx := hk.charged env
  intro m hm
  have hleft : Written s (charge env e) m (leftTogether env e (setEntry e s)).2 := by
    have := leftTogether_written (s := setEntry e s) hk (by rw [planOf_setEntry]; exact hw) hq ht m (by rw [workEmits_setEntry hsuit ha]; exact hm)
    rwa [written_congr (s := s) (t := setEntry e s) rfl (.refl (charge env e))] at this
  have hl := workEmits_lands (e := charge env e) hsuit (full := true) (fun _ => hx.fitsAll.chain) s m hm
  have hrest : ResultsOnly (charge env e).desc true (leftTogether env e (setEntry e s)).2 (runTogether false env e (setEntry e s)) := by
    by_cases hn : (planOf s e).any (fun x => decide (e.pos + 1 < x.2.length)) = true
    · have hpast := leftTogether_past ha env (setEntry e s)
      rw [planOf_setEntry, hn] at hpast
      rw [runTogether_clean (hc.setEntry e), planOf_setEntry, if_neg (by rw [hpast]; decide)]
      exact .inr rfl
    · obtain ⟨y, v, h1, -, -, h4⟩ := runTogether_last (full := true) hc ha hk.alone (by simpa using hn) (fun _ => hk.fitsAll)
      rw [h1]
      exact h4
  exact hleft.results hl hx.tidy hx.fitsAll.chain hrest

end Sys2Proof.Machine
end

section
/-! SUPPORT. Row blocks that are formed, offered to the towline and written by the finisher: the command keeps its place in every cluster and the
rows that it holds are rows of its shape; what is written lies in the outputs (R202, R208, R213, R249, R328). -/

namespace Sys2Proof.Machine

variable {s t u : State} {e x y : Entry} {d : Desc} {A : Nat → Prop} {full : Bool} {env : RunEnv} {p : Plan}

/-! ## What an entry keeps -/

/-- The rows of an entry in the finisher are rows of its shape. -/
def FinRows (e : Entry) : Prop :=
  ∀ f ∈ e.fin, f.1 / 16 < e.desc.shape.rowBlocks ∧ (e.desc.shape.blockRow (f.1 / 16)).i1 + f.1 % 16 < e.desc.n1

/-- What an entry keeps while rows pass: its command, its places, and that its rows are rows of its shape. -/
structure Rowed (e x : Entry) : Prop extends SameCommand e x where
  front : x.front = e.front
  fin : FinRows e → FinRows x
  wide : RowsWide e → RowsWide x

theorem Rowed.refl (e : Entry) : Rowed e e := ⟨.refl e, rfl, id, id⟩

theorem Rowed.trans (h : Rowed e x) (k : Rowed x y) : Rowed e y :=
  ⟨h.toSameCommand.trans k.toSameCommand, k.front.trans h.front, fun w => k.fin (h.fin w), fun w => k.wide (h.wide w)⟩

/-- A change of an entry that leaves its command, its places and its rows alone. -/
theorem Rowed.of_same (hs : SameCommand e x) (h1 : x.front = e.front) (h2 : x.fin = e.fin) (h3 : x.rows = e.rows) : Rowed e x :=
  ⟨hs, h1, fun h => by unfold FinRows; rw [h2, hs.desc]; exact h, fun h => by unfold RowsWide; rw [h3, hs.desc]; exact h⟩

theorem Emitted.rowed (h : Emitted e x) : Rowed e x := by
  obtain ⟨h1, -⟩ := h
  rw [h1]
  exact .of_same (by constructor <;> rfl) rfl rfl rfl

/-- From `s` to `t` rows of a command have been formed: the command stands in the queue and keeps its places and its rows; the crossing, the manifest
and the scratchpad stay. -/
structure Forms (e : Entry) (s t : State) : Prop where
  entry : ∃ y, findEntry t e.berth e.seq = some y ∧ Rowed e y
  crs : t.crs = s.crs
  man : t.man = s.man
  mem : t.sp.mem = s.sp.mem

theorem Forms.next (h : Forms e s t) (hr : Rowed e x) (k : Forms x t u) : Forms e s u := by
  obtain ⟨z, hz, hz'⟩ := k.entry
  exact ⟨⟨z, by rw [← hr.berth, ← hr.seq]; exact hz, hr.trans hz'⟩, k.crs.trans h.crs, k.man.trans h.man, k.mem.trans h.mem⟩

/-- What was formed of an entry that has changed a little. -/
theorem Forms.of_rowed (k : Forms x s t) (h : Rowed e x) : Forms e s t := by
  obtain ⟨z, hz, hz'⟩ := k.entry
  exact ⟨⟨z, by rw [← h.berth, ← h.seq]; exact hz, h.trans hz'⟩, k.crs, k.man, k.mem⟩

/-- An entry set in its place. -/
theorem setEntry_forms (h : Rowed e x) (hf : (findEntry s e.berth e.seq).isSome) : Forms e s (setEntry x s) :=
  ⟨⟨x, by rw [← h.berth, ← h.seq] at hf ⊢; exact setEntry_found x s hf, h⟩, rfl, rfl, rfl⟩

/-- A message leaves the queue alone. -/
theorem Forms.send (h : Forms e s t) (x : Entry) (rb : Nat) (ret void : Bool) (r : Nat) (bs : List Byte) : Forms e s (sendTow x rb ret void r bs t) :=
  ⟨h.entry, h.crs, h.man, (sendTow_quiet x rb ret void r bs t).mem.trans h.mem⟩

/-! ## Records for the towline -/

theorem releaseRows_rowed (rb : Nat) (n : FinStage) (e : Entry) : Rowed e (releaseRows rb n e) := by
  refine ⟨by constructor <;> rfl, rfl, fun h f hf => ?_, id⟩
  obtain ⟨g, hg, rfl⟩ := List.mem_map.1 hf
  have := h g hg
  split
  · exact this
  · exact this

theorem updTow_rowed (rb : Nat) (f : TowBlock → TowBlock) (e : Entry) : Rowed e (updTow rb f e) :=
  .of_same (by constructor <;> rfl) rfl rfl rfl

theorem withFlags_rowed (fl : Flags) (e : Entry) : Rowed e (withFlags fl e) := .of_same (withFlags_same fl e) rfl rfl rfl

theorem acceptFinal_forms {rb : Nat} {bs : List Byte} {delta : Nat} (hc : isChain e.desc = false) (hf : (findEntry s e.berth e.seq).isSome) :
    Forms e s (acceptFinal rb bs delta e s) := by
  unfold acceptFinal
  extract_lets e1 s1 s2
  have h1 : Forms e s s1 := setEntry_forms ((updTow_rowed ..).trans (releaseRows_rowed ..)) hf
  have h2 : Forms e s s2 := by
    unfold s2
    split
    · exact h1.send ..
    · exact h1
  rw [if_neg (by rw [hc]; decide)]
  exact h2

theorem passOn_forms {rb : Nat} {bs : List Byte} {delta : Nat} (hc : isChain e.desc = false) (hf : (findEntry s e.berth e.seq).isSome) :
    Forms e s (passOn rb bs delta e s) := by
  unfold passOn
  dsimp only
  split
  · exact acceptFinal_forms hc hf
  · exact (setEntry_forms (updTow_rowed ..) hf).send ..

theorem ownRecord_forms {rb : Nat} {bs : List Byte} {delta : Nat} (hc : isChain e.desc = false) (hf : (findEntry s e.berth e.seq).isSome) :
    Forms e s (ownRecord rb bs delta e s) := by
  have pass : ∀ {x : Entry} {zs : List Byte}, Rowed e x → Forms e s (passOn rb zs delta x s) := fun {x zs} h =>
    (passOn_forms (by rw [h.toSameCommand.desc]; exact hc) (by rw [h.berth, h.seq]; exact hf)).of_rowed h
  unfold ownRecord
  split
  · exact setEntry_forms (.refl e) hf
  · split
    · dsimp only
      rw [if_neg (by rw [hc]; decide)]
      exact setEntry_forms (updTow_rowed ..) hf
    · dsimp only
      split
      · exact pass (updTow_rowed ..)
      · split
        · exact pass ((updTow_rowed ..).trans (withFlags_rowed ..))
        · exact setEntry_forms (updTow_rowed ..) hf

theorem offerOwn_forms {rb : Nat} {bs : List Byte} {delta : Nat} (hc : isChain e.desc = false) (hf : (findEntry s e.berth e.seq).isSome) :
    Forms e s (offerOwn rb bs delta e s) := by
  unfold offerOwn
  split
  · exact setEntry_forms (.of_same (by constructor <;> rfl) rfl rfl rfl) hf
  · exact ownRecord_forms hc hf

/-! ## Row blocks -/

theorem formRows_rowed (rb : Nat) (e : Entry) (s : State) : Rowed e (formRows rb e s).1 :=
  .of_same (by constructor <;> rfl) rfl rfl rfl

theorem length_blockRows (h : Shape) (rb : Nat) : (h.blockRows rb).length = min 16 (h.n1 - (h.blockRow rb).i1) := by
  simp [Shape.blockRows]

/-- The rows of a block that goes to the finisher are rows of the shape. -/
theorem finRows_append (h : FinRows e) {rb : Nat} (hr : rb < e.desc.shape.rowBlocks) (st : FinStage) :
    ∀ f ∈ e.fin ++ (List.range (e.desc.shape.blockRows rb).length).map (fun j => (16 * rb + j, st)),
      f.1 / 16 < e.desc.shape.rowBlocks ∧ (e.desc.shape.blockRow (f.1 / 16)).i1 + f.1 % 16 < e.desc.n1 := by
  intro f hf
  rcases List.mem_append.1 hf with hf | hf
  · exact h f hf
  · obtain ⟨j, hj, rfl⟩ := List.mem_map.1 hf
    have hj := List.mem_range.1 hj
    rw [length_blockRows] at hj
    have hn : e.desc.shape.n1 = e.desc.n1 := rfl
    have h1 : (16 * rb + j) / 16 = rb := by omega
    have h2 : (16 * rb + j) % 16 = j := by omega
    dsimp only
    rw [h1, h2]
    exact ⟨hr, by omega⟩

theorem formBlock_forms {rb : Nat} (hc : isChain e.desc = false) (hr : rb < e.desc.shape.rowBlocks) (hf : (findEntry s e.berth e.seq).isSome) :
    Forms e s (formBlock rb e s) := by
  unfold formBlock
  extract_lets x n grouped stage x0 e1
  have hx : Rowed e x.1 ∧ x.2.cq = s.cq ∧ x.2.crs = s.crs ∧ x.2.man = s.man ∧ x.2.sp = s.sp := by
    unfold x
    split
    · exact ⟨.refl e, rfl, rfl, rfl, rfl⟩
    · exact ⟨formRows_rowed rb e s, rfl, rfl, rfl, rfl⟩
  obtain ⟨hx, hcq, hcrs, hman, hsp⟩ := hx
  have he : Rowed e e1 := ⟨hx.toSameCommand.trans (by constructor <;> rfl), hx.front, fun h => by
    have hd : e1.desc = e.desc := (hx.toSameCommand.trans (by constructor <;> rfl : SameCommand x.1 e1)).desc
    have hd' : x.1.desc = e.desc := hx.toSameCommand.desc
    have := finRows_append (e := x.1) (hx.fin h) (rb := rb) (by rw [hd']; exact hr) stage
    unfold FinRows
    rw [hd]
    rw [hd'] at this
    exact this, hx.wide⟩
  have hfound : (findEntry x.2 e1.berth e1.seq).isSome := by
    rw [findEntry_congr (congrArg CqUnit.entries hcq), he.berth, he.seq]
    exact hf
  have h1 : Forms e s (setEntry e1 x.2) :=
    ⟨⟨e1, by rw [← he.berth, ← he.seq]; exact setEntry_found e1 x.2 hfound, he⟩, hcrs, hman, congrArg Scratch.mem hsp⟩
  split
  · refine h1.next he (offerOwn_forms (by rw [he.toSameCommand.desc]; exact hc) ?_)
    rw [setEntry_found e1 x.2 hfound]
    rfl
  · exact h1

theorem entryNow_found (h : findEntry s e.berth e.seq = some y) : entryNow e s = y := by
  unfold entryNow
  rw [h]
  rfl

/-- Every row block that can be formed. -/
theorem formBlocks_forms (p : Plan) (hc : isChain e.desc = false) (hf : findEntry s e.berth e.seq = some e) : Forms e s (formBlocks p e s) := by
  unfold formBlocks
  dsimp only
  have key : ∀ (rbs : List Nat) (t : State), (∀ rb ∈ rbs, rb < e.desc.shape.rowBlocks) → Forms e s t →
      Forms e s (rbs.foldl (fun t rb => formBlock rb (entryNow e t) t) t) := by
    intro rbs
    induction rbs with
    | nil => exact fun _ _ h => h
    | cons rb rbs ih =>
      intro t hr h
      refine ih _ (fun q hq => hr q (List.mem_cons_of_mem _ hq)) ?_
      obtain ⟨y, hy, hrow⟩ := h.entry
      change Forms e s (formBlock rb (entryNow e t) t)
      rw [entryNow_found hy]
      exact h.next hrow (formBlock_forms (by rw [hrow.toSameCommand.desc]; exact hc)
        (by rw [hrow.toSameCommand.desc]; exact hr rb (List.mem_cons_self ..)) (by rw [hrow.berth, hrow.seq, hy]; rfl))
  exact key _ s (fun rb h => List.mem_range.1 (List.mem_of_mem_filter h)) ⟨⟨e, hf, .refl e⟩, rfl, rfl, rfl⟩

end Sys2Proof.Machine
end

section
/-! SUPPORT. What the finisher's rows let a command write: the statistics of a row block, and the rows of an ATTN command, each in its output (R208,
R249). -/

namespace Sys2Proof.Machine

variable {s t u : State} {e x y : Entry} {d : Desc} {A : Nat → Prop} {full : Bool} {env : RunEnv} {p : Plan}

/-! ## The rows of an ATTN command -/

theorem attn_outShape (hk : d.kind = .attn) : outShape d 0 = ⟨d.nx, d.n1, d.n2, d.n3⟩ ∧ outShape d 1 = ⟨1, d.n1, d.n2, d.n3⟩ ∧
    d.writesOut 0 = true ∧ ((mparam d).stats = true → d.writesOut 1 = true) := by
  unfold outShape Desc.writesOut
  rw [hk]
  refine ⟨rfl, rfl, rfl, fun h => ?_⟩
  have h : d.param.testBit 23 = true := h
  simp [h]

/-- The halves of a row, one after the other. -/
theorem mem_halves {α : Type} (fuel j : Nat) (xs : List α) : ∀ y ∈ (chunksFrom 64 fuel 64 xs).zipIdx j,
    0 < y.1.length ∧ 64 * y.2 + y.1.length ≤ xs.length + 64 * j := by
  induction fuel generalizing j xs with
  | zero => exact fun y hy => nomatch hy
  | succ fuel ih =>
    cases xs with
    | nil => exact fun y hy => nomatch hy
    | cons x xs =>
      intro y hy
      rw [chunksFrom, List.zipIdx_cons] at hy
      · rcases List.mem_cons.1 hy with rfl | hy
        · simp only [List.length_take, List.length_cons]
          omega
        · have := ih (j + 1) _ y hy
          rw [List.length_drop] at this
          have hj := List.le_snd_of_mem_zipIdx hy
          omega
      · simp

/-- A row as the drain scaler takes it is as wide as the output. -/
theorem attnRowNow_width (h : RowsWide e) (rb : Nat) (c : Coord) : (attnRowNow e rb c).o.length = e.desc.nx := by
  unfold attnRowNow
  dsimp only
  split
  · simp [attnOfBytes]
  · exact h.sget _

/-- The row that a finisher's row writes, in both outputs. -/
theorem attnRowOut_shape (h : RowsWide e) (rb : Nat) (c : Coord) (s : State) :
    (attnRowOut s e rb c).1.c = c ∧ (attnRowOut s e rb c).1.els.length = e.desc.nx ∧ (attnRowOut s e rb c).2.1.c = c ∧
      (attnRowOut s e rb c).2.1.els.length = 1 := by
  unfold attnRowOut
  dsimp only
  split
  · exact ⟨rfl, length_voidSlice .., rfl, length_voidSlice ..⟩
  · exact ⟨rfl, (List.length_map ..).trans ((List.length_map ..).trans (attnRowNow_width h rb c)), rfl, rfl⟩

theorem attnEmits_lands (hk : e.desc.kind = .attn) (h : RowsWide e) {rb : Nat} {c : Coord} (h0 : c.i0 = 0) (h1 : c.i1 < e.desc.n1)
    (h2 : c.i2 < e.desc.n2) (h3 : c.i3 < e.desc.n3) (s : State) : ∀ m ∈ (attnEmits rb c e s).1, Lands e.desc true anyOut m := by
  obtain ⟨s0, s1, w0, w1⟩ := attn_outShape hk
  obtain ⟨r1, r2, r3, r4⟩ := attnRowOut_shape h rb c s
  intro m hm
  unfold attnEmits at hm
  dsimp only at hm
  rcases List.mem_cons.1 hm with rfl | hm
  · refine ⟨0, by decide, trivial, rfl, w0, fun _ => ⟨rfl, fun sl hsl => ?_⟩⟩
    obtain ⟨y, hy, rfl⟩ := List.mem_map.1 hsl
    obtain ⟨hp, hle⟩ := mem_halves _ 0 _ y hy
    rw [r2] at hle
    rw [s0]
    refine ⟨hp, ?_, ?_, ?_, ?_, fun _ => ?_⟩ <;> dsimp only
    · omega
    · rw [r1]; exact h1
    · rw [r1]; exact h2
    · rw [r1]; exact h3
    · omega
  · split at hm
    · rename_i hs
      rw [List.mem_singleton.1 hm]
      refine ⟨1, by decide, trivial, rfl, w1 hs, fun _ => ⟨rfl, fun sl hsl => ?_⟩⟩
      rw [List.mem_singleton.1 hsl, s1]
      refine ⟨by rw [r4]; exact Nat.one_pos, by rw [r3, r4, h0], by rw [r3]; exact h1, by rw [r3]; exact h2, by rw [r3]; exact h3,
        fun _ => by rw [r3, h0]⟩
    · exact nomatch hm

/-! ## Leaving the finisher -/

theorem emitLate_rowed (rb delta : Nat) (ms : List Emit) (fl : Flags) (e : Entry) (s : State) : Rowed e (emitLate rb delta ms fl e s).1 :=
  (emitLate_emitted rb delta ms fl e s).rowed

theorem markEmitted_rowed (n : Nat) (e : Entry) : Rowed e { e with emitted := e.emitted ++ [n] } := .of_same (by constructor <;> rfl) rfl rfl rfl

theorem emitAttnRow_rowed (delta rb : Nat) (c : Coord) (e : Entry) (s : State) : Rowed e (emitAttnRow delta rb c e s).1 := by
  unfold emitAttnRow
  extract_lets d n x y
  have hy : Rowed e y.1 := (markEmitted_rowed n e).trans (emitLate_rowed ..)
  split
  · exact .refl e
  · split
    · exact hy.trans (finishPieces_emitted _ y.1 y.2).rowed
    · exact hy

theorem emitAttnRow_near (delta rb : Nat) (c : Coord) (e : Entry) (s : State) : Near s (emitAttnRow delta rb c e s).2 := by
  unfold emitAttnRow
  extract_lets d n x y
  have hy : Near s y.2 := emitLate_near ..
  split
  · exact .refl s
  · split
    · exact hy.trans (finishPieces_near ..)
    · exact hy

theorem emitLate_lands_spared {O : Nat → Prop} {rb delta : Nat} {ms : List Emit} {fl : Flags} (h : ∀ m ∈ ms, Lands e.desc full O m) (s : State) :
    Spared (e.desc.area full O) s (emitLate rb delta ms fl e s).2 := emitLate_spared fun m hm _ => (h m hm).touches

theorem emitAttnRow_spared (hk : e.desc.kind = .attn) (h : RowsWide e) {delta rb : Nat} {c : Coord} (h0 : c.i0 = 0) (h1 : c.i1 < e.desc.n1)
    (h2 : c.i2 < e.desc.n2) (h3 : c.i3 < e.desc.n3) (s : State) : Spared (e.desc.area true anyOut) s (emitAttnRow delta rb c e s).2 := by
  unfold emitAttnRow
  extract_lets d n x y
  have hd : ({ e with emitted := e.emitted ++ [n] } : Entry).desc = e.desc := rfl
  have hy : Spared (e.desc.area true anyOut) s y.2 :=
    emitLate_lands_spared (e := { e with emitted := e.emitted ++ [n] }) (attnEmits_lands hk h h0 h1 h2 h3 s) s
  split
  · exact .refl _ _
  · split
    · exact hy.trans (finishPieces_spared _ y.1 y.2)
    · exact hy

theorem emitStats_rowed (delta rb : Nat) (e : Entry) (s : State) : Rowed e (emitStats delta rb e s).1 := by
  unfold emitStats
  split
  · exact .refl e
  · exact (markEmitted_rowed rb e).trans (emitLate_rowed ..)

theorem emitStats_near (delta rb : Nat) (e : Entry) (s : State) : Near s (emitStats delta rb e s).2 := by
  unfold emitStats
  split
  · exact .refl s
  · exact emitLate_near ..

theorem emitStats_spared (hf : e.desc.fused) {delta rb : Nat} (hr : rb < e.desc.shape.rowBlocks) (s : State) :
    Spared (e.desc.area true e.desc.statOut) s (emitStats delta rb e s).2 := by
  unfold emitStats
  split
  · exact .refl _ _
  · exact emitLate_lands_spared (e := { e with emitted := e.emitted ++ [rb] }) (statEmits_lands hf hr s) s

/-- The outputs that may be written once steps have run: those of the statistics, or of an ATTN command. -/
def Desc.settleOut (d : Desc) (i : Nat) : Prop := d.fused → d.statOut i

/-- A fold of outputs over an entry and the state. -/
theorem emits_fold {α : Type} {f : Entry × State → α → Entry × State} {xs : List α} (hr : ∀ a z, Rowed a.1 (f a z).1)
    (hn : ∀ a z, Near a.2 (f a z).2) (hs : full = true → ∀ a, Rowed e a.1 → ∀ z ∈ xs, Spared A a.2 (f a z).2) (a : Entry × State) (ha : Rowed e a.1) :
    Rowed e (xs.foldl f a).1 ∧ Near a.2 (xs.foldl f a).2 ∧ (full = true → Spared A a.2 (xs.foldl f a).2) := by
  induction xs generalizing a with
  | nil => exact ⟨ha, .refl _, fun _ => .refl _ _⟩
  | cons z zs ih =>
    obtain ⟨h1, h2, h3⟩ := ih (fun h b hb w hw => hs h b hb w (List.mem_cons_of_mem _ hw)) (f a z) (ha.trans (hr a z))
    exact ⟨h1, (hn a z).trans h2, fun h => (hs h a ha z (List.mem_cons_self ..)).trans (h3 h)⟩

theorem rowCoord_in {n : Nat} {h : Shape} (hr : n / 16 < h.rowBlocks) (hi : (h.blockRow (n / 16)).i1 + n % 16 < h.n1) :
    (rowCoord h n).i0 = 0 ∧ (rowCoord h n).i1 < h.n1 ∧ (rowCoord h n).i2 < h.n2 ∧ (rowCoord h n).i3 < h.n3 := by
  obtain ⟨h2, h3⟩ := blockRow_lt hr
  exact ⟨rfl, hi, h2, h3⟩

/-- What can be written is written in its outputs. -/
theorem emitDone_effect (delta : Nat) (hk : full = true → (e.desc.fused ∨ e.desc.kind = .attn) ∧ FinRows e ∧ RowsWide e) (s : State) :
    Rowed e (emitDone delta e s).1 ∧ Near s (emitDone delta e s).2 ∧
      (full = true → Spared (e.desc.area true e.desc.settleOut) s (emitDone delta e s).2) := by
  unfold emitDone
  split
  · rename_i ha
    refine emits_fold (f := fun a (f : Nat × FinStage) => emitAttnRow 0 (f.1 / 16) (rowCoord e.desc.shape f.1) a.1 a.2) (fun a f => emitAttnRow_rowed ..)
      (fun a f => emitAttnRow_near ..) (fun hfull a hr f hf => ?_) (e, s) (.refl e)
    obtain ⟨-, hfin, hwide⟩ := hk hfull
    obtain ⟨h1, h2⟩ := hfin f (List.mem_of_mem_filter hf)
    obtain ⟨c0, c1, c2, c3⟩ := rowCoord_in h1 h2
    have hd := hr.toSameCommand.desc
    have := emitAttnRow_spared (e := a.1) (by rw [hd]; exact ha) (hr.wide hwide) (delta := 0) (rb := f.1 / 16) c0 (by rw [hd]; exact c1)
      (by rw [hd]; exact c2) (by rw [hd]; exact c3) a.2
    rw [hd] at this
    exact this.mono fun _ => Desc.area_mono fun _ _ hfu => absurd ha hfu.2.2.2.2.2.1
  · rename_i ha
    refine emits_fold (f := fun a rb => emitStats delta rb a.1 a.2) (fun a f => emitStats_rowed ..) (fun a f => emitStats_near ..)
      (fun hfull a hr rb hrb => ?_) (e, s) (.refl e)
    obtain ⟨hk, -, -⟩ := hk hfull
    have hfu : e.desc.fused := hk.resolve_right ha
    have hd := hr.toSameCommand.desc
    have := emitStats_spared (e := a.1) (by rw [hd]; exact hfu) (delta := delta) (rb := rb)
      (by rw [hd]; exact List.mem_range.1 (List.mem_of_mem_filter hrb)) a.2
    rw [hd] at this
    exact this.mono fun _ => Desc.area_mono fun _ h _ => h

/-! ## Settling -/

/-- From `s` to `t` rows of a command have been formed and written, and the command has perhaps ended. -/
structure Settles (e : Entry) (s t : State) : Prop where
  entry : ∃ y, findEntry t e.berth e.seq = some y ∧ SameCommand e y ∧ y.front = e.front
  crs : t.crs = s.crs
  man : t.man = s.man

theorem endApart_settles (p : Plan) {s : State} (hf : (findEntry s e.berth e.seq).isSome) :
    Settles e s (endApart p e s) ∧ (endApart p e s).sp.mem = s.sp.mem := by
  have put : ∀ x : Entry, SameCommand e x → x.front = e.front → findEntry (setEntry x s) e.berth e.seq = some x := fun x hs _ => by
    rw [← hs.berth, ← hs.seq] at hf ⊢
    exact setEntry_found x s hf
  unfold endApart
  split
  · exact ⟨⟨⟨e, put e (.refl e) rfl, .refl e, rfl⟩, rfl, rfl⟩, rfl⟩
  · split
    · exact ⟨⟨⟨_, (releaseIssue_found e.berth).trans (put { e with
        life := .ran, held := [], bad := [], reds := [], lads := [], recs := [], outs := [], rows := [], emitted := [],
        sent := [], rowIn := [], stop := false } (by constructor <;> rfl) rfl), by constructor <;> rfl, rfl⟩, rfl, rfl⟩, rfl⟩
    · split
      · exact ⟨⟨⟨_, (releaseIssue_found e.berth).trans (put { e with life := .stats, held := [] } (by constructor <;> rfl) rfl),
          by constructor <;> rfl, rfl⟩, rfl, rfl⟩, rfl⟩
      · exact ⟨⟨⟨e, put e (.refl e) rfl, .refl e, rfl⟩, rfl, rfl⟩, rfl⟩

theorem not_isChain (h : d.fused ∨ d.kind = .attn) : isChain d = false := by
  have : towKind d ≠ 4 := by
    unfold towKind
    rcases h with h | h
    · rcases fused_kind h with k | k | k | k | k | k <;> rw [k.1] <;> decide
    · rw [h]
      decide
  simpa [isChain] using this

theorem settleApart_effect (delta : Nat) (hk : e.desc.fused ∨ e.desc.kind = .attn) (hf : findEntry s e.berth e.seq = some e)
    (hr : full = true → FinRows e ∧ RowsWide e) :
    Settles e s (settleApart delta e s) ∧ (full = true → Spared (e.desc.area true e.desc.settleOut) s (settleApart delta e s)) := by
  unfold settleApart
  extract_lets p s1 x
  have h1 : Forms e s s1 := formBlocks_forms p (not_isChain hk) hf
  obtain ⟨y, hy, hrow⟩ := h1.entry
  have hd := hrow.toSameCommand.desc
  have hx : x = emitDone delta y s1 := by
    unfold x
    rw [entryNow_found hy]
  obtain ⟨h2, h3, h4⟩ := emitDone_effect (e := y) (full := full) delta (fun h => by
    rw [hd]
    exact ⟨hk, hrow.fin (hr h).1, hrow.wide (hr h).2⟩) s1
  rw [← hx] at h2 h3 h4
  have he := hrow.toSameCommand.trans h2.toSameCommand
  obtain ⟨⟨⟨z, hz, hzs, hzf⟩, h5, h6⟩, h7⟩ := endApart_settles (e := x.1) p (s := x.2) (by
    rw [he.berth, he.seq, findEntry_congr (congrArg CqUnit.entries h3.cq), hy]
    rfl)
  refine ⟨⟨⟨z, by rw [← he.berth, ← he.seq]; exact hz, he.trans hzs, hzf.trans (h2.front.trans hrow.front)⟩, h5.trans (h3.crs.trans h1.crs),
    h6.trans (h3.man.trans h1.man)⟩, fun h => ?_⟩
  have hsp := h4 h
  rw [hd] at hsp
  exact ((Spared.of_mem h1.mem).trans hsp).trans (.of_mem h7)

end Sys2Proof.Machine
end

section
/-! SUPPORT. A boundary of a command whose clusters run on their own: it is suspended, waits, or issues one step in each cluster that can (R202, R213,
R274, R302). -/

namespace Sys2Proof.Machine

variable {s t u : State} {e x y : Entry} {d : Desc} {A : Nat → Prop} {full : Bool} {env : RunEnv} {p go : Plan}

/-! ## Clusters that can issue -/

/-- The clusters that can issue their next step and have room for what it writes. -/
def goingClusters (s : State) (e : Entry) : Plan := (planOf s e).filter (fun x => stepReady s e x && !(areaFull s e x.1))

/-- The steps that clusters come to next. -/
def stepsNext (go : Plan) (e : Entry) : List Work := go.filterMap (fun c => (c.2[nextOf e c.1]?).map (·.2))

/-- The places of the clusters once each has issued. -/
def frontsAfter (go : Plan) (m : List (Nat × Nat)) : List (Nat × Nat) := go.foldl (fun m c => sset 0 m c.1 (sget 0 m c.1 + 1)) m

theorem sget_frontsAfter (h : (go.map (·.1)).Nodup) (m : List (Nat × Nat)) (c : Nat) :
    sget 0 (frontsAfter go m) c = sget 0 m c + if c ∈ go.map (·.1) then 1 else 0 := by
  induction go generalizing m with
  | nil => simp [frontsAfter]
  | cons x xs ih =>
    rw [List.map_cons, List.nodup_cons] at h
    obtain ⟨hx, hxs⟩ := h
    have hstep : frontsAfter (x :: xs) m = frontsAfter xs (sset 0 m x.1 (sget 0 m x.1 + 1)) := rfl
    rw [hstep, ih hxs, sget_sset, List.map_cons]
    by_cases hc : c = x.1
    · subst hc
      simp [hx]
    · rw [if_neg hc]
      simp only [List.mem_cons, hc, false_or]

theorem goingClusters_nodup (s : State) (e : Entry) : ((goingClusters s e).map (·.1)).Nodup := by
  have hp : (planOf s e).map (·.1) = execClusters s := by
    unfold planOf
    rw [List.map_map]
    exact List.map_id _
  have : ((planOf s e).map (·.1)).Nodup := by
    rw [hp]
    exact List.nodup_range
  exact this.sublist (List.filter_sublist.map _)

theorem goingClusters_suits {w : Work} (h : w ∈ stepsNext (goingClusters s e) e) : w.Suits e.desc := by
  obtain ⟨z, hz, h⟩ := List.mem_filterMap.1 h
  obtain ⟨y, hy, rfl⟩ := Option.map_eq_some_iff.1 h
  exact planOf_suits (List.mem_of_mem_filter hz) (List.mem_of_getElem? hy)

/-! ## The step -/

/-- The command and the state after the steps of its clusters, with what is left of a fault on the way to storage. -/
def ranApart (env : RunEnv) (e : Entry) (s : State) : Nat × (Entry × State) :=
  let l := metStep env e s
  let f := storeFault env l.1 l.2
  runWorks f.1 (stepsNext (goingClusters s e) e) l.1 f.2

/-- After what its outputs met on the way, each cluster one step further. -/
def leftApart (env : RunEnv) (e : Entry) (s : State) : Entry × State :=
  let y := env.rest.foldl (fun a r => outputMeet r a) (ranApart env e s).2
  (trimHeld y.2 { y.1 with front := frontsAfter (goingClusters s e) y.1.front }, y.2)

theorem boundaryApart_fault (h : writeFaulted e = true ∨ (nextGranules s e).any (granuleFaulted e) = true) :
    boundaryApart env e s = setEntry { e with suspended := true } s := by
  unfold boundaryApart
  exact if_pos (by simpa [Bool.or_eq_true] using h)

theorem boundaryApart_waits (h1 : writeFaulted e = false) (h2 : ¬(nextGranules s e).any (granuleFaulted e) = true)
    (h : goingClusters s e = []) : boundaryApart env e s = setEntry e s := by
  unfold boundaryApart
  rw [if_neg (by simp only [h1, Bool.false_or]; exact h2)]
  exact if_pos (by unfold goingClusters at h; simp [h])

theorem boundaryApart_goes (h1 : writeFaulted e = false) (h2 : ¬(nextGranules s e).any (granuleFaulted e) = true)
    (h : goingClusters s e ≠ []) (hc : StepClean s e env) : boundaryApart env e s =
      settleApart (ranApart env e s).1 (leftApart env e s).1 (setEntry (leftApart env e s).1 (leftApart env e s).2) := by
  obtain ⟨c1, c2⟩ := hc
  unfold boundaryApart
  rw [if_neg (by simp only [h1, Bool.false_or]; exact h2)]
  dsimp only
  rw [if_neg (by unfold goingClusters at h; simpa using h), c1]
  dsimp only
  rw [if_neg (by rw [c2]; decide)]
  rfl

theorem ranApart_worked (env : RunEnv) (e : Entry) (s : State) : Worked (charge env e) (ranApart env e s).2.1 :=
  (metStep_met env e s).worked.trans (runWorks_worked ..)

/-- What stays of the entry: it stands at the next place of each cluster that has issued. -/
theorem leftApart_entry (env : RunEnv) (e : Entry) (s : State) : SameCommand e (leftApart env e s).1 ∧
    (leftApart env e s).1.front = frontsAfter (goingClusters s e) e.front ∧ (FinRows e → FinRows (leftApart env e s).1) ∧
    (RowsWide e → RowsWide (leftApart env e s).1) := by
  have hw : Worked (charge env e) (env.rest.foldl (fun a r => outputMeet r a) (ranApart env e s).2).1 :=
    (ranApart_worked env e s).trans (outputMeets_emitted env.rest _).worked
  have hs : SameCommand e (leftApart env e s).1 :=
    SameCommand.trans (by constructor <;> rfl) (hw.toSameCommand.trans (by constructor <;> rfl))
  refine ⟨hs, congrArg (frontsAfter (goingClusters s e)) hw.front, fun h => ?_, fun h => hw.wide h⟩
  unfold FinRows
  rw [show (leftApart env e s).1.fin = e.fin from hw.fin, hs.desc]
  exact h

theorem leftApart_near (env : RunEnv) (e : Entry) (s : State) : Near s (leftApart env e s).2 :=
  (((metStep_near env e s).trans (storeFault_near ..)).trans (runWorks_near ..)).trans (outputMeets_near env.rest _)

/-- The steps change no byte outside their outputs. -/
theorem leftApart_spared (hf : full = true → ChainFits e.desc) (env : RunEnv) (s : State) :
    Spared (e.desc.area full e.desc.workOut) s (leftApart env e s).2 := by
  have hd : (metStep env e s).1.desc = e.desc := (metStep_met env e s).worked.toSameCommand.desc
  have hw := runWorks_spared (e := (metStep env e s).1) (full := full) (storeFault env (metStep env e s).1 (metStep env e s).2).1
    (ws := stepsNext (goingClusters s e) e) (fun w hw => by rw [hd]; exact goingClusters_suits hw) (fun h => by rw [hd]; exact hf h)
    (storeFault env (metStep env e s).1 (metStep env e s).2).2
  rw [hd] at hw
  exact ((Spared.of_mem (metFault_mem env e s)).trans hw).trans (outputMeets_spared env.rest _)

theorem stepsNext_single {z : Nat × List (Granule × Work)} {g : Granule} {w : Work} (hn : go = [z]) (hz : z.2[nextOf e z.1]? = some (g, w)) :
    stepsNext go e = [w] := by
  unfold stepsNext
  rw [hn, List.filterMap_cons, hz]
  rfl

/-- Where one cluster alone issues, and nothing is met, its step is all that runs. -/
theorem leftApart_single {z : Nat × List (Granule × Work)} {g : Granule} {w : Work} (hn : goingClusters s e = [z])
    (hz : z.2[nextOf e z.1]? = some (g, w)) (hq : QuietEnv env) (ht : readsJob e.desc = true ∨ OnTime s e) :
    (leftApart env e s).2 = (runWork (if workWrites e.desc w then env.storeDelta else 0) w (charge env e) s).2 := by
  unfold leftApart ranApart
  dsimp only
  rw [hq.2.2, List.foldl_nil, metStep_quietEnv hq ht, storeFault_quietEnv hq, stepsNext_single hn hz]
  exact congrArg Prod.snd (runWorks_single env.storeDelta w (charge env e) s)

/-- The scratchpad then holds what its tile writes. -/
theorem leftApart_written {z : Nat × List (Granule × Work)} {g : Granule} {w : Work} (hc : Checked e) (hn : goingClusters s e = [z])
    (hz : z.2[nextOf e z.1]? = some (g, w)) (hq : QuietEnv env) (ht : readsJob e.desc = true ∨ OnTime s e) :
    ∀ m ∈ workEmits w (charge env e) s, Written s (charge env e) m (leftApart env e s).2 := by
  have hsuit : w.Suits (charge env e).desc := goingClusters_suits (e := e) (s := s) (by rw [stepsNext_single hn hz]; exact List.mem_singleton.2 rfl)
  have hx := hc.charged env
  rw [leftApart_single hn hz hq ht]
  exact runWork_written _ hsuit hx.fitsAll.chain hx.tidy s

/-! ## The boundary -/

theorem apart_kind (h : runsApart d = true) : d.fused ∨ d.kind = .attn := by
  unfold runsApart at h
  split at h
  · exact nomatch h
  · exact nomatch h
  · exact nomatch h
  · exact nomatch h
  · exact nomatch h
  · exact nomatch h
  · rename_i h1 h2 h3 h4 h5 h6
    by_cases ha : d.kind = .attn
    · exact .inr ha
    · exact .inl ⟨h1, h2, h3, h4, h5, ha, h6⟩

/-- A step of an ATTN command writes nothing. -/
theorem workEmits_attn (hk : d.kind = .attn) {w : Work} (hw : w.Suits d) (e : Entry) (s : State) : workEmits w e s = [] := by
  cases w with
  | slab | load | key => rfl
  | chain t =>
    obtain ⟨h | h, -⟩ := hw <;> rw [hk] at h <;> exact nomatch h
  | product t n =>
    obtain ⟨h, -⟩ := hw
    rw [hk] at h
    exact nomatch h
  | store l =>
    obtain ⟨h, -⟩ := hw
    rw [hk] at h
    exact nomatch h
  | pass second t => exact absurd hk hw.1.2.2.2.2.2.1

/-- One step in each cluster that can; the issue's other units stay, and what is written lies in the outputs. -/
theorem leftApart_settles (ha : runsApart e.desc = true) (hf : (findEntry s e.berth e.seq).isSome) (env : RunEnv)
    (hr : full = true → FinRows e ∧ RowsWide e) :
    Settles (leftApart env e s).1 s (settleApart (ranApart env e s).1 (leftApart env e s).1 (setEntry (leftApart env e s).1 (leftApart env e s).2)) ∧
      (full = true → Spared (e.desc.area true e.desc.settleOut) (leftApart env e s).2
        (settleApart (ranApart env e s).1 (leftApart env e s).1 (setEntry (leftApart env e s).1 (leftApart env e s).2))) := by
  obtain ⟨hs, -, hfin, hwide⟩ := leftApart_entry env e s
  have hnear := leftApart_near env e s
  have hfound : findEntry (setEntry (leftApart env e s).1 (leftApart env e s).2) (leftApart env e s).1.berth (leftApart env e s).1.seq =
      some (leftApart env e s).1 := setEntry_found _ _ (by rw [hs.berth, hs.seq, findEntry_congr (congrArg CqUnit.entries hnear.cq)]; exact hf)
  obtain ⟨⟨h1, h2, h3⟩, h4⟩ := settleApart_effect (full := full) (ranApart env e s).1 (by rw [hs.desc]; exact apart_kind ha) hfound
    (fun h => ⟨hfin (hr h).1, hwide (hr h).2⟩)
  rw [hs.desc] at h4
  exact ⟨⟨h1, h2.trans hnear.crs, h3.trans hnear.man⟩, fun h => Spared.after (h4 h) (.of_mem rfl)⟩

theorem Checked.rowsKept (h : Checked e) : FinRows e ∧ RowsWide e := ⟨h.rows, h.widths⟩

/-- The places after a boundary at which clusters issue. -/
theorem boundaryApart_front (ha : runsApart e.desc = true) (hf : (findEntry s e.berth e.seq).isSome) (h1 : writeFaulted e = false)
    (h2 : ¬(nextGranules s e).any (granuleFaulted e) = true) (h : goingClusters s e ≠ []) (hc : StepClean s e env) :
    ∃ y, findEntry (boundaryApart env e s) e.berth e.seq = some y ∧ y.bytes = e.bytes ∧
      (∀ c, sget 0 y.front c = sget 0 e.front c + if c ∈ (goingClusters s e).map (·.1) then 1 else 0) ∧
      (boundaryApart env e s).crs = s.crs ∧ (boundaryApart env e s).man = s.man := by
  rw [boundaryApart_goes h1 h2 h hc]
  obtain ⟨hs, hfront, -⟩ := leftApart_entry env e s
  obtain ⟨⟨⟨y, hy, hsame, hyf⟩, hcrs, hman⟩, -⟩ := leftApart_settles (full := false) ha hf env (fun h => nomatch h)
  refine ⟨y, by rw [← hs.berth, ← hs.seq]; exact hy, hsame.bytes.trans hs.bytes, fun c => ?_, hcrs, hman⟩
  rw [hyf, hfront, sget_frontsAfter (goingClusters_nodup s e)]

/-- Such a boundary changes no byte outside the command's outputs. -/
theorem boundaryApart_spared (ha : runsApart e.desc = true) (hf : (findEntry s e.berth e.seq).isSome) (h1 : writeFaulted e = false)
    (h2 : ¬(nextGranules s e).any (granuleFaulted e) = true) (h : goingClusters s e ≠ []) (hc : StepClean s e env) (hk : Checked e) :
    Spared (e.desc.area true anyOut) s (boundaryApart env e s) := by
  rw [boundaryApart_goes h1 h2 h hc]
  obtain ⟨-, hsp⟩ := leftApart_settles (full := true) ha hf env (fun _ => hk.rowsKept)
  exact ((leftApart_spared (fun _ => hk.fitsAll.chain) env s).mono fun _ => Desc.area_any).trans ((hsp rfl).mono fun _ => Desc.area_any)

/-- Where one cluster alone issues, the scratchpad then holds what its tile writes. -/
theorem boundaryApart_holds {z : Nat × List (Granule × Work)} {g : Granule} {w : Work} (ha : runsApart e.desc = true)
    (hf : (findEntry s e.berth e.seq).isSome) (h1 : writeFaulted e = false) (h2 : ¬(nextGranules s e).any (granuleFaulted e) = true)
    (hc : StepClean s e env) (hk : Checked e) (hn : goingClusters s e = [z]) (hz : z.2[nextOf e z.1]? = some (g, w)) (hq : QuietEnv env)
    (ht : readsJob e.desc = true ∨ OnTime s e) : Holds s (charge env e) (workEmits w (charge env e) s) (boundaryApart env e s) := by
  rw [boundaryApart_goes h1 h2 (by rw [hn]; exact List.cons_ne_nil _ _) hc]
  obtain ⟨-, hsp⟩ := leftApart_settles (full := true) ha hf env (fun _ => hk.rowsKept)
  have hsuit : w.Suits e.desc := goingClusters_suits (s := s) (by
    rw [stepsNext_single hn hz]
    exact List.mem_singleton.2 rfl)
  have hx := hk.charged env
  intro m hm
  rcases apart_kind ha with hfu | hat
  · have hl := workEmits_lands (e := charge env e) hsuit (full := true) (fun _ => hx.fitsAll.chain) s m hm
    refine (leftApart_written hk hn hz hq ht m hm).spared (hsp rfl) fun a hm hs => ?_
    exact hx.tidy.area_apart (fun i hi hj => passOut_statOut (hi.2 hfu) (hj hfu)) (hl.touches hm) hs
  · rw [workEmits_attn (d := e.desc) hat hsuit] at hm
    exact nomatch hm

end Sys2Proof.Machine
end

section
/-! PROOFS. TILE_BOUNDARY: a boundary of the command that holds the issue (R62, R274, R280, R281, R297, R302, R359). -/

namespace Sys2Proof.Machine

variable {s t u : State} {e0 e x y : Entry} {d : Desc} {A : Nat → Prop} {full : Bool} {env : RunEnv} {p go : Plan}

/-! ## The command at its boundary -/

/-- The main side runs, the keep island accepts, and a command of the queue holds the issue. -/
structure AtBoundary (s : State) (e0 : Entry) : Prop where
  running : mainStopped s = false
  accepting : islandFailing s = false
  issuing : issuingEntry s = some e0
  found : findEntry s e0.berth e0.seq = some e0

theorem AtBoundary.holds (h : AtBoundary s e0) : s.cq.issuing = some e0.berth ∧ e0.life = .taken := by
  obtain ⟨b, hb, hf⟩ := Option.bind_eq_some_iff.1 h.issuing
  have hp := List.find?_some hf
  have hm := List.mem_of_find?_eq_some hf
  simp only [Bool.and_eq_true, decide_eq_true_eq] at hp
  have hbe : e0.berth = b := by
    unfold berthEntries at hm
    simpa using (List.mem_filter.1 hm).2
  exact ⟨hbe ▸ hb, hp.2⟩

theorem tileBoundary_none (h : mainStopped s = true ∨ islandFailing s = true ∨ issuingEntry s = none) : exec (.tileBoundary env) s = .next s := by
  change execTileBoundary env s = _
  unfold execTileBoundary
  rcases h with h | h | h
  · rw [if_pos (.inl h)]
  · rw [if_pos (.inr h)]
  · rw [h]
    split <;> rfl

/-- What the boundary of an issuing command does. -/
theorem AtBoundary.exec_eq (h : AtBoundary s e0) (env : RunEnv) : exec (.tileBoundary env) s = .next (
    if e0.stop && decide (e0.pos % stepsPerTile e0 = 0) then abortEntry e0 s
    else if e0.suspended || issueHeld s then s
    else if runsApart e0.desc then boundaryApart env (hitGranules e0 s).1 (hitGranules e0 s).2
    else boundaryTogether env (hitGranules e0 s).1 (hitGranules e0 s).2) := by
  change execTileBoundary env s = _
  unfold execTileBoundary
  rw [if_neg (by rw [h.running, h.accepting]; decide), h.issuing]

theorem AtBoundary.exec_goes (h : AtBoundary s e0) (hs : e0.stop = false ∨ ¬e0.pos % stepsPerTile e0 = 0) (hu : e0.suspended = false)
    (hh : issueHeld s = false) : exec (.tileBoundary env) s = .next (
    if runsApart e0.desc then boundaryApart env (hitGranules e0 s).1 (hitGranules e0 s).2
    else boundaryTogether env (hitGranules e0 s).1 (hitGranules e0 s).2) := by
  rw [h.exec_eq, if_neg, if_neg]
  · rw [hu, hh]
    decide
  · simp only [Bool.and_eq_true, decide_eq_true_eq, not_and]
    intro h1 h2
    rcases hs with hs | hs
    · rw [hs] at h1
      exact nomatch h1
    · exact hs h2

/-- What the hits leave of the command and of the state. -/
structure Arrived (s : State) (e0 e : Entry) (t : State) : Prop where
  same : SameCommand e0 e
  pos : e.pos = e0.pos
  steps : stepsPerTile e = stepsPerTile e0
  life : e.life = .taken
  found : (findEntry t e.berth e.seq).isSome
  issuing : t.cq.issuing = some e.berth
  queue : t.cq = s.cq
  crs : t.crs = s.crs
  man : t.man = s.man
  mem : t.sp.mem = s.sp.mem

theorem AtBoundary.arrived (h : AtBoundary s e0) : Arrived s e0 (hitGranules e0 s).1 (hitGranules e0 s).2 := by
  obtain ⟨he, -, hs⟩ := hitGranules_hit h.running e0
  obtain ⟨hi, hl⟩ := h.holds
  rw [he, hs]
  exact ⟨by constructor <;> rfl, rfl, rfl, hl, by rw [← Option.isSome_some (a := e0), ← h.found]; rfl, hi, rfl, rfl, rfl, rfl⟩

/-! ## Ends -/

theorem clearFault_cq (b q : Nat) (s : State) : (clearFault b q s).cq = s.cq ∧ (clearFault b q s).keep = s.keep := by
  unfold clearFault
  dsimp only
  split
  · split <;> exact ⟨rfl, rfl⟩
  · exact ⟨rfl, rfl⟩

theorem clearFault_found (b q : Nat) {c n : Nat} : findEntry (clearFault b q s) c n = findEntry s c n :=
  findEntry_congr (congrArg CqUnit.entries (clearFault_cq b q s).1)

/-- A command whose berth was aborted ends with ABORT, DETAIL 1, and leaves the issue unless another command of its berth holds it. -/
theorem abortEntry_ends (hf : findEntry s e.berth e.seq = some x) (hi : s.cq.issuing = some e.berth) :
    ∃ y, findEntry (abortEntry e s) e.berth e.seq = some y ∧ y.bytes = e.bytes ∧ y.life = .ran ∧ y.res.abort = 1 ∧
      (abortEntry e s).cq.issuing = (if othersIssue s e.berth e.seq = true then s.cq.issuing else none) ∧ (abortEntry e s).keep = s.keep := by
  unfold abortEntry
  obtain ⟨y, h1, h2, h3, h4⟩ := endEarly_found (e := { e with crossing := if e.life = .queued then s.crs.crossing else e.crossing }) hf
    { e.res with abort := 1 }
  refine ⟨y, (clearFault_found ..).trans h1, h4, h2, by rw [h3], ?_, ?_⟩
  · rw [(clearFault_cq ..).1, endEarly_issuing, if_pos hi]
  · rw [(clearFault_cq ..).2, endEarly_keep]

theorem detectedError_ends {src : DetSrc} {c : Nat} (hf : findEntry s e.berth e.seq = some x) :
    ∃ y, findEntry (detectedError src c e s) e.berth e.seq = some y ∧ y.bytes = e.bytes ∧ y.life = .ran ∧ y.res.abort = 2 ∧
      y.res.mismatch = true := by
  unfold detectedError
  extract_lets cl s1 k s2
  have hq : findEntry s2 e.berth e.seq = some x := by
    rw [← hf]
    exact findEntry_congr (congrArg CqUnit.entries (raise_cq ..))
  obtain ⟨y, h1, h2, h3, h4⟩ := endEarly_found hq { e.res with abort := 2, mismatch := true }
  exact ⟨y, h1, h4, h2, by rw [h3], by rw [h3]⟩

theorem capEntry_ends (hf : findEntry s e.berth e.seq = some x) :
    ∃ y, findEntry (capEntry e s) e.berth e.seq = some y ∧ y.bytes = e.bytes ∧ y.life = .ran ∧ y.res.cap = true := by
  unfold capEntry
  obtain ⟨y, h1, h2, h3, h4⟩ := endEarly_found hf { e.res with cap := true, charged := durationCap }
  exact ⟨y, (clearFault_found ..).trans h1, h4, h2, by rw [h3]⟩

/-! ## The obligation -/

theorem Arrived.setEntry_found (h : Arrived s e0 e t) : findEntry (setEntry e t) e.berth e.seq = some e := Machine.setEntry_found e t h.found

/-- Settles O29, by the branches of the boundary; each step is followed through what it meets, runs, writes and ends. -/
theorem tileBoundaryIssues : Obligations.TileBoundaryIssues := by
  unfold Obligations.TileBoundaryIssues
  refine ⟨fun s env e0 hm hi he hf => ?_, fun s env h => tileBoundary_none h⟩
  have hb : AtBoundary s e0 := ⟨hm, hi, he, hf⟩
  intro e s1 tile faulted ready goes waits others ex
  have har : Arrived s e0 e s1 := hb.arrived
  have waits_of : exec (.tileBoundary env) s = .next (setEntry e s1) → waits := fun h =>
    ⟨_, ⟨h, har.setEntry_found, rfl⟩, setEntry_onlyEntry e s1⟩
  have hdesc : e.desc = e0.desc := har.same.desc
  refine ⟨fun hs ht => ?_, fun hs hu => ?_, fun h => ?_, fun d hc hd hlt hl => ?_, fun hs hu hh ha => ?_, fun hs hu hh ha => ?_⟩
  · have hx : exec (.tileBoundary env) s = .next (abortEntry e0 s) := by
      rw [hb.exec_eq, hs, if_pos (by simpa using ht)]
    obtain ⟨y, h1, h2, h3, h4, h5, h6⟩ := abortEntry_ends hf hb.holds.1
    exact ⟨_, y, ⟨hx, by rw [har.same.berth, har.same.seq]; exact h1, h2.trans har.same.bytes.symm⟩, h3, h4, h5, h6⟩
  · rw [hb.exec_eq, if_neg, if_pos]
    · rcases hu with hu | hu <;> simp [hu]
    · rcases hs with hs | hs
      · simp [hs]
      · simp only [Bool.and_eq_true, decide_eq_true_eq, not_and]
        exact fun _ => hs
  · exact ⟨congrArg Prod.fst (hitGranules_timely h), congrArg Prod.snd (hitGranules_timely h)⟩
  · exact hitGranules_late hm hc hd hlt hl
  · have hx : exec (.tileBoundary env) s = .next (boundaryTogether env e s1) := by
      rw [hb.exec_goes hs hu hh, if_neg (by rw [← hdesc, ha]; decide)]
    clear_value e s1
    have htile : tile ↔ e.pos % stepsPerTile e = 0 := by
      rw [har.pos, har.steps]
    have next : ∀ {v : State}, boundaryTogether env e s1 = v → exec (.tileBoundary env) s = .next v := fun h => hx.trans (congrArg _ h)
    refine ⟨fun h => ?_, fun hw hn => ?_⟩
    · refine ⟨_, ⟨next (boundaryTogether_fault (by rw [← htile]; exact h)), (releaseIssue_found _).trans
        (setEntry_found { e with suspended := true, aside := true } s1 har.found), rfl⟩, releaseIssue_issuing har.issuing, rfl,
        (congrArg CqUnit.wins har.queue :), (congrArg CqUnit.rings har.queue :)⟩
    · have hfree := boundaryTogether_free (e := e) (s := s1) (env := env) (by rw [← htile]; exact hw) hn
      refine ⟨fun hr h => ?_, fun hr ht b h => ?_, fun hr h => ?_, fun hr h => ?_⟩
      · rw [if_neg hr] at hfree
        by_cases ht : e.pos % stepsPerTile e = 0
        · rw [if_pos ht, waitOrAside_waits (h.resolve_left (not_not.2 (htile.2 ht)))] at hfree
          exact waits_of (next hfree)
        · rw [if_neg ht] at hfree
          exact waits_of (next hfree)
      · rw [if_neg hr, if_pos (htile.1 ht), waitOrAside_aside h] at hfree
        exact ⟨_, ⟨next hfree, (releaseIssue_found e.berth).trans (setEntry_found { e with aside := true } s1 har.found), rfl⟩,
          releaseIssue_issuing har.issuing, rfl, rfl⟩
      · rw [if_pos hr, if_pos h] at hfree
        exact waits_of (next hfree)
      · rw [if_pos hr, if_neg (by rw [h]; decide)] at hfree
        have hrun := next hfree
        refine ⟨fun hc hn => ?_, fun hc hn hcoll => ⟨_, hrun, runTogether_forms hc ha hcoll har.found har.issuing hn⟩, fun hc hk => ⟨_, hrun, fun a h => ?_,
          fun c g w hw hq ht => runTogether_holds hc ha hk hw hq ht⟩, fun r hr => ?_, fun hr hcap => ?_⟩
        · obtain ⟨y, h1, h2, h3, h4, h5, h6, h7, h8⟩ := runTogether_goesOn hc ha har.found hn har.life
          exact ⟨_, y, ⟨hrun, h1, h2⟩, h3, h4, h5, h6.trans (congrArg CqUnit.issuing har.queue), h7.trans har.crs, h8.trans har.man⟩
        · rw [runTogether_spared hc ha hk.alone (fun _ => hk.fitsAll) a (not_area_of_outside h), spByte, har.mem, spByte]
        · rw [runTogether_error ((errorOf_setEntry ..).trans hr)] at hrun
          obtain ⟨y, h1, h2, h3, h4, h5⟩ := detectedError_ends (src := r.1) (c := r.2) har.setEntry_found
          exact ⟨_, y, ⟨hrun, h1, h2⟩, h3, h4, h5⟩
        · rw [runTogether_cap ((errorOf_setEntry ..).trans hr) hcap] at hrun
          obtain ⟨y, h1, h2, h3, h4⟩ := capEntry_ends har.setEntry_found
          exact ⟨_, y, ⟨hrun, h1, h2⟩, h3, h4⟩
  · have hx : exec (.tileBoundary env) s = .next (boundaryApart env e s1) := by
      rw [hb.exec_goes hs hu hh, if_pos (by rw [← hdesc, ha])]
    clear_value e s1
    have next : ∀ {v : State}, boundaryApart env e s1 = v → exec (.tileBoundary env) s = .next v := fun h => hx.trans (congrArg _ h)
    intro go
    refine ⟨fun h => ?_, fun hw hn => ⟨fun hgo => waits_of (next (boundaryApart_waits hw hn hgo)), fun hgo hc => ?_⟩⟩
    · exact ⟨_, ⟨next (boundaryApart_fault h), setEntry_found { e with suspended := true } s1 har.found, rfl⟩,
        setEntry_onlyEntry { e with suspended := true } s1⟩
    · obtain ⟨y, h1, h2, h3, h4, h5⟩ := boundaryApart_front ha har.found hw hn hgo hc
      refine ⟨_, y, ⟨hx, h1, h2⟩, h3, h4.trans har.crs, h5.trans har.man, fun hk => ⟨fun a h => ?_, fun x g w hone hz hq ht =>
        boundaryApart_holds ha har.found hw hn hc hk hone hz hq ht⟩⟩
      rw [boundaryApart_spared ha har.found hw hn hgo hc hk a (not_area_of_outside h), spByte, har.mem, spByte]

end Sys2Proof.Machine
end

section
/-! SUPPORT. Writes that need a permission bit: one form for every command of Table 19-5, refused, ill-placed or stopped (R71, R406, R421,
R427, R428). -/

namespace Sys2Proof.Machine

variable {s : State} {p : Port} {b : Nat} {ok : Bool} {f : State → State}

theorem deny_dropHeld (p : Port) (s : State) :
    deny (dropHeld p s) = { dropHeld p s with man := { s.man with permDenied := true } } := by
  rw [deny, dropHeld_man]

/-- A write of bytes that is well placed is a write to a register. -/
theorem onWindow_placed (h : ok = true) : onWindow p b ok f s = onMain p b f s := by
  simp only [onWindow, onMain, h, ↓reduceIte]

theorem onWindow_misplaced (hm : mainStopped s = false) (h : ok = false) : onWindow p b ok f s = dropHeld p s := by
  simp only [onWindow, hm, h, Bool.false_eq_true, ↓reduceIte]

theorem onWindow_stopped (h : mainStopped s = true) : onWindow p b ok f s = s := if_pos h

/-- Every command that needs a permission bit is a write of its port under that bit; where it writes no bytes, its place is always good. -/
theorem exec_of_neededBit {c : Instr} (h : neededBit c = some (p, b)) :
    ∃ f, ∀ s, exec c s = .next (onWindow p b (wellPlaced c) f s) := by
  cases c <;> cases h <;> exact ⟨_, fun _ => rfl⟩

/-- Settles O35: every command that needs a bit is one guarded write. -/
theorem refusedWritesAreIgnored : Obligations.RefusedWritesAreIgnored := by
  unfold Obligations.RefusedWritesAreIgnored
  intro s c p b h
  obtain ⟨f, hx⟩ := exec_of_neededBit h
  rw [hx]
  refine ⟨fun hm hw hp => ?_, fun hm hw => ?_, fun hm => ?_⟩
  · rw [onWindow_placed hw, onMain_denied hm hp, deny_dropHeld]
  · rw [onWindow_misplaced hm hw]
  · rw [onWindow_stopped hm]

end Sys2Proof.Machine
end

section
/-! SUPPORT. The staged store: what empties it, closes it and writes into it (R75, R76, R384, R421). -/

namespace Sys2Proof.Machine

variable {s : State} {p : Port}

theorem emptyStage_locked (h : s.man.apply = .applying) (st : StageState) : emptyStage st s = s := if_pos h

/-- An emptied store; in the Tollhouse only a self-test that an abandoned verification kept waiting may start (R76, R389). -/
theorem emptyStage_free (h : s.man.apply ≠ .applying) (st : StageState) : ∃ x,
    emptyStage st s = { s with man := { s.man with stage := st, staged := [], stagedConf := none }, toll := x } ∧
      (s.man.stage ≠ .verifying → x = s.toll) := by
  rw [emptyStage, if_neg h]
  by_cases hv : s.man.stage = .verifying
  · obtain ⟨x, hx⟩ := startWaiting_frame { s with man := { s.man with stage := st, staged := [], stagedConf := none } }
    exact ⟨x, (if_pos hv).trans hx, fun k => absurd hv k⟩
  · exact ⟨_, if_neg hv, fun _ => rfl⟩

theorem closeStage_opened (h : s.man.stage = .opened) (p : Port) :
    closeStage p s = { s with man := { s.man with stage := .verifying, closeAuth := (tollPort s p).auth } } := by
  unfold closeStage
  rw [if_pos h]
  cases p <;> rfl

theorem tollPort_dropHeld (p q : Port) (s : State) : tollPort (dropHeld p s) q = tollPort s q := by
  unfold tollPort
  rw [dropHeld_toll]

theorem closeStage_notOpened (h : s.man.stage ≠ .opened) (p : Port) : closeStage p s = s := if_neg h

theorem stageWrite_notOpened (h : s.man.stage ≠ .opened) (off : Nat) (bytes : List Byte) : stageWrite off bytes s = s := if_neg h

theorem fits_of_oneBlock {size off n : Nat} (h : oneBlock size off n = true) : off + n ≤ size := by
  simp only [oneBlock, Bool.and_eq_true, decide_eq_true_eq] at h
  exact h.2

/-- Bytes within the aperture are stored whole. -/
theorem stageWrite_opened (h : s.man.stage = .opened) {off : Nat} {bytes : List Byte}
    (hb : oneBlock 0x100000 off bytes.length = true) :
    stageWrite off bytes s = { s with man := { s.man with staged := sblit 0 s.man.staged (s.man.page * 2 ^ 20 + off) bytes } } := by
  have hfit : bytes.length ≤ 1048576 - off := Nat.le_sub_of_add_le' (fits_of_oneBlock hb)
  rw [stageWrite, if_pos h, List.take_of_length_le hfit]
  rfl

/-- A served OPEN or DISCARD empties the store that no application holds. -/
theorem emptyStage_served (hs : Served p 1 s) (h : s.man.apply ≠ .applying) (st : StageState) : ∃ t,
    (.next (onMain p 1 (emptyStage st) s) : Host.Outcome State Fault Refusal) = .next t ∧
      t = { dropHeld p s with man := { s.man with stage := st, staged := [], stagedConf := none }, toll := t.toll } ∧
      (s.man.stage ≠ .verifying → t.toll = s.toll) := by
  obtain ⟨x, hx, ht⟩ := emptyStage_free (s := dropHeld p s) (by rwa [dropHeld_man]) st
  rw [dropHeld_man] at hx ht
  rw [dropHeld_toll] at ht
  exact ⟨_, next_onMain_served hs hx, rfl, ht⟩

/-- Settles O41: a served staging operation acts on the state whose port's low half is dropped. -/
theorem stagingIsWrittenAndClosed : Obligations.StagingIsWrittenAndClosed := by
  unfold Obligations.StagingIsWrittenAndClosed
  intro s p hs
  have hman : (dropHeld p s).man = s.man := dropHeld_man s p
  refine ⟨fun h => ⟨emptyStage_served hs h .opened, emptyStage_served hs h .empty⟩, fun h => ?_, fun h => ⟨?_, fun off bytes hb => ?_⟩,
    fun off bytes hb => congrArg _ (onWindow_misplaced hs.1 hb), fun h => ⟨?_, fun off bytes => ?_⟩⟩
  · rw [← hman] at h
    exact ⟨next_onMain_served hs (emptyStage_locked h _), next_onMain_served hs (emptyStage_locked h _)⟩
  · refine next_onMain_served hs ((closeStage_opened (by rwa [hman]) p).trans ?_)
    rw [hman, tollPort_dropHeld]
    cases p <;> rfl
  · have hw := stageWrite_opened (s := dropHeld p s) (by rwa [hman]) hb
    rw [hman] at hw
    exact ⟨_, (congrArg _ (onWindow_placed hb)).trans (next_onMain_served hs hw), rfl,
      fun i hi => sget_sblit_inside 0 _ _ _ i hi, fun a ha => sget_sblit_outside 0 _ _ _ a ha⟩
  · exact next_onMain_served hs (closeStage_notOpened (by rwa [hman]) p)
  · have hw := stageWrite_notOpened (s := dropHeld p s) (by rwa [hman]) off bytes
    by_cases hb : oneBlock 0x100000 off bytes.length = true
    · exact (congrArg _ (onWindow_placed hb)).trans (next_onMain_served hs hw)
    · exact congrArg _ (onWindow_misplaced hs.1 (Bool.eq_false_of_not_eq_true hb))

end Sys2Proof.Machine
end

section
/-! SUPPORT. Requests for an application: what arms, withdraws, forgets and begins one, and with which reason one is refused (R79, R86, R87). -/

namespace Sys2Proof.Machine

variable {s t u : State} {p : Port}

/-! ## Refusals -/

/-- A refusal sets REASON and raises MANIFEST_REFUSED (R77). -/
theorem refuseManifest_frame (h : s.pwr.mainDown = false) (r : Nat) : ∃ e,
    refuseManifest r s = { s with man := { s.man with reason := r }, evt := e } ∧
      e.pending = s.evt.pending ||| BitVec.ofNat 15 (2 ^ 0x0A) :=
  ⟨_, raise_up h, logEvent_pending ..⟩

/-- A served write whose operation refuses. -/
theorem refused_served (hs : Served p 1 s) {f : State → State} {r : Nat} (hf : f (dropHeld p s) = refuseManifest r (dropHeld p s)) : ∃ t,
    (.next (onMain p 1 f s) : Host.Outcome State Fault Refusal) = .next t ∧
      t = { dropHeld p s with man := { s.man with reason := r }, evt := t.evt } ∧
      t.evt.pending = s.evt.pending ||| BitVec.ofNat 15 (2 ^ 0x0A) := by
  obtain ⟨e, he, hp⟩ := refuseManifest_frame (s := dropHeld p s) (by rw [dropHeld_pwr]; exact mainDown_of_running hs.1) r
  rw [dropHeld_man] at he
  rw [dropHeld_evt] at hp
  exact ⟨_, next_onMain_served hs (hf.trans he), rfl, hp⟩

/-! ## MAN_APPLY_AT, DISARM and FORGET -/

theorem armApply_applying (h : s.man.apply = .applying) (c l : Nat) :
    armApply c l s = { s with man := { s.man with applyAt := (c, l) } } := if_pos h

theorem armApply_ahead (h : s.man.apply ≠ .applying) {c l : Nat} (hl : landingPast s c l = false) :
    armApply c l s = { s with man := { s.man with applyAt := (c, l), apply := .armed } } := by
  rw [armApply, if_neg h, if_neg (Bool.eq_false_iff.1 hl)]

theorem armApply_past (h : s.man.apply ≠ .applying) {c l : Nat} (hl : landingPast s c l = true) :
    armApply c l s = refuseManifest 0x0D { s with man := { s.man with applyAt := (c, l), apply := .none } } := by
  rw [armApply, if_neg h, if_pos hl, expireRequest]

theorem disarmOp_armed (h : s.man.apply = .armed) : disarmOp s = { s with man := { s.man with apply := .none } } := if_pos h

theorem disarmOp_notArmed (h : s.man.apply ≠ .armed) : disarmOp s = s := if_neg h

/-- A journal write leaves the island's tide alone. -/
theorem journal_tide (bs : List KeepBlock) (k : Keep) (s : State) : (journal bs k s).isl.tide = s.isl.tide :=
  List.foldlRecOn bs _ (motive := fun i : Island => i.tide = s.isl.tide) rfl (fun _ h _ _ => h)

theorem forgetOp_free (h : s.man.active = none) :
    forgetOp s = journal [.tag] { s.keep with keptTag := none, keptPermMgr := 0 } s := by
  rw [forgetOp, h]
  rfl

theorem forgetOp_active (h : s.man.active ≠ none) : forgetOp s = s := by
  rw [forgetOp, if_neg (by simpa using h)]

/-! ## Phase 1 writes the shadow banks and leaves the banks' roles (R82) -/

/-- In every cluster the same bank is in use. -/
structure SameRoles (s t : State) : Prop where
  phys : ∀ c, (tblOf t c).phys = (tblOf s c).phys

theorem SameRoles.refl (s : State) : SameRoles s s := ⟨fun _ => rfl⟩

theorem SameRoles.trans (h : SameRoles s t) (k : SameRoles t u) : SameRoles s u := ⟨fun c => (k.phys c).trans (h.phys c)⟩

theorem SameRoles.after (k : SameRoles t u) (h : SameRoles s t) : SameRoles s u := h.trans k

theorem SameRoles.foldl {α : Type} {f : State → α → State} (h : ∀ t x, SameRoles t (f t x)) (xs : List α) (s : State) :
    SameRoles s (xs.foldl f s) :=
  List.foldlRecOn xs f (motive := SameRoles s) (.refl s) (fun t ht x _ => ht.trans (h t x))

theorem setTbl_sameRoles {c : Nat} {x : TblCluster} (h : x.phys = (tblOf s c).phys) : SameRoles s (setTbl c x s) := by
  refine ⟨fun d => ?_⟩
  rw [tblOf_setTbl]
  split
  · next hd => rw [h, hd]
  · rfl

theorem shadowValid_sameRoles (slot : Nat) (v : Bool) (c : Nat) (s : State) : SameRoles s (shadowValid slot v c s) :=
  setTbl_sameRoles (setValid_phys ..)

theorem emptyShadows_sameRoles (cs : List Nat) (s : State) : SameRoles s (emptyShadows cs s) :=
  .foldl (fun _ _ => setTbl_sameRoles (setValid_phys ..)) cs s

theorem phase1Tables_sameRoles (m : Manifest) (s : State) : SameRoles s (phase1Tables m s) := by
  unfold phase1Tables
  refine (emptyShadows_sameRoles ..).trans (.foldl (fun t r => .foldl (fun u c => ?_) _ t) _ _)
  exact (shadowValid_sameRoles ..).after ⟨fun _ => rfl⟩

/-! ## APPLY_NOW (R86) -/

theorem applyNowOp_active (h : s.man.active ≠ none) : applyNowOp s = refuseManifest 0x11 s := by
  rw [applyNowOp, if_pos (Option.isSome_iff_ne_none.2 h)]

/-- With no manifest active, none verified. -/
theorem applyNowOp_unverified (h : s.man.active = none) (hv : s.man.stage ≠ .verified) : applyNowOp s = refuseManifest 0x0B s := by
  rw [applyNowOp, if_neg (by simp [h]), if_pos hv]

/-- With no manifest active and one verified, only its tag and the landing under way are left to ask. -/
theorem applyNowOp_verified (h : s.man.active = none) (hv : s.man.stage = .verified) : ∃ v, OnlyTables s v ∧ SameRoles s v ∧ applyNowOp s =
    if s.keep.keptTag.isSome ∧ s.keep.keptTag ≠ some (stagedTag s) then refuseManifest 0x0F s
    else if s.crs.run.isSome then s
    else { v with man := { v.man with apply := .applying, applyNow := true },
                  crs := { v.crs with run := some ⟨s.crs.landing, .phase1, [], false, none, none, none, []⟩ } } := by
  rw [applyNowOp, if_neg (by simp [h]), if_neg (not_not.2 hv)]
  cases s.man.stagedConf with
  | none => exact ⟨s, .refl s, .refl s, rfl⟩
  | some m => exact ⟨_, phase1Tables_onlyTables m s, phase1Tables_sameRoles m s, rfl⟩

theorem applyNowOp_disagrees (h : s.man.active = none) (hv : s.man.stage = .verified) (hk : s.keep.keptTag ≠ none)
    (ht : s.keep.keptTag ≠ some (stagedTag s)) : applyNowOp s = refuseManifest 0x0F s := by
  obtain ⟨v, -, -, he⟩ := applyNowOp_verified h hv
  rw [he, if_pos ⟨Option.isSome_iff_ne_none.2 hk, ht⟩]

/-- The tag agrees with MAN_KEPT_TAG, or none is kept. -/
theorem agrees_iff {k : Option Nat} {n : Nat} : (k = none ∨ k = some n) ↔ ¬(k.isSome = true ∧ k ≠ some n) := by
  cases k <;> simp

theorem applyNowOp_running (h : s.man.active = none) (hv : s.man.stage = .verified)
    (ht : s.keep.keptTag = none ∨ s.keep.keptTag = some (stagedTag s)) (hr : s.crs.run ≠ none) : applyNowOp s = s := by
  obtain ⟨v, -, -, he⟩ := applyNowOp_verified h hv
  rw [he, if_neg (agrees_iff.1 ht), if_pos (Option.isSome_iff_ne_none.2 hr)]

theorem applyNowOp_begins (h : s.man.active = none) (hv : s.man.stage = .verified)
    (ht : s.keep.keptTag = none ∨ s.keep.keptTag = some (stagedTag s)) (hr : s.crs.run = none) : ∃ v, OnlyTables s v ∧ SameRoles s v ∧
      applyNowOp s = { v with
        man := { v.man with apply := .applying, applyNow := true },
        crs := { v.crs with run := some ⟨s.crs.landing, .phase1, [], false, none, none, none, []⟩ } } := by
  obtain ⟨v, hrest, hphys, he⟩ := applyNowOp_verified h hv
  exact ⟨v, hrest, hphys, by rw [he, if_neg (agrees_iff.1 ht), if_neg (by simp [hr])]⟩

/-! ## What a port's low half does not touch (R428) -/

@[simp] theorem landingPast_dropHeld (p : Port) (s : State) (c l : Nat) : landingPast (dropHeld p s) c l = landingPast s c l := by
  rw [landingPast, dropHeld_crs, landingPast]

@[simp] theorem stagedTag_dropHeld (p : Port) (s : State) : stagedTag (dropHeld p s) = stagedTag s := by
  rw [stagedTag, dropHeld_man, stagedTag]

@[simp] theorem tblOf_dropHeld (p : Port) (s : State) (c : Nat) : tblOf (dropHeld p s) c = tblOf s c := by
  rw [tblOf, dropHeld_tbl, tblOf]

/-- A request for a landing past is dropped (R79). -/
theorem armApply_past_served (hs : Served p 1 s) (h : s.man.apply ≠ .applying) {c l : Nat} (hl : landingPast s c l = true) : ∃ t,
    (.next (onMain p 1 (armApply c l) s) : Host.Outcome State Fault Refusal) = .next t ∧
      t = { dropHeld p s with man := { s.man with applyAt := (c, l), apply := .none, reason := 0x0D }, evt := t.evt } ∧
      t.evt.pending = s.evt.pending ||| BitVec.ofNat 15 (2 ^ 0x0A) := by
  have ha := armApply_past (s := dropHeld p s) (by rwa [dropHeld_man]) (by rwa [landingPast_dropHeld])
  obtain ⟨e, he, hp⟩ := refuseManifest_frame
    (s := { dropHeld p s with man := { (dropHeld p s).man with applyAt := (c, l), apply := .none } })
    (by rw [dropHeld_pwr]; exact mainDown_of_running hs.1) 0x0D
  rw [dropHeld_man] at ha he
  rw [dropHeld_evt] at hp
  exact ⟨_, next_onMain_served hs (ha.trans he), rfl, hp⟩

/-- Settles O42: each request by what the manifest unit holds; APPLY_NOW writes shadow banks alone. -/
theorem applicationsAreRequested : Obligations.ApplicationsAreRequested := by
  unfold Obligations.ApplicationsAreRequested
  intro s p hs
  have hman : (dropHeld p s).man = s.man := dropHeld_man s p
  have hkeep : (dropHeld p s).keep = s.keep := dropHeld_keep s p
  have hcrs : (dropHeld p s).crs = s.crs := dropHeld_crs s p
  refine ⟨fun c l h => ⟨fun hl => ?_, fun hl => armApply_past_served hs h hl⟩, fun c l h => ?_, fun h => ?_, fun h => ?_, fun h => ?_,
    fun h => ?_, fun h => ?_, fun h hv => ?_, fun h hv hk ht => ?_, fun h hv ht hr => ?_, fun h hv ht hr => ?_⟩
  · refine next_onMain_served hs ((armApply_ahead (by rwa [hman]) (by rwa [landingPast_dropHeld])).trans ?_)
    rw [hman]
  · refine next_onMain_served hs ((armApply_applying (by rwa [hman]) _ _).trans ?_)
    rw [hman]
  · refine next_onMain_served hs ((disarmOp_armed (by rwa [hman])).trans ?_)
    rw [hman]
  · exact next_onMain_served hs (disarmOp_notArmed (by rwa [hman]))
  · have hf := forgetOp_free (s := dropHeld p s) (by rwa [hman])
    rw [hkeep] at hf
    exact ⟨_, next_onMain_served hs hf, rfl, (journal_tide ..).trans (by rw [dropHeld_isl]), rfl⟩
  · exact next_onMain_served hs (forgetOp_active (by rwa [hman]))
  · exact refused_served hs (applyNowOp_active (by rwa [hman]))
  · exact refused_served hs (applyNowOp_unverified (by rwa [hman]) (by rwa [hman]))
  · rw [← hkeep, ← stagedTag_dropHeld p] at ht
    exact refused_served hs (applyNowOp_disagrees (by rwa [hman]) (by rwa [hman]) (by rwa [hkeep]) ht)
  · rw [← hkeep, ← stagedTag_dropHeld p] at ht
    obtain ⟨v, hrest, hroles, hv⟩ := applyNowOp_begins (by rwa [hman]) (by rwa [hman]) ht (by rwa [hcrs])
    have hvs := hrest.rest
    refine ⟨_, next_onMain_served hs hv, rfl, rfl, ?_, by rw [hcrs]; rfl, fun c => ?_, sameMemory_of_mem ?_, ?_, ?_⟩
    · exact (congrArg ManUnit.active (hrest.man.trans hman)).trans h
    · exact (hroles.phys c).trans (by rw [tblOf_dropHeld])
    · exact (congrArg (·.sp.mem) hvs).trans (congrArg Scratch.mem (dropHeld_sp s p))
    · exact (congrArg (·.evt) hvs).trans (dropHeld_evt s p)
    · exact (congrArg (·.keep) hvs).trans hkeep
  · rw [← hkeep, ← stagedTag_dropHeld p] at ht
    exact next_onMain_served hs (applyNowOp_running (by rwa [hman]) (by rwa [hman]) ht (by rwa [hcrs]))

end Sys2Proof.Machine
end

section
/-! SUPPORT. Result windows: their release, what each reset makes of them, and what a read of one answers (R284, R285, R312, R421, R426). -/

namespace Sys2Proof.Machine

variable {s : State} {p : Port} {w off len : Nat}

/-! ## Release (R285) -/

theorem releaseWindow_same (w : Nat) (s : State) : sget default (releaseWindow w s).cq.wins w =
    { sget default s.cq.wins w with gen := ((sget default s.cq.wins w).gen + 1) % 2 ^ 16, st := 0 } := by
  simp only [releaseWindow, sget_sset, ↓reduceIte]

theorem releaseWindow_other {v : Nat} (h : v ≠ w) (s : State) :
    sget default (releaseWindow w s).cq.wins v = sget default s.cq.wins v := by
  simp only [releaseWindow, sget_sset, if_neg h]

/-! ## Resets (R285, R397, R412, R414) -/

/-- A window raised by one and made EMPTY, its binding fields 0. -/
def Win.raised (x : Win) : Win := ⟨(x.gen + 1) % 2 ^ 16, 0, 0, 0, 0, 0⟩

theorem beginReset_wins (hw : w < 128) (k : ResetKind) (s : State) :
    sget default (beginReset k s).cq.wins w = (sget default s.cq.wins w).raised :=
  sget_map_range default (fun v => (sget default s.cq.wins v).raised) 128 w hw

theorem coldReset_wins (bad : Bool) (s : State) (w : Nat) : sget default (coldReset bad s).cq.wins w = ⟨0, 0, 0, 0, 0, 0⟩ := rfl

theorem resetOrCold_of_not_coldNext (h : s.pwr.coldNext = false) (k : ResetKind) : resetOrCold k s = beginReset k s := by
  rw [resetOrCold, if_neg (Bool.eq_false_iff.1 h)]

theorem resetOrCold_of_coldNext (h : s.pwr.coldNext = true) (k : ResetKind) : resetOrCold k s = coldReset false s := if_pos h

/-- JQ_CTL takes the writes of the manager, and those of a host that holds permission bit 6 (Table 19-5). -/
theorem jqWrite_taken (hm : s.pwr.mainDown = false) (h : p = .mgr ∨ Served .host 6 s) (f : State → State) :
    jqWrite p f s = f (dropHeld p s) := by
  cases p with
  | host => exact onMain_served (h.resolve_left nofun)
  | mgr => exact if_neg (Bool.eq_false_iff.1 hm)

theorem coldBusy_raised (hm : s.pwr.mainDown = false) (ht : s.pwr.tested = true) : coldBusy s = false := by
  rw [coldBusy, hm, ht]
  rfl

theorem jqWarm_taken (hc : coldBusy s = false) (hw : s.pwr.warmTest = false) (hd : s.pwr.draining ≠ some .warm) :
    jqWarm s = resetOrCold .warm s := by
  rw [jqWarm, if_neg (by simp [hc, hw, hd])]

theorem jqReplay_taken (hc : coldBusy s = false) (hw : s.pwr.warmTest = false) (hd : s.pwr.draining = none) :
    jqReplay s = resetOrCold .replay s := by
  rw [jqReplay, if_neg (by simp [hc, hw, hd])]

/-- Every cold reset that is taken (R411, R414). -/
theorem coldOp_wins {cause : ColdCause} (h : cause = .jqCtl → coldBusy s = false) (bad : Bool) (w : Nat) :
    sget default (coldOp cause bad s).cq.wins w = ⟨0, 0, 0, 0, 0, 0⟩ := by
  unfold coldOp
  split
  · next hc => rw [if_neg (Bool.eq_false_iff.1 (h hc))]; exact coldReset_wins ..
  · exact coldReset_wins ..

theorem zeroiseEnd_running (hm : mainStopped s = false) {perm : Bool} (hz : s.toll.busy = .zeroise perm) :
    exec .zeroiseEnd s = .next (coldReset false (eraseKeys perm s)) := by
  refine congrArg Host.Outcome.next ((if_neg (Bool.eq_false_iff.1 hm)).trans ?_)
  rw [hz]

/-! ## Reads (R284, R426) -/

/-- The window that a read names. -/
def windowOf (s : State) (off : Nat) : Win := sget default s.cq.wins (off / 2 ^ 20 % 128)

/-- An offset of the register map's window area names a window by its high bits. -/
theorem windowOf_offset (s : State) (off : BitVec 27) : windowOf s off.toNat = sget default s.cq.wins (off.toNat / 2 ^ 20) := by
  rw [windowOf, Nat.mod_eq_of_lt]
  omega

theorem windowAnswer_stale (h : off / 2 ^ 16 % 16 ≠ (windowOf s off).gen % 16) : windowAnswer s off len = ([], 2, false) := if_pos h

theorem windowAnswer_notReady (h : off / 2 ^ 16 % 16 = (windowOf s off).gen % 16) (hs : (windowOf s off).st ≠ 2) :
    windowAnswer s off len = ([], 1, false) := (if_neg (not_not.2 h)).trans (if_pos hs)

/-- A byte of a bound window: as stored, and zero beyond OUT0's span. -/
def boundByte (s : State) (x : Win) (i : Nat) : Byte := if i < x.span then spByte s (x.base + i) else 0

/-- Whether a byte of a bound window lies in a marked line. -/
def boundMark (s : State) (x : Win) (i : Nat) : Bool := decide (i < x.span) && lineMarked s ((x.base + i) / 64)

/-- A bound window answers with the bytes of OUT0 from its offset on, and with the marks of their lines. -/
theorem windowAnswer_bound (h : off / 2 ^ 16 % 16 = (windowOf s off).gen % 16) (hs : (windowOf s off).st = 2) :
    (windowAnswer s off len).2.1 = 0 ∧ (windowAnswer s off len).1.length = len ∧
      (∀ i, i < len → (windowAnswer s off len).1.getD i 0 = boundByte s (windowOf s off) (off % 2 ^ 16 + i)) ∧
      ((windowAnswer s off len).2.2 = true ↔ ∃ i, i < len ∧ boundMark s (windowOf s off) (off % 2 ^ 16 + i) = true) := by
  have ha : windowAnswer s off len = (((List.range len).map (· + off % 2 ^ 16)).map (boundByte s (windowOf s off)), 0,
      ((List.range len).map (· + off % 2 ^ 16)).any (boundMark s (windowOf s off))) :=
    (if_neg (not_not.2 h)).trans (if_neg (not_not.2 hs))
  rw [ha]
  exact ⟨rfl, by simp, fun i hi => by simp [hi, Nat.add_comm], by simp [Nat.add_comm]⟩

/-- What a read of a window did: its reads of the scratchpad met their errors, where the window answers with data, and the host port holds the
answer as it stands then. -/
theorem readWindow_effect (off len : Nat) (err : ReadErr) (s : State) : ∃ m, Near s m ∧ m.sp.mem = s.sp.mem ∧
    (err = .none ∨ (windowAnswer s off len).2.1 ≠ 0 → m = s) ∧ readWindow off len err s = { m with hostp := { m.hostp with
      data := (windowAnswer m off len).1, code := (windowAnswer m off len).2.1, poison := (windowAnswer m off len).2.2 } } := by
  unfold readWindow
  extract_lets x b reads m a
  refine ⟨m, .ite (readMeets_near ..) (.refl s), ?_, ?_, rfl⟩
  · exact (Quiet.ite (readMeets_quiet ..) (.refl s)).mem
  · rintro (rfl | h)
    · exact ite_self s
    · exact if_neg h

/-- A window that answers with a status alone is not read. -/
theorem readWindow_refused {k : Nat} (hk : k ≠ 0) (h : windowAnswer s off len = ([], k, false)) (err : ReadErr) :
    readWindow off len err s = { s with hostp := { s.hostp with data := [], code := k, poison := false } } := by
  obtain ⟨m, -, -, hsame, hx⟩ := readWindow_effect off len err s
  rw [hx, hsame (.inr (by rwa [h])), h]

theorem resultWindowRead_taken (hm : mainStopped s = false) {off : BitVec 27} (hb : oneBlock (2 ^ 27) off.toNat len = true) (err : ReadErr) :
    exec (.resultWindowRead off len err) s = .next (readWindow off.toNat len err s) :=
  congrArg Host.Outcome.next ((if_neg (Bool.eq_false_iff.1 hm)).trans (if_pos hb))

theorem resultWindowRead_misplaced (hm : mainStopped s = false) {off : BitVec 27} (hb : oneBlock (2 ^ 27) off.toNat len = false)
    (err : ReadErr) : exec (.resultWindowRead off len err) s = .next (readZero len s) :=
  congrArg Host.Outcome.next ((if_neg (Bool.eq_false_iff.1 hm)).trans (if_neg (Bool.eq_false_iff.1 hb)))

/-- Settles O23: resets run over every window, and a read's errors leave the queue and the bytes that it answers with. -/
theorem resultWindowsAnswer : Obligations.ResultWindowsAnswer := by
  unfold Obligations.ResultWindowsAnswer
  refine ⟨fun s p w => ⟨fun hs => ?_, fun hm hp => ?_⟩, fun s w hw hup => ?_, fun s off len err hm hb => resultWindowRead_misplaced hm hb err,
    fun s off len err hm hb => ?_, fun s off len err hm => congrArg Host.Outcome.next (if_pos hm)⟩
  · have hcq : (dropHeld p s).cq = s.cq := dropHeld_cq s p
    refine ⟨_, next_onMain_served hs rfl, ?_, ?_, fun v hv => ?_, ?_⟩
    · rw [releaseWindow_same, hcq]
    · rw [releaseWindow_same]
    · rw [releaseWindow_other hv, hcq]
    · rw [releaseWindow, hcq]
  · exact congrArg Host.Outcome.next ((onMain_denied hm hp).trans (deny_dropHeld p s))
  · intro raised zeroed
    refine ⟨fun hr => ?_, fun p hp hr ht hwt => ?_, fun cause bad hc => ?_, ?_, fun hr => ?_, fun perm hz hm => ?_, fun hl => ?_⟩
    · exact ⟨_, congrArg Host.Outcome.next ((if_neg (Bool.eq_false_iff.1 hup)).trans (resetOrCold_of_not_coldNext hr _)), beginReset_wins hw ..⟩
    · have hwin : ∀ k, raised (beginReset k (dropHeld p s)) := fun k => (beginReset_wins hw ..).trans (by rw [dropHeld_cq]; rfl)
      have hbusy : coldBusy (dropHeld p s) = false := coldBusy_raised (by rwa [dropHeld_pwr]) (by rwa [dropHeld_pwr])
      rw [← dropHeld_pwr s p] at hr hwt
      refine ⟨fun hd => ⟨_, congrArg Host.Outcome.next (jqWrite_taken hup hp _), ?_⟩,
        fun hd => ⟨_, congrArg Host.Outcome.next (jqWrite_taken hup hp _), ?_⟩⟩
      · rw [jqWarm_taken hbusy hwt (by rwa [dropHeld_pwr]), resetOrCold_of_not_coldNext hr]
        exact hwin .warm
      · rw [jqReplay_taken hbusy hwt (by rwa [dropHeld_pwr]), resetOrCold_of_not_coldNext hr]
        exact hwin .replay
    · exact ⟨_, rfl, coldOp_wins (fun h => coldBusy_raised hup (hc h)) bad w⟩
    · exact ⟨_, rfl, coldReset_wins ..⟩
    · exact ⟨_, congrArg Host.Outcome.next ((if_neg (Bool.eq_false_iff.1 hup)).trans (resetOrCold_of_coldNext hr _)), coldReset_wins ..⟩
    · exact ⟨_, zeroiseEnd_running hm hz, coldReset_wins ..⟩
    · exact ⟨_, congrArg Host.Outcome.next (if_neg (Bool.eq_false_iff.1 hl)), coldReset_wins false (eraseKeys false (endServices s)) w⟩
  · intro w g b
    obtain ⟨m, hn, hmem, hsame, hx⟩ := readWindow_effect off.toNat len err s
    have hw : windowOf s off.toNat = w := windowOf_offset s off
    have hwm : windowOf m off.toNat = w := (congrArg (fun c : CqUnit => sget default c.wins _) hn.cq).trans hw
    refine ⟨_, (resultWindowRead_taken hm hb err).trans (congrArg _ hx), (congrArg HostPort.heldLow hn.hostp :),
      (congrArg HostPort.capture hn.hostp :), sameMemory_of_mem hmem, hn.cq, fun he => ?_, fun hg => ?_, fun hg hs => ?_, fun hg hs => ?_⟩
    · rw [hsame (.inl he)]
    · rw [← hx, readWindow_refused (by decide) (windowAnswer_stale (by rwa [hw]))]
      exact ⟨rfl, rfl, rfl⟩
    · rw [← hx, readWindow_refused (by decide) (windowAnswer_notReady (by rwa [hw]) (by rwa [hw]))]
      exact ⟨rfl, rfl, rfl⟩
    · obtain ⟨hcode, hlen, hdata, hmark⟩ := windowAnswer_bound (s := m) (len := len) (by rwa [hwm]) (by rwa [hwm])
      refine ⟨hcode, hlen, fun i hi => (hdata i hi).trans ?_, hmark.trans (exists_congr fun i => and_congr_right fun _ => ?_)⟩
      · rw [hwm, boundByte, spByte, hmem, ← spByte, ← Nat.add_assoc]
      · rw [hwm, boundMark, Bool.and_eq_true, decide_eq_true_eq, ← Nat.add_assoc]
        rfl

end Sys2Proof.Machine
end

section
/-! SUPPORT. The LOAD in the queue that lists one key twice: it meets all that the statement about LOAD and STORE supposes, and its row leaves its
slipway free (R241, R242). That statement, too, asks nothing of the keys of the queue. -/

namespace Sys2Proof.Machine

/-- What the statement supposes besides `ReadyToStart`: the scratchpad alone is read, no store area is full, and the step meets neither a
detected error nor the cap (R281, R297, R359). -/
theorem boundLoad_firstStep : readsJob (boundLoad 3).desc = false ∧
    areasFull (firstStepState twiceListed (boundLoad 3)) (startedEntry twiceListed (boundLoad 3)) = false ∧
    StepClean twiceListed (boundLoad 3) (.clean 0) :=
  ⟨by decide +kernel, by decide +kernel, rfl, by decide +kernel⟩

/-- No berth holds slipway A, the one that the LOAD selects, and putting the entry back in its place leaves it so. -/
theorem holdOf_load_twiceListed : holdOf (setEntry (boundLoad 3) twiceListed) (slipOf (boundLoad 3).desc.slip 0) = none := by
  decide +kernel

/-- Refutes O26: in `twiceListed` the LOAD of berth 3 is ready to start, and after its row no berth holds the selected slipway. -/
theorem not_loadAndStoreMoveSlipways : ¬ Obligations.LoadAndStoreMoveSlipways := by
  unfold Obligations.LoadAndStoreMoveSlipways
  intro h
  obtain ⟨hjob, hroom, hclean⟩ := boundLoad_firstStep
  obtain ⟨hload, -⟩ :=
    h twiceListed 3 (boundLoad 3) (.clean 0) twiceListed_ready (by decide) hjob hroom hclean rfl rfl rfl
  obtain ⟨t, hex, -, -, hhold, -⟩ := hload (boundLoad_kind 3).1 rfl rfl
  have ht : setEntry (boundLoad 3) twiceListed = t := by
    simpa using (load_twiceListed (.clean 0)).symm.trans hex
  rw [← ht, holdOf_load_twiceListed] at hhold
  exact absurd hhold (by decide)

end Sys2Proof.Machine
end

section
/-! SUPPORT. The shadow table window: where a write puts its bytes, and what it does to the slot that it names (R169, R172, R421). -/

namespace Sys2Proof.Machine

variable {s : State}

/-! ## Images -/

theorem imageKey_inj {c c' slot slot' : Nat} {b b' : Bool} (h : slot < 16) (h' : slot' < 16) :
    imageKey c b slot = imageKey c' b' slot' ↔ c = c' ∧ b = b' ∧ slot = slot' := by
  have hbit : ∀ x y : Bool, bit x = bit y ↔ x = y := by decide
  have hle : ∀ x : Bool, bit x ≤ 1 := by decide
  rw [← hbit]
  have hb := hle b
  have hb' := hle b'
  unfold imageKey
  omega

/-- Bytes put into a list that is long enough read back, and the others stay. -/
theorem splice_getD {img bs : List Byte} {off : Nat} (h : off ≤ img.length) (i : Nat) :
    (img.take off ++ bs ++ img.drop (off + bs.length)).getD i 0 =
      if off ≤ i ∧ i < off + bs.length then bs.getD (i - off) 0 else img.getD i 0 := by
  have hlen : (img.take off).length = off := List.length_take_of_le h
  by_cases hlow : i < off
  · rw [if_neg (by omega), List.append_assoc, List.getD_append _ _ _ _ (by omega)]
    simp [List.getD, hlow]
  · by_cases hin : i < off + bs.length
    · rw [if_pos ⟨by omega, hin⟩, List.append_assoc, List.getD_append_right _ _ _ _ (by omega), hlen,
        List.getD_append _ _ _ _ (by omega)]
    · rw [if_neg (by omega), List.getD_append_right _ _ _ _ (by rw [List.length_append]; omega), List.length_append, hlen]
      simp only [List.getD, List.getElem?_drop]
      congr 2
      omega

/-- A slot that was never written reads as zeros (R169). -/
theorem blank_getD (img : List Byte) (i : Nat) :
    (if img.isEmpty then List.replicate imageBytes 0 else img).getD i (0 : Byte) = img.getD i 0 := by
  split
  · next h =>
    rw [List.isEmpty_iff.1 h]
    simp only [List.getD, List.getElem?_replicate]
    split <;> rfl
  · rfl

theorem imageWrite_getD {img : List Byte} (h : img.length ∈ [0, imageBytes]) {off : Nat} (ho : off ≤ imageBytes) (bs : List Byte)
    (i : Nat) :
    (imageWrite img off bs).getD i 0 = if off ≤ i ∧ i < off + bs.length then bs.getD (i - off) 0 else img.getD i 0 := by
  have hlen : off ≤ (if img.isEmpty then List.replicate imageBytes (0 : Byte) else img).length := by
    split
    · simpa using ho
    · next he =>
      have hne : img.length ≠ 0 := by simpa using he
      have hfull : img.length = imageBytes := by simpa [hne] using h
      omega
  rw [← blank_getD img i]
  exact splice_getD hlen i

/-! ## One slot -/

theorem slotWrite_refused {c : Nat} (h : refusing s c = true) (slot off : Nat) (bs : List Byte) :
    slotWrite c slot off bs s = { s with tbl := { s.tbl with writeLocked := true } } :=
  if_pos h

/-- The images after a write to a cluster that accepts it. -/
theorem slotWrite_images {c : Nat} (h : refusing s c = false) (slot off : Nat) (bs : List Byte) :
    let key := imageKey c (!(tblOf s c).phys) slot
    (slotWrite c slot off bs s).tbl.images = sset [] s.tbl.images key (imageWrite (sget [] s.tbl.images key) off bs) := by
  simp only [slotWrite, h]
  rfl

theorem tblOf_slotWrite {c : Nat} (h : refusing s c = false) (slot off : Nat) (bs : List Byte) (d : Nat) :
    tblOf (slotWrite c slot off bs s) d = if d = c then (tblOf s c).markShadow slot false else tblOf s d := by
  simp only [slotWrite, h]
  exact tblOf_setTbl ..

theorem slotWrite_frame (c slot off : Nat) (bs : List Byte) (s : State) :
    slotWrite c slot off bs s = { s with tbl := (slotWrite c slot off bs s).tbl } := by
  unfold slotWrite
  dsimp only
  split <;> rfl

/-- The bytes of the slot that is written: those of the write, and the others as they were. -/
theorem imageAt_slotWrite_same {c slot off : Nat} (h : refusing s c = false) (ho : off ≤ imageBytes)
    (hlen : (sget [] s.tbl.images (imageKey c (!(tblOf s c).phys) slot)).length ∈ [0, imageBytes]) (bs : List Byte) (i : Nat) :
    imageAt (slotWrite c slot off bs s) c (!(tblOf s c).phys) slot i =
      if off ≤ i ∧ i < off + bs.length then bs.getD (i - off) 0 else imageAt s c (!(tblOf s c).phys) slot i := by
  rw [imageAt, slotWrite_images h, sget_sset, if_pos rfl]
  exact imageWrite_getD hlen ho bs i

theorem imageAt_slotWrite_other {c slot : Nat} (h : refusing s c = false) (hs : slot < 16) (off : Nat) (bs : List Byte)
    {c' slot' : Nat} {b : Bool} (hs' : slot' < 16) (hne : (c', b, slot') ≠ (c, !(tblOf s c).phys, slot)) (i : Nat) :
    imageAt (slotWrite c slot off bs s) c' b slot' i = imageAt s c' b slot' i := by
  rw [imageAt, slotWrite_images h, sget_sset, if_neg, imageAt]
  rw [imageKey_inj hs' hs]
  rintro ⟨rfl, rfl, rfl⟩
  exact hne rfl

/-! ## The window -/

/-- Without full redundancy a cluster stands for itself alone (R357). -/
theorem maskClusters_single {c : Nat} (h : c < Config.clusters) (hp : protection s ≠ 2) :
    maskClusters (pairMask s (2 ^ c)) = [c] := by
  have hone : ∀ d : Fin 32, maskClusters (2 ^ d.val) = [d.val] := by decide
  rw [pairMask, if_neg hp]
  exact hone ⟨c, h⟩

/-- The window offset of a byte of an image names its cluster, its slot and its place (Table 7-3). -/
theorem windowWrite_eq {c slot b : Nat} (hc : c < Config.clusters) (hs : slot < 16) (hb : b < imageBytes) {bytes : List Byte}
    (hn : bytes ≠ []) (hp : protection s ≠ 2) :
    windowWrite (c * 0x20000 + slot * 0x2000 + b) bytes s = slotWrite c slot b (bytes.take (imageBytes - b)) s := by
  have himg : imageBytes = 4128 := rfl
  have hcl : (c * 0x20000 + slot * 0x2000 + b) / 0x20000 = c := by omega
  have hsl : (c * 0x20000 + slot * 0x2000 + b) / 0x2000 % 16 = slot := by omega
  have hby : (c * 0x20000 + slot * 0x2000 + b) % 0x2000 = b := by omega
  have hne : ¬((bytes.take (imageBytes - b)).isEmpty = true ∨ Config.clusters ≤ c) := by
    rw [List.isEmpty_iff, List.take_eq_nil_iff]
    rintro ((h | h) | h)
    · omega
    · exact hn h
    · omega
  unfold windowWrite
  simp only [hcl, hsl, hby, if_neg hne, maskClusters_single hc hp]
  rfl

theorem inImage_offset {c slot b : Nat} (hc : c < Config.clusters) (hs : slot < 16) (hb : b < imageBytes) :
    inImage (c * 0x20000 + slot * 0x2000 + b) = true := by
  have himg : imageBytes = 4128 := rfl
  simp only [inImage, Bool.and_eq_true, decide_eq_true_eq]
  omega

theorem shadowWindowWrite_served {p : Port} {off : Nat} {bytes : List Byte} (h : Served p 7 s)
    (hok : (oneBlock 0x1000000 off bytes.length && inImage off) = true) :
    exec (.shadowWindowWrite p off bytes) s = .next (shadowWrite off bytes (dropHeld p s)) :=
  congrArg _ ((onWindow_placed hok).trans (onMain_served h))

@[simp] theorem refusing_dropHeld (p : Port) (c : Nat) : refusing (dropHeld p s) c = refusing s c := by
  cases p <;> rfl

@[simp] theorem imageAt_dropHeld (p : Port) (c : Nat) (b : Bool) (slot i : Nat) : imageAt (dropHeld p s) c b slot i = imageAt s c b slot i := by
  cases p <;> rfl

@[simp] theorem protection_dropHeld (p : Port) : protection (dropHeld p s) = protection s := by
  cases p <;> rfl

/-- A write of the window while no application runs is one write to the slot that it names. -/
theorem shadowWindowWrite_effect {p : Port} {c slot b : Nat} {bytes : List Byte} (h : Served p 7 s) (hi : installing s = false)
    (hc : c < Config.clusters) (hs : slot < 16) (hb : b < imageBytes)
    (hone : oneBlock 0x1000000 (c * 0x20000 + slot * 0x2000 + b) bytes.length = true) (hp : protection s ≠ 2) :
    exec (.shadowWindowWrite p (c * 0x20000 + slot * 0x2000 + b) bytes) s =
      .next (slotWrite c slot b (bytes.take (imageBytes - b)) (dropHeld p s)) := by
  have hn : bytes ≠ [] := by
    rintro rfl
    simp [oneBlock] at hone
  rw [shadowWindowWrite_served h (by rw [hone, inImage_offset hc hs hb]; rfl), shadowWrite, if_neg (by simp [hi]),
    windowWrite_eq hc hs hb hn (by rwa [protection_dropHeld])]

/-- What the truncated write leaves in the image's bytes is what the whole one names (R169). -/
theorem take_window (bytes : List Byte) {b i : Nat} (hi : i < imageBytes) {x : Byte} :
    (if b ≤ i ∧ i < b + (bytes.take (imageBytes - b)).length then (bytes.take (imageBytes - b)).getD (i - b) 0 else x) =
      if b ≤ i ∧ i < b + bytes.length then bytes.getD (i - b) 0 else x := by
  have hcond : (b ≤ i ∧ i < b + (bytes.take (imageBytes - b)).length) ↔ (b ≤ i ∧ i < b + bytes.length) := by
    rw [List.length_take]
    omega
  by_cases h : b ≤ i ∧ i < b + bytes.length
  · rw [if_pos (hcond.2 h), if_pos h]
    simp only [List.getD, List.getElem?_take]
    rw [if_pos (by omega)]
  · rw [if_neg (fun k => h (hcond.1 k)), if_neg h]

end Sys2Proof.Machine
end

section
/-! SUPPORT. Table LOADs: which slots one empties, what it waits for, and which response brings it (R170, R172, R289, R296). -/

namespace Sys2Proof.Machine

variable {s t : State}

/-! ## The start of a LOAD (R170, R172) -/

/-- The slot of each cluster that accepts writes is emptied. -/
def emptyAccepting (mask slot : Nat) (s : State) : State :=
  ((maskClusters mask).filter (fun c => !refusing s c)).foldl (fun t c => shadowValid slot false c t) s

theorem emptyAccepting_onlyBanks (mask slot : Nat) (s : State) : OnlyBanks s (emptyAccepting mask slot s) :=
  .foldl (fun t c => shadowValid_onlyBanks slot false c t) _ s

theorem tblOf_emptyAccepting (mask slot : Nat) (s : State) (d : Nat) :
    tblOf (emptyAccepting mask slot s) d =
      if d ∈ maskClusters mask ∧ refusing s d = false then (tblOf s d).markShadow slot false else tblOf s d := by
  have h := tblOf_foldl (g := fun _ x => x.markShadow slot false) (fun _ c d => tblOf_shadowValid slot false c d)
    ((nodup_maskClusters mask).filter fun c => !refusing s c) s d
  simpa [emptyAccepting] using h

theorem loadHits_congr (h : t.rtv.cache = s.rtv.cache) (l : TblLoad) : loadHits t l = loadHits s l := by
  simp only [loadHits, cachedBlock, h]

/-- The clusters that a LOAD finds locked are those that refuse writes. -/
theorem locked_contains {mask c : Nat} (hc : c ∈ maskClusters mask) :
    ((maskClusters mask).filter (fun c => refusing s c)).contains c = refusing s c := by
  rw [Bool.eq_iff_iff, List.contains_iff_mem, List.mem_filter]
  exact and_iff_right hc

theorem loadOp_empties (mask slot : Nat) (s : State) :
    ((maskClusters mask).filter (fun c => !((maskClusters mask).filter (fun c => refusing s c)).contains c)).foldl
      (fun t c => shadowValid slot false c t) s = emptyAccepting mask slot s := by
  rw [emptyAccepting, List.filter_congr fun c hc => by rw [locked_contains hc]]

theorem loadOp_all_locked (mask : Nat) (s : State) :
    (maskClusters mask).all (fun c => ((maskClusters mask).filter (fun c => refusing s c)).contains c) = true ↔
      ∀ c ∈ maskClusters mask, refusing s c = true := by
  rw [List.all_eq_true]
  exact forall₂_congr fun c hc => by rw [locked_contains hc]

/-- A LOAD of aligned data into at least one cluster that accepts it runs. -/
theorem loadOp_started {mask : Nat} (ha : s.tbl.addr % 512 = 0) (hc : ∃ c ∈ maskClusters mask, refusing s c = false) (slot : Nat) :
    loadOp mask slot s = { emptyAccepting mask slot s with tbl := { (emptyAccepting mask slot s).tbl with
      load := some (loadHits s ⟨mask, slot, s.tbl.addr, [], []⟩)
      lockedSlots := (maskClusters mask).filter (refusing s) } } := by
  have hcache : (emptyAccepting mask slot s).rtv.cache = s.rtv.cache := by rw [emptyAccepting_onlyBanks]
  have hno : ¬(s.tbl.addr % 512 ≠ 0 ∨
      (maskClusters mask).all (fun c => ((maskClusters mask).filter (fun c => refusing s c)).contains c) = true) := by
    rw [loadOp_all_locked]
    rintro (h | h)
    · exact h ha
    · obtain ⟨c, hc, hr⟩ := hc
      rw [h c hc] at hr
      cases hr
  rw [← loadHits_congr hcache, ← loadOp_empties]
  exact if_neg hno

/-- A LOAD of data that is not aligned, or that every cluster refuses, ends before any fetch (R170). -/
theorem loadOp_ended {mask : Nat} (h : s.tbl.addr % 512 ≠ 0 ∨ ∀ c ∈ maskClusters mask, refusing s c = true) (slot : Nat) :
    loadOp mask slot s =
      endOp ((maskClusters mask).map (fun c => (c, if refusing s c then 3 else 2))) (emptyAccepting mask slot s) := by
  rw [← loadOp_all_locked] at h
  have hcodes : (maskClusters mask).map (fun c => (c, if refusing s c then 3 else 2)) = (maskClusters mask).map (fun c =>
      (c, if ((maskClusters mask).filter (fun c => refusing s c)).contains c then 3 else 2)) :=
    List.map_congr_left fun c hc => by rw [locked_contains hc]
  rw [hcodes, ← loadOp_empties]
  exact if_pos h

/-- TBL_LOAD with no application running. -/
theorem tblLoad_effect {p : Port} {mask : BitVec 32} {slot : BitVec 4} (hs : Served p 7 s) (hb : s.tbl.busy = false)
    (hi : installing s = false) :
    exec (.tblLoad p mask slot) s = .next (loadOp (pairMask s mask.toNat) slot.toNat (opBegun 3 (dropHeld p s))) := by
  show Host.Outcome.next (onMain p 7 (startOp 3 mask.toNat slot.toNat) s) = _
  rw [onMain_served hs, startOp_idle (by simpa) (by simpa), pairMask_dropHeld]
  rfl

/-- During an application an operation is held, and shows BUSY (R172). -/
theorem startOp_held {p : Port} (hs : Served p 7 s) (hb : s.tbl.busy = false) (hi : installing s = true) (code mask slot : Nat) :
    onMain p 7 (startOp code mask slot) s = { dropHeld p s with
      tbl := { s.tbl with busy := true, lastOp := code, result := 0, failCluster := 0xFF }
      man := { s.man with held := s.man.held ++ [.op code (pairMask s mask) slot] } } := by
  rw [onMain_served hs, startOp, if_neg (by simp [hb])]
  dsimp only
  rw [if_pos (by simpa using hi), pairMask_dropHeld, dropHeld_tbl, dropHeld_man]

/-! ## The response that a LOAD waits for (R170, R289) -/

/-- Whether a LOAD has a block of a region. -/
def TblLoad.has (l : TblLoad) (x i : Nat) : Bool := l.got.any (fun g => g.1 == x && g.2.1 == i)

theorem mem_loadWants {l : TblLoad} {w : Nat × Nat} :
    w ∈ loadWants s l ↔ (∃ c ∈ maskClusters l.mask, c ∉ s.tbl.lockedSlots ∧ c / 4 = w.1) ∧ w.2 < imageBlocks ∧
      w.1 ∉ l.failed ∧ l.has w.1 w.2 = false := by
  obtain ⟨x, i⟩ := w
  simp only [loadWants, List.mem_flatMap, List.mem_eraseDups, List.mem_map, List.mem_filter, List.mem_filterMap, List.mem_range]
  constructor
  · rintro ⟨y, ⟨c, ⟨hc, hl⟩, rfl⟩, j, hj, h⟩
    split at h
    · cases h
    · next hn =>
      cases h
      simp only [Bool.or_eq_true, not_or, Bool.not_eq_true] at hn
      exact ⟨⟨c, hc, by simpa using hl, rfl⟩, hj, by simpa using hn.1, hn.2⟩
  · rintro ⟨⟨c, hc, hl, rfl⟩, hi, hf, hg⟩
    refine ⟨c / 4, ⟨c, ⟨hc, by simpa using hl⟩, rfl⟩, i, hi, if_neg ?_⟩
    rw [show l.got.any _ = false from hg]
    simpa using hf

/-- A LOAD that takes what the caches hold keeps what it had. -/
theorem loadHits_keep {l : TblLoad} {x i : Nat} (h : l.has x i = true) : (loadHits s l).has x i = true := by
  unfold TblLoad.has loadHits at *
  rw [List.any_append, h]
  rfl

/-- A block that a region's cache holds whole is no longer awaited (R296). -/
theorem loadHits_hit {l : TblLoad} {x i : Nat} (hx : x ∈ maskRegions l.mask) (hi : i < imageBlocks) {ys : List Sector}
    (h : cachedBlock s x (l.addr / 512 + i) = some ys) : (loadHits s l).has x i = true := by
  by_cases hl : l.has x i = true
  · exact loadHits_keep hl
  · have hmem : (x, i, ys) ∈ (loadHits s l).got := by
      refine List.mem_append_right _ (List.mem_flatMap.2 ⟨x, hx, List.mem_filterMap.2 ⟨i, List.mem_range.2 hi, ?_⟩⟩)
      rw [show l.got.any _ = false from Bool.eq_false_iff.2 hl, h]
      rfl
    exact List.any_eq_true.2 ⟨_, hmem, by simp⟩

/-- A fill of a whole block is in the region's cache as a whole. -/
theorem cachedBlock_fillCache {x block : Nat} {ys : List (Nat × Sector)} (h : ∀ i, i < 8 → ∃ v, (i, v) ∈ ys) :
    (cachedBlock (fillCache x block ys s) x block).isSome = true := by
  have hline : (fillCache x block ys s).rtv.cache.find? (fun y => y.region == x && y.block == block) =
      some ⟨x, block, filledSectors s x block ys⟩ := by
    rw [fillCache_cache, List.find?_append, List.find?_eq_none.2 fun y hy => by simpa using mem_keptLines hy]
    simp
  have hall : ∀ i ∈ List.range 8,
      (((filledSectors s x block ys).find? (fun y => y.1 == i)).map (·.2)).isSome = true := by
    intro i hi
    obtain ⟨v, hv⟩ := h i (List.mem_range.1 hi)
    rw [Option.isSome_map, List.find?_isSome]
    exact ⟨_, List.mem_append_right _ hv, by simp⟩
  have hlen : ((List.range 8).filterMap (fun i => ((filledSectors s x block ys).find? (fun y => y.1 == i)).map (·.2))).length = 8 := by
    rw [List.filterMap_length_eq_length.2 hall, List.length_range]
  simp only [cachedBlock, hline]
  rw [if_pos hlen]
  rfl

/-- The state with a response in its region's cache. -/
def filled (q : Req) (xs : List Sector) (x : Nat) (s : State) : State :=
  fillCache x (q.addr / 512) ((responseSectors q xs).map (fun y => (y.1 % 8, y.2))) s

theorem fillState_tbl (q : Req) (xs : List Sector) (x : Nat) (s : State) :
    (fillState q xs x s).tbl = { s.tbl with load := s.tbl.load.map (loadHits (filled q xs x s)) } := rfl

/-- A response of 512 bytes to a region brings the LOAD its block there. -/
theorem filled_hit {q : Req} {xs : List Sector} {x i : Nat} {l : TblLoad} (hx : x ∈ maskRegions l.mask)
    (hi : i < imageBlocks) (ha : q.addr = 512 * (l.addr / 512 + i)) (hq : q.len = 512) (hn : xs.length = 8) :
    (loadHits (filled q xs x s) l).has x i = true := by
  have hsectors : ∀ j, j < 8 → ∃ v, (j, v) ∈ (responseSectors q xs).map (fun y => (y.1 % 8, y.2)) := by
    intro j hj
    have hm : (q.addr / 64 + j, xs.getD j default) ∈ responseSectors q xs :=
      mem_responseSectors.2 ⟨j, by omega, by omega, rfl⟩
    refine ⟨xs.getD j default, List.mem_map.2 ⟨_, hm, ?_⟩⟩
    rw [show (q.addr / 64 + j) % 8 = j by omega]
  have hblock : q.addr / 512 = l.addr / 512 + i := by omega
  obtain ⟨ys, hys⟩ := Option.isSome_iff_exists.1 (cachedBlock_fillCache (s := s) (x := x) (block := q.addr / 512) hsectors)
  refine loadHits_hit hx hi (ys := ys) ?_
  rw [← hblock]
  exact hys

end Sys2Proof.Machine
end

section
/-! SUPPORT. The end of a LOAD: what each cluster takes of what was fetched, and what it reports (R163, R167, R170, R172). -/

namespace Sys2Proof.Machine

variable {s t : State}

/-! ## One cluster -/

/-- Whether a cluster takes no image of a LOAD because its bank refuses writes or has refused them (R172). -/
def fetchLocked (s : State) (c : Nat) : Bool := s.tbl.lockedSlots.contains c || refusing s c

/-- What a cluster reports at the end of a LOAD (R170). -/
def fetchCode (s : State) (l : TblLoad) (c : Nat) : Nat :=
  if fetchLocked s c then 3 else if (loadData l c).fault then 4 else if (loadData l c).poison then 5
  else imgResult (fun i => (loadData l c).bytes.getD i 0)

/-- Whether a cluster takes the image that its region fetched. -/
def fetchStores (s : State) (l : TblLoad) (c : Nat) : Bool :=
  !(fetchLocked s c || (loadData l c).fault || (loadData l c).poison)

theorem fetchStores_iff {l : TblLoad} {c : Nat} :
    fetchStores s l c = true ↔ fetchLocked s c = false ∧ (loadData l c).fault = false ∧ (loadData l c).poison = false := by
  simp only [fetchStores, Bool.not_eq_true', Bool.or_eq_false_iff, and_assoc]

theorem fetchStores_eq_false_iff {l : TblLoad} {c : Nat} :
    fetchStores s l c = false ↔ fetchLocked s c = true ∨ (loadData l c).fault = true ∨ (loadData l c).poison = true := by
  simp only [fetchStores, Bool.not_eq_false', Bool.or_eq_true, or_assoc]

/-- Only a cluster that takes its image reports OK. -/
theorem fetchCode_ne_zero {l : TblLoad} {c : Nat} (h : fetchStores s l c = false) : fetchCode s l c ≠ 0 := by
  unfold fetchCode
  split
  · decide
  · next ha =>
    split
    · decide
    · next hf =>
      split
      · decide
      · next hp => simp [fetchStores, ha, hf, hp] at h

/-- The state with an image in a slot; its words are good. -/
def putImage (key : Nat) (img : List Byte) (s : State) : State :=
  { s with tbl := { s.tbl with images := sset [] s.tbl.images key img, badWords := s.tbl.badWords.filter (fun w => w / 516 != key) } }

/-- What the end of a LOAD does to one cluster; its code and its slot are those of the state `s0` in which the end began. -/
def fetchStep (s0 : State) (l : TblLoad) (t : State) (c : Nat) : State :=
  if fetchStores s0 l c then
    let t1 := putImage (imageKey c (!(tblOf s0 c).phys) l.slot) (loadData l c).bytes t
    if fetchCode s0 l c = 0 then shadowValid l.slot true c t1 else t1
  else t

/-- What stays while the end of a LOAD runs over the clusters. -/
structure Fetching (s0 t : State) : Prop where
  rest : t = { s0 with tbl := t.tbl }
  locks : t.tbl.lockedSlots = s0.tbl.lockedSlots
  roles : SameRoles s0 t

theorem Fetching.trans {u : State} (h : Fetching s t) (k : Fetching t u) : Fetching s u :=
  ⟨by rw [k.rest, h.rest], k.locks.trans h.locks, h.roles.trans k.roles⟩

theorem fetchStep_fetching (s0 : State) (l : TblLoad) (t : State) (c : Nat) : Fetching t (fetchStep s0 l t c) := by
  unfold fetchStep
  split
  · dsimp only
    split
    · exact ⟨rfl, rfl, (shadowValid_sameRoles ..).after ⟨fun _ => rfl⟩⟩
    · exact ⟨rfl, rfl, ⟨fun _ => rfl⟩⟩
  · exact ⟨rfl, rfl, .refl t⟩

/-- Which clusters refuse writes depends on the roles of the banks alone, not on what they hold (R172). -/
theorem Fetching.refusing (h : Fetching s t) (c : Nat) : refusing t c = refusing s c := by
  have hbank : ∀ e, entryBank t e c = entryBank s e c := by
    intro e
    unfold entryBank boundBank swapsAt
    rw [h.roles.phys, h.rest]
  unfold Machine.refusing
  simp only [hbank, h.roles.phys]
  rw [h.rest]

theorem fetchOne_eq (h : Fetching s t) (l : TblLoad) (rs : List (Nat × Nat)) (c : Nat) :
    fetchOne l (t, rs) c = (fetchStep s l t c, rs ++ [(c, fetchCode s l c)]) := by
  have hlock : (t.tbl.lockedSlots.contains c || refusing t c) = fetchLocked s c := by rw [h.locks, h.refusing, fetchLocked]
  have hcheck : shadowCheck (putImage (imageKey c (!(tblOf s c).phys) l.slot) (loadData l c).bytes t) l.slot c =
      imgResult (fun i => (loadData l c).bytes.getD i 0) := by
    have hbank : tblOf (putImage (imageKey c (!(tblOf s c).phys) l.slot) (loadData l c).bytes t) c = tblOf t c := rfl
    unfold shadowCheck
    congr 1
    funext i
    rw [imageAt, hbank, h.roles.phys, putImage, sget_sset, if_pos rfl]
  unfold fetchOne fetchStep fetchCode fetchStores
  unfold putImage at hcheck ⊢
  simp only [hlock, h.roles.phys, hcheck]
  generalize imgResult (fun i => (loadData l c).bytes.getD i 0) = code
  cases fetchLocked s c
  · cases (loadData l c).fault
    · cases (loadData l c).poison <;> simp
    · simp
  · simp

theorem fetchRun_eq (h : Fetching s t) (l : TblLoad) (cs : List Nat) (rs : List (Nat × Nat)) :
    cs.foldl (fetchOne l) (t, rs) = (cs.foldl (fetchStep s l) t, rs ++ cs.map (fun c => (c, fetchCode s l c))) := by
  induction cs generalizing t rs with
  | nil => simp
  | cons c cs ih =>
    rw [List.foldl_cons, List.foldl_cons, fetchOne_eq h, ih (h.trans (fetchStep_fetching s l t c)), List.map_cons, List.append_assoc]
    rfl

/-! ## All clusters -/

theorem fetchRun_fetching (l : TblLoad) (cs : List Nat) (s : State) : Fetching s (cs.foldl (fetchStep s l) s) :=
  List.foldlRecOn cs (fetchStep s l) (motive := Fetching s) ⟨rfl, rfl, .refl s⟩
    (fun t ht c _ => ht.trans (fetchStep_fetching s l t c))

theorem tblOf_fetchStep (s0 : State) (l : TblLoad) (t : State) (c d : Nat) :
    tblOf (fetchStep s0 l t c) d =
      if d = c then (if fetchCode s0 l c = 0 then (tblOf t c).markShadow l.slot true else tblOf t c) else tblOf t d := by
  have hid : tblOf t d = if d = c then tblOf t c else tblOf t d := by
    split
    · next h => rw [h]
    · rfl
  unfold fetchStep
  split
  · dsimp only
    split
    · exact tblOf_shadowValid ..
    · exact hid
  · next h =>
    rw [if_neg (fetchCode_ne_zero (by simpa using h))]
    exact hid

theorem tblOf_fetchRun {cs : List Nat} (hn : cs.Nodup) (l : TblLoad) (s : State) (d : Nat) :
    tblOf (cs.foldl (fetchStep s l) s) d =
      if d ∈ cs then (if fetchCode s l d = 0 then (tblOf s d).markShadow l.slot true else tblOf s d) else tblOf s d :=
  tblOf_foldl (g := fun c x => if fetchCode s l c = 0 then x.markShadow l.slot true else x) (tblOf_fetchStep s l) hn s d

/-- The image that a slot holds after the step of a cluster. -/
theorem images_fetchStep {l : TblLoad} (hl : l.slot < 16) (s0 t : State) (c d : Nat) (b : Bool) {slot : Nat} (hs : slot < 16) :
    sget [] (fetchStep s0 l t c).tbl.images (imageKey d b slot) =
      if d = c ∧ fetchStores s0 l d = true ∧ b = (!(tblOf s0 d).phys) ∧ slot = l.slot then (loadData l d).bytes
      else sget [] t.tbl.images (imageKey d b slot) := by
  have himages : (fetchStep s0 l t c).tbl.images = if fetchStores s0 l c then
      sset [] t.tbl.images (imageKey c (!(tblOf s0 c).phys) l.slot) (loadData l c).bytes else t.tbl.images := by
    unfold fetchStep
    split
    · dsimp only
      split <;> rfl
    · rfl
  rw [himages]
  by_cases hd : d = c
  · subst hd
    cases fetchStores s0 l d
    · simp
    · simp [imageKey_inj hs hl]
  · cases fetchStores s0 l c
    · simp [hd]
    · simp [hd, imageKey_inj hs hl]

/-- After the run each slot holds what its cluster took, or what it held. -/
theorem images_fetchRun {l : TblLoad} (hl : l.slot < 16) (s0 : State) (cs : List Nat) (t : State) (d : Nat) (b : Bool) {slot : Nat}
    (hs : slot < 16) :
    sget [] (cs.foldl (fetchStep s0 l) t).tbl.images (imageKey d b slot) =
      if d ∈ cs ∧ fetchStores s0 l d = true ∧ b = (!(tblOf s0 d).phys) ∧ slot = l.slot then (loadData l d).bytes
      else sget [] t.tbl.images (imageKey d b slot) := by
  induction cs generalizing t with
  | nil => simp
  | cons c cs ih =>
    rw [List.foldl_cons, ih, images_fetchStep hl s0 t c d b hs]
    by_cases htake : fetchStores s0 l d = true ∧ b = (!(tblOf s0 d).phys) ∧ slot = l.slot
    · by_cases hd : d ∈ cs <;> simp [htake, hd]
    · simp [htake]

/-- TBL_LOAD_FETCH_END once nothing is awaited. -/
theorem fetchEnd_effect {l : TblLoad} (hm : mainStopped s = false) (hl : s.tbl.load = some l) (hi : installing s = false)
    (hw : loadWants s l = []) (lost : List (Nat × Nat)) :
    let cs := maskClusters l.mask
    exec (.tblLoadFetchEnd lost) s =
      .next (endOp (cs.map (fun c => (c, fetchCode s l c))) (spoilWords l lost (cs.foldl (fetchStep s l) s))) := by
  show execTblLoadFetchEnd lost s = _
  have hrun := fetchRun_eq (s := s) ⟨rfl, rfl, .refl s⟩ l (maskClusters l.mask) []
  unfold execTblLoadFetchEnd
  simp only [hm, hl, hi, hw, hrun]
  rfl

/-- While the LOAD waits, or an application runs, or there is none, its end does nothing. -/
theorem fetchEnd_waits (h : mainStopped s = true ∨ s.tbl.load = none ∨ installing s = true ∨
      ∃ l, s.tbl.load = some l ∧ loadWants s l ≠ []) (lost : List (Nat × Nat)) :
    exec (.tblLoadFetchEnd lost) s = .next s := by
  show execTblLoadFetchEnd lost s = _
  unfold execTblLoadFetchEnd
  congr 1
  split
  · rfl
  · next hm =>
    split
    · rfl
    · next l hl =>
      refine if_pos ?_
      rcases h with h | h | h | ⟨m, h, hw⟩
      · exact absurd h hm
      · rw [hl] at h; cases h
      · exact .inl h
      · obtain rfl : l = m := Option.some.inj (hl.symm.trans h)
        exact .inr (by simpa using hw)

/-! ## Valid bits -/

theorem slotBit_ne_zero {slot : Nat} (h : slot < 16) : slotBit slot ≠ 0 := by
  have hall : ∀ i : Fin 16, slotBit i.val ≠ 0 := by decide
  exact hall ⟨slot, h⟩

/-- A slot that has been marked valid is valid. -/
theorem or_slotBit_and (v : BitVec 16) (slot : Nat) : (v ||| slotBit slot) &&& slotBit slot = slotBit slot := by
  ext i hi
  cases h : (slotBit slot)[i] <;> simp [h]

end Sys2Proof.Machine
end

section
/-! SUPPORT. The statement on table images: the window's writes, the start, the fetch and the end of a LOAD (R169, R170, R172, R289, R296, R421). -/

namespace Sys2Proof.Machine

variable {s : State}

/-- A window write that the cluster accepts: the bytes of its slot, the other slots, and the valid bits (R169). -/
theorem slotWrite_accepted {p : Port} {c slot b : Nat} {bytes : List Byte} (hr : refusing s c = false) (hs : slot < 16) (hb : b < imageBytes)
    (hlen : (sget [] s.tbl.images (imageKey c (!(tblOf s c).phys) slot)).length ∈ [0, imageBytes]) :
    let sh := !(tblOf s c).phys
    let t := slotWrite c slot b (bytes.take (imageBytes - b)) (dropHeld p s)
    (∀ i, i < imageBytes → imageAt t c sh slot i =
      if b ≤ i ∧ i < b + bytes.length then bytes.getD (i - b) 0 else imageAt s c sh slot i) ∧
    (∀ c' sh' slot' i, slot' < 16 → (c', sh', slot') ≠ (c, sh, slot) → imageAt t c' sh' slot' i = imageAt s c' sh' slot' i) ∧
    tblOf t c = (tblOf s c).setValid sh ((tblOf s c).valid sh &&& ~~~ slotBit slot) ∧
    (∀ c', c' ≠ c → tblOf t c' = tblOf s c') ∧ t = { dropHeld p s with tbl := t.tbl } ∧ SameMemory s t := by
  intro sh t
  have hr' : refusing (dropHeld p s) c = false := by rwa [refusing_dropHeld]
  refine ⟨fun i hi => ?_, fun c' sh' slot' i hs' hne => ?_, ?_, fun c' hne => ?_, slotWrite_frame .., ?_⟩
  · have h := imageAt_slotWrite_same (slot := slot) hr' hb.le (by simpa using hlen) (bytes.take (imageBytes - b)) i
    rw [tblOf_dropHeld, imageAt_dropHeld, take_window bytes hi] at h
    exact h
  · rw [imageAt_slotWrite_other hr' hs _ _ hs' (by rwa [tblOf_dropHeld]), imageAt_dropHeld]
  · rw [tblOf_slotWrite hr', if_pos rfl, tblOf_dropHeld]
    rfl
  · rw [tblOf_slotWrite hr', if_neg hne, tblOf_dropHeld]
  · exact sameMemory_of_mem ((slotWrite_quiet ..).mem.trans (dropHeld_quiet p s).mem)

/-- The LOAD that starts (R170, R172). -/
theorem tblLoad_started {p : Port} {mask : BitVec 32} {slot : BitVec 4} (h : Served p 7 s) (hb : s.tbl.busy = false)
    (hi : installing s = false) (ha : s.tbl.addr % 512 = 0)
    (hc : ∃ c ∈ maskClusters (pairMask s mask.toNat), refusing s c = false) :
    let cs := maskClusters (pairMask s mask.toNat)
    ∃ t, exec (.tblLoad p mask slot) s = .next t ∧
      t.tbl.busy = true ∧ t.tbl.lastOp = 3 ∧
      t.tbl.load = some (loadHits s ⟨pairMask s mask.toNat, slot.toNat, s.tbl.addr, [], []⟩) ∧
      t.tbl.images = s.tbl.images ∧ t.tbl.lockedSlots = cs.filter (refusing s) ∧
      (∀ c ∈ cs, refusing s c = false → tblOf t c = (tblOf s c).setValid (!(tblOf s c).phys)
        ((tblOf s c).valid (!(tblOf s c).phys) &&& ~~~ slotBit slot.toNat)) ∧
      (∀ c, (c ∉ cs ∨ refusing s c = true) → tblOf t c = tblOf s c) ∧ t = { dropHeld p s with tbl := t.tbl } := by
  intro cs
  have hrest := emptyAccepting_onlyBanks (pairMask s mask.toNat) slot.toNat (opBegun 3 (dropHeld p s))
  have hbank := tblOf_emptyAccepting (pairMask s mask.toNat) slot.toNat (opBegun 3 (dropHeld p s))
  simp only [refusing_opBegun_dropHeld, tblOf_opBegun_dropHeld] at hbank
  have hold : (opBegun 3 (dropHeld p s)).tbl = { s.tbl with busy := true, lastOp := 3, result := 0, failCluster := 0xFF } := by
    rw [opBegun, dropHeld_tbl]
  refine ⟨_, (tblLoad_effect h hb hi).trans (congrArg _ (loadOp_started (by rwa [hold]) ?_ _)), ?_, ?_, ?_, ?_, ?_,
    fun c hc hr => (hbank c).trans (if_pos ⟨hc, hr⟩), fun c hc => (hbank c).trans (if_neg ?_), ?_⟩
  · simpa only [refusing_opBegun_dropHeld] using hc
  · rw [hrest]; rfl
  · rw [hrest]; rfl
  · rw [hold, loadHits_congr (s := s) (by simp [opBegun])]
  · rw [hrest, hold]
  · exact List.filter_congr fun c _ => refusing_opBegun_dropHeld 3 p c
  · rintro ⟨hm, hr⟩
    rcases hc with hc | hc
    · exact hc hm
    · rw [hr] at hc; cases hc
  · rw [hrest]; rfl

/-- What the results of clusters report: the first that is not 0, or none. -/
theorem endOp_reports (cs : List Nat) (code : Nat → Nat) (u : State) :
    let t := endOp (cs.map (fun c => (c, code c))) u
    ((∀ c ∈ cs, code c = 0) → t.tbl.result = 0 ∧ t.tbl.failCluster = 0xFF) ∧
      (∀ c, cs.find? (fun x => code x != 0) = some c → t.tbl.result = code c ∧ t.tbl.failCluster = c) := by
  obtain ⟨-, -, -, -, hall, hfirst, -⟩ := ended_run (f := fun t _ => t) (fun _ _ => rfl) cs code u rfl
  rw [List.foldl_fixed] at hall hfirst
  exact ⟨hall, hfirst⟩

/-- The LOAD that ends before any fetch (R170). -/
theorem tblLoad_ended {p : Port} {mask : BitVec 32} {slot : BitVec 4} (h : Served p 7 s) (hb : s.tbl.busy = false)
    (hi : installing s = false)
    (hc : s.tbl.addr % 512 ≠ 0 ∨ ∀ c ∈ maskClusters (pairMask s mask.toNat), refusing s c = true) :
    ∃ t, exec (.tblLoad p mask slot) s = .next t ∧ t.tbl.busy = false ∧ t.tbl.load = none ∧
      (∀ c, (maskClusters (pairMask s mask.toNat)).head? = some c →
        t.tbl.failCluster = c ∧ t.tbl.result = if refusing s c then 3 else 2) ∧
      t = { dropHeld p s with tbl := t.tbl } := by
  have hrest := emptyAccepting_onlyBanks (pairMask s mask.toNat) slot.toNat (opBegun 3 (dropHeld p s))
  have hold : (opBegun 3 (dropHeld p s)).tbl.addr = s.tbl.addr := by simp [opBegun]
  have hop := loadOp_ended (s := opBegun 3 (dropHeld p s)) (mask := pairMask s mask.toNat)
    (by simpa only [refusing_opBegun_dropHeld, hold] using hc) slot.toNat
  simp only [refusing_opBegun_dropHeld] at hop
  refine ⟨_, (tblLoad_effect h hb hi).trans (congrArg _ hop), ?_, ?_, fun c hh => ?_, ?_⟩
  · rw [endOp_map]; rfl
  · rw [endOp_map]; rfl
  · obtain ⟨-, hfirst⟩ := endOp_reports (maskClusters (pairMask s mask.toNat)) (fun c => if refusing s c then 3 else 2)
      (emptyAccepting (pairMask s mask.toNat) slot.toNat (opBegun 3 (dropHeld p s)))
    obtain ⟨cs, hcs⟩ := List.head?_eq_some_iff.1 hh
    refine (hfirst c ?_).symm
    rw [hcs, List.find?_cons_of_pos]
    split <;> rfl
  · rw [endOp_map, hrest]; rfl

/-- A response that a LOAD waits for (R289, R296). -/
theorem readResponse_load {tag : Nat} {xs : List Sector} {q : Req} {l : TblLoad} {x i : Nat} {o : Option (Nat × Nat)}
    (hm : mainStopped s = false) (hd : s.pwr.draining = none) (hr : reqOf s tag = some q) (hw : q.write = false)
    (ho : q.owner = .fill x o) (hp : q.pass = 0) (hl : s.tbl.load = some l) (hx : x ∈ maskRegions l.mask) (hi : i < imageBlocks)
    (ha : q.addr = 512 * (l.addr / 512 + i)) (hq : q.len = 512) (hn : xs.length = 8) :
    ∃ t l', exec (.readResponse tag xs) s = .next t ∧ t.tbl.load = some l' ∧ (x, i) ∉ loadWants t l' ∧
      (∀ w, w ∈ loadWants t l' → w ∈ loadWants s l) ∧ t.tbl = { s.tbl with load := some l' } := by
  have hexec : exec (.readResponse tag xs) s = .next (takeResponse q xs (dropReq tag s)) := by
    rw [readResponse_eq hm hr, hw, hd]
    rfl
  have htbl : (takeResponse q xs (dropReq tag s)).tbl =
      { s.tbl with load := some (loadHits (filled q xs x (dropReq tag s)) l) } := by
    rw [takeResponse_fill ho hp, reachWith_onlyQueue takeHits (reached (dropReq tag s) q) (fillState q xs x (dropReq tag s))]
    show (fillState q xs x (dropReq tag s)).tbl = _
    rw [fillState_tbl, dropReq_tbl, hl]
    rfl
  refine ⟨_, _, hexec, congrArg TblUnit.load htbl, fun h => ?_, fun w h => ?_, htbl⟩
  · obtain ⟨-, -, -, hhas⟩ := mem_loadWants.1 h
    rw [filled_hit hx hi ha hq hn] at hhas
    cases hhas
  · obtain ⟨hc, hblock, hfail, hhas⟩ := mem_loadWants.1 h
    rw [htbl] at hc
    exact mem_loadWants.2 ⟨hc, hblock, hfail, Bool.eq_false_iff.2 fun hk => Bool.eq_false_iff.1 hhas (loadHits_keep hk)⟩

/-- The end of a LOAD: each cluster takes its image or keeps the one it had (R163, R170, R172). -/
theorem fetchEnd_images {l : TblLoad} (hl : l.slot < 16) (lost : List (Nat × Nat)) :
    let cs := maskClusters l.mask
    let t := endOp (cs.map (fun c => (c, fetchCode s l c))) (spoilWords l lost (cs.foldl (fetchStep s l) s))
    (∀ c ∈ cs, fetchStores s l c = true →
      sget [] t.tbl.images (imageKey c (!(tblOf s c).phys) l.slot) = (loadData l c).bytes ∧
      ((tblOf t c).valid (!(tblOf s c).phys) &&& slotBit l.slot ≠ 0 ↔
        (tblOf s c).valid (!(tblOf s c).phys) &&& slotBit l.slot ≠ 0 ∨ fetchCode s l c = 0)) ∧
    (∀ c, (c ∉ cs ∨ fetchStores s l c = false) → tblOf t c = tblOf s c ∧
      ∀ sh sl, sl < 16 → sget [] t.tbl.images (imageKey c sh sl) = sget [] s.tbl.images (imageKey c sh sl)) := by
  intro cs t
  have hend : t = _ := endOp_map ..
  have hbank : ∀ d, tblOf t d =
      if d ∈ cs then (if fetchCode s l d = 0 then (tblOf s d).markShadow l.slot true else tblOf s d) else tblOf s d := by
    rw [hend]
    exact tblOf_fetchRun (nodup_maskClusters l.mask) l s
  have himage : ∀ d b slot, slot < 16 → sget [] t.tbl.images (imageKey d b slot) =
      if d ∈ cs ∧ fetchStores s l d = true ∧ b = (!(tblOf s d).phys) ∧ slot = l.slot then (loadData l d).bytes
      else sget [] s.tbl.images (imageKey d b slot) := by
    rw [hend]
    exact fun d b slot => images_fetchRun hl s cs s d b
  refine ⟨fun c hc hst => ⟨?_, ?_⟩, fun c hno => ⟨?_, fun sh sl hs => ?_⟩⟩
  · rw [himage c _ _ hl, if_pos ⟨hc, hst, rfl, rfl⟩]
  · rw [hbank, if_pos hc]
    split
    · next hz =>
      rw [TblCluster.markShadow, valid_setValid, if_pos rfl, or_slotBit_and]
      exact iff_of_true (slotBit_ne_zero hl) (.inr hz)
    · next hz => exact (or_iff_left hz).symm
  · rw [hbank]
    split
    · next hc => rw [if_neg (fetchCode_ne_zero (hno.resolve_left fun h => h hc))]
    · rfl
  · rw [himage c sh sl hs, if_neg]
    rintro ⟨hc, hst, -⟩
    rcases hno with hno | hno
    · exact hno hc
    · rw [hst] at hno; cases hno

/-- Settles O45: a window write is one write of one slot; the end of a LOAD runs over distinct clusters, and which of them refuse writes does
not depend on what it writes. -/
theorem tableImagesAreLoaded : Obligations.TableImagesAreLoaded := by
  unfold Obligations.TableImagesAreLoaded
  refine ⟨fun s p c slot b bytes h hi hc hs hb hone hp => ?_, fun s p off bytes hm hok => ?_, fun s p mask slot h hb hi => ⟨?_, ?_⟩,
    fun s tag xs q l x i o hm hd hr hw ho hpass hl hx hb ha hq hn => ?_, fun s l lost hm hl hslot hi hw => ?_,
    fun s lost h => fetchEnd_waits h lost, fun s p mask slot h hb hi => ?_, fun s p off bytes h hi hok => ?_⟩
  · have hexec := shadowWindowWrite_effect h hi hc hs hb hone hp
    refine ⟨fun hr => hexec.trans ?_, fun hr hlen => ⟨_, hexec, slotWrite_accepted hr hs hb hlen⟩⟩
    rw [slotWrite_refused (by rwa [refusing_dropHeld]), dropHeld_tbl]
  · exact congrArg _ (onWindow_misplaced hm hok)
  · exact tblLoad_started h hb hi
  · exact tblLoad_ended h hb hi
  · exact readResponse_load hm hd hr hw ho hpass hl hx hb ha hq hn
  · obtain ⟨htaken, hkept⟩ := fetchEnd_images (s := s) hslot lost
    obtain ⟨hall, hfirst⟩ := endOp_reports (maskClusters l.mask) (fetchCode s l)
      (spoilWords l lost ((maskClusters l.mask).foldl (fetchStep s l) s))
    refine ⟨_, fetchEnd_effect hm hl hi hw lost, ?_, ?_, ?_, fun c hc ha hf hg => htaken c hc (fetchStores_iff.2 ⟨ha, hf, hg⟩),
      fun c hno => hkept c ?_, hall, hfirst⟩
    · rw [endOp_map]; rfl
    · rw [endOp_map]; rfl
    · rw [endOp_map, (fetchRun_fetching l (maskClusters l.mask) s).rest]; rfl
    · exact hno.imp_right fetchStores_eq_false_iff.2
  · exact ⟨congrArg _ (startOp_held h hb hi ..), congrArg _ (startOp_held h hb hi ..), congrArg _ (startOp_held h hb hi ..),
      congrArg _ (startOp_held h hb hi ..)⟩
  · rw [shadowWindowWrite_served h hok, shadowWrite, if_pos (by simpa using hi), dropHeld_man]

end Sys2Proof.Machine
end

section
/-! SUPPORT. Translation faults: what one does to the request's owner, what RETRY and FAIL make of the recorded command, and which record comes
next (R170, R302 to R304, R351, R353, R392). -/

namespace Sys2Proof.Machine

variable {s t : State}

/-! ## Recording (R303) -/

/-- From `s` to `t` only the record of faults and what is held behind it may differ. -/
def OnlyRecord (s t : State) : Prop :=
  t = { s with rtv := { s.rtv with fault := t.rtv.fault, faultQueue := t.rtv.faultQueue } }

theorem recordFault_onlyRecord (f : FaultRec) (s : State) : OnlyRecord s (recordFault f s) := by
  unfold recordFault
  dsimp only
  split
  · exact rfl
  · split <;> exact rfl

theorem recordFault_first (h : s.rtv.fault = none) (f : FaultRec) : (recordFault f s).rtv.fault = some f := by
  simp only [recordFault, h]

/-- A record that stands is not replaced (R303). -/
theorem recordFault_later {g : FaultRec} (h : s.rtv.fault = some g) (f : FaultRec) : (recordFault f s).rtv.fault = some g := by
  simp only [recordFault, h]
  split
  · exact h
  · rfl

/-- The entry with a faulted request noted. -/
def Entry.noteFault (e : Entry) (q : Req) : Entry :=
  { e with
    faults := e.faults ++ [⟨q.write, q.addr, q.len, 0, q.slot, q.prefetch⟩]
    suspended := e.suspended || decide (e.life = .ran ∨ e.life = .stats)
    writes := match q.block with | some w => w :: e.writes | none => e.writes }

/-- What a fault of a command's request records. -/
def faultRecord (q : Req) (e : Entry) : FaultRec := ⟨e.berth, e.seq, q.slot, q.write, !q.write && !e.started, q.addr⟩

theorem faultEntry_eq (q : Req) (e : Entry) (s : State) :
    faultEntry q e s = recordFault (faultRecord q e) (setEntry (e.noteFault q) s) := rfl

/-- A fault of a command's request: the command is noted with it in its place, and nothing else changes but the record (R302, R303). -/
theorem faultEntry_effect {b n : Nat} {e : Entry} (he : findEntry s b n = some e) (q : Req) :
    let t := faultEntry q e s
    findEntry t b n = some (e.noteFault q) ∧
      (s.rtv.fault = none → t.rtv.fault = some ⟨b, n, q.slot, q.write, !q.write && !e.started, q.addr⟩) ∧
      (∀ f, s.rtv.fault = some f → t.rtv.fault = some f) ∧
      t = { s with rtv := { s.rtv with fault := t.rtv.fault, faultQueue := t.rtv.faultQueue }, cq := t.cq } ∧
      OnlyEntry b n { s with rtv := t.rtv } t := by
  intro t
  obtain ⟨-, rfl, rfl⟩ := findEntry_mem he
  have hrec : OnlyRecord (setEntry (e.noteFault q) s) t := recordFault_onlyRecord ..
  have hcq : t.cq = (setEntry (e.noteFault q) s).cq := by rw [hrec]
  have hset := setEntry_onlyEntry (e.noteFault q) s
  refine ⟨(findEntry_congr (congrArg CqUnit.entries hcq)).trans (findEntry_setEntry (e.noteFault q) e he),
    fun h => recordFault_first (s := setEntry (e.noteFault q) s) h (faultRecord q e),
    fun f h => recordFault_later (s := setEntry (e.noteFault q) s) h (faultRecord q e), by rw [hrec]; rfl, by rw [hrec]; rfl, fun b n h => ?_⟩
  exact (findEntry_congr (congrArg CqUnit.entries hcq)).trans (hset.others b n h)

/-! ## Owners (R302) -/

theorem translationFault_eq {tag : Nat} {q : Req} (hm : mainStopped s = false) (hr : reqOf s tag = some q) :
    exec (.translationFault tag) s = .next (faultOwner q (dropReq tag s)) := by
  show execTranslationFault tag s = _
  simp only [execTranslationFault, hm, hr, Bool.false_eq_true, ↓reduceIte]

/-- A command's requests are for its operand buffers, its store areas or a region's cache. -/
theorem faultOwner_found {q : Req} {b n : Nat} {e : Entry} (h : q.owner = .entry b n ∨ ∃ x, q.owner = .fill x (some (b, n)))
    (he : findEntry s b n = some e) : faultOwner q s = faultEntry q e s := by
  rcases h with h | ⟨x, h⟩
  · simp only [faultOwner, h, he]
  · simp only [faultOwner, h, he]

theorem faultOwner_gone {q : Req} {b n : Nat} (h : q.owner = .entry b n ∨ ∃ x, q.owner = .fill x (some (b, n)))
    (he : findEntry s b n = none) : faultOwner q s = s := by
  rcases h with h | ⟨x, h⟩
  · simp only [faultOwner, h, he]
  · simp only [faultOwner, h, he]

theorem faultOwner_post {q : Req} (h : q.owner = .post) (s : State) :
    faultOwner q s = { s with dgst := { s.dgst with postSkipped := true } } := by
  simp only [faultOwner, h]

theorem faultOwner_trace {q : Req} {a b : Nat} (h : q.owner = .trace a b) (s : State) : faultOwner q s = s := by
  simp only [faultOwner, h]

theorem faultOwner_cert {q : Req} {n : Nat} (h : q.owner = .cert n) (s : State) :
    faultOwner q s =
      if s.toll.cert.state = 3 ∧ n = s.toll.cert.serial then setCert { s.toll.cert with state := 5, cause := 3 } s else s := by
  simp only [faultOwner, h]

/-- A LOAD that has failed for the clusters of a region (R170). -/
def TblLoad.failIn (x : Nat) (l : TblLoad) : TblLoad := { l with failed := if l.failed.contains x then l.failed else l.failed ++ [x] }

theorem mem_failIn {l : TblLoad} {x y : Nat} : y ∈ (l.failIn x).failed ↔ y ∈ l.failed ∨ y = x := by
  unfold TblLoad.failIn
  dsimp only
  split
  · next h =>
    refine ⟨.inl, fun hy => hy.elim id ?_⟩
    rintro rfl
    simpa using h
  · simp

theorem faultOwner_load {q : Req} {x : Nat} (h : q.owner = .fill x none) (s : State) :
    faultOwner q s = { s with tbl := { s.tbl with load := s.tbl.load.map (TblLoad.failIn x) } } := by
  simp only [faultOwner, h]
  rfl

/-! ## The record is cleared (R303, R304) -/

/-- The faults held behind the record that are not of its command. -/
def faultsAfter (s : State) (f : FaultRec) : List FaultRec :=
  s.rtv.faultQueue.filter (fun x => !(x.berth == f.berth && x.seq == f.seq))

/-- The record of a command is cleared, and the next fault held behind it takes its place. -/
theorem clearFault_recorded {f : FaultRec} (h : s.rtv.fault = some f) :
    clearFault f.berth f.seq s =
      { s with rtv := { s.rtv with fault := (faultsAfter s f).head?, faultQueue := (faultsAfter s f).tail } } := by
  simp only [clearFault, h, true_and, ↓reduceIte]
  rfl

/-! ## The end of a command leaves most of the engine alone -/

theorem setMarks_frame (m : Bool) (us : List Nat) (s : State) : ∃ p, us.foldl (fun t u => setMark u m t) s = { s with sp := p } := by
  induction us generalizing s with
  | nil => exact ⟨_, rfl⟩
  | cons u us ih => exact ih (setMark u m s)

theorem poisonOutputs_frame (e : Entry) (s : State) : ∃ c p, poisonOutputs e s = { s with cq := c, sp := p } := by
  unfold poisonOutputs
  extract_lets d units mine first jobs lines
  obtain ⟨p, hp⟩ := setMarks_frame true (lines 0 ++ lines 1) s
  rw [hp]
  exact ⟨_, _, rfl⟩

theorem invalidateFor_frame (e : Entry) (s : State) : ∃ d, invalidateFor e s = { s with dgst := d } := by
  unfold invalidateFor
  split <;> exact ⟨_, rfl⟩

theorem leaveIssue_frame (b : Nat) (s : State) : ∃ c, leaveIssue b s = { s with cq := c } := by
  unfold leaveIssue
  split <;> exact ⟨_, rfl⟩

/-- The entry of a command that has ended with a report (R280, R304). -/
def Entry.ended (e : Entry) (r : Result) : Entry := { e.shed with life := .ran, res := r }

theorem endEarly_eq (e : Entry) (r : Result) (s : State) :
    endEarly e r s = leaveIssue e.berth (invalidateFor (e.ended r) (poisonOutputs (e.ended r) (setEntry (e.ended r) s))) := rfl

/-- Ending a command changes the queue, the scratchpad's marks and the digests alone. -/
theorem endEarly_frame (e : Entry) (r : Result) (s : State) : ∃ c p d, endEarly e r s = { s with cq := c, sp := p, dgst := d } := by
  obtain ⟨c, p, hp⟩ := poisonOutputs_frame (e.ended r) (setEntry (e.ended r) s)
  obtain ⟨d, hd⟩ := invalidateFor_frame (e.ended r) (poisonOutputs (e.ended r) (setEntry (e.ended r) s))
  obtain ⟨k, hk⟩ := leaveIssue_frame e.berth (invalidateFor (e.ended r) (poisonOutputs (e.ended r) (setEntry (e.ended r) s)))
  exact ⟨k, p, d, by rw [endEarly_eq, hk, hd, hp]; rfl⟩

/-! ## The segment of a command that ends early (R351) -/

theorem ofNext_congr (hq : t.cq.entries = s.cq.entries) (hc : t.crs = s.crs) (e : Entry) : ofNext t e = ofNext s e := by
  unfold ofNext inCrossing
  rw [hq, hc]

/-- Whether a command belongs to the next crossing is read from the markers before it, which its own entry is not among. -/
theorem ofNext_setEntry (e : Entry) (s : State) : ofNext (setEntry e s) e = ofNext s e := by
  unfold ofNext
  congr 1
  unfold setEntry
  dsimp only
  rw [List.any_map, Bool.eq_iff_iff, List.any_eq_true, List.any_eq_true]
  refine exists_congr fun x => and_congr_right fun _ => ?_
  by_cases hx : x.berth = e.berth ∧ x.seq = e.seq
  · simp [hx]
  · simp [hx]

theorem leaveIssue_dgst (b : Nat) (s : State) : (leaveIssue b s).dgst = s.dgst := by
  obtain ⟨c, h⟩ := leaveIssue_frame b s
  rw [h]

theorem desc_congr {e x : Entry} (hq : x.seq = e.seq) (hf : x.fore = e.fore) (hb : x.bytes = e.bytes) (hc : x.coll = e.coll) :
    x.desc = e.desc := by
  simp only [Entry.desc, hq, hf, hb, hc]

/-- What a command's end leaves of the digests depends on where it stands, not on what becomes of its entry. -/
theorem invalidateFor_dgst (hd : t.dgst = s.dgst) {e y : Entry} (hn : ofNext t y = ofNext s e) (hl : y.desc = e.desc) :
    (invalidateFor y t).dgst = (invalidateFor e s).dgst := by
  unfold invalidateFor
  rw [hn, hl]
  split
  · rw [hd]
  · unfold invalidateSegment
    rw [hd]

theorem endEarly_dgst (e : Entry) (r : Result) (s : State) : (endEarly e r s).dgst = (invalidateFor e s).dgst := by
  obtain ⟨w, hw⟩ := poisonOutputs_cq (e.ended r) (setEntry (e.ended r) s)
  obtain ⟨c, p, hp⟩ := poisonOutputs_frame (e.ended r) (setEntry (e.ended r) s)
  have hcrs : (poisonOutputs (e.ended r) (setEntry (e.ended r) s)).crs = s.crs := by rw [hp]; rfl
  have hdgst : (poisonOutputs (e.ended r) (setEntry (e.ended r) s)).dgst = s.dgst := by rw [hp]; rfl
  have hnext : ofNext (poisonOutputs (e.ended r) (setEntry (e.ended r) s)) (e.ended r) = ofNext s e := by
    rw [ofNext_congr (s := setEntry { e.ended r with writes := w } (setEntry (e.ended r) s)) (congrArg CqUnit.entries hw) hcrs]
    exact (ofNext_setEntry { e.ended r with writes := w } (setEntry (e.ended r) s)).trans (ofNext_setEntry (e.ended r) s)
  rw [endEarly_eq, leaveIssue_dgst]
  exact invalidateFor_dgst hdgst hnext (desc_congr rfl rfl rfl rfl)

theorem invalidateFor_now {e : Entry} (h : ofNext s e = false) :
    (sget .zero (invalidateFor e s).dgst.segs e.desc.landing).invalid = true ∧
      (invalidateFor e s).dgst.nextInvalid = s.dgst.nextInvalid := by
  rw [invalidateFor, h]
  refine ⟨?_, rfl⟩
  show (sget .zero (sset .zero s.dgst.segs e.desc.landing _) e.desc.landing).invalid = true
  rw [sget_sset, if_pos rfl]

theorem invalidateFor_next {e : Entry} (h : ofNext s e = true) :
    e.desc.landing ∈ (invalidateFor e s).dgst.nextInvalid ∧ (invalidateFor e s).dgst.segs = s.dgst.segs := by
  rw [invalidateFor, if_pos h]
  refine ⟨?_, rfl⟩
  dsimp only
  split
  · next hc => simpa using hc
  · simp

/-! ## RETRY and FAIL (R304) -/

/-- The entry whose faulted requests are sent again. -/
def Entry.retried (e : Entry) : Entry := { e with faults := [], suspended := false }

theorem retryOp_found {f : FaultRec} {e : Entry} (h : s.rtv.fault = some f) (he : findEntry s f.berth f.seq = some e) :
    retryOp s = setEntry e.retried (clearFault f.berth f.seq s) := by
  simp only [retryOp, h, clearFault_found, he]
  rfl

theorem retryOp_gone {f : FaultRec} (h : s.rtv.fault = some f) (he : findEntry s f.berth f.seq = none) :
    retryOp s = clearFault f.berth f.seq s := by
  simp only [retryOp, h, clearFault_found, he]

/-- A command that FAIL ends belongs to the crossing in which it is ended, unless it has started. -/
def failedEntry (s : State) (e : Entry) : Entry := { e with crossing := if e.started then e.crossing else s.crs.crossing }

/-- What a command that FAIL ends reports: FAULT_XLATE with the recorded slot. -/
def failedResult (f : FaultRec) (e : Entry) : Result := { e.res with fault := some f.slot }

theorem failOp_found {f : FaultRec} {e : Entry} (h : s.rtv.fault = some f) (he : findEntry s f.berth f.seq = some e) :
    failOp s = clearFault f.berth f.seq (endEarly (failedEntry s e) (failedResult f e) s) := by
  simp only [failOp, h, he]
  rfl

theorem failOp_gone {f : FaultRec} (h : s.rtv.fault = some f) (he : findEntry s f.berth f.seq = none) :
    failOp s = clearFault f.berth f.seq s := by
  simp only [failOp, h, he]

theorem retryOp_unrecorded (h : s.rtv.fault = none) : retryOp s = s := by
  simp only [retryOp, h]

theorem failOp_unrecorded (h : s.rtv.fault = none) : failOp s = s := by
  simp only [failOp, h]

end Sys2Proof.Machine
end

section
/-! SUPPORT. The statement on translation faults (R170, R302 to R304, R351, R353, R392). -/

namespace Sys2Proof.Machine

variable {s : State}

/-- RETRY of a command that is there. -/
theorem retryOp_effect {f : FaultRec} {e : Entry} (h : s.rtv.fault = some f) (he : findEntry s f.berth f.seq = some e) :
    ∃ q, retryOp s = { s with
      rtv := { s.rtv with fault := (faultsAfter s f).head?, faultQueue := q }, cq := (setEntry e.retried s).cq } ∧
      findEntry (retryOp s) f.berth f.seq = some e.retried := by
  obtain ⟨-, hb, hn⟩ := findEntry_mem he
  have hop := (retryOp_found h he).trans (congrArg _ (clearFault_recorded h))
  refine ⟨_, hop, ?_⟩
  rw [← hb, ← hn] at he ⊢
  exact (findEntry_congr (congrArg (·.cq.entries) hop)).trans (findEntry_setEntry e.retried e he)

/-- FAIL of a command that is there: what becomes of its entry, of the record, of the issue and of its segment. -/
theorem failOp_effect {f : FaultRec} {e : Entry} (h : s.rtv.fault = some f) (he : findEntry s f.berth f.seq = some e) :
    (∃ c p d q, failOp s = { s with
      cq := c, sp := p, dgst := d, rtv := { s.rtv with fault := (faultsAfter s f).head?, faultQueue := q } }) ∧
    (∃ y, findEntry (failOp s) f.berth f.seq = some y ∧ y.life = .ran ∧ y.res = { e.res with fault := some f.slot } ∧
      y.crossing = (if e.started then e.crossing else s.crs.crossing)) ∧
    (failOp s).cq.issuing = (if othersIssue s f.berth f.seq = false ∧ s.cq.issuing = some f.berth then none else s.cq.issuing) ∧
    (failOp s).dgst = (invalidateFor e s).dgst := by
  obtain ⟨-, hb, hn⟩ := findEntry_mem he
  have hop := failOp_found h he
  obtain ⟨c, p, d, hframe⟩ := endEarly_frame (failedEntry s e) (failedResult f e) s
  obtain ⟨w, hentries⟩ := endEarly_entries (failedEntry s e) (failedResult f e) s
  have hissue := endEarly_issuing (failedEntry s e) (failedResult f e) s
  have hdgst := endEarly_dgst (failedEntry s e) (failedResult f e) s
  generalize endEarly (failedEntry s e) (failedResult f e) s = u at hop hframe hentries hissue hdgst
  have hfault : u.rtv.fault = some f := by rw [hframe]; exact h
  have hnext : faultsAfter u f = faultsAfter s f := by rw [hframe]; rfl
  rw [clearFault_recorded hfault, hnext] at hop
  rw [hop]
  refine ⟨⟨c, p, d, _, by rw [hframe]⟩,
    ⟨{ (failedEntry s e).ended (failedResult f e) with writes := w }, ?_, rfl, rfl, rfl⟩, ?_, ?_⟩
  · rw [← hb, ← hn] at he ⊢
    exact (findEntry_congr hentries).trans (findEntry_setEntry _ e he)
  · rw [← hb, ← hn]
    refine hissue.trans ?_
    show (if othersIssue s e.berth e.seq = true then _ else if s.cq.issuing = some e.berth then _ else _) = _
    cases othersIssue s e.berth e.seq <;> simp
  · exact hdgst.trans (invalidateFor_dgst rfl rfl (desc_congr rfl rfl rfl rfl))

theorem retry_served {p : Port} (h : Served p 3 s) : exec (.retry p) s = .next (retryOp (dropHeld p s)) :=
  congrArg _ (onMain_served h)

theorem fail_served {p : Port} (h : Served p 3 s) : exec (.fail p) s = .next (failOp (dropHeld p s)) :=
  congrArg _ (onMain_served h)

@[simp] theorem findEntry_dropHeld (p : Port) (b n : Nat) : findEntry (dropHeld p s) b n = findEntry s b n :=
  findEntry_congr (by rw [dropHeld_cq])

@[simp] theorem faultsAfter_dropHeld (p : Port) (f : FaultRec) : faultsAfter (dropHeld p s) f = faultsAfter s f := by
  rw [faultsAfter, dropHeld_rtv, faultsAfter]

@[simp] theorem othersIssue_dropHeld (p : Port) (b n : Nat) : othersIssue (dropHeld p s) b n = othersIssue s b n := by
  rw [othersIssue, berthEntries_congr (congrArg CqUnit.entries (dropHeld_cq s p)), othersIssue]

@[simp] theorem ofNext_dropHeld (p : Port) (e : Entry) : ofNext (dropHeld p s) e = ofNext s e :=
  ofNext_congr (by rw [dropHeld_cq]) (dropHeld_crs s p) e

/-- Settles O33: what a fault changes is read off from the request's owner; FAIL ends the recorded command first and clears its record then. -/
theorem faultsAreRecordedAndResolved : Obligations.FaultsAreRecordedAndResolved := by
  unfold Obligations.FaultsAreRecordedAndResolved
  refine ⟨fun s tag q hm hr => ?_, fun s p h hf => ?_, fun s p f e h hf he => ?_, fun s p f h hf he => ?_⟩
  · have hexec := translationFault_eq hm hr
    refine ⟨fun b n e ho he => ⟨_, hexec, ?_⟩, fun b n ho he => ?_, fun x ho => ⟨_, hexec, ?_, fun l hl => ?_⟩, fun ho => ?_,
      fun a b ho => ?_, fun n ho hno => ?_, fun n ho hst hser => ?_⟩
    · have he' : findEntry (dropReq tag s) b n = some e := he
      rw [faultOwner_found ho he']
      exact faultEntry_effect he' q
    · have he' : findEntry (dropReq tag s) b n = none := he
      rw [hexec, faultOwner_gone ho he']
      rfl
    · rw [faultOwner_load ho]
      rfl
    · refine ⟨l.failIn x, ?_, mem_failIn.2 (.inr rfl), rfl, fun y hy => mem_failIn.trans (or_iff_left hy)⟩
      rw [faultOwner_load ho, dropReq_tbl, hl]
      rfl
    · rw [hexec, faultOwner_post ho]
      rfl
    · rw [hexec, faultOwner_trace ho]
      rfl
    · rw [hexec, faultOwner_cert ho, dropReq_toll, if_neg fun k => hno.elim (· k.1) (· k.2)]
      rfl
    · rw [hexec, faultOwner_cert ho, dropReq_toll, if_pos ⟨hst, hser⟩]
      rfl
  · have hf' : (dropHeld p s).rtv.fault = none := by rwa [dropHeld_rtv]
    exact ⟨(retry_served h).trans (by rw [retryOp_unrecorded hf']), (fail_served h).trans (by rw [failOp_unrecorded hf'])⟩
  · have hf' : (dropHeld p s).rtv.fault = some f := by rwa [dropHeld_rtv]
    have he' : findEntry (dropHeld p s) f.berth f.seq = some e := by rwa [findEntry_dropHeld]
    refine ⟨⟨_, retry_served h, ?_⟩, ?_⟩
    · obtain ⟨q, hq, hfound⟩ := retryOp_effect hf' he'
      have hmem : SameMemory s (retryOp (dropHeld p s)) := sameMemory_of_mem ((dropHeld_quiet p s).trans (retryOp_quiet _)).mem
      refine ⟨hfound, ?_, ?_, hmem, ?_⟩
      · rw [hq, faultsAfter_dropHeld]; rfl
      · rw [hq, dropHeld_rtv]
      · rw [hq]; simp
    · obtain ⟨⟨c, m, d, q, hq⟩, ⟨y, hy, hlife, hres, hcross⟩, hissue, hdgst⟩ := failOp_effect hf' he'
      have hmem : SameMemory s (failOp (dropHeld p s)) := sameMemory_of_mem ((dropHeld_quiet p s).trans (failOp_quiet _)).mem
      rw [dropHeld_crs] at hcross
      rw [othersIssue_dropHeld, dropHeld_cq] at hissue
      refine ⟨_, y, fail_served h, hy, hlife, hres, hcross, ?_, hissue, fun hn => ?_, fun hn => ?_, hmem, ?_⟩
      · rw [hq, faultsAfter_dropHeld]; rfl
      · rw [hdgst]
        simpa using invalidateFor_now (s := dropHeld p s) (by rwa [ofNext_dropHeld])
      · rw [hdgst]
        simpa using invalidateFor_next (s := dropHeld p s) (by rwa [ofNext_dropHeld])
      · rw [hq]; simp
  · have hf' : (dropHeld p s).rtv.fault = some f := by rwa [dropHeld_rtv]
    have he' : findEntry (dropHeld p s) f.berth f.seq = none := by rwa [findEntry_dropHeld]
    have hfault : (clearFault f.berth f.seq (dropHeld p s)).rtv.fault = (faultsAfter s f).head? := by
      rw [clearFault_recorded hf', faultsAfter_dropHeld]
    have hcq : (clearFault f.berth f.seq (dropHeld p s)).cq = s.cq := (clearFault_cq ..).1.trans (dropHeld_cq s p)
    exact ⟨⟨_, (retry_served h).trans (by rw [retryOp_gone hf' he']), hfault, hcq⟩,
      ⟨_, (fail_served h).trans (by rw [failOp_gone hf' he']), hfault, hcq⟩⟩

end Sys2Proof.Machine
end

section
/-! SUPPORT. A CHAIN command with a row in the finisher. Only fused row and ATTN commands send rows there, but the statement on the finisher's rows
asks nothing of the kind of the command whose row is delivered, and the checks of a descriptor do not look at an output that its chain does not
name: statistics of such a row are written to OUT1 as if the chain's first stage words were a fused parameter (R207, R208, R278). -/

namespace Sys2Proof.Machine

/-- A CHAIN of one element (class 1): CONVERT, then STORE to OUT0 at scratchpad address 64; IN0 lies at 128, and OUT1 is absent. Bit 6 of
CONVERT's stage word, one of its format code, is where a fused parameter has STATS. -/
def convertStoreBytes : List Byte :=
  leBytes 8 (1 + 3 * 2 ^ 48 + 1 * 2 ^ 53 + 15 * 2 ^ 59) ++ leBytes 16 (0x1440 + 0xB000 * 2 ^ 16) ++ leBytes 8 0 ++
    leBytes 12 (1 + 2 ^ 24 + 2 ^ 48 + 2 ^ 60 + 0xFF * 2 ^ 88) ++ leBytes 14 (128 + 2 ^ 48 + 2 ^ 64) ++ leBytes 42 0 ++
    leBytes 14 (64 + 2 ^ 64) ++ leBytes 14 0

/-- That command of berth 3, taken, with its one row accepted by the finisher. -/
def rowedChain : Entry :=
  { newEntry State.reset .host false 3 1 convertStoreBytes [] with
      life := .taken, taken := true, started := true, lookahead := 1, fin := [(0, .inFin)] }

/-- It is the only command of the queue, and the scratchpad holds a byte at address 0. -/
def rowedChainState : State :=
  { State.reset with
      pwr := { PwrUnit.cold with mainDown := false, keepLost := false, fabReady := true, tested := true }
      cq := { State.reset.cq with entries := [rowedChain] }
      sp := { Scratch.cold with mem := [(0, 1)] } }

/-- What the statement supposes of the queue and of the step. -/
theorem rowedChain_delivers : mainStopped rowedChainState = false ∧ finEntry rowedChainState .inFin = some (rowedChain, 0) ∧
    findEntry rowedChainState rowedChain.berth rowedChain.seq = some rowedChain ∧ StepClean rowedChainState rowedChain (.clean 0) :=
  ⟨by decide, by decide +kernel, by decide +kernel, rfl, by decide +kernel⟩

/-- The descriptor passes its checks (R135, R278), and the row is the one of its shape. -/
theorem rowedChain_checked : Checked rowedChain :=
  ⟨by decide +kernel, rfl, by decide +kernel, fun _ hx => nomatch hx⟩

/-- The chain writes OUT0 alone, whose bytes begin at 64 (R122, R263). -/
theorem rowedChain_outside : OutsideOutputs rowedChain.desc 0 := by
  have hout : ∀ i < 2, rowedChain.desc.writesOut i = true → 0 < (rowedChain.desc.slot (4 + i)).base := by decide +kernel
  exact fun i hi hw _ => .inl (hout i hi hw)

/-- The byte at an address after a step. -/
def byteAfter (a : Nat) : Host.Outcome State Fault Refusal → Option Byte
  | .next t => some (spByte t a)
  | _ => none

/-- Yet the delivery writes the row's statistics, +0, from the BASE of the absent OUT1, over the byte at address 0 (R208). -/
theorem byteAfter_rowedChain : byteAfter 0 (exec (.finisherRowDeliver (.clean 0)) rowedChainState) = some 0 ∧
    spByte rowedChainState 0 = 1 := by
  decide +kernel

/-- Refutes O30: in `rowedChainState` the row of a CHAIN that has passed its checks is delivered, and the byte at address 0 changes, outside the
outputs that the command writes. -/
theorem not_signaturesAndRowsPass : ¬ Obligations.SignaturesAndRowsPass := by
  unfold Obligations.SignaturesAndRowsPass
  rintro ⟨-, -, -, hdeliver, -⟩
  obtain ⟨hrun, hfin, hfound, hclean⟩ := rowedChain_delivers
  obtain ⟨hstep, -⟩ := hdeliver rowedChainState (.clean 0) rowedChain 0 hrun hfin hfound
  obtain ⟨t, _, hexec, -, -, -, -, -, -, hchecked⟩ := hstep hclean
  obtain ⟨hsame, -⟩ := hchecked rowedChain_checked
  obtain ⟨hafter, hbefore⟩ := byteAfter_rowedChain
  have hzero : spByte t 0 = 0 := by simpa [hexec, byteAfter] using hafter
  have hone : spByte t 0 = 1 := (hsame 0 rowedChain_outside).trans hbefore
  exact absurd (hzero.symm.trans hone) (by decide)

end Sys2Proof.Machine
end

section
/-! SUPPORT. A NORM_FWD in a queue that lists one key twice: offered by its own row, its head is put back in its place, over the started entry that
alone kept the NORM_FWD of the chosen berth from the exact accumulator (R211, R275), so the issue is kept for that berth (R274). The statement
about commands whose clusters run on their own, too, asks nothing of the keys of the queue. -/

namespace Sys2Proof.Machine

variable {s : State} {b : BitVec 5} {e : Entry}

/-! ## A row that offers the issue -/

theorem exec_issueRow {k : Kind} (hk : k ≠ .marker) (b : BitVec 5) (env : RunEnv) (s : State) :
    exec (issueRow k b env) s = .next (offer k b.toNat env s) := by
  cases k with
  | marker => exact absurd rfl hk
  | _ => rfl

theorem runsApart_not_marker {d : Desc} (h : runsApart d = true) : d.kind ≠ .marker := by
  intro hk
  simp [runsApart, hk] at h

theorem issueOpen_free {n : Nat} (h : issueOpen s n = true) : s.cq.issuing = none := by
  unfold issueOpen at h
  simp only [Bool.and_eq_true, Option.isNone_iff_eq_none] at h
  exact h.1

theorem ReadyToStart.unbarred (h : ReadyToStart s b e) : issueBarred s = false := by
  unfold issueBarred issuingEntry
  rw [h.held, issueOpen_free h.issue]
  rfl

/-- The row of a command that is ready to start advances it. -/
theorem ReadyToStart.offer_eq (h : ReadyToStart s b e) (hk : e.desc.kind ≠ .marker) (env : RunEnv) :
    offer e.desc.kind b.toNat env s = advanceTaken env e s := by
  unfold offer
  rw [h.up, h.unbarred, h.head]
  simp [hk, h.taken, h.fresh]

/-- A bound command whose berth the scheduler's choice leaves no issue, once it stands in its place, only stands there. -/
theorem advanceTaken_of_issueClosed (hb : 0 < e.lookahead) (hc : issueOpen (setEntry e s) e.berth = false) (env : RunEnv) :
    advanceTaken env e s = setEntry e s := by
  unfold advanceTaken
  simp [hb, hc]

/-! ## The counterexample -/

/-- A NORM_FWD (class 2, operation 1) of one row of 64, from scratchpad address 0 to 0x1000, that has been taken and bound: sequence number 1 of
a berth. -/
def boundNorm (b : Nat) : Entry :=
  { newEntry State.reset .host false b 1 (leBytes 8 (1 + 3 * 2 ^ 48 + 2 * 2 ^ 53 + 15 * 2 ^ 59) ++ leBytes 16 1 ++ leBytes 8 0 ++
      leBytes 12 (64 + 2 ^ 24 + 2 ^ 48 + 2 ^ 60 + 0xFF * 2 ^ 88) ++ leBytes 14 (2 ^ 48 + 64 * 2 ^ 64) ++ leBytes 42 0 ++
      leBytes 14 (0x1000 + 64 * 2 ^ 64) ++ leBytes 14 0) [] with
    life := .taken, taken := true, lookahead := 1, vlen := 0xFFFFFF }

/-- The key (3, 1) stands twice, the second time started; the scheduler has chosen the NORM_FWD of berth 4, which waits for the exact accumulator
that the started one uses. -/
def normTwice : State :=
  { twiceListed with
      cq := { twiceListed.cq with entries := [boundNorm 3, { boundNorm 3 with started := true }, boundNorm 4] } }

theorem boundNorm_kind : (boundNorm 3).desc.kind = .normFwd := by decide +kernel

theorem boundNorm_runsApart : runsApart (boundNorm 3).desc = true := by
  unfold runsApart
  rw [boundNorm_kind]

theorem normTwice_ready : ReadyToStart normTwice 3 (boundNorm 3) := by
  constructor <;> decide +kernel

/-- With the head in both places of its key, nothing holds back the NORM_FWD of the chosen berth. -/
theorem normTwice_issueClosed : issueOpen (setEntry (boundNorm 3) normTwice) (boundNorm 3).berth = false := by decide +kernel

theorem exec_normFwd_normTwice (env : RunEnv) :
    exec (issueRow (boundNorm 3).desc.kind 3 env) normTwice = .next (setEntry (boundNorm 3) normTwice) := by
  have hk := runsApart_not_marker boundNorm_runsApart
  rw [exec_issueRow hk, normTwice_ready.offer_eq hk, advanceTaken_of_issueClosed normTwice_ready.bound normTwice_issueClosed]

/-- Refutes O27: in `normTwice` the NORM_FWD of berth 3 is ready to start, and its row leaves it not started. -/
theorem not_apartCommandsStart : ¬ Obligations.ApartCommandsStart := by
  unfold Obligations.ApartCommandsStart
  intro h
  obtain ⟨⟨t, y, hex, hfind, -, hstarted, -⟩, -⟩ := h normTwice 3 (boundNorm 3) (.clean 0) normTwice_ready boundNorm_runsApart
  have ht : setEntry (boundNorm 3) normTwice = t := by
    simpa using (exec_normFwd_normTwice (.clean 0)).symm.trans hex
  have hput : findEntry (setEntry (boundNorm 3) normTwice) (3 : BitVec 5).toNat (boundNorm 3).seq = some (boundNorm 3) :=
    setEntry_found (boundNorm 3) normTwice (by rw [show (boundNorm 3).berth = (3 : BitVec 5).toNat from rfl, normTwice_ready.listed]; rfl)
  have hy : boundNorm 3 = y := Option.some.inj (hput.symm.trans (ht ▸ hfind))
  subst hy
  exact absurd hstarted (by decide)

end Sys2Proof.Machine
end

section
/-! SUPPORT. The step as a whole: it always answers a next state, and what counts as sound holds at reset and stays; the registers at reset
(R34, R260, R411, R430, R433). -/

namespace Sys2Proof.Machine

variable {s t : State}

/-- No meaning faults or is refused: every command has one that answers a next state. -/
theorem exec_next (c : Instr) (s : State) : ∃ t, exec c s = .next t := by
  cases c <;> exact ⟨_, rfl⟩

/-- The front command runs on the queue's rest. -/
theorem step_front {c : Instr} {rest : List Instr} (h : s.pending = c :: rest) : step s = exec c { s with pending := rest } := by
  rw [step, h]

theorem step_next (s : State) : ∃ t, step s = .next t := by
  cases hp : s.pending with
  | nil => exact ⟨tick s, step_idle hp⟩
  | cons c rest => exact (step_front hp).symm ▸ exec_next c { s with pending := rest }

theorem step_kept (h : step s = .next t) : Kept s t := by
  cases hp : s.pending with
  | nil => exact Outcome.of_next (tick_quiet s).kept ((step_idle hp).symm.trans h)
  | cons c rest =>
    have hrest : Quiet s { s with pending := rest } := .same rfl rfl rfl
    exact hrest.kept.trans (exec_kept c ((step_front hp).symm.trans h))

/-- Settles O5: every step answers a next state, and keeps each part of soundness. -/
theorem stepKeepsSound : Obligations.StepKeepsSound := by
  intro s hs
  obtain ⟨t, ht⟩ := step_next s
  exact ⟨t, ht, hs.of_kept (step_kept ht)⟩

/-- Settles O4: the scratchpad, the queue and the event log are empty. -/
theorem resetIsSound : Obligations.ResetIsSound where
  mem := reset_memory_wf
  queue := Nat.zero_le _
  log := by decide

/-- Settles O3: each register is read off the reset state, which is closed. -/
theorem registersAtReset : Obligations.RegistersAtReset := by
  unfold Obligations.RegistersAtReset
  decide

end Sys2Proof.Machine
end

section
/-! SUPPORT. The completion of a command: its record, the ledger's count, its window, its events, and the status that it reports (R269, R277 to
R279, R282, R301, Tables 11-8 and 11-9). -/

namespace Sys2Proof.Machine

variable {s t : State} {e x : Entry}

/-! ## The steps of a completion -/

/-- The completion stands in its ring and in the history, and the ledger takes its number. -/
def recordCompletion (e : Entry) (s : State) : State :=
  journal [.completed e.berth] { s.keep with completed := sset 0 s.keep.completed e.berth e.seq } { s with
    cq := { s.cq with
      rings := sput s.cq.rings (32 * e.berth + e.seq % 32) (some (completionRecord s e))
      hist := s.cq.hist ++ [(e.berth, e.seq, e.crossing, e.desc.landing)] } }

/-- The command has left the queue, its window READY; only its events are still to be raised. -/
def leaveQueue (e : Entry) (s : State) : State := dropEntry e.berth e.seq (windowReady e.desc e (recordCompletion e s))

/-- The events of a completion, in ascending order of their codes (R205, R222, R301, R430). -/
def completionEvents (e : Entry) (s : State) : State :=
  let cmd := some (e.berth, e.seq)
  let r := e.res
  let s3 := match r.consumed with
    | some a => if r.refused.isSome then s else raise evPoisonConsumed cmd a 0 s
    | none => s
  let s4 := if 0 < r.vneg ∧ ¬r.refused.isSome then raise evVneg cmd r.vneg r.vnegAt s3 else s3
  if 0 < r.masked ∧ ¬r.refused.isSome then raise evFullmask cmd r.masked r.maskedAt s4 else s4

theorem complete_eq (e : Entry) (s : State) : complete e s = completionEvents e (leaveQueue e s) := rfl

/-! ## Its events -/

/-- From `s` to `t` only the event unit may differ. -/
def OnlyEvents (s t : State) : Prop := t = { s with evt := t.evt }

theorem OnlyEvents.trans {u : State} (h : OnlyEvents s t) (k : OnlyEvents t u) : OnlyEvents s u := by
  unfold OnlyEvents at *
  rw [k, h]

theorem OnlyEvents.ite {c : Prop} [Decidable c] {u : State} (h : OnlyEvents s t) (k : OnlyEvents s u) : OnlyEvents s (if c then t else u) := by
  split <;> assumption

theorem raise_onlyEvents (code : Nat) (cmd : Option (Nat × Nat)) (d0 d1 : Nat) (s : State) : OnlyEvents s (raise code cmd d0 d1 s) := by
  unfold raise
  exact .ite rfl rfl

theorem completionEvents_onlyEvents (e : Entry) (s : State) : OnlyEvents s (completionEvents e s) := by
  unfold completionEvents
  extract_lets cmd r s3 s4
  have h3 : OnlyEvents s s3 := by
    unfold s3
    split
    · exact .ite rfl (raise_onlyEvents ..)
    · rfl
  have h4 : OnlyEvents s s4 := .ite (h3.trans (raise_onlyEvents ..)) h3
  exact .ite (h4.trans (raise_onlyEvents ..)) h4

theorem completionEvents_refused (h : e.res.refused.isSome = true) (s : State) : completionEvents e s = s := by
  unfold completionEvents
  simp only [h, not_true_eq_false, and_false, ↓reduceIte]
  split <;> rfl

theorem completionEvents_none (hc : e.res.consumed = none) (hv : e.res.vneg = 0) (hm : e.res.masked = 0) (s : State) :
    completionEvents e s = s := by
  simp [completionEvents, hc, hv, hm]

theorem completionEvents_consumed {a : Nat} (hc : e.res.consumed = some a) (hr : e.res.refused = none) (hv : e.res.vneg = 0)
    (hm : e.res.masked = 0) (s : State) : completionEvents e s = raise evPoisonConsumed (some (e.berth, e.seq)) a 0 s := by
  simp [completionEvents, hc, hr, hv, hm]

/-! ## Its window -/

theorem windowReady_frame (d : Desc) (e : Entry) (s : State) :
    ∃ w, windowReady d e s = { s with cq := { s.cq with wins := w } } := by
  unfold windowReady
  split
  · dsimp only
    split <;> exact ⟨_, rfl⟩
  · exact ⟨_, rfl⟩

theorem windowReady_bound {d : Desc} (hw : d.window < 128) (hr : e.res.refused = none) (hs : (sget default s.cq.wins d.window).st = 1)
    (hb : (sget default s.cq.wins d.window).berth = e.berth) (hq : (sget default s.cq.wins d.window).seqLow = e.seq % 2 ^ 32) :
    sget default (windowReady d e s).cq.wins d.window = { sget default s.cq.wins d.window with st := 2 } := by
  simp only [windowReady, hw, hr, hs, hb, hq, Option.isNone_none, and_self, ↓reduceIte, sget_sset]

/-! ## One completion -/

theorem leaveQueue_frame (e : Entry) (s : State) : ∃ w, leaveQueue e s = { recordCompletion e s with
    cq := { (recordCompletion e s).cq with entries := s.cq.entries.filter (fun x => !(x.berth == e.berth && x.seq == e.seq)), wins := w } } := by
  obtain ⟨w, hw⟩ := windowReady_frame e.desc e (recordCompletion e s)
  exact ⟨w, by rw [leaveQueue, hw]; rfl⟩

/-- From `s` to `t` a command completed: its record, the history and the ledger hold it, the queue does not. -/
structure Completed (e : Entry) (s t : State) : Prop where
  rings : t.cq.rings = sput s.cq.rings (32 * e.berth + e.seq % 32) (some (completionRecord s e))
  hist : t.cq.hist = s.cq.hist ++ [(e.berth, e.seq, e.crossing, e.desc.landing)]
  entries : t.cq.entries = s.cq.entries.filter (fun x => !(x.berth == e.berth && x.seq == e.seq))
  keep : t.keep = { s.keep with completed := sset 0 s.keep.completed e.berth e.seq }
  sp : t.sp = s.sp
  man : t.man = s.man
  crs : t.crs = s.crs
  rtv : t.rtv = s.rtv
  dgst : t.dgst = s.dgst

theorem complete_completed (e : Entry) (s : State) : Completed e s (complete e s) := by
  obtain ⟨w, hw⟩ := leaveQueue_frame e s
  rw [complete_eq, completionEvents_onlyEvents e (leaveQueue e s), hw]
  exact ⟨rfl, rfl, rfl, rfl, rfl, rfl, rfl, rfl, rfl⟩

theorem complete_wins (e : Entry) (s : State) : (complete e s).cq.wins = (windowReady e.desc e (recordCompletion e s)).cq.wins := by
  rw [complete_eq, completionEvents_onlyEvents e (leaveQueue e s)]
  rfl

/-- Nothing of what a record is raised with has changed once the command has left the queue. -/
theorem leaveQueue_evt (e : Entry) (s : State) :
    (leaveQueue e s).evt = s.evt ∧ (leaveQueue e s).pwr = s.pwr ∧ (leaveQueue e s).crs = s.crs := by
  obtain ⟨w, hw⟩ := leaveQueue_frame e s
  rw [hw]
  exact ⟨rfl, rfl, rfl⟩

theorem complete_evt_silent (h : e.res.refused.isSome = true ∨ (e.res.consumed = none ∧ e.res.vneg = 0 ∧ e.res.masked = 0)) (s : State) :
    (complete e s).evt = s.evt := by
  rw [complete_eq]
  rcases h with h | ⟨hc, hv, hm⟩
  · rw [completionEvents_refused h, (leaveQueue_evt e s).1]
  · rw [completionEvents_none hc hv hm, (leaveQueue_evt e s).1]

theorem complete_evt_consumed {a : Nat} (hd : s.pwr.mainDown = false) (hc : e.res.consumed = some a) (hr : e.res.refused = none)
    (hv : e.res.vneg = 0) (hm : e.res.masked = 0) :
    (complete e s).evt = logEvent s.evt ⟨evPoisonConsumed, some (e.berth, e.seq), s.crs.tide, a % 2 ^ 64, 0⟩ := by
  obtain ⟨hevt, hpwr, hcrs⟩ := leaveQueue_evt e s
  rw [complete_eq, completionEvents_consumed hc hr hv hm, raise_up (by rw [hpwr, hd]), hevt, hcrs]
  rfl

theorem Completed.leaves {rest : List Entry} (h : Completed e s t) (hl : berthEntries s e.berth = e :: rest)
    (hn : ∀ x ∈ rest, x.seq ≠ e.seq) : berthEntries t e.berth = rest := by
  have hdrop : berthEntries t e.berth = berthEntries (dropEntry e.berth e.seq s) e.berth := berthEntries_congr h.entries _
  rw [hdrop, berthEntries_dropEntry, hl, List.filter_cons_of_neg (by simp), List.filter_eq_self]
  simpa using hn

/-! ## COMMAND_COMPLETE -/

theorem completeRefused_stops {b : Nat} (h : ∀ x ∈ (berthEntries s b).head?, x.res.refused = none) (n : Nat) : completeRefused n b s = s := by
  cases hh : berthHead s b with
  | some x => exact completeRefused_head hh (h x hh) n
  | none =>
    cases n with
    | zero => rfl
    | succ n => rw [completeRefused, hh]

theorem commandComplete_eq {b : BitVec 5} {rest : List Entry} (hm : mainStopped s = false) (hl : berthEntries s b.toNat = e :: rest)
    (hc : mayComplete s e = true) : exec (.commandComplete b) s = .next (completeRefused 256 b.toNat (complete e s)) := by
  have hh : berthHead s b.toNat = some e := by rw [berthHead, hl]; rfl
  change execCommandComplete b s = _
  simp [execCommandComplete, hm, hh, hc]

theorem commandComplete_waits {b : BitVec 5} (h : ∀ e, berthHead s b.toNat = some e → mayComplete s e = false) :
    exec (.commandComplete b) s = .next s := by
  change execCommandComplete b s = _
  unfold execCommandComplete
  cases hh : berthHead s b.toNat with
  | none => simp
  | some e => simp [h e hh]

/-! ## Status and detail (Tables 11-8 and 11-9) -/

theorem status_refused {r : Result} {n : Nat} (h : r.refused = some n) : r.status = 7 ∧ r.detail = n := by
  have hs : r.status = 7 := by simp [Result.status, h]
  simp [Result.detail, hs, h]

theorem status_abort {r : Result} (h : r.refused = none) (ha : r.abort ≠ 0) : r.status = 5 ∧ r.detail = r.abort := by
  have hs : r.status = 5 := by simp [Result.status, h, ha]
  simp [Result.detail, hs]

theorem status_fault {r : Result} {n : Nat} (h : r.refused = none) (ha : r.abort = 0) (hf : r.fault = some n) :
    r.status = 4 ∧ r.detail = n := by
  have hs : r.status = 4 := by simp [Result.status, h, ha, hf]
  simp [Result.detail, hs, hf]

/-- The lower ranks, which have no detail. -/
def Result.lowStatus (r : Result) : Nat :=
  if r.cap then 6 else if r.mismatch then 2 else if r.poisonOut then 1 else if r.late then 3 else 0

theorem lowStatus_mem (r : Result) : r.lowStatus ∈ [6, 2, 1, 3, 0] := by
  unfold Result.lowStatus
  split_ifs <;> decide

theorem status_low {r : Result} (h : r.refused = none) (ha : r.abort = 0) (hf : r.fault = none) :
    r.detail = 0 ∧ r.status = r.lowStatus := by
  have hs : r.status = r.lowStatus := by simp [Result.status, Result.lowStatus, h, ha, hf]
  refine ⟨?_, hs⟩
  unfold Result.detail
  have hm := lowStatus_mem r
  rw [← hs] at hm
  generalize r.status = n at hm
  split <;> simp_all

/-- Settles O21: the oldest command completes alone, the younger one being no refusal; the status is read off by rank. -/
theorem completionWritesRecordAndLedger : Obligations.CompletionWritesRecordAndLedger := by
  unfold Obligations.CompletionWritesRecordAndLedger
  refine ⟨?_, fun s b => commandComplete_waits, fun r => ⟨fun n => status_refused, status_abort, fun n => status_fault, status_low⟩⟩
  intro s b e rest hm hl hn hr hmay
  have hb : e.berth = b.toNat := by
    have hin : e ∈ berthEntries s b.toNat := by rw [hl]; exact List.mem_cons_self
    simpa using (List.mem_filter.1 hin).2
  have hc := complete_completed e s
  have hrest : berthEntries (complete e s) b.toNat = rest := hb ▸ hc.leaves (hb ▸ hl) hn
  refine ⟨complete e s, ?_, ?_, ?_, ?_, hrest, ?_, ?_, ?_, ?_, ?_, ?_, ?_, hc.sp, hc.man, hc.crs, hc.rtv, hc.dgst⟩
  · rw [commandComplete_eq hm hl hmay, completeRefused_stops (hrest ▸ hr)]
  · rw [hc.rings, hb, sget_sput, if_pos rfl]
    rfl
  · rw [ldgCompleted, hc.keep, hb, sget_sset, if_pos rfl]
  · intro b' hne
    rw [ldgCompleted, hc.keep, hb, sget_sset, if_neg hne]
    rfl
  · rw [hc.keep]
  · rw [hc.keep]
  · rw [hc.hist, hb]
  · intro hw hr w hs hwb hq
    rw [complete_wins]
    exact windowReady_bound (s := recordCompletion e s) hw hr hs (hwb.trans hb.symm) hq
  · intro h
    refine ⟨?_, complete_evt_silent (.inl h) s⟩
    rw [complete_wins, windowReady_refused h]
    rfl
  · exact fun hc hv hm => complete_evt_silent (.inr ⟨hc, hv, hm⟩) s
  · exact fun a hc hr hv hmask => complete_evt_consumed (mainDown_of_running hm) hc hr hv hmask

end Sys2Proof.Machine
end

section
/-! SUPPORT. ABORT_BERTH, command by command, and the duration cap (R280, R281, R304, R351, Table 11-9). -/

namespace Sys2Proof.Machine

variable {s s0 t u : State} {e x y : Entry} {b : Nat}

/-! ## The queue -/

/-- A command whose key no other one has is found under it. -/
theorem findEntry_of_unique (he : e ∈ s.cq.entries) (hu : ∀ y ∈ s.cq.entries, y.berth = e.berth → y.seq = e.seq → y = e) :
    findEntry s e.berth e.seq = some e := by
  have hsome : (findEntry s e.berth e.seq).isSome = true := by
    rw [findEntry, List.find?_isSome]
    exact ⟨e, he, by simp⟩
  obtain ⟨y, hy⟩ := Option.isSome_iff_exists.1 hsome
  obtain ⟨hmem, hb, hq⟩ := findEntry_mem hy
  rw [hy, hu y hmem hb hq]

theorem othersIssue_of_found (h : findEntry s e.berth e.seq = some y) (hs : y.started = true) (hl : y.life = .taken) {q : Nat}
    (hq : q ≠ e.seq) : othersIssue s e.berth q = true := by
  obtain ⟨hmem, hb, hy⟩ := findEntry_mem h
  rw [othersIssue, List.any_eq_true]
  exact ⟨y, List.mem_filter.2 ⟨hmem, by simp [hb]⟩, by simp [hs, hl, hy, Ne.symm hq]⟩

/-! ## What the end of a command leaves alone -/

theorem clearFault_frame (b q : Nat) (s : State) : ∃ r, clearFault b q s = { s with rtv := r } := by
  unfold clearFault
  dsimp only
  split
  · split <;> exact ⟨_, rfl⟩
  · exact ⟨_, rfl⟩

/-- From `s` to `t` only the queue, the marks, the digests and the fault records may differ. -/
def OnlyEnds (s t : State) : Prop := t = { s with cq := t.cq, sp := t.sp, dgst := t.dgst, rtv := t.rtv }

theorem OnlyEnds.trans (h : OnlyEnds s t) (k : OnlyEnds t u) : OnlyEnds s u := by
  unfold OnlyEnds at *
  rw [k, h]

theorem endEarly_onlyEnds (e : Entry) (r : Result) (s : State) : OnlyEnds s (endEarly e r s) := by
  obtain ⟨c, p, d, h⟩ := endEarly_frame e r s
  rw [h]
  rfl

theorem clearFault_onlyEnds (b q : Nat) (s : State) : OnlyEnds s (clearFault b q s) := by
  obtain ⟨r, h⟩ := clearFault_frame b q s
  rw [h]
  rfl

theorem abortEntry_onlyEnds (e : Entry) (s : State) : OnlyEnds s (abortEntry e s) :=
  (endEarly_onlyEnds ..).trans (clearFault_onlyEnds ..)

theorem capEntry_onlyEnds (e : Entry) (s : State) : OnlyEnds s (capEntry e s) :=
  (endEarly_onlyEnds ..).trans (clearFault_onlyEnds ..)

/-! ## One command of an aborted berth -/

/-- The commands of a berth that an abort concerns (R280). -/
def toAbort (b : Nat) (s : State) : List Entry := (berthEntries s b).filter (fun e => decide (e.life ≠ .ran) || e.suspended)

/-- What an abort in `s0` does to one of them. -/
def abortOne (s0 t : State) (e : Entry) : State := if holdsIssue s0 e then setEntry { e with stop := true } t else abortEntry e t

theorem abortBerth_eq (b : Nat) (s : State) : abortBerth b s = (toAbort b s).foldl (abortOne s) s := rfl

/-- What stands in the queue for it afterwards. -/
structure AbortedTo (s0 : State) (e y : Entry) : Prop where
  berth : y.berth = e.berth
  seq : y.seq = e.seq
  goesOn : holdsIssue s0 e = true → y = { e with stop := true }
  ends : holdsIssue s0 e = false → y.life = .ran ∧ y.suspended = false ∧ y.res = { e.res with abort := 1 }

theorem abortOne_entries (s0 t : State) (e : Entry) :
    ∃ y, AbortedTo s0 e y ∧ (abortOne s0 t e).cq.entries = (setEntry y t).cq.entries := by
  unfold abortOne
  split
  · next h => exact ⟨{ e with stop := true }, ⟨rfl, rfl, fun _ => rfl, fun hn => by simp [h] at hn⟩, rfl⟩
  · next h =>
    let e' : Entry := { e with crossing := if e.life = .queued then t.crs.crossing else e.crossing }
    obtain ⟨w, hw⟩ := endEarly_entries e' { e.res with abort := 1 } t
    refine ⟨{ e'.shed with life := .ran, res := { e.res with abort := 1 }, writes := w },
      ⟨rfl, rfl, fun hh => absurd hh h, fun _ => ⟨rfl, rfl, rfl⟩⟩, ?_⟩
    exact (congrArg CqUnit.entries (clearFault_cq e.berth e.seq _).1).trans hw

/-- A command of another key is found as before. -/
theorem abortOne_found_other (s0 t : State) {b q : Nat} (h : ¬(e.berth = b ∧ e.seq = q)) :
    findEntry (abortOne s0 t e) b q = findEntry t b q := by
  obtain ⟨y, hy, hq⟩ := abortOne_entries s0 t e
  exact (findEntry_congr hq).trans (findEntry_setEntry_other y b q (by rw [hy.berth, hy.seq]; tauto))

theorem abortOne_found (s0 : State) (h : (findEntry t e.berth e.seq).isSome = true) :
    ∃ y, findEntry (abortOne s0 t e) e.berth e.seq = some y ∧ AbortedTo s0 e y := by
  obtain ⟨y, hy, hq⟩ := abortOne_entries s0 t e
  refine ⟨y, ?_, hy⟩
  rw [findEntry_congr hq, ← hy.berth, ← hy.seq]
  exact setEntry_found y t (by rw [hy.berth, hy.seq, h])

theorem abortOne_onlyEnds (s0 t : State) (e : Entry) : OnlyEnds t (abortOne s0 t e) := by
  unfold abortOne
  split
  · rfl
  · exact abortEntry_onlyEnds ..

theorem abortOne_issuing (s0 t : State) (e : Entry) : (abortOne s0 t e).cq.issuing = t.cq.issuing ∨
    (holdsIssue s0 e = false ∧ othersIssue t e.berth e.seq = false ∧ t.cq.issuing = some e.berth) := by
  unfold abortOne
  split
  · exact .inl rfl
  · next h =>
    have hi : (abortEntry e t).cq.issuing = if othersIssue t e.berth e.seq = true then t.cq.issuing
        else if t.cq.issuing = some e.berth then none else t.cq.issuing := by
      rw [abortEntry, (clearFault_cq ..).1, endEarly_issuing]
    rw [hi]
    by_cases ho : othersIssue t e.berth e.seq = true
    · exact .inl (if_pos ho)
    · rw [if_neg ho]
      by_cases hb : t.cq.issuing = some e.berth
      · exact .inr ⟨by simpa using h, by simpa using ho, hb⟩
      · exact .inl (if_neg hb)

/-! ## An aborted berth -/

theorem mem_toAbort : e ∈ toAbort b s ↔ e ∈ s.cq.entries ∧ e.berth = b ∧ (e.life ≠ .ran ∨ e.suspended = true) := by
  simp [toAbort, berthEntries, and_assoc, and_comm]

theorem abortBerth_onlyEnds (b : Nat) (s : State) : OnlyEnds s (abortBerth b s) := by
  rw [abortBerth_eq]
  exact List.foldlRecOn (motive := OnlyEnds s) _ _ rfl fun t ht x _ => ht.trans (abortOne_onlyEnds s t x)

theorem abortBerth_found_other {c q : Nat} (h : ∀ x ∈ toAbort b s, ¬(x.berth = c ∧ x.seq = q)) :
    findEntry (abortBerth b s) c q = findEntry s c q := by
  rw [abortBerth_eq]
  exact List.foldlRecOn (motive := fun t => findEntry t c q = findEntry s c q) _ _ rfl
    fun t ht x hx => (abortOne_found_other s t (h x hx)).trans ht

/-- Once its own turn has come, a command stands as the abort leaves it; the turns of others do not touch it. -/
theorem abortRun_found {es : List Entry} (hu : ∀ x ∈ es, x.berth = e.berth → x.seq = e.seq → x = e)
    (hs : (findEntry t e.berth e.seq).isSome = true)
    (h : e ∈ es ∨ ∃ y, findEntry t e.berth e.seq = some y ∧ AbortedTo s0 e y) :
    ∃ y, findEntry (es.foldl (abortOne s0) t) e.berth e.seq = some y ∧ AbortedTo s0 e y := by
  induction es generalizing t with
  | nil => exact h.resolve_left (by simp)
  | cons x xs ih =>
    have hux : ∀ z ∈ xs, z.berth = e.berth → z.seq = e.seq → z = e := fun z hz => hu z (List.mem_cons_of_mem _ hz)
    by_cases hk : x.berth = e.berth ∧ x.seq = e.seq
    · obtain rfl : x = e := hu x List.mem_cons_self hk.1 hk.2
      obtain ⟨y, hy, ha⟩ := abortOne_found s0 hs
      exact ih hux (by rw [hy]; rfl) (.inr ⟨y, hy, ha⟩)
    · have hf := abortOne_found_other s0 t hk
      refine ih hux (by rw [hf, hs]) ?_
      rw [hf]
      exact h.imp_left fun hm => (List.mem_cons.1 hm).resolve_left (fun hx => hk ⟨by rw [hx], by rw [hx]⟩)

theorem abortBerth_found (he : e ∈ toAbort b s) (hu : ∀ y ∈ s.cq.entries, y.berth = e.berth → y.seq = e.seq → y = e) :
    ∃ y, findEntry (abortBerth b s) e.berth e.seq = some y ∧ AbortedTo s e y := by
  have hfound := findEntry_of_unique (mem_toAbort.1 he).1 hu
  exact abortRun_found (fun x hx => hu x (mem_toAbort.1 hx).1) (by rw [hfound]; rfl) (.inl he)

theorem abortBerth_issuing_other (h : s.cq.issuing ≠ some b) : (abortBerth b s).cq.issuing = s.cq.issuing := by
  rw [abortBerth_eq]
  refine List.foldlRecOn (motive := fun t : State => t.cq.issuing = s.cq.issuing) _ _ rfl fun t ht x hx => ?_
  refine ((abortOne_issuing s t x).resolve_right ?_).trans ht
  rintro ⟨-, -, hb⟩
  exact h (by rw [← ht, hb, (mem_toAbort.1 hx).2.1])

/-- In `t`, on the way through the abort of `s`, a command still is under way and the issue is where it was. -/
structure StillIssuing (s : State) (e : Entry) (t : State) : Prop where
  entry : ∃ y, findEntry t e.berth e.seq = some y ∧ y.started = true ∧ y.life = .taken
  issuing : t.cq.issuing = s.cq.issuing

theorem StillIssuing.other (h : StillIssuing s e t) (hb : x.berth = e.berth) (hq : x.seq ≠ e.seq) :
    StillIssuing s e (abortOne s t x) := by
  obtain ⟨y, hf, hys, hyl⟩ := h.entry
  refine ⟨⟨y, (abortOne_found_other s t fun hk => hq hk.2).trans hf, hys, hyl⟩, ((abortOne_issuing s t x).resolve_right ?_).trans h.issuing⟩
  rintro ⟨-, ho, -⟩
  rw [hb, othersIssue_of_found hf hys hyl hq] at ho
  simp at ho

theorem StillIssuing.self (h : StillIssuing s e t) (hh : holdsIssue s e = true) (hs : e.started = true) (hl : e.life = .taken) :
    StillIssuing s e (abortOne s t e) := by
  obtain ⟨y, hf, -, -⟩ := h.entry
  obtain ⟨z, hz, hto⟩ := abortOne_found s (t := t) (e := e) (by rw [hf]; rfl)
  refine ⟨⟨z, hz, by rw [hto.goesOn hh, hs], by rw [hto.goesOn hh, hl]⟩, ((abortOne_issuing s t e).resolve_right ?_).trans h.issuing⟩
  rintro ⟨hn, -, -⟩
  simp [hh] at hn

theorem holdsIssue_started (hh : holdsIssue s e = true) : e.started = true ∧ e.life = .taken := by
  simp only [holdsIssue, Bool.and_eq_true, beq_iff_eq] at hh
  exact ⟨hh.1.1.2, hh.1.2⟩

/-- While the command that holds the issue stands in the queue, the end of another one leaves the issue with it. -/
theorem abortBerth_issuing_held (he : e ∈ s.cq.entries) (hu : ∀ y ∈ s.cq.entries, y.berth = e.berth → y.seq = e.seq → y = e)
    (hh : holdsIssue s e = true) : (abortBerth e.berth s).cq.issuing = s.cq.issuing := by
  obtain ⟨hs, hl⟩ := holdsIssue_started hh
  have hrun : StillIssuing s e (abortBerth e.berth s) := by
    rw [abortBerth_eq]
    refine List.foldlRecOn (motive := StillIssuing s e) _ _ ⟨⟨e, findEntry_of_unique he hu, hs, hl⟩, rfl⟩ fun t ht x hx => ?_
    obtain ⟨hxin, hxb, -⟩ := mem_toAbort.1 hx
    by_cases hq : x.seq = e.seq
    · obtain rfl := hu x hxin hxb hq
      exact ht.self hh hs hl
    · exact ht.other hxb hq
  exact hrun.issuing

theorem holdsIssue_toAbort (he : e ∈ s.cq.entries) (hh : holdsIssue s e = true) : e ∈ toAbort e.berth s := by
  refine mem_toAbort.2 ⟨he, rfl, .inl ?_⟩
  rw [(holdsIssue_started hh).2]
  decide

theorem abortBerth_nothing (h : berthEntries s b = []) : abortBerth b s = s := by
  rw [abortBerth_eq, toAbort, h]
  rfl

/-! ## Marks on outputs (Table 11-9, R312) -/

theorem lineMarked_setMark (v u : Nat) (s : State) : lineMarked (setMark v true s) u = (decide (u = v) || lineMarked s u) := by
  unfold lineMarked setMark
  rw [sget_sset]
  split <;> simp [*]

theorem lineMarked_setMarks (us : List Nat) (u : Nat) (s : State) :
    lineMarked (us.foldl (fun t v => setMark v true t) s) u = true ↔ u ∈ us ∨ lineMarked s u = true := by
  induction us generalizing s with
  | nil => simp
  | cons v vs ih => rw [List.foldl_cons, ih, lineMarked_setMark, List.mem_cons, Bool.or_eq_true, decide_eq_true_iff]; tauto

/-- Every unit of an output in the scratchpad is marked. -/
theorem poisonOutputs_marked {i u : Nat} (hi : i < 2) (hj : (e.desc.slot (4 + i)).job = false) (hu : u ∈ outUnits e.desc i) (s : State) :
    lineMarked (poisonOutputs e s) u = true := by
  unfold poisonOutputs
  extract_lets d units mine first jobs lines
  have hl : u ∈ lines i := by simpa [lines, units, d, hj] using hu
  refine (lineMarked_setMarks _ _ _).2 (.inl (List.mem_append.2 ?_))
  obtain rfl | rfl : i = 0 ∨ i = 1 := by omega
  · exact .inl hl
  · exact .inr hl

theorem lineMarked_congr (h : t.sp = s.sp) (u : Nat) : lineMarked t u = lineMarked s u := by
  rw [lineMarked, h, lineMarked]

theorem endEarly_sp (e : Entry) (r : Result) (s : State) :
    (endEarly e r s).sp = (poisonOutputs (e.ended r) (setEntry (e.ended r) s)).sp := by
  obtain ⟨d, hd⟩ := invalidateFor_frame (e.ended r) (poisonOutputs (e.ended r) (setEntry (e.ended r) s))
  obtain ⟨k, hk⟩ := leaveIssue_frame e.berth (invalidateFor (e.ended r) (poisonOutputs (e.ended r) (setEntry (e.ended r) s)))
  rw [endEarly_eq, hk, hd]

/-! ## The duration cap -/

/-- What a capped command reports (R281). -/
def cappedResult (e : Entry) : Result := { e.res with cap := true, charged := durationCap }

theorem capEntry_eq (e : Entry) (s : State) : capEntry e s = clearFault e.berth e.seq (endEarly e (cappedResult e) s) := rfl

theorem capEntry_found (hf : findEntry s e.berth e.seq = some x) :
    ∃ y, findEntry (capEntry e s) e.berth e.seq = some y ∧ y.life = .ran ∧ y.res = cappedResult e := by
  obtain ⟨y, hy, hl, hr, -⟩ := endEarly_found hf (cappedResult e)
  exact ⟨y, (clearFault_found ..).trans hy, hl, hr⟩

theorem capEntry_issuing (e : Entry) (s : State) : (capEntry e s).cq.issuing = if othersIssue s e.berth e.seq = true then s.cq.issuing
    else if s.cq.issuing = some e.berth then none else s.cq.issuing := by
  rw [capEntry_eq, (clearFault_cq ..).1, endEarly_issuing]

theorem capEntry_dgst (e : Entry) (s : State) : (capEntry e s).dgst = (invalidateFor e s).dgst := by
  obtain ⟨r, hr⟩ := clearFault_frame e.berth e.seq (endEarly e (cappedResult e) s)
  rw [capEntry_eq, hr]
  exact endEarly_dgst e (cappedResult e) s

theorem capEntry_marked {i u : Nat} (hi : i < 2) (hj : (e.desc.slot (4 + i)).job = false) (hu : u ∈ outUnits e.desc i) (s : State) :
    lineMarked (capEntry e s) u = true := by
  obtain ⟨r, hr⟩ := clearFault_frame e.berth e.seq (endEarly e (cappedResult e) s)
  have hsp : (capEntry e s).sp = (endEarly e (cappedResult e) s).sp := by rw [capEntry_eq, hr]
  rw [lineMarked_congr (hsp.trans (endEarly_sp ..))]
  have hd : (e.ended (cappedResult e)).desc = e.desc := desc_congr rfl rfl rfl rfl
  exact poisonOutputs_marked hi (by rwa [hd]) (by rwa [hd]) _

theorem durationCapExpiry_eq {b : BitVec 5} (hm : mainStopped s = false) (h : (berthEntries s b.toNat).find? charged = some e) :
    exec (.durationCapExpiry b) s = .next (capEntry e s) := by
  change execDurationCapExpiry s b = _
  simp [execDurationCapExpiry, hm, h]

theorem durationCapExpiry_none {b : BitVec 5} (h : (berthEntries s b.toNat).find? charged = none) :
    exec (.durationCapExpiry b) s = .next s := by
  change execDurationCapExpiry s b = _
  simp [execDurationCapExpiry, h]

/-! ## The obligation -/

@[simp] theorem holdsIssue_dropHeld (p : Port) (e : Entry) : holdsIssue (dropHeld p s) e = holdsIssue s e := by
  unfold holdsIssue
  rw [dropHeld_cq]

@[simp] theorem berthEntries_dropHeld (p : Port) (b : Nat) : berthEntries (dropHeld p s) b = berthEntries s b :=
  berthEntries_congr (by rw [dropHeld_cq]) b

theorem status_aborted (r : Result) : ({ r with abort := 1 } : Result).status = if r.refused.isSome then 7 else 5 := by
  unfold Result.status
  rfl

/-- What an abort makes of one command, by whether it holds the issue, is under way, or has formed its outputs. -/
theorem abortBerth_entry (he : e ∈ s.cq.entries) (hu : ∀ y ∈ s.cq.entries, y.berth = e.berth → y.seq = e.seq → y = e) :
    (holdsIssue s e = true → findEntry (abortBerth e.berth s) e.berth e.seq = some { e with stop := true } ∧
      (abortBerth e.berth s).cq.issuing = s.cq.issuing) ∧
    (holdsIssue s e = false → (e.life ≠ .ran ∨ e.suspended = true) → ∃ x, findEntry (abortBerth e.berth s) e.berth e.seq = some x ∧
      x.life = .ran ∧ x.suspended = false ∧ x.res.abort = 1 ∧ x.res.status = (if x.res.refused.isSome then 7 else 5)) ∧
    (e.life = .ran → e.suspended = false → findEntry (abortBerth e.berth s) e.berth e.seq = some e) := by
  refine ⟨fun hh => ?_, fun hh hl => ?_, fun hl hs => ?_⟩
  · obtain ⟨y, hy, hto⟩ := abortBerth_found (holdsIssue_toAbort he hh) hu
    exact ⟨hto.goesOn hh ▸ hy, abortBerth_issuing_held he hu hh⟩
  · obtain ⟨y, hy, hto⟩ := abortBerth_found (mem_toAbort.2 ⟨he, rfl, hl⟩) hu
    obtain ⟨hran, hsus, hres⟩ := hto.ends hh
    exact ⟨y, hy, hran, hsus, by rw [hres], by rw [hres]; exact status_aborted e.res⟩
  · rw [abortBerth_found_other, findEntry_of_unique he hu]
    rintro x hx ⟨hb, hq⟩
    obtain ⟨hxin, -, hor⟩ := mem_toAbort.1 hx
    rw [hu x hxin hb hq] at hor
    simp [hl, hs] at hor

/-- Settles O22: an abort goes through the berth's commands one by one, each with its own entry; the cap ends one command. -/
theorem abortsAndCapsEndCommands : Obligations.AbortsAndCapsEndCommands := by
  unfold Obligations.AbortsAndCapsEndCommands
  refine ⟨fun s p b hs => ?_, fun s b e hm hc hf => ?_, fun s b => durationCapExpiry_none⟩
  · have hends := abortBerth_onlyEnds b.toNat (dropHeld p s)
    refine ⟨abortBerth b.toNat (dropHeld p s), next_onMain_served hs rfl, fun e he hb hu => ?_, fun b' q hne => ?_, ?_, fun hi => ?_, fun hn => ?_,
      ?_, ?_, ?_⟩
    · rw [← hb]
      simpa using abortBerth_entry (s := dropHeld p s) (by simpa using he) (by simpa using hu)
    · rw [abortBerth_found_other fun x hx hk => hne (hk.1.symm.trans (mem_toAbort.1 hx).2.1), findEntry_dropHeld]
    · rw [hends, dropHeld_keep]
    · rw [abortBerth_issuing_other (by simpa using hi), dropHeld_cq]
    · exact abortBerth_nothing (by simpa using hn)
    · rw [(abortBerth_quiet b.toNat (dropHeld p s)).mem, dropHeld_sp]
    · rw [hends, dropHeld_man]
    · rw [hends, dropHeld_evt]
  · have hb : e.berth = b.toNat := by
      simpa using (List.mem_filter.1 (List.mem_of_find?_eq_some hc)).2
    obtain ⟨x, hx, hl, hr⟩ := capEntry_found (hb ▸ hf)
    have hissue := capEntry_issuing e s
    rw [hb] at hissue hx
    refine ⟨capEntry e s, x, durationCapExpiry_eq hm hc, hx, hl, by rw [hr]; rfl, by rw [hr]; rfl, fun hi => ?_, fun hi => ?_,
      by rw [capEntry_onlyEnds e s], (capEntry_quiet e s).mem, fun hn => ?_, fun hn => ?_, fun i u hi hj hu => capEntry_marked hi hj hu s⟩
    · rw [hissue, if_neg hi, ite_self]
    · rw [hissue, hi, if_pos rfl]
      rfl
    · rw [capEntry_dgst]
      exact (invalidateFor_now hn).1
    · rw [capEntry_dgst]
      exact (invalidateFor_next hn).1

end Sys2Proof.Machine
end

section
/-! SUPPORT. Warm and replay resets: what they set back, when they are ignored, and the end of their drain (R271, R397, R412 to R414, Tables 16-7
and 18-7). -/

namespace Sys2Proof.Machine

variable {s t : State} {k : ResetKind} {p : Port}

/-! ## What a reset sets back -/

/-- From `s` to `t` a warm or replay reset began: it drains, the queue is empty, the ledger is at what is committed, and what Table 16-7 keeps
stayed. -/
def SetBack (k : ResetKind) (s t : State) : Prop :=
  t.pwr.draining = some k ∧ t.cq.entries = [] ∧ t.cq.issuing = none ∧ t.cq.rings = s.cq.rings ∧
  t.keep.accepted = s.keep.commitSeq ∧ t.keep.completed = s.keep.commitSeq ∧ t.keep.priorAccepted = s.keep.accepted ∧
  t.keep.priorCompleted = s.keep.completed ∧ t.keep.repair = s.keep.repair ∧ t.keep.committed = s.keep.committed ∧
  t.sp.mem = s.sp.mem ∧ t.sp.clean = s.sp.clean ∧ t.rtv.out = s.rtv.out ∧ t.man.active = s.man.active ∧
  t.arr = .cold ∧ t.dgst = .cold ∧ t.ken.map = s.ken.map ∧ t.toll.slots = s.toll.slots ∧
  t.toll.host.auth = false ∧ t.toll.mgr.auth = false

theorem manAtReset_active (k : ResetKind) (m : ManUnit) : (manAtReset k m).active = m.active := by
  cases k <;> rfl

theorem beginReset_setBack (k : ResetKind) (s : State) : SetBack k s (beginReset k s) :=
  ⟨rfl, rfl, rfl, rfl, rfl, rfl, rfl, rfl, rfl, rfl, rfl, rfl, rfl, manAtReset_active k s.man, rfl, rfl, rfl, rfl, rfl, rfl⟩

/-- A low half that a port holds is no part of it. -/
theorem SetBack.of_dropHeld (h : SetBack k (dropHeld p s) t) : SetBack k s t := by
  cases p <;> exact h

theorem beginReset_dropHeld_setBack (k : ResetKind) (p : Port) (s : State) : SetBack k s (beginReset k (dropHeld p s)) :=
  (beginReset_setBack k (dropHeld p s)).of_dropHeld

theorem reloadCrossing_tide (s : State) (c : CrsUnit) : (reloadCrossing s c).tide = c.tide := by
  unfold reloadCrossing
  split <;> rfl

/-- A replay reset keeps the mooring and the tide (R413). -/
theorem beginReset_replay_moored (s : State) :
    (beginReset .replay s).crs.moored = s.crs.moored ∧ (beginReset .replay s).crs.tide = s.crs.tide :=
  ⟨rfl, reloadCrossing_tide s _⟩

/-! ## Requests by JQ_CTL (R414) -/

theorem coldBusy_untested (h : s.pwr.tested = false) : coldBusy s = true := by
  rw [coldBusy, h, Bool.not_false, Bool.or_true]

theorem jqWarm_ignored (h : s.pwr.tested = false ∨ s.pwr.warmTest = true ∨ s.pwr.draining = some .warm) : jqWarm s = s :=
  if_pos (h.imp_left coldBusy_untested)

theorem jqReplay_ignored (h : s.pwr.tested = false ∨ s.pwr.warmTest = true ∨ s.pwr.draining.isSome = true) : jqReplay s = s :=
  if_pos (h.imp_left coldBusy_untested)

theorem jqWarm_begins (hm : s.pwr.mainDown = false) (hc : s.pwr.coldNext = false) (ht : s.pwr.tested = true) (hw : s.pwr.warmTest = false)
    (hd : s.pwr.draining ≠ some .warm) : jqWarm s = beginReset .warm s :=
  (jqWarm_taken (coldBusy_raised hm ht) hw hd).trans (resetOrCold_of_not_coldNext hc .warm)

theorem jqReplay_begins (hm : s.pwr.mainDown = false) (hc : s.pwr.coldNext = false) (ht : s.pwr.tested = true) (hw : s.pwr.warmTest = false)
    (hd : s.pwr.draining = none) : jqReplay s = beginReset .replay s :=
  (jqReplay_taken (coldBusy_raised hm ht) hw hd).trans (resetOrCold_of_not_coldNext hc .replay)

theorem warmReset_jqCtl (hm : s.pwr.mainDown = false) (hp : p = .mgr ∨ Served .host 6 s) :
    exec (.warmReset (.jqCtl p)) s = .next (jqWarm (dropHeld p s)) :=
  congrArg Host.Outcome.next (jqWrite_taken hm hp jqWarm)

theorem replayReset_jqCtl (hm : s.pwr.mainDown = false) (hp : p = .mgr ∨ Served .host 6 s) :
    exec (.replayReset p) s = .next (jqReplay (dropHeld p s)) :=
  congrArg Host.Outcome.next (jqWrite_taken hm hp jqReplay)

theorem warmReset_pin (hm : s.pwr.mainDown = false) (hc : s.pwr.coldNext = false) :
    exec (.warmReset .pin) s = .next (beginReset .warm s) :=
  congrArg Host.Outcome.next ((if_neg (Bool.eq_false_iff.1 hm)).trans (resetOrCold_of_not_coldNext hc .warm))

/-! ## The end of the drain (R413) -/

theorem resetDrainEnd_returned (hd : s.pwr.draining = some k) (hm : mainStopped s = false) (ho : s.rtv.out = []) (hx : s.tow.tx = []) :
    exec .resetDrainEnd s = .next { s with pwr := { s.pwr with draining := none } } := by
  change execResetDrainEnd s = _
  simp [execResetDrainEnd, hd, hm, ho, hx]

theorem resetDrainEnd_waits (h : s.rtv.out ≠ [] ∨ s.tow.tx ≠ []) : exec .resetDrainEnd s = .next s := by
  refine congrArg Host.Outcome.next (if_neg ?_)
  rintro ⟨-, -, ho, hx⟩
  exact h.elim (· (List.isEmpty_iff.1 ho)) (· (List.isEmpty_iff.1 hx))

/-- Settles O8: a request that is taken begins the reset, whose state says what is set back; one that is ignored only drops the port's low
half. -/
theorem warmAndReplayResetsSetBack : Obligations.WarmAndReplayResetsSetBack := by
  unfold Obligations.WarmAndReplayResetsSetBack
  refine ⟨fun s hm hc => ⟨?_, fun ht hw p hp => ⟨fun hd => ?_, fun hd => ?_⟩⟩, fun s p hm hp => ⟨fun h => ?_, fun h => ?_⟩,
    fun s k hd hm => ⟨resetDrainEnd_returned hd hm, resetDrainEnd_waits⟩⟩
  · exact ⟨_, warmReset_pin hm hc, beginReset_setBack .warm s, rfl, rfl, rfl⟩
  · have hbegin : jqWarm (dropHeld p s) = beginReset .warm (dropHeld p s) := by
      apply jqWarm_begins <;> simpa
    exact ⟨_, (warmReset_jqCtl hm hp).trans (congrArg _ hbegin), beginReset_dropHeld_setBack .warm p s, rfl, rfl⟩
  · have hbegin : jqReplay (dropHeld p s) = beginReset .replay (dropHeld p s) := by
      apply jqReplay_begins <;> simpa
    have hmoored := beginReset_replay_moored (dropHeld p s)
    rw [dropHeld_crs] at hmoored
    exact ⟨_, (replayReset_jqCtl hm hp).trans (congrArg _ hbegin), beginReset_dropHeld_setBack .replay p s, hmoored⟩
  · rw [warmReset_jqCtl hm hp, jqWarm_ignored (by simpa using h)]
  · rw [replayReset_jqCtl hm hp, jqReplay_ignored (by simpa using h)]

end Sys2Proof.Machine
end

section
/-! SUPPORT. Submissions: how Table 11-1 judges one, what an acceptance and any other answer change, and the responses (R258 to R260, R267,
R408). -/

namespace Sys2Proof.Machine

variable {s t : State}

/-! ## Table 11-1 -/

theorem judge_denied (s : State) (b q : Nat) : judge s false b q = 5 := rfl

theorem judge_zero {b q : Nat} (h : q = 0) : judge s true b q = 3 := by
  rw [h]
  rfl

theorem judge_duplicate {b q : Nat} (h1 : 1 ≤ q) (h : q ≤ ldgAccepted s b) : judge s true b q = 2 := by
  have h0 : q ≠ 0 := by omega
  simp [judge, h0, h]

theorem judge_gap {b q : Nat} (h : ldgAccepted s b + 1 < q) : judge s true b q = 3 := by
  have h0 : q ≠ 0 := by omega
  have h2 : ¬q ≤ ldgAccepted s b := by omega
  simp [judge, h0, h2, h]

/-- The next number of a berth is judged by the room in the queue and by the keep island. -/
theorem judge_next {b q : Nat} (h : q = ldgAccepted s b + 1) (hq : q < 2 ^ 48) :
    judge s true b q = if 256 ≤ s.cq.entries.length ∨ s.pwr.keepFail = true ∨ s.pwr.sealCheck = true then 4 else 1 := by
  have h0 : q ≠ 0 := by omega
  have h2 : ¬q ≤ ldgAccepted s b := by omega
  have h3 : ¬ldgAccepted s b + 1 < q := by omega
  have h4 : ¬2 ^ 48 ≤ q := by omega
  simp only [judge, Bool.not_true, Bool.false_eq_true, ↓reduceIte, if_neg h0, if_neg h2, if_neg h3, if_neg h4, islandFailing,
    Bool.or_eq_true, decide_eq_true_iff]

/-! ## One submission -/

/-- The berth that a descriptor names. -/
def subBerth (fore : Bool) (bytes : List Byte) : Nat := if fore then (foreDesc bytes 0).berth else (nativeDesc bytes).berth

/-- The sequence number that a descriptor names (R266). -/
def subSeq (s : State) (fore : Bool) (bytes : List Byte) : Nat :=
  if fore then (foreDesc bytes (ldgAccepted s (subBerth fore bytes) + 1)).seq else (nativeDesc bytes).seq

/-- A judged submission waits for its response. -/
def answerWaits (path : SubPath) (code b q : Nat) (s : State) : State :=
  { s with cq := { s.cq with responses := s.cq.responses ++ [⟨path, code, b, q⟩] } }

/-- An accepted one is journaled and queued. -/
def queueAccepted (path : SubPath) (fore : Bool) (bytes : List Byte) (bank : List Word32) (code b q : Nat) (s : State) : State :=
  let s1 := answerWaits path code b q s
  journal [.accepted b] { s.keep with accepted := sset 0 s.keep.accepted b q }
    { s1 with cq := { s1.cq with entries := s.cq.entries ++ [newEntry s path fore b q bytes bank], acceptCount := s.cq.acceptCount + 1 } }

theorem submit_eq (path : SubPath) (fore : Bool) (bytes : List Byte) (bank : List Word32) (s : State) :
    submit path fore bytes bank s =
      let b := subBerth fore bytes
      let q := subSeq s fore bytes
      let code := judge s (permitted path.port 0 s) b q
      if code = 1 then queueAccepted path fore bytes bank code b q s else answerWaits path code b q s := rfl

theorem submit_answered {path : SubPath} {fore : Bool} {bytes : List Byte} {c : Nat} (hc : c ≠ 1)
    (h : judge s (permitted path.port 0 s) (subBerth fore bytes) (subSeq s fore bytes) = c) (bank : List Word32) :
    submit path fore bytes bank s = answerWaits path c (subBerth fore bytes) (subSeq s fore bytes) s := by
  rw [submit_eq]
  dsimp only
  rw [h, if_neg hc]

theorem submit_accepted {path : SubPath} {fore : Bool} {bytes : List Byte}
    (h : judge s (permitted path.port 0 s) (subBerth fore bytes) (subSeq s fore bytes) = 1) (bank : List Word32) :
    submit path fore bytes bank s = queueAccepted path fore bytes bank 1 (subBerth fore bytes) (subSeq s fore bytes) s := by
  rw [submit_eq]
  dsimp only
  rw [h, if_pos rfl]

theorem ldgAccepted_queueAccepted (path : SubPath) (fore : Bool) (bytes : List Byte) (bank : List Word32) (code b q b' : Nat) (s : State) :
    ldgAccepted (queueAccepted path fore bytes bank code b q s) b' = if b' = b then q else ldgAccepted s b' :=
  sget_sset 0 s.keep.accepted b q b'

/-! ## The core port (R258, R267, R408) -/

/-- The bytes of a core submission that its format selects. -/
def coreBytes (fmt : Bool) (data : List Byte) : List Byte := if fmt then data.take 64 else data.take 128

theorem coreSubmit_open {fmt : Bool} (ho : portsOpen s = true) (hg : s.pwr.gated = false) (data : List Byte) (scalar : List Word64) :
    exec (.coreSubmit fmt data scalar) s = .next (submit .core fmt (coreBytes fmt data) (coreBank scalar) s) := by
  change execCoreSubmit fmt data scalar s = _
  simp only [execCoreSubmit, arrive, ho, hg, Bool.not_true, Bool.false_eq_true, ↓reduceIte]
  rfl

theorem coreSubmit_answered {fmt : Bool} {data : List Byte} {c : Nat} (ho : portsOpen s = true) (hg : s.pwr.gated = false) (hc : c ≠ 1)
    (h : judge s (permitted .host 0 s) (subBerth fmt (coreBytes fmt data)) (subSeq s fmt (coreBytes fmt data)) = c) (scalar : List Word64) :
    exec (.coreSubmit fmt data scalar) s =
      .next (answerWaits .core c (subBerth fmt (coreBytes fmt data)) (subSeq s fmt (coreBytes fmt data)) s) := by
  rw [coreSubmit_open ho hg, submit_answered (path := .core) hc h]

theorem coreSubmit_accepted {fmt : Bool} {data : List Byte} (ho : portsOpen s = true) (hg : s.pwr.gated = false)
    (h : judge s (permitted .host 0 s) (subBerth fmt (coreBytes fmt data)) (subSeq s fmt (coreBytes fmt data)) = 1) (scalar : List Word64) :
    exec (.coreSubmit fmt data scalar) s = .next (queueAccepted .core fmt (coreBytes fmt data) (coreBank scalar) 1
      (subBerth fmt (coreBytes fmt data)) (subSeq s fmt (coreBytes fmt data)) s) := by
  rw [coreSubmit_open ho hg, submit_accepted (path := .core) h]

theorem coreSubmit_gated {fmt : Bool} (ho : portsOpen s = true) (hg : s.pwr.gated = true) (data : List Byte) (scalar : List Word64) :
    exec (.coreSubmit fmt data scalar) s = .next { s with
      cq := { s.cq with asleep := s.cq.asleep ++ [⟨.core, fmt, coreBytes fmt data, coreBank scalar⟩] }
      pwr := { s.pwr with waking := true } } := by
  change execCoreSubmit fmt data scalar s = _
  simp only [execCoreSubmit, arrive, ho, hg, Bool.not_true, Bool.false_eq_true, ↓reduceIte]
  rfl

theorem coreSubmit_closed (fmt : Bool) (ho : portsOpen s = false) (data : List Byte) (scalar : List Word64) :
    exec (.coreSubmit fmt data scalar) s = .next s := by
  change execCoreSubmit fmt data scalar s = _
  simp [execCoreSubmit, arrive, ho]

/-! ## Responses (R259) -/

theorem submissionResponse_none (h : s.cq.responses = []) : exec .submissionResponse s = .next s := by
  change execSubmissionResponse s = _
  simp [execSubmissionResponse, h]

/-- A response reaches its master's register, or CORE_SUB_RESP. -/
def answerOn (j : Judged) (rest : List Judged) (s : State) : State :=
  match j.path with
  | .core => { s with cq := { s.cq with responses := rest, ackCore := j.code } }
  | .host => { s with cq := { s.cq with responses := rest, ackHost := j } }
  | .mgr => { s with cq := { s.cq with responses := rest, ackMgr := j } }

theorem submissionResponse_oldest {j : Judged} {rest : List Judged} (hm : mainStopped s = false) (h : s.cq.responses = j :: rest) :
    exec .submissionResponse s = .next (answerOn j rest s) := by
  refine congrArg Host.Outcome.next ((if_neg (Bool.eq_false_iff.1 hm)).trans ?_)
  rw [h]
  cases hp : j.path <;> simp only [answerOn, hp]

/-- Settles O19: each answer is Table 11-1's judgement of the number; only the judgement 1 queues and journals. -/
theorem coreSubmissionsAreJudgedAndAnswered : Obligations.CoreSubmissionsAreJudgedAndAnswered := by
  unfold Obligations.CoreSubmissionsAreJudgedAndAnswered
  refine ⟨fun s fmt data scalar ho hg => ?_, fun s fmt data scalar => ⟨fun ho hg => ?_, fun ho => coreSubmit_closed fmt ho data scalar⟩,
    fun s => submissionResponse_none, fun s j rest hm h => ?_⟩
  · intro bs b q a answer
    have hanswer : ∀ c, c ≠ 1 → judge s (permitted .host 0 s) (subBerth fmt bs) (subSeq s fmt bs) = c → answer c :=
      fun c hc h => coreSubmit_answered ho hg hc h scalar
    refine ⟨fun hp => hanswer 5 (by decide) (by rw [hp, judge_denied]), fun hp => ?_⟩
    rw [hp] at hanswer
    refine ⟨fun hq => hanswer 3 (by decide) (judge_zero hq), fun h1 ha => hanswer 2 (by decide) (judge_duplicate h1 ha),
      fun ha => hanswer 3 (by decide) (judge_gap ha), fun ha hq hf => hanswer 4 (by decide) ((judge_next ha hq).trans (if_pos hf)),
      fun ha hq hl hk hc => ?_⟩
    have hjudge : judge s (permitted .host 0 s) (subBerth fmt bs) (subSeq s fmt bs) = 1 := by
      rw [hp]
      exact (judge_next ha hq).trans (if_neg (by simpa [hk, hc] using hl))
    have hledger := fun b' => ldgAccepted_queueAccepted .core fmt bs (coreBank scalar) 1 b q b' s
    exact ⟨_, newEntry s .core fmt b q bs (coreBank scalar), coreSubmit_accepted ho hg hjudge scalar,
      rfl, rfl, rfl, rfl, rfl, rfl, rfl, rfl, rfl, (hledger b).trans (if_pos rfl), fun b' hb => (hledger b').trans (if_neg hb),
      rfl, rfl, rfl, rfl, rfl, rfl, rfl⟩
  · exact ⟨_, ⟨.core, fmt, coreBytes fmt data, coreBank scalar⟩, coreSubmit_gated ho hg data scalar, rfl, rfl, rfl, rfl, rfl⟩
  · have hold := submissionResponse_oldest hm h
    exact ⟨fun hp => by rw [hold, answerOn, hp], fun hp => by rw [hold, answerOn, hp], fun hp => by rw [hold, answerOn, hp]⟩

end Sys2Proof.Machine
end

section
/-! SUPPORT. The ledger's restart of a berth, and the crossing copy's return (R272, R376). -/

namespace Sys2Proof.Machine

variable {s t : State} {p : Port} {b : Nat}

/-! ## REBASE (R272) -/

/-- The three counts of a berth restarted. -/
def Keep.rebased (b : Nat) (k : Keep) : Keep :=
  { k with accepted := sset 0 k.accepted b 0, completed := sset 0 k.completed b 0, commitSeq := sset 0 k.commitSeq b 0 }

theorem rebaseBerth_idle (hh : berthHead s b = none) (hc : ldgCommitSeq s b = ldgAccepted s b) :
    rebaseBerth b s = journal [.accepted b, .completed b, .commit] (s.keep.rebased b) s := by
  rw [rebaseBerth, if_pos ⟨by rw [hh]; rfl, hc⟩]
  rfl

theorem rebaseBerth_ignored (h : berthHead s b ≠ none ∨ ldgCommitSeq s b ≠ ldgAccepted s b) : rebaseBerth b s = s := by
  rw [rebaseBerth, if_neg]
  rintro ⟨hh, hc⟩
  exact h.elim (· (Option.isNone_iff_eq_none.1 hh)) (· hc)

/-- A restarted berth counts from 0, any other one as before. -/
theorem ldg_rebased (h : t.keep = s.keep.rebased b) (b' : Nat) :
    ldgAccepted t b' = (if b' = b then 0 else ldgAccepted s b') ∧ ldgCompleted t b' = (if b' = b then 0 else ldgCompleted s b') ∧
      ldgCommitSeq t b' = (if b' = b then 0 else ldgCommitSeq s b') := by
  simp only [ldgAccepted, ldgCompleted, ldgCommitSeq, h, Keep.rebased, sget_sset, and_self]

@[simp] theorem berthHead_dropHeld (p : Port) (b : Nat) : berthHead (dropHeld p s) b = berthHead s b :=
  berthHead_congr (by rw [dropHeld_cq]) b

@[simp] theorem ldgCommitSeq_dropHeld (p : Port) (b : Nat) : ldgCommitSeq (dropHeld p s) b = ldgCommitSeq s b := by
  rw [ldgCommitSeq, dropHeld_keep, ldgCommitSeq]

@[simp] theorem ldgCompleted_dropHeld (p : Port) (b : Nat) : ldgCompleted (dropHeld p s) b = ldgCompleted s b := by
  rw [ldgCompleted, dropHeld_keep, ldgCompleted]

@[simp] theorem ldgAccepted_dropHeld (p : Port) (b : Nat) : ldgAccepted (dropHeld p s) b = ldgAccepted s b := by
  rw [ldgAccepted, dropHeld_keep, ldgAccepted]

/-- From `s` to `t` a berth was restarted, and the keep island wrote it. -/
structure Rebased (b : Nat) (s t : State) : Prop where
  counts : ldgAccepted t b = 0 ∧ ldgCompleted t b = 0 ∧ ldgCommitSeq t b = 0
  prior : t.keep.priorAccepted = s.keep.priorAccepted ∧ t.keep.priorCompleted = s.keep.priorCompleted
  others : ∀ b', b' ≠ b →
    ldgAccepted t b' = ldgAccepted s b' ∧ ldgCompleted t b' = ldgCompleted s b' ∧ ldgCommitSeq t b' = ldgCommitSeq s b'
  rest : t = { s with keep := t.keep, isl := t.isl }

theorem rebaseBerth_rebased (hh : berthHead s b = none) (hc : ldgCommitSeq s b = ldgAccepted s b) : Rebased b s (rebaseBerth b s) := by
  have hk : (rebaseBerth b s).keep = s.keep.rebased b := by rw [rebaseBerth_idle hh hc, journal_keep]
  refine ⟨?_, by rw [hk]; exact ⟨rfl, rfl⟩, fun b' hb => ?_, by rw [rebaseBerth_idle hh hc]; rfl⟩
  · simpa using ldg_rebased hk b
  · simpa [hb] using ldg_rebased hk b'

/-! ## RESUME (R376) -/

/-- From `s` to `t` the crossing copy's position `(c, l)` and its deadline base were loaded. -/
structure Resumed (c l : Nat) (s t : State) : Prop where
  crossing : t.crs.crossing = c
  landing : t.crs.landing = l
  base : t.crs.deadlineBase = s.keep.crossBase
  tOpen : s.crs.firstOpen = false → t.crs.tOpen = s.crs.tOpen
  firstOpen : t.crs.firstOpen = false
  tide : t.crs.tide = s.crs.tide
  ann : t.crs.ann = s.crs.ann
  cq : t.cq = s.cq
  keep : t.keep = s.keep
  man : t.man = s.man
  sp : t.sp = s.sp

theorem resumeOp_resumed {m : Manifest} {c l : Nat} (hm : s.man.active = some m) (ht : s.keep.keptTag = some m.tag)
    (hc : s.keep.crossCopy = some (c, l)) (hn : s.cq.takenSinceReset = false) : Resumed c l s (resumeOp s) := by
  unfold resumeOp
  simp only [hm, ht, hc, hn, Bool.false_eq_true, not_false_eq_true, and_self, ↓reduceIte]
  exact ⟨rfl, rfl, rfl, fun hf => if_neg (Bool.eq_false_iff.1 hf), rfl, rfl, rfl, rfl, rfl, rfl, rfl⟩

/-- A low half that a port holds is no part of it. -/
theorem Resumed.of_dropHeld {c l : Nat} (h : Resumed c l (dropHeld p s) t) : Resumed c l s t := by
  cases p <;> exact ⟨h.crossing, h.landing, h.base, h.tOpen, h.firstOpen, h.tide, h.ann, h.cq, h.keep, h.man, h.sp⟩

theorem resumeOp_ignored (h : s.man.active = none ∨ s.keep.crossCopy = none ∨ s.cq.takenSinceReset = true ∨
    ∃ m, s.man.active = some m ∧ s.keep.keptTag ≠ some m.tag) : resumeOp s = s := by
  unfold resumeOp
  split
  · next m k c l hm hk hc =>
    rw [if_neg]
    rintro ⟨htag, hn⟩
    rcases h with h | h | h | ⟨m', h, hne⟩
    · simp [hm] at h
    · simp [hc] at h
    · exact hn h
    · rw [hm, Option.some.injEq] at h
      exact hne (by rw [hk, ← h, htag])
  · rfl

/-- Settles O24: REBASE journals the berth's counts at 0, RESUME loads the crossing unit; otherwise only the port's low half is dropped. -/
theorem ledgerIsRebasedAndResumed : Obligations.LedgerIsRebasedAndResumed := by
  unfold Obligations.LedgerIsRebasedAndResumed
  refine ⟨fun s p b hs => ⟨fun hh hc => ?_, fun h => ?_⟩, fun s p hs => ⟨fun m c l hm hk hc hn => ?_, fun h => ?_⟩⟩
  · have h := rebaseBerth_rebased (s := dropHeld p s) (b := b.toNat) (by simpa using hh) (by simpa using hc)
    obtain ⟨ha, hd, hs0⟩ := h.counts
    obtain ⟨hpa, hpd⟩ := h.prior
    refine ⟨_, next_onMain_served hs rfl, ha, hd, hs0, by rw [hpa, dropHeld_keep], by rw [hpd, dropHeld_keep], fun b' hb => ?_, h.rest⟩
    simpa using h.others b' hb
  · exact next_onMain_served hs (rebaseBerth_ignored (by simpa using h))
  · have h : Resumed c l s (resumeOp (dropHeld p s)) :=
      (resumeOp_resumed (m := m) (by simpa using hm) (by simpa using hk) (by simpa using hc) (by simpa using hn)).of_dropHeld
    exact ⟨_, next_onMain_served hs rfl, h.crossing, h.landing, h.base, h.tOpen, h.firstOpen, h.tide, h.ann, h.cq, h.keep, h.man, h.sp⟩
  · exact next_onMain_served hs (resumeOp_ignored (by simpa using h))

end Sys2Proof.Machine
end

section
/-! SUPPORT. Host reads: of a register whole and by halves, of bytes that are one of a register, and of bytes of an area (R284, R418, R421,
R426). -/

namespace Sys2Proof.Machine

variable {s : State} {off n : Nat}

/-! ## Where an access falls -/

theorem regAt_aligned (h : (regAt off).isSome = true) : off % 8 = 0 := by
  by_contra hn
  rw [regAt, if_pos hn] at h
  simp at h

theorem bytesAccess_whole (h : (regAt off).isSome = true) : bytesAccess off 8 = some (off, .whole) := by
  rw [bytesAccess, if_pos ⟨rfl, h⟩]

theorem bytesAccess_low (h : (regAt off).isSome = true) : bytesAccess off 4 = some (off, .low) := by
  simp [bytesAccess, h]

/-- The upper half of a register begins at no register of its own. -/
theorem bytesAccess_high (h : (regAt off).isSome = true) : bytesAccess (off + 4) 4 = some (off, .high) := by
  have hnone : ¬(regAt (off + 4)).isSome = true := fun h' => by
    have h0 := regAt_aligned h
    have h4 := regAt_aligned h'
    omega
  simp [bytesAccess, hnone, h]

/-- The result windows are 2^27 bytes. -/
theorem areaAt_results_lt {o : Nat} (h : areaAt off = some (.results, o)) : o < 2 ^ 27 := by
  unfold areaAt at h
  split_ifs at h <;> simp at h
  omega

/-! ## Bytes of an area (R421, R426) -/

theorem hostReadArea_none (h : areaAt off = none) (n : Nat) (s : State) : hostReadArea off n s = readZero n s := by
  rw [hostReadArea, h]

theorem hostReadArea_misplaced {x : Area} {o : Nat} (h : areaAt off = some (x, o)) (hb : inOneBlock x o n = false) (s : State) :
    hostReadArea off n s = readZero n s := by
  simp [hostReadArea, h, hb]

theorem hostReadArea_bytes {x : Area} {o : Nat} (h : areaAt off = some (x, o)) (hb : inOneBlock x o n = true) (hx : x ≠ .results) (s : State) :
    hostReadArea off n s = { s with hostp := { s.hostp with
      data := (List.range n).map (fun i => areaByte s .host x (o + i)), code := 0, poison := false } } := by
  simp [hostReadArea, h, hb, hx]

theorem hostReadArea_results {o : Nat} (h : areaAt off = some (.results, o)) (hb : inOneBlock .results o n = true) (s : State) :
    hostReadArea off n s = readWindow o n .none s := by
  simp [hostReadArea, h, hb]

/-! ## A register (R418) -/

/-- The host port's answer of a register or of a half. -/
def answered (n v : Nat) (s : State) : State := { s with hostp := { s.hostp with data := leBytes n v, code := 0, poison := false } }

theorem hostRead_whole {r : Reg} (h : regAt off = some r) (s : State) :
    hostRead off .whole s = answered 8 (readReg s .host r).toNat s := by
  rw [hostRead, h]
  rfl

theorem hostRead_low {r : Reg} (h : regAt off = some r) (s : State) :
    hostRead off .low s =
      answered 4 ((readReg s .host r).toNat % 2 ^ 32) (setCapture .host (some (off, (readReg s .host r).toNat)) s) := by
  rw [hostRead, h]
  rfl

theorem hostRead_high_captured {r : Reg} {w : Nat} (h : regAt off = some r) (hc : s.hostp.capture = some (off, w)) :
    hostRead off .high s = answered 4 (w / 2 ^ 32 % 2 ^ 32) (setCapture .host none s) := by
  simp only [hostRead, h, readHalf, portHold, hc, Bool.not_true, Bool.false_eq_true, ↓reduceIte]
  rfl

theorem hostRead_high_live {r : Reg} (h : regAt off = some r) (hc : ∀ w, s.hostp.capture ≠ some (off, w)) :
    hostRead off .high s = answered 4 ((readReg s .host r).toNat / 2 ^ 32 % 2 ^ 32) s := by
  simp only [hostRead, h, readHalf, portHold, Bool.not_true, Bool.false_eq_true, ↓reduceIte]
  split
  · next o v hp =>
    rw [if_neg fun ho => hc v (by rw [hp, ho])]
    rfl
  · rfl

theorem hostRead_area (h : regAt off = none) (a : Access) (s : State) :
    hostRead off a s = hostReadArea (accessSpan off a).1 (accessSpan off a).2 s := by
  rw [hostRead, h]

/-! ## REGISTER_HALF_READ -/

theorem halfRead_down (hd : s.pwr.mainDown = true) (off : BitVec 28) (a : Access) (n : Option Nat) :
    exec (.registerHalfRead off a n) s = .next s :=
  congrArg Host.Outcome.next (if_pos hd)

theorem halfRead_up (hd : s.pwr.mainDown = false) (off : BitVec 28) (a : Access) :
    exec (.registerHalfRead off a) s = .next (hostRead off.toNat a s) :=
  congrArg Host.Outcome.next (if_neg (Bool.eq_false_iff.1 hd))

theorem halfRead_register (hd : s.pwr.mainDown = false) {off : BitVec 28} {x : Nat × Access} (h : bytesAccess off.toNat n = some x)
    (a : Access) : exec (.registerHalfRead off a (some n)) s = .next (hostRead x.1 x.2 s) := by
  refine congrArg Host.Outcome.next ((if_neg (Bool.eq_false_iff.1 hd)).trans ?_)
  dsimp only
  rw [h]

theorem halfRead_bytes (hd : s.pwr.mainDown = false) {off : BitVec 28} (h : bytesAccess off.toNat n = none) (a : Access) :
    exec (.registerHalfRead off a (some n)) s = .next (hostReadArea off.toNat n s) := by
  refine congrArg Host.Outcome.next ((if_neg (Bool.eq_false_iff.1 hd)).trans ?_)
  dsimp only
  rw [h]

/-- A read in the result windows is a RESULT_WINDOW_READ. -/
theorem hostReadArea_window {o : Nat} (hm : mainStopped s = false) (h : areaAt off = some (.results, o)) (hb : inOneBlock .results o n = true) :
    .next (hostReadArea off n s) = exec (.resultWindowRead (BitVec.ofNat 27 o) n) s := by
  have ho : (BitVec.ofNat 27 o).toNat = o := by
    rw [BitVec.toNat_ofNat]
    exact Nat.mod_eq_of_lt (areaAt_results_lt h)
  rw [hostReadArea_results h hb, resultWindowRead_taken hm (by rw [ho]; exact hb), ho]

/-- Settles O59: a read is of a register or of an area by where it falls, and each has one answer. -/
theorem registerReadsAnswer : Obligations.RegisterReadsAnswer := by
  unfold Obligations.RegisterReadsAnswer
  refine ⟨fun s off a n hd => halfRead_down hd off a n, fun s off a n hd => ?_, fun s off a hd hr => ?_, fun s off r hd hr => ?_⟩
  · refine ⟨fun hn hr => ?_, fun hn hr => ?_, fun hn o ho hr => ?_, fun hb => ⟨fun hx => ?_, fun x o hx => ⟨fun hi => ?_, fun hi hne => ?_,
      fun hi heq hm => ?_⟩⟩⟩
    · rw [halfRead_register hd (hn ▸ bytesAccess_whole (Option.isSome_iff_ne_none.2 hr)), halfRead_up hd]
    · rw [halfRead_register hd (hn ▸ bytesAccess_low (Option.isSome_iff_ne_none.2 hr)), halfRead_up hd]
    · rw [halfRead_register hd (hn ▸ ho ▸ bytesAccess_high (Option.isSome_iff_ne_none.2 hr)), halfRead_up hd]
    · rw [halfRead_bytes hd hb, hostReadArea_none hx]
      rfl
    · rw [halfRead_bytes hd hb, hostReadArea_misplaced hx hi]
      rfl
    · rw [halfRead_bytes hd hb, hostReadArea_bytes hx hi hne]
    · subst heq
      rw [halfRead_bytes hd hb, hostReadArea_window hm hx hi]
  · intro n o ho hb
    rw [halfRead_up hd, hostRead_area hr, halfRead_bytes hd hb, ho]
  · intro v
    refine ⟨?_, ?_, fun w hw => ?_, fun hw => ?_⟩
    · rw [halfRead_up hd, hostRead_whole hr]
      rfl
    · rw [halfRead_up hd, hostRead_low hr]
      rfl
    · rw [halfRead_up hd, hostRead_high_captured hr hw]
      rfl
    · rw [halfRead_up hd, hostRead_high_live hr hw]
      rfl

end Sys2Proof.Machine
end

section
/-! SUPPORT. RETRIEVER_REQUEST: what a request that leaves takes, which request the memory stream sends or passes over, and the REMOTE tags that the
remote stream hands out (R289, R291, R292, R323). -/

namespace Sys2Proof.Machine

variable {s t : State} {c : Cand} {ch : Nat}

/-! ## A request leaves -/

/-- A request as it leaves with its tag. -/
def taggedReq (c : Cand) (ch tag : Nat) : Req :=
  { tag := tag, write := c.write, owner := c.owner, addr := c.addr, len := c.len, pass := 0, slot := c.slot, channel := ch,
    prefetch := c.prefetch, block := c.block, marks := indications c }

/-- A request's source is in an entry of the queue or among the posts. -/
theorem takeSource_frame (c : Cand) (s : State) : takeSource c s = { s with
    cq := { s.cq with entries := (takeSource c s).cq.entries }
    rtv := { s.rtv with posts := (takeSource c s).rtv.posts } } := by
  unfold takeSource
  split
  · split <;> rfl
  · rfl
  · rfl

theorem sendReq_frame (c : Cand) (ch : Nat) (s : State) : sendReq c ch s = { s with
    cq := { s.cq with entries := (takeSource c s).cq.entries }
    rtv := { s.rtv with
      posts := (takeSource c s).rtv.posts
      out := s.rtv.out ++ [taggedReq c ch s.rtv.nextTag]
      nextTag := s.rtv.nextTag + 1
      passed := s.rtv.passed.filter (fun p => c.write || p.1 != c.addr) } } := by
  unfold sendReq
  rw [takeSource_frame]
  rfl

theorem sendReq_out (c : Cand) (ch : Nat) (s : State) :
    (sendReq c ch s).rtv.out = s.rtv.out ++ [taggedReq c ch s.rtv.nextTag] :=
  congrArg (·.rtv.out) (sendReq_frame c ch s)

/-- What the statement says of a request that leaves. -/
theorem sendReq_sent (c : Cand) (ch : Nat) (s : State) :
    ∃ q, (sendReq c ch s).rtv.out = s.rtv.out ++ [q] ∧ q.tag = s.rtv.nextTag ∧ q.write = c.write ∧ q.addr = c.addr ∧ q.len = c.len ∧
      q.owner = c.owner ∧ q.slot = c.slot ∧ q.channel = ch ∧ (sendReq c ch s).rtv.nextTag = s.rtv.nextTag + 1 ∧
      SameMemory s (sendReq c ch s) ∧ (sendReq c ch s).arr = s.arr ∧ (sendReq c ch s).crs = s.crs ∧ (sendReq c ch s).man = s.man ∧
      (sendReq c ch s).keep = s.keep ∧ (sendReq c ch s).evt = s.evt := by
  have hf := sendReq_frame c ch s
  exact ⟨taggedReq c ch s.rtv.nextTag, sendReq_out c ch s, rfl, rfl, rfl, rfl, rfl, rfl, rfl, congrArg (·.rtv.nextTag) hf,
    sameMemory_of_mem (sendReq_quiet c ch s).mem, congrArg (·.arr) hf, congrArg (·.crs) hf, congrArg (·.man) hf, congrArg (·.keep) hf,
    congrArg (·.evt) hf⟩

/-! ## Tags held (R291, R292) -/

/-- Of the requests that are out, those that one property picks grow by the one that leaves, where it has the property. -/
theorem length_filter_sendReq (c : Cand) (ch : Nat) (s : State) (p : Req → Bool) : ((sendReq c ch s).rtv.out.filter p).length =
    (s.rtv.out.filter p).length + if p (taggedReq c ch s.rtv.nextTag) then 1 else 0 := by
  rw [sendReq_out, List.filter_append, List.length_append]
  cases hp : p (taggedReq c ch s.rtv.nextTag) <;> simp [hp]

theorem tagsOut_sendReq (c : Cand) (ch : Nat) (s : State) (w : Bool) :
    tagsOut (sendReq c ch s) w = tagsOut s w + if c.write = w then 1 else 0 := by
  unfold tagsOut
  rw [length_filter_sendReq]
  simp [taggedReq]

theorem channelOut_sendReq (c : Cand) (ch : Nat) (s : State) (h : Nat) :
    channelOut (sendReq c ch s) h = channelOut s h + if c.write = false ∧ ch = h then 1 else 0 := by
  unfold channelOut
  rw [length_filter_sendReq]
  simp [taggedReq]

/-- The tags of a class (R291): WRITE or READ. -/
def tagLimit (s : State) (w : Bool) : Nat := if w then s.rtv.writeTags else s.rtv.readTags

theorem tagFree_iff (s : State) (w : Bool) : tagFree s w = true ↔ tagsOut s w < tagLimit s w := decide_eq_true_iff

theorem capped_eq_false_iff (s : State) (ch : Nat) : capped s ch = false ↔ channelOut s ch < 32 := by
  rw [capped, decide_eq_false_iff_not, Nat.not_le]

/-- A class that has a tag free is within its limit after one request more. -/
theorem tagsOut_sendReq_le (h : tagFree s c.write = true) (ch : Nat) (w : Bool) (hs : tagsOut s w ≤ tagLimit s w) :
    tagsOut (sendReq c ch s) w ≤ tagLimit s w := by
  rw [tagsOut_sendReq]
  split
  next hw =>
    subst hw
    exact (tagFree_iff ..).1 h
  next => exact hs

/-- A channel that has room is within the cap after one request more. -/
theorem channelOut_sendReq_le (h : c.write = true ∨ capped s ch = false) (n : Nat) (hs : channelOut s n ≤ 32) :
    channelOut (sendReq c ch s) n ≤ 32 := by
  rw [channelOut_sendReq]
  split
  next hq =>
    obtain ⟨hr, rfl⟩ := hq
    exact (capped_eq_false_iff s ch).1 (h.resolve_left (by simp [hr]))
  next => exact hs

/-! ## The memory stream (R289, R291, R292) -/

/-- The requests that could issue whose class has a free tag, in the order of R289. -/
def openCands (s : State) : List Cand := (candidates s).filter (fun c => tagFree s c.write)

/-- The first request passed over whose channel has room, with the channel. -/
def resumedReq (s : State) : Option (Cand × Nat) :=
  (openCands s).findSome? (fun c => (passedChannel s c).bind (fun x => if capped s x then none else some (c, x)))

/-- The first request that is not passed over. -/
def freshReq (s : State) : Option Cand := (openCands s).find? (fun c => (passedChannel s c).isNone)

theorem passedChannel_read {x : Nat} (h : passedChannel s c = some x) : c.write = false := by
  by_contra hw
  rw [passedChannel, if_pos (Bool.eq_true_of_not_eq_false hw)] at h
  cases h

theorem passedChannel_none (h : s.rtv.passed = []) (c : Cand) : passedChannel s c = none := by
  unfold passedChannel
  rw [h]
  exact ite_self _

/-- A request that goes before the others is a read with a tag free whose channel has room. -/
theorem resumedReq_spec {x : Cand × Nat} (h : resumedReq s = some x) :
    tagFree s x.1.write = true ∧ x.1.write = false ∧ capped s x.2 = false := by
  obtain ⟨c, hc, hx⟩ := List.exists_of_findSome?_eq_some h
  obtain ⟨y, hy, hroom⟩ := Option.bind_eq_some_iff.1 hx
  rw [Option.ite_none_left_eq_some, Option.some.injEq] at hroom
  obtain ⟨hcap, rfl⟩ := hroom
  exact ⟨(List.mem_filter.1 hc).2, passedChannel_read hy, Bool.eq_false_of_not_eq_true hcap⟩

theorem resumedReq_none (h : s.rtv.passed = []) : resumedReq s = none :=
  List.findSome?_eq_none_iff.2 (fun c _ => by rw [passedChannel_none h, Option.bind_none])

theorem freshReq_head (hp : s.rtv.passed = []) (hc : (openCands s).head? = some c) : freshReq s = some c := by
  obtain ⟨cs, hcs⟩ := List.head?_eq_some_iff.1 hc
  rw [freshReq, hcs, List.find?_cons_of_pos (by rw [passedChannel_none hp]; rfl)]

theorem nextRequest_resumed {x : Cand × Nat} (h : resumedReq s = some x) (ch : Nat) : nextRequest ch s = sendReq x.1 x.2 s := by
  unfold resumedReq openCands at h
  unfold nextRequest
  dsimp only
  rw [h]

theorem nextRequest_fresh (hr : resumedReq s = none) (h : freshReq s = some c) (ch : Nat) : nextRequest ch s =
    if !c.write && capped s ch then { s with rtv := { s.rtv with passed := s.rtv.passed ++ [(c.addr, ch)] } } else sendReq c ch s := by
  unfold resumedReq openCands at hr
  unfold freshReq openCands at h
  unfold nextRequest
  dsimp only
  rw [hr, h]

theorem nextRequest_none (hr : resumedReq s = none) (h : freshReq s = none) (ch : Nat) : nextRequest ch s = s := by
  unfold resumedReq openCands at hr
  unfold freshReq openCands at h
  unfold nextRequest
  dsimp only
  rw [hr, h]

/-- With nothing passed over, the choice falls on the first request with a free tag. -/
theorem nextRequest_head (hp : s.rtv.passed = []) (hc : (openCands s).head? = some c) (ch : Nat) : nextRequest ch s =
    if !c.write && capped s ch then { s with rtv := { s.rtv with passed := [(c.addr, ch)] } } else sendReq c ch s := by
  rw [nextRequest_fresh (resumedReq_none hp) (freshReq_head hp hc), hp, List.nil_append]

theorem nextRequest_nil (h : openCands s = []) (ch : Nat) : nextRequest ch s = s :=
  nextRequest_none (by rw [resumedReq, h, List.findSome?_nil]) (by rw [freshReq, h, List.find?_nil]) ch

/-- Nothing happens, one more request is passed over, or one leaves: its class has a tag free and, where it is a read, its channel has room. -/
theorem nextRequest_cases (ch : Nat) (s : State) : nextRequest ch s = s ∨
    (∃ ps, nextRequest ch s = { s with rtv := { s.rtv with passed := ps } }) ∨
    ∃ c x, nextRequest ch s = sendReq c x s ∧ tagFree s c.write = true ∧ (c.write = true ∨ capped s x = false) := by
  rcases hr : resumedReq s with _ | x
  · rcases hc : freshReq s with _ | c
    · exact .inl (nextRequest_none hr hc ch)
    · have hfree : tagFree s c.write = true := (List.mem_filter.1 (List.mem_of_find?_eq_some hc)).2
      rw [nextRequest_fresh hr hc]
      split
      next => exact .inr (.inl ⟨_, rfl⟩)
      next hroom => exact .inr (.inr ⟨c, ch, rfl, hfree, by simpa [Bool.and_eq_true, imp_iff_not_or] using hroom⟩)
  · obtain ⟨hfree, -, hcap⟩ := resumedReq_spec hr
    exact .inr (.inr ⟨x.1, x.2, nextRequest_resumed hr ch, hfree, .inr hcap⟩)

theorem nextRequest_tagsOut_le (ch : Nat) (s : State) (w : Bool) (hs : tagsOut s w ≤ tagLimit s w) :
    tagsOut (nextRequest ch s) w ≤ tagLimit s w := by
  obtain h | ⟨ps, h⟩ | ⟨c, x, h, hfree, -⟩ := nextRequest_cases ch s
  · rwa [h]
  · rwa [h]
  · rw [h]
    exact tagsOut_sendReq_le hfree x w hs

theorem nextRequest_channelOut_le (ch : Nat) (s : State) (n : Nat) (hs : channelOut s n ≤ 32) : channelOut (nextRequest ch s) n ≤ 32 := by
  obtain h | ⟨ps, h⟩ | ⟨c, x, h, -, hroom⟩ := nextRequest_cases ch s
  · rwa [h]
  · rwa [h]
  · rw [h]
    exact channelOut_sendReq_le hroom n hs

/-! ## The remote stream (R323) -/

/-- No burst of a message is lost or made. -/
theorem pumpTx_bursts (free : Nat) (xs : List TxMsg) :
    (pumpTx free xs).map (fun x => (x.id, x.left + x.out)) = xs.map (fun x => (x.id, x.left + x.out)) := by
  induction xs generalizing free with
  | nil => rfl
  | cons x xs ih =>
    have hx : x.left - min free x.left + (x.out + min free x.left) = x.left + x.out := by omega
    simp only [pumpTx, List.map_cons, ih, hx]

/-- The tags handed out are as many as are free, or as there are bursts to send. -/
theorem pumpTx_out (free : Nat) (xs : List TxMsg) :
    ((pumpTx free xs).map (·.out)).sum = (xs.map (·.out)).sum + min free (xs.map (·.left)).sum := by
  induction xs generalizing free with
  | nil => simp [pumpTx]
  | cons x xs ih =>
    simp only [pumpTx, List.map_cons, List.sum_cons, ih]
    omega

theorem remoteOut_pump (s : State) : remoteOut (pump s) = remoteOut s + min (512 - remoteOut s) (s.tow.tx.map (·.left)).sum :=
  pumpTx_out _ _

/-! ## RETRIEVER_REQUEST -/

theorem retrieverRequest_halted (h : rtvRuns s = false) (x : ReqStream) : exec (.retrieverRequest x) s = .next s :=
  congrArg Host.Outcome.next (if_pos (by rw [h]; rfl))

theorem retrieverRequest_memory (h : rtvRuns s = true) (ch : Nat) : exec (.retrieverRequest (.memory ch)) s = .next (nextRequest ch s) :=
  congrArg Host.Outcome.next (if_neg (by simp [h]))

theorem retrieverRequest_remote (h : rtvRuns s = true) : exec (.retrieverRequest .remote) s = .next (pump s) :=
  congrArg Host.Outcome.next (if_neg (by simp [h]))

/-- Whether or not the Retriever runs, a step of the memory stream leaves the state or makes the next request. -/
theorem retrieverRequest_memory_cases (h : exec (.retrieverRequest (.memory ch)) s = .next t) : t = s ∨ t = nextRequest ch s := by
  cases hr : rtvRuns s with
  | false =>
    rw [retrieverRequest_halted hr] at h
    exact .inl (Host.Outcome.next.inj h).symm
  | true =>
    rw [retrieverRequest_memory hr] at h
    exact .inr (Host.Outcome.next.inj h).symm

/-- Settles O31: the memory stream by which request it chooses, its limits by what a choice needs, the remote stream by its count of tags. -/
theorem requestsKeepTagsAndCap : Obligations.RequestsKeepTagsAndCap := by
  unfold Obligations.RequestsKeepTagsAndCap
  intro sent open' resumed
  refine ⟨fun s ch c hr hp hc => ⟨fun hgo => ?_, fun hw hcap => ?_⟩, fun s ch x hr hx => ?_, fun s t ch h => ?_, fun s ch hr ho => ?_,
    fun s hr => ?_, fun s x hr => retrieverRequest_halted hr x⟩
  · have hroom : ¬(!c.write && capped s ch) = true := by
      simpa [Bool.and_eq_true, imp_iff_not_or, capped_eq_false_iff] using hgo
    exact ⟨_, by rw [retrieverRequest_memory hr, nextRequest_head hp hc, if_neg hroom], sendReq_sent c ch s⟩
  · have hfull : (!c.write && capped s ch) = true := by simp [hw, capped, hcap]
    rw [retrieverRequest_memory hr, nextRequest_head hp hc, if_pos hfull]
  · obtain ⟨-, hw, hcap⟩ := resumedReq_spec hx
    exact ⟨_, by rw [retrieverRequest_memory hr, nextRequest_resumed hx], sendReq_sent x.1 x.2 s, (capped_eq_false_iff s x.2).1 hcap, hw⟩
  · obtain rfl | rfl := retrieverRequest_memory_cases h
    · exact ⟨id, id, fun _ => id⟩
    · exact ⟨nextRequest_tagsOut_le ch s false, nextRequest_tagsOut_le ch s true, nextRequest_channelOut_le ch s⟩
  · rw [retrieverRequest_memory hr, nextRequest_nil ho]
  · have hout := remoteOut_pump s
    refine ⟨pump s, retrieverRequest_remote hr, rfl, fun hs => by omega, pumpTx_bursts _ _, by omega, fun x rest hx hleft hs => ?_⟩
    rw [hx, List.map_cons, List.sum_cons] at hout
    omega

end Sys2Proof.Machine
end

section
/-! SUPPORT. The end of a row or bank copy: the marks that its reads leave, the mapping that it adds to the repair table, and the events that
report it (R315, R316, R318). -/

namespace Sys2Proof.Machine

variable {s t : State}

/-! ## Events (R430) -/

/-- While the main side is up a raised event sets its pending bit and no other. -/
theorem raise_sets_pending (h : s.pwr.mainDown = false) (code : Nat) (cmd : Option (Nat × Nat)) (d0 d1 : Nat) :
    (raise code cmd d0 d1 s).evt.pending = s.evt.pending ||| BitVec.ofNat 15 (2 ^ code) := by
  rw [raise_up h, logEvent_pending]

/-- A repair is reported: SPARE_EXHAUSTED where it took the last spare, then REPAIR_DONE. -/
def reportRepair (last : Prop) [Decidable last] (spent done : Nat) (s : State) : State :=
  raise evRepairDone none done 0 (if last then raise evSpareExhausted none spent 0 s else s)

theorem reportRepair_onlyEvents (last : Prop) [Decidable last] (spent done : Nat) (s : State) :
    OnlyEvents s (reportRepair last spent done s) := by
  unfold reportRepair
  split
  · exact (raise_onlyEvents ..).trans (raise_onlyEvents ..)
  · exact raise_onlyEvents ..

theorem reportRepair_pending (h : s.pwr.mainDown = false) (last : Prop) [Decidable last] (spent done : Nat) :
    (reportRepair last spent done s).evt.pending =
      s.evt.pending ||| BitVec.ofNat 15 (if last then 2 ^ 6 + 2 ^ 7 else 2 ^ 7) := by
  unfold reportRepair
  split
  · rw [raise_sets_pending (by rwa [raise_pwr]), raise_sets_pending h, BitVec.or_assoc]
    rfl
  · exact raise_sets_pending h ..

/-! ## Marks (R312, R316) -/

theorem lineMarked_of_clean (h : t.sp.clean = s.sp.clean) (k : Nat) : lineMarked t k = lineMarked s k := by
  rw [lineMarked, h, lineMarked]

/-- What a list under a condition on its keys reads as. -/
theorem sget_filter_key {α : Type} (d : α) (m : List (Nat × α)) (f : Nat → Bool) (a : Nat) :
    sget d (m.filter (fun p => f p.1)) a = if f a then sget d m a else d := by
  split
  · next h => exact sget_filter h
  · next h =>
    have hne : ∀ p ∈ m.filter (fun p => f p.1), p.1 ≠ a := by
      rintro p hp rfl
      exact h (List.mem_filter.1 hp).2
    simpa [sget] using sget_append_left (d := d) (ys := []) hne

/-- The lines of a bank that its copy has not reached are marked, and the others keep their marks. -/
theorem lineMarked_markUncopied (x b k : Nat) (s : State) : lineMarked (markUncopied x b s) k =
    (lineMarked s k || (inBank x b k && decide (Config.copiedLines s.free % 4097 ≤ bitsOf (64 * k) 26 15))) := by
  have h : sget false (markUncopied x b s).sp.clean k = _ := sget_filter_key false s.sp.clean
    (fun k => !(inBank x b k && decide (Config.copiedLines s.free % 4097 ≤ bitsOf (64 * k) 26 15))) k
  rw [lineMarked, lineMarked, h]
  cases inBank x b k && decide (Config.copiedLines s.free % 4097 ≤ bitsOf (64 * k) 26 15) <;> simp

/-! ## The reads of a copy (R315) -/

/-- From `s` to `t` only the counts of corrected words and the marks may differ. -/
def OnlyMarks (s t : State) : Prop := t = { s with sp := { s.sp with ce := t.sp.ce, clean := t.sp.clean } }

theorem OnlyMarks.trans {u : State} (h : OnlyMarks s t) (k : OnlyMarks t u) : OnlyMarks s u := by
  unfold OnlyMarks at *
  rw [k, h]

theorem copyMeets_onlyMarks (err : ReadErr) (s : State) : OnlyMarks s (copyMeets err s) :=
  List.foldlRecOn err.lost _ (motive := OnlyMarks s)
    (List.foldlRecOn err.corrected _ (motive := OnlyMarks s) rfl fun _ h _ _ => h.trans rfl) fun _ h _ _ => h.trans rfl

/-- The reads of a copy mark the lines that they lose, of those that the copy reads, and clear no mark. -/
theorem lineMarked_copyMeets (p : Nat → Bool) (err : ReadErr) (s : State) (k : Nat) :
    lineMarked (copyMeets (err.within p) s) k = true ↔ (∃ a ∈ err.lost, p a = true ∧ a / 64 = k) ∨ lineMarked s k = true := by
  have hcounts : ((err.corrected.filter p).foldl (fun t a => countCorrected a t) s).sp.clean = s.sp.clean :=
    List.foldlRecOn _ _ (motive := fun t : State => t.sp.clean = s.sp.clean) rfl fun _ h _ _ => h
  have hmarks := lineMarked_setMarks ((err.lost.filter p).map (· / 64)) k
    ((err.corrected.filter p).foldl (fun t a => countCorrected a t) s)
  rw [List.foldl_map, lineMarked_of_clean hcounts] at hmarks
  refine hmarks.trans (or_congr_left ?_)
  simp [List.mem_filter, and_assoc]

theorem lineMarked_copyMeets_of_kept {p : Nat → Bool} {err : ReadErr} {k : Nat} (h : ∀ a ∈ err.lost, p a = true → a / 64 ≠ k) (s : State) :
    lineMarked (copyMeets (err.within p) s) k = lineMarked s k := by
  rw [Bool.eq_iff_iff, lineMarked_copyMeets]
  exact or_iff_right fun ⟨a, ha, hp, hk⟩ => h a ha hp hk

theorem copyReads_running {mine : Copy → Bool} {c : Copy} (hf : s.sp.copies.find? mine = some c) (hm : mainStopped s = false)
    (err : ReadErr) : copyReads mine err s = copyMeets err s := by
  have hany : s.sp.copies.any mine = true :=
    List.any_eq_true.2 ⟨c, List.mem_of_find?_eq_some hf, List.find?_some hf⟩
  exact if_pos (by rw [hm, hany]; rfl)

/-- Where no such copy runs, nothing is read. -/
theorem copyReads_idle {mine : Copy → Bool} (h : mainStopped s = true ∨ s.sp.copies.find? mine = none) (err : ReadErr) :
    copyReads mine err s = s := by
  refine if_neg ?_
  rcases h with h | h
  · simp [h]
  · simpa using fun _ => List.find?_eq_none.1 h

/-! ## ROW_COPY_END -/

/-- The spare row of a copy serves, and the row's errors count anew. -/
def rowMapped (x b w : Nat) (c : Copy) (s : State) : State :=
  addRow x (physBank s x b) w c.spare { s with sp := { s.sp with
    copies := s.sp.copies.filter (fun c => !(c.region == x && c.bank == b && c.row == some w))
    corrected := sput s.sp.corrected (rowKey x b w) none
    failedRows := s.sp.failedRows.filter (· != rowKey x b w) } }

theorem rowCopyEnd_running {x b w : Nat} {c : Copy}
    (hf : s.sp.copies.find? (fun c => c.region == x && c.bank == b && c.row == some w) = some c) (hm : mainStopped s = false)
    (err : ReadErr) : ∃ spent done, exec (.rowCopyEnd x b w err) s = .next (reportRepair (c.spare = 15) spent done
      (rowMapped x b w c (copyMeets (err.within (fun a => rowOf a == rowKey x b w)) s))) := by
  have hr := copyReads_running hf hm (err.within (fun a => rowOf a == rowKey x b w))
  have hk := copyMeets_onlyMarks (err.within (fun a => rowOf a == rowKey x b w)) s
  generalize copyMeets (err.within (fun a => rowOf a == rowKey x b w)) s = m at hr hk ⊢
  have hm' : mainStopped m = false := by rw [hk]; exact hm
  have hf' : m.sp.copies.find? (fun c => c.region == x && c.bank == b && c.row == some w) = some c := by rw [hk]; exact hf
  refine ⟨x + 8 * 2 + 32 * b, x + 8 * b + 512 * w + 2 ^ 18 * remapsOf (rowMapped x b w c m) x (physBank m x b) w, ?_⟩
  simp only [exec, execRowCopyEnd, hr, hm', hf', Bool.false_eq_true, if_false]
  rfl

theorem rowCopyEnd_idle {x b w : Nat} (h : mainStopped s = true ∨
    s.sp.copies.find? (fun c => c.region == x && c.bank == b && c.row == some w) = none) (err : ReadErr) :
    exec (.rowCopyEnd x b w err) s = .next s := by
  have hr := copyReads_idle h (err.within (fun a => rowOf a == rowKey x b w))
  simp only [exec, execRowCopyEnd, hr]
  rcases h with h | h
  · rw [if_pos h]
  · simp only [h, ite_self]

/-! ## BANK_COPY_END -/

/-- A copy that still runs at a crossing's end ends where it stands (R316). -/
def bankCut (x b : Nat) (s : State) : State :=
  if s.crs.run.any (fun r => decide (r.landing = 0xFFFF)) then markUncopied x b s else s

/-- The spare bank of a copy serves, and what was known of the bank goes with it. -/
def bankMapped (x b : Nat) (c : Copy) (s : State) : State :=
  let rep := s.keep.repair
  journal [.repair] { s.keep with repair := { rep with
      spares := rep.spares.filter (fun y => !(y.1 == x && y.2.2 == b)) ++ [(x, c.spare, b)]
      worn := rep.worn ++ (rep.spares.filter (fun y => y.1 == x && y.2.2 == b)).map (fun y => (y.1, y.2.1)) } } { s with
    sp := { s.sp with
      copies := s.sp.copies.filter (fun k => !(k.region == x && k.bank == b))
      corrected := s.sp.corrected.filter (fun y => y.1 / 256 != x * 64 + b)
      failedRows := s.sp.failedRows.filter (fun y => y / 256 != x * 64 + b)
      noSpare := s.sp.noSpare.filter (fun y => !(y.1 == x && y.2 == b)) } }

theorem bankCopyEnd_running {x b : Nat} {c : Copy}
    (hf : s.sp.copies.find? (fun c => c.region == x && c.bank == b && c.row.isNone) = some c) (hm : mainStopped s = false)
    (err : ReadErr) : ∃ spent done, exec (.bankCopyEnd x b err) s = .next (reportRepair (c.spare = 1) spent done
      (bankMapped x b c (bankCut x b (copyMeets (err.within (fun a => spRegion a == x && spBank a == b)) s)))) := by
  have hr := copyReads_running hf hm (err.within (fun a => spRegion a == x && spBank a == b))
  have hk := copyMeets_onlyMarks (err.within (fun a => spRegion a == x && spBank a == b)) s
  generalize copyMeets (err.within (fun a => spRegion a == x && spBank a == b)) s = m at hr hk ⊢
  have hm' : mainStopped m = false := by rw [hk]; exact hm
  have hf' : m.sp.copies.find? (fun c => c.region == x && c.bank == b && c.row.isNone) = some c := by rw [hk]; exact hf
  refine ⟨x + 8 + 32 * b, x + 8 * b + 2 ^ 17, ?_⟩
  simp only [exec, execBankCopyEnd, hr, hm', hf', Bool.false_eq_true, if_false]
  cases hrun : m.crs.run with
  | none => rw [bankCut, hrun]; rfl
  | some r => rw [bankCut, hrun]; rfl

theorem bankCopyEnd_idle {x b : Nat} (h : mainStopped s = true ∨
    s.sp.copies.find? (fun c => c.region == x && c.bank == b && c.row.isNone) = none) (err : ReadErr) :
    exec (.bankCopyEnd x b err) s = .next s := by
  have hr := copyReads_idle h (err.within (fun a => spRegion a == x && spBank a == b))
  simp only [exec, execBankCopyEnd, hr]
  rcases h with h | h
  · rw [if_pos h]
  · simp only [h, ite_self]

theorem bankCut_frame (x b : Nat) (s : State) :
    bankCut x b s = { s with free := (bankCut x b s).free, sp := { s.sp with clean := (bankCut x b s).sp.clean } } := by
  unfold bankCut
  split <;> rfl

/-- Outside a crossing's end a copy that ends has reached every line. -/
theorem bankCut_of_open (h : ∀ r, s.crs.run = some r → r.landing ≠ 0xFFFF) (x b : Nat) : bankCut x b s = s := by
  refine if_neg ?_
  simpa [Option.any_eq_true] using h

theorem lineMarked_bankCut_of_marked {x b k : Nat} (h : lineMarked s k = true) : lineMarked (bankCut x b s) k = true := by
  unfold bankCut
  split
  · rw [lineMarked_markUncopied, h, Bool.true_or]
  · exact h

theorem lineMarked_bankCut_outside {x b k : Nat} (h : inBank x b k = false) : lineMarked (bankCut x b s) k = lineMarked s k := by
  unfold bankCut
  split
  · rw [lineMarked_markUncopied, h, Bool.false_and, Bool.or_false]
  · rfl

/-- Settles O40: the reads mark what they lose, the mapping names the spare, and the report is the two events. -/
theorem copiesEndInTheRepairTable : Obligations.CopiesEndInTheRepairTable := by
  unfold Obligations.CopiesEndInTheRepairTable
  refine ⟨fun s x b w c err hf hm => ?_, fun s x b c err hf hm => ?_, fun s x b w err => ⟨fun h => rowCopyEnd_idle h err,
    fun h => bankCopyEnd_idle h err⟩, fun _ _ => rfl⟩
  · obtain ⟨spent, done, hx⟩ := rowCopyEnd_running hf hm err
    have hreads := copyMeets_onlyMarks (err.within (fun a => rowOf a == rowKey x b w)) s
    have hlost := lineMarked_copyMeets (fun a => rowOf a == rowKey x b w) err s
    have hkept := fun k h => lineMarked_copyMeets_of_kept (p := fun a => rowOf a == rowKey x b w) (err := err) (k := k) h s
    generalize copyMeets (err.within (fun a => rowOf a == rowKey x b w)) s = m at hx hreads hlost hkept
    have hpend := reportRepair_pending (s := rowMapped x b w c m)
      ((congrArg (·.pwr.mainDown) hreads).trans (mainDown_of_running hm)) (c.spare = 15) spent done
    have hev := reportRepair_onlyEvents (c.spare = 15) spent done (rowMapped x b w c m)
    generalize reportRepair (c.spare = 15) spent done (rowMapped x b w c m) = t at hx hpend hev
    have hmark : ∀ k, lineMarked t k = lineMarked m k := lineMarked_of_clean (congrArg (·.sp.clean) hev)
    refine ⟨t, hx, ?_, ?_, ?_, sameMemory_of_mem (execRowCopyEnd_quiet x b w err hx).mem, fun a ha hr => ?_, fun k h => ?_, ?_, ?_, ?_⟩
    · rw [hev, hreads]; rfl
    · rw [hev]
      intro k hk
      simpa [imp_iff_not_or, or_assoc] using (List.mem_filter.1 hk).2
    · rw [hpend, hreads]; rfl
    · rw [hmark]
      exact (hlost _).2 (.inl ⟨a, ha, beq_iff_eq.2 hr, rfl⟩)
    · rw [hmark]
      exact hkept k fun a ha hr => h a ha (beq_iff_eq.1 hr)
    · rw [hev, hreads]; rfl
    · rw [hev, hreads]; rfl
    · rw [hev, hreads]; rfl
  · obtain ⟨spent, done, hx⟩ := bankCopyEnd_running hf hm err
    have hreads := copyMeets_onlyMarks (err.within (fun a => spRegion a == x && spBank a == b)) s
    have hlost := lineMarked_copyMeets (fun a => spRegion a == x && spBank a == b) err s
    have hkept := fun k h => lineMarked_copyMeets_of_kept (p := fun a => spRegion a == x && spBank a == b) (err := err) (k := k) h s
    generalize copyMeets (err.within (fun a => spRegion a == x && spBank a == b)) s = m at hx hreads hlost hkept
    have hcut := bankCut_frame x b m
    have hpend := reportRepair_pending (s := bankMapped x b c (bankCut x b m)) ((congrArg (·.pwr.mainDown) hcut).trans
      ((congrArg (·.pwr.mainDown) hreads).trans (mainDown_of_running hm))) (c.spare = 1) spent done
    have hev := reportRepair_onlyEvents (c.spare = 1) spent done (bankMapped x b c (bankCut x b m))
    generalize reportRepair (c.spare = 1) spent done (bankMapped x b c (bankCut x b m)) = t at hx hpend hev
    have hmark : ∀ k, lineMarked t k = lineMarked (bankCut x b m) k := lineMarked_of_clean (congrArg (·.sp.clean) hev)
    have hcrs : m.crs = s.crs := congrArg (·.crs) hreads
    have hrep : (bankCut x b m).keep = s.keep := (congrArg (·.keep) hcut).trans (congrArg (·.keep) hreads)
    refine ⟨t, hx, ?_, ?_, ?_, ?_, ?_, sameMemory_of_mem (execBankCopyEnd_quiet x b err hx).mem, fun a ha hr hb => ?_, fun ho k h => ?_,
      fun k h => ?_, fun k hb h => ?_, ?_, ?_, ?_⟩
    · rw [hev, ← hrep]; rfl
    · rw [hev, ← hrep]; rfl
    · rw [hev, ← hrep]; rfl
    · rw [hev]
      intro k hk
      simpa [imp_iff_not_or] using (List.mem_filter.1 hk).2
    · rw [hpend, ← congrArg (·.evt) hreads, ← congrArg (·.evt) hcut]; rfl
    · rw [hmark]
      exact lineMarked_bankCut_of_marked ((hlost _).2 (.inl ⟨a, ha, by simp [hr, hb], rfl⟩))
    · rw [hmark, bankCut_of_open (by rwa [hcrs])]
      exact hkept k fun a ha hp => by
        obtain ⟨hr, hb⟩ := Bool.and_eq_true_iff.1 hp
        exact h a ha (beq_iff_eq.1 hr) (beq_iff_eq.1 hb)
    · rw [hmark]
      exact lineMarked_bankCut_of_marked ((hlost k).2 (.inr h))
    · rw [hmark, lineMarked_bankCut_outside hb]
      exact hkept k fun a ha _ => h a ha
    · rw [hev, ← congrArg (·.cq) hreads, ← congrArg (·.cq) hcut]; rfl
    · rw [hev, ← congrArg (·.crs) hreads, ← congrArg (·.crs) hcut]; rfl
    · rw [hev, ← congrArg (·.man) hreads, ← congrArg (·.man) hcut]; rfl

end Sys2Proof.Machine
end

section
/-! SUPPORT. The partner mirror: what a message sent leaves last in the queue, the marks of the reads of a snapshot, and what becomes of a
partner's snapshot and of RESTORE_REQ by their tags (R312, R332, R336, R339 to R342). -/

namespace Sys2Proof.Machine

variable {s t : State}

/-! ## Sending (R323, R291) -/

/-- The last message keeps its place, and of its bursts some have been sent. -/
theorem pumpTx_getLast (x : TxMsg) (xs : List TxMsg) (free : Nat) :
    ∃ k, (pumpTx free (xs ++ [x])).getLast? = some { x with left := x.left - min k x.left, out := x.out + min k x.left } := by
  induction xs generalizing free with
  | nil => exact ⟨free, rfl⟩
  | cons y ys ih =>
    obtain ⟨k, hk⟩ := ih (free - min free y.left)
    exact ⟨k, by rw [List.cons_append, pumpTx, List.getLast?_cons, hk, Option.getD_some]⟩

/-- A message sent stands last in the queue, with its bursts sent or still to send. -/
theorem sendMsg_last (m : TowMsg) (o : Option (Nat × Nat × Nat)) (r : Bool) (s : State) :
    ∃ x, (sendMsg m o r s).tow.tx.getLast? = some x ∧ x.id = s.tow.nextId ∧ x.relay = r ∧ x.msg = m ∧
      x.left + x.out = towBursts m ∧ x.waiting = 0 := by
  obtain ⟨k, hk⟩ := pumpTx_getLast ⟨s.tow.nextId, towBursts m, 0, 0, o, m, r⟩ s.tow.tx
    (512 - remoteOut { s with tow := { s.tow with
      tx := s.tow.tx ++ [⟨s.tow.nextId, towBursts m, 0, 0, o, m, r⟩], nextId := s.tow.nextId + 1 } })
  refine ⟨_, hk, rfl, rfl, rfl, ?_, rfl⟩
  show towBursts m - min k (towBursts m) + (0 + min k (towBursts m)) = towBursts m
  omega

/-- A message sent leaves the REMOTE tags within their 512. -/
theorem sendMsg_remoteOut (h : remoteOut s ≤ 512) (m : TowMsg) (o : Option (Nat × Nat × Nat)) (r : Bool) :
    remoteOut (sendMsg m o r s) ≤ 512 := by
  have hq : remoteOut { s with tow := { s.tow with
      tx := s.tow.tx ++ [⟨s.tow.nextId, towBursts m, 0, 0, o, m, r⟩], nextId := s.tow.nextId + 1 } } = remoteOut s := by
    simp [remoteOut]
  rw [sendMsg, remoteOut_pump, hq]
  omega

/-! ## Reads of the scratchpad (R311, R312) -/

theorem replaceBank_clean (r b w n : Nat) (s : State) : (replaceBank r b w n s).sp.clean = s.sp.clean := by
  unfold replaceBank
  extract_lets used _ start s1
  have hstart : ∀ k, (start k).sp.clean = s.sp.clean := fun _ => rfl
  split
  · exact hstart 0
  · split
    · exact hstart 1
    · split
      · rfl
      · rw [raise_sp]; rfl

/-- A row that fails changes no mark. -/
theorem rowFail_clean (r b w : Nat) (s : State) : (rowFail r b w s).sp.clean = s.sp.clean := by
  unfold rowFail
  extract_lets phys mine _ s1 n used _ s2
  have h1 : s1.sp.clean = s.sp.clean := by
    unfold s1
    split <;> rfl
  have h2 : s2.sp.clean = s.sp.clean := by
    unfold s2
    split
    · exact h1
    · split
      · exact h1
      · split
        · exact (replaceBank_clean ..).trans h1
        · exact h1
  split
  · split
    · rwa [raise_sp]
    · exact h2
  · exact h2

theorem correctWord_clean (a : Nat) (s : State) : (correctWord a s).sp.clean = s.sp.clean := by
  unfold correctWord
  extract_lets s1
  split
  · rfl
  · split
    · rfl
    · rw [rowFail_clean]; rfl

/-- Reads mark the lines that they lose, and clear no mark. -/
theorem lineMarked_readMeets (err : ReadErr) (s : State) (k : Nat) :
    lineMarked (readMeets err s) k = true ↔ k ∈ err.lost.map (· / 64) ∨ lineMarked s k = true := by
  have hwords : (err.corrected.foldl (fun t a => correctWord a t) s).sp.clean = s.sp.clean :=
    List.foldlRecOn _ _ (motive := fun t : State => t.sp.clean = s.sp.clean) rfl fun _ h _ _ => (correctWord_clean ..).trans h
  rw [readMeets, ← lineMarked_of_clean hwords]
  generalize err.corrected.foldl (fun t a => correctWord a t) s = u
  induction err.lost generalizing u with
  | nil => simp
  | cons a as ih =>
    refine (ih (loseLine a u)).trans ?_
    rw [loseLine, lineMarked_of_clean (rowFail_clean ..), lineMarked_setMark, List.map_cons, List.mem_cons,
      Bool.or_eq_true, decide_eq_true_iff]
    tauto

/-! ## MIRROR_SNAPSHOT_READ_END (R339, R340) -/

/-- A line of a snapshot, marked where its read lost it. -/
def markLost (bad : List Nat) (n : Snapshot) : Snapshot :=
  { n with range := n.range.map (fun l => { l with mark := l.mark || bad.contains (l.addr / 64) }) }

theorem snapBytes_markLost (bad : List Nat) (n : Snapshot) : snapBytes (markLost bad n) = snapBytes n := by
  simp [snapBytes, markLost]

/-- What the read of a snapshot meets lies in its range. -/
def snapReads (n : Snapshot) (err : ReadErr) : ReadErr := err.within (fun a => n.range.any (fun x => x.addr / 64 == a / 64))

theorem mirrorSnapshotReadEnd_reading {n : Snapshot} (hm : mainStopped s = false) (hr : s.tow.reading = some n) (err : ReadErr) :
    exec (.mirrorSnapshotReadEnd err) s = .next (sendMsg
      (partnerMsg s n.tag n.crossing n.landing 5 (some (markLost ((snapReads n err).lost.map (· / 64)) n))) none false
      { readMeets (snapReads n err) s with tow := { s.tow with reading := none } }) := by
  rw [← (readMeets_near (snapReads n err) s).tow]
  simp only [exec, execMirrorSnapshotReadEnd, hm, hr, Bool.false_eq_true, if_false]
  rfl

theorem mirrorSnapshotReadEnd_idle (h : mainStopped s = true ∨ s.tow.reading = none) (err : ReadErr) :
    exec (.mirrorSnapshotReadEnd err) s = .next s := by
  simp only [exec, execMirrorSnapshotReadEnd]
  rcases h with h | h
  · rw [if_pos h]
  · simp only [h, ite_self]

/-! ## The snapshot that is arriving (R341) -/

/-- The bursts in the buffer of the snapshot that is arriving. -/
def arrivingParts (s : State) : Nat := match s.tow.rxHead with | some r => r.parts | none => 0

theorem dropArriving_eq (s : State) :
    dropArriving s = { s with tow := { s.tow with rxPartial := s.tow.rxPartial - arrivingParts s, rxHead := none } } := by
  cases h : s.tow.rxHead with
  | none =>
    simp only [dropArriving, arrivingParts, h, Nat.sub_zero]
    rw [← h]
  | some r => simp only [dropArriving, arrivingParts, h, rxWhole]

theorem tagCheck_dropArriving (tag c l : Nat) (s : State) : tagCheck (dropArriving s) tag c l = tagCheck s tag c l := by
  rw [dropArriving_eq]
  rfl

theorem headNow_came {n : Snapshot} {r : RxSnap} (h : s.tow.rxHead = some r) (hr : r.head = n.head) : headNow n s = s := by
  simp only [headNow, h, if_pos hr]

theorem headNow_alone {n : Snapshot} (h : ∀ r, s.tow.rxHead = some r → r.head ≠ n.head) :
    headNow n s = receiveHead n.head (dropArriving s) := by
  cases hx : s.tow.rxHead with
  | none => simp only [headNow, dropArriving, hx]
  | some r => simp only [headNow, hx, if_neg (h r hx)]

theorem receiveSnapshot_settles {n : Snapshot} {r : RxSnap} (h : (headNow n s).tow.rxHead = some r) :
    receiveSnapshot n s = settleSnapshot n r (headNow n s) := by
  simp only [receiveSnapshot, h]

theorem receiveHead_through {h : SnapHead} (hc : tagCheck s h.tag h.crossing h.landing = .go ∨ tagCheck s h.tag h.crossing h.landing = .prior) :
    receiveHead h s = acceptHead h s := by
  rcases hc with hc | hc <;> simp only [receiveHead, hc]

theorem receiveHead_held {h : SnapHead} (hc : tagCheck s h.tag h.crossing h.landing = .hold) :
    receiveHead h s = { s with tow := { s.tow with rxHead := some ⟨h, .hold, 0⟩ } } := by
  simp only [receiveHead, hc]

theorem receiveHead_refused {h : SnapHead} (hc : tagCheck s h.tag h.crossing h.landing = .refuse) : receiveHead h s = refuseHead h s := by
  simp only [receiveHead, hc]

/-- What handling a partner's snapshot may change: the towline unit, the digests compared and the events. -/
def OnlyMirror (s t : State) : Prop := t = { s with tow := t.tow, dgst := t.dgst, evt := t.evt }

theorem OnlyMirror.trans {u : State} (h : OnlyMirror s t) (k : OnlyMirror t u) : OnlyMirror s u := by
  unfold OnlyMirror at *
  rw [k, h]

theorem OnlyMirror.after {u : State} (k : OnlyMirror t u) (h : OnlyMirror s t) : OnlyMirror s u := h.trans k

theorem OnlyEvents.onlyMirror (h : OnlyEvents s t) : OnlyMirror s t := by
  unfold OnlyMirror
  rw [h]

/-- A comparison leaves the snapshot that is arriving where it is. -/
theorem comparePartner_onlyMirror (n : SnapHead) (s : State) :
    OnlyMirror s (comparePartner n s) ∧ (comparePartner n s).tow.rxHead = s.tow.rxHead := by
  unfold comparePartner
  dsimp only
  split
  · exact ⟨rfl, rfl⟩
  · exact iteInduction (motive := fun t => OnlyMirror s t ∧ t.tow.rxHead = s.tow.rxHead) (fun _ => ⟨rfl, rfl⟩)
      fun _ => ⟨(raise_onlyEvents ..).onlyMirror.after rfl, by rw [mismatchDigest, raise_tow]⟩

/-- A header of the crossing in progress or of one beside it goes to PENDING (Table 2-6). -/
theorem acceptHead_near {h : SnapHead} (hn : h.crossing ≤ s.crs.crossing + 1 ∧ s.crs.crossing ≤ h.crossing + 1) :
    OnlyMirror s (acceptHead h s) ∧ (acceptHead h s).tow.rxHead = some ⟨h, .take, 0⟩ := by
  unfold acceptHead
  extract_lets d _ take
  have htake : OnlyMirror s take := rfl
  split
  · obtain ⟨hm, hx⟩ := comparePartner_onlyMirror h take
    exact ⟨htake.trans hm, hx⟩
  · have hd : d = 1 := by
      simp only [d, crossingDiff] at *
      omega
    rw [if_pos hd]
    exact ⟨rfl, rfl⟩

theorem acceptHead_far {h : SnapHead} (hn : ¬(h.crossing ≤ s.crs.crossing + 1 ∧ s.crs.crossing ≤ h.crossing + 1)) :
    acceptHead h s = refuseHead h s := by
  unfold acceptHead
  extract_lets d _ take
  rw [if_neg, if_neg] <;> simp only [d, crossingDiff] <;> omega

/-- A whole snapshot is in PENDING, or in COMMITTED where LDG_COMMITTED has reached its landing already. -/
theorem storePending_spec (n : Snapshot) (s : State) : OnlyMirror s (storePending n s) ∧ (storePending n s).tow.rxHead = none ∧
    ((storePending n s).tow.slotPending = some n ∨ ((storePending n s).tow.slotCommitted = some n ∧ (storePending n s).tow.slotPending = none)) := by
  simp only [storePending, promotePartner]
  split
  · exact ⟨rfl, rfl, .inr ⟨rfl, rfl⟩⟩
  · exact ⟨rfl, rfl, .inl rfl⟩

/-! ## MIRROR_RECEIVED (R341) -/

theorem mirrorReceived_taken {n : Snapshot} (hm : mainStopped s = false) (hd : s.pwr.draining = none) :
    exec (.mirrorReceived n) s = .next (receiveSnapshot n s) :=
  congrArg Host.Outcome.next (if_neg (by simp [hm, hd]))

theorem mirrorReceived_discarded (h : mainStopped s = true ∨ s.pwr.draining ≠ none) (n : Snapshot) :
    exec (.mirrorReceived n) s = .next s :=
  congrArg Host.Outcome.next (if_pos (h.imp_right Option.isSome_iff_ne_none.2))

/-- A header let through, when it came or now, has its snapshot go to PENDING. -/
theorem headNow_through {n : Snapshot} (h : (∃ r, s.tow.rxHead = some r ∧ r.head = n.head ∧ r.fate = .take) ∨
    ((∀ r, s.tow.rxHead = some r → r.head ≠ n.head) ∧
      (tagCheck s n.tag n.crossing n.landing = .go ∨ tagCheck s n.tag n.crossing n.landing = .prior) ∧
      n.crossing ≤ s.crs.crossing + 1 ∧ s.crs.crossing ≤ n.crossing + 1)) :
    ∃ r, (headNow n s).tow.rxHead = some r ∧ r.fate = .take ∧ OnlyMirror s (headNow n s) := by
  rcases h with ⟨r, hr, hn, hf⟩ | ⟨ha, hc, hn⟩
  · rw [headNow_came hr hn]
    exact ⟨r, hr, hf, rfl⟩
  · obtain ⟨hm, hx⟩ := acceptHead_near (h := n.head) (s := dropArriving s) (by rw [dropArriving_eq]; exact hn)
    rw [headNow_alone ha, receiveHead_through (by rwa [tagCheck_dropArriving])]
    exact ⟨_, hx, rfl, OnlyMirror.trans (by rw [dropArriving_eq]; rfl) hm⟩

/-- A snapshot whose header was let through is stored. -/
theorem receiveSnapshot_stored {n : Snapshot} {r : RxSnap} (hx : (headNow n s).tow.rxHead = some r) (hr : r.fate = .take) :
    receiveSnapshot n s = storePending n (headNow n s) := by
  simp only [receiveSnapshot_settles hx, settleSnapshot, hr]

/-- A snapshot whose header came before and holds it is held. -/
theorem receiveSnapshot_came_held {n : Snapshot} {r : RxSnap} (h : s.tow.rxHead = some r) (hr : r.head = n.head) (hf : r.fate = .hold) :
    receiveSnapshot n s = { s with tow := { s.tow with
      rxPartial := s.tow.rxPartial - arrivingParts s, rxHead := none, heldSnaps := s.tow.heldSnaps ++ [n] } } := by
  have hn := headNow_came h hr
  rw [receiveSnapshot_settles (hn.symm ▸ h), hn]
  simp only [settleSnapshot, hf, dropArriving_eq]

/-- A snapshot whose header came before and was refused leaves the buffer. -/
theorem receiveSnapshot_came_dropped {n : Snapshot} {r : RxSnap} (h : s.tow.rxHead = some r) (hr : r.head = n.head) (hf : r.fate = .drop) :
    receiveSnapshot n s = dropArriving s := by
  have hn := headNow_came h hr
  rw [receiveSnapshot_settles (hn.symm ▸ h), hn]
  simp only [settleSnapshot, hf]

/-- A snapshot whose header is handled now, of the staged tag, is held. -/
theorem receiveSnapshot_alone_held {n : Snapshot} (h : ∀ r, s.tow.rxHead = some r → r.head ≠ n.head)
    (hc : tagCheck s n.tag n.crossing n.landing = .hold) :
    receiveSnapshot n s = { s with tow := { s.tow with
      rxPartial := s.tow.rxPartial - arrivingParts s, rxHead := none, heldSnaps := s.tow.heldSnaps ++ [n] } } := by
  have hn := (headNow_alone h).trans (receiveHead_held (h := n.head) ((tagCheck_dropArriving ..).trans hc))
  rw [receiveSnapshot_settles (r := ⟨n.head, .hold, 0⟩) (by rw [hn]), hn]
  simp only [settleSnapshot, dropArriving_eq]
  rfl

/-- A snapshot whose header is refused now is discarded, with one MISMATCH. -/
theorem receiveSnapshot_alone_refused {n : Snapshot} (h : ∀ r, s.tow.rxHead = some r → r.head ≠ n.head)
    (hx : receiveHead n.head (dropArriving s) = refuseHead n.head (dropArriving s)) :
    receiveSnapshot n s = { dropArriving s with evt := (refuseHead n.head (dropArriving s)).evt } := by
  have hn := (headNow_alone h).trans hx
  have hev : OnlyEvents _ (refuseHead n.head (dropArriving s)) := raise_onlyEvents ..
  have hhead : (refuseHead n.head (dropArriving s)).tow.rxHead = some ⟨n.head, .drop, 0⟩ := by rw [refuseHead, refusePartner, raise_tow]
  rw [receiveSnapshot_settles (r := ⟨n.head, .drop, 0⟩) (by rw [hn, hhead]), hn]
  generalize refuseHead n.head (dropArriving s) = u at hev
  simp only [settleSnapshot]
  rw [dropArriving_eq u, hev, dropArriving_eq s]
  rfl

/-! ## RESTORE_REQ (R332, R342) -/

/-- The message of a RESTORE_REQ of the partner. -/
def restoreReqMsg (tag c l : Nat) (s : State) : TowMsg :=
  { partnerMsg s tag c l 6 none with source := partnerPlace s, dest := ownPlace s, place := some (c, l) }

theorem restoreReq_taken (hm : mainStopped s = false) (hd : s.pwr.draining = none) (tag c l : Nat) :
    exec (.restoreReq tag c l) s = .next (receiveReq (restoreReqMsg tag c l s) (rxWhole 1 s)) :=
  congrArg Host.Outcome.next (if_neg (by simp [hm, hd]))

theorem restoreReq_discarded (h : mainStopped s = true ∨ s.pwr.draining ≠ none) (tag c l : Nat) :
    exec (.restoreReq tag c l) s = .next s :=
  congrArg Host.Outcome.next (if_pos (h.imp_right Option.isSome_iff_ne_none.2))

/-- The answer to a RESTORE_REQ: with the COMMITTED slot where it is of the landing asked for, and with the slot's place. -/
def restoreAnswer (c l : Nat) (s : State) : TowMsg :=
  { partnerMsg s (activeTag s) s.crs.crossing l 7 (s.tow.slotCommitted.filter (fun n => n.crossing == c && n.landing == l)) with
    place := s.tow.slotCommitted.map (fun n => (n.crossing, n.landing)) }

theorem receiveReq_go {tag c l : Nat} (h : tagCheck s tag c l = .go) :
    receiveReq (restoreReqMsg tag c l s) (rxWhole 1 s) = sendMsg (restoreAnswer c l (rxWhole 1 s)) none false (rxWhole 1 s) := by
  have h' : tagCheck (rxWhole 1 s) (restoreReqMsg tag c l s).tag (restoreReqMsg tag c l s).crossing (restoreReqMsg tag c l s).landing = .go := h
  simp only [receiveReq, h']
  rfl

theorem receiveReq_hold {m : TowMsg} (h : tagCheck s m.tag m.crossing m.landing = .hold) :
    receiveReq m s = { s with tow := { s.tow with heldRestore := s.tow.heldRestore ++ [m] } } := by
  simp only [receiveReq, h]

theorem receiveReq_prior {m : TowMsg} (h : tagCheck s m.tag m.crossing m.landing = .prior) : receiveReq m s = s := by
  simp only [receiveReq, h]

theorem receiveReq_refuse {m : TowMsg} (h : tagCheck s m.tag m.crossing m.landing = .refuse) :
    receiveReq m s = refuseRestore m s := by
  simp only [receiveReq, h]

/-- The answer's bursts: those of the slot's snapshot with its header, or one. -/
theorem towBursts_answer {m : TowMsg} (hk : m.kind = 7) (hp : m.payload = []) :
    towBursts m = (match m.snap with
      | some n => ceilDiv (snapBytes n + 64) 512
      | none => 1) := by
  unfold towBursts msgBytes burstsOf
  cases m.snap with
  | some n =>
    show ceilDiv (snapBytes n + if m.kind = 5 then 0 else 64) 512 = ceilDiv (snapBytes n + 64) 512
    rw [if_neg (by rw [hk]; decide)]
  | none =>
    show ceilDiv (64 + m.payload.length) 512 = 1
    rw [hp]; rfl

/-- Settles O49: a message sent stands last in the queue; a snapshot goes the way that its header was let through, held or refused; and
RESTORE_REQ the way of its tag. -/
theorem snapshotsAreExchanged : Obligations.SnapshotsAreExchanged := by
  unfold Obligations.SnapshotsAreExchanged
  refine ⟨fun s n err hm hr => ?_, fun s err h => mirrorSnapshotReadEnd_idle h err, fun s n hm hd => ?_,
    fun s n tag c l h => ⟨mirrorReceived_discarded h n, restoreReq_discarded h tag c l⟩, fun s tag c l hm hd => ?_⟩
  · intro bad
    have hx := mirrorSnapshotReadEnd_reading hm hr err
    have hnear := readMeets_near (snapReads n err) s
    obtain ⟨x, hlast, hid, hrelay, hmsg, hbursts, hwait⟩ := sendMsg_last
      (partnerMsg s n.tag n.crossing n.landing 5 (some (markLost bad n))) none false
      { readMeets (snapReads n err) s with tow := { s.tow with reading := none } }
    refine ⟨_, x, hx, rfl, rfl, hlast, hid, hrelay, ?_, ?_, ?_, ?_, hwait, fun h => sendMsg_remoteOut (by exact h) .., ?_, fun l hl => ?_,
      hnear.cq, hnear.crs, ?_⟩
    · rw [hmsg]; rfl
    · rw [hmsg]; rfl
    · rw [hmsg]; rfl
    · rw [hbursts, ← snapBytes_markLost bad n]; rfl
    · exact sameMemory_of_mem (execMirrorSnapshotReadEnd_quiet err hx).mem
    · exact (lineMarked_readMeets (snapReads n err) s l).2 (.inl hl)
    · rintro rfl
      rfl
  · intro check near came alone parts
    rw [mirrorReceived_taken hm hd]
    refine ⟨fun h => ?_, fun h => ?_, fun h => ?_, fun ha h => ?_⟩
    · obtain ⟨r, hr, hf, hnow⟩ := headNow_through h
      obtain ⟨hstore, hhead, hslot⟩ := storePending_spec n (headNow n s)
      have hmirror := hnow.trans hstore
      rw [receiveSnapshot_stored hr hf]
      exact ⟨_, rfl, hslot, hhead, congrArg (·.keep) hmirror, congrArg (·.crs) hmirror, congrArg (·.cq) hmirror,
        congrArg (·.arr) hmirror, sameMemory_of_mem (congrArg (·.sp.mem) hmirror)⟩
    · rcases h with ⟨r, hr, hn, hf⟩ | ⟨ha, hc⟩
      · exact congrArg Host.Outcome.next (receiveSnapshot_came_held hr hn hf)
      · exact congrArg Host.Outcome.next (receiveSnapshot_alone_held ha hc)
    · obtain ⟨r, hr, hn, hf⟩ := h
      exact congrArg Host.Outcome.next ((receiveSnapshot_came_dropped hr hn hf).trans (dropArriving_eq s))
    · have hrefused : receiveHead n.head (dropArriving s) = refuseHead n.head (dropArriving s) := by
        rcases h with hc | ⟨hc, hfar⟩
        · exact receiveHead_refused ((tagCheck_dropArriving ..).trans hc)
        · refine (receiveHead_through ?_).trans (acceptHead_far ?_)
          · rwa [tagCheck_dropArriving]
          · rwa [dropArriving_eq]
      refine ⟨_, congrArg Host.Outcome.next (receiveSnapshot_alone_refused ha hrefused), ?_, ?_⟩
      · rw [dropArriving_eq]; rfl
      · rw [dropArriving_eq]
        exact raise_sets_pending (by exact mainDown_of_running hm) ..
  · rw [restoreReq_taken hm hd]
    refine ⟨fun hc => ?_, fun hc => ?_, fun hc => ?_, fun hc => ?_⟩
    · rw [receiveReq_go hc]
      obtain ⟨x, hlast, hid, hrelay, hmsg, hbursts, -⟩ := sendMsg_last (restoreAnswer c l (rxWhole 1 s)) none false (rxWhole 1 s)
      refine ⟨_, x, rfl, rfl, hlast, hid, ?_, ?_, hrelay, ?_, ?_, ?_, ?_⟩
      · rw [hmsg]; rfl
      · rw [hmsg]; rfl
      · rw [hmsg]; rfl
      · rw [hmsg]; rfl
      · rw [hmsg]; rfl
      · rw [hmsg]
        exact hbursts.trans (towBursts_answer rfl rfl)
    · rw [receiveReq_hold (by exact hc)]
      exact ⟨_, _, rfl, rfl, rfl, rfl, rfl, rfl, rfl, rfl, rfl⟩
    · rw [receiveReq_prior (by exact hc)]
    · rw [receiveReq_refuse (by exact hc)]
      exact ⟨_, rfl, raise_onlyEvents .., raise_sets_pending (by exact mainDown_of_running hm) ..⟩

end Sys2Proof.Machine
end

section
/-! SUPPORT. The start-up sequence: the main side up, with the resets that its keep check and a waiting zeroisation make, and what the start-up
self-test repairs, retires and records (R316, R317, R371, R385, R411, R419). -/

namespace Sys2Proof.Machine

variable {s t u : State}

/-! ## The Tollhouse (R385, R386) -/

theorem tollError_onlyToll (s : State) : OnlyToll s (tollError s) := OnlyToll.trans (.ite (endCert_onlyToll ..) (.refl s)) rfl

/-- The error state changes the certificate beside it. -/
theorem tollError_toll (s : State) : ∃ c, (tollError s).toll = { s.toll with errorState := true, cert := c } := by
  unfold tollError
  dsimp only
  split <;> exact ⟨_, rfl⟩

theorem tollError_slots (s : State) : (tollError s).toll.slots = s.toll.slots := by
  obtain ⟨c, hc⟩ := tollError_toll s
  rw [hc]

theorem tollError_drbg (s : State) : (tollError s).toll.drbg = s.toll.drbg := by
  obtain ⟨c, hc⟩ := tollError_toll s
  rw [hc]

/-- A seeding leaves the key slots, and its generator has served no request. -/
theorem seedDrbg_effect (fresh : Bool) (s : State) : OnlyToll s (seedDrbg fresh s) ∧ (seedDrbg fresh s).toll.slots = s.toll.slots ∧
    (seedDrbg fresh s).toll.drbg.count = 0 ∧ (seedDrbg fresh s).toll.drbg.seeds = s.toll.drbg.seeds + 1 := by
  unfold seedDrbg
  extract_lets d h d0 seed
  split
  · refine ⟨OnlyToll.trans ?_ (tollError_onlyToll _), tollError_slots _, congrArg (·.count) (tollError_drbg _),
      congrArg (·.seeds) (tollError_drbg _)⟩
    rfl
  · exact ⟨rfl, rfl, rfl, rfl⟩

/-! ## MAIN_SIDE_UP (R402, R411, R419) -/

/-- The main side up, before its generator is seeded. -/
def mainRaised (u : State) : State :=
  { u with pwr := { startStep u.pwr with mainDown := false, zeroisePending := false }, isl := { u.isl with shadow := some u.keep }
           evt := (sortByKey (·.tide) u.evt.kept).foldl logEvent { u.evt with kept := [] } }

/-- The step of PWR_CTL.TARGET is in force where no cap is below it. -/
theorem startStep_uncapped {p : PwrUnit} (h : max p.capTherm p.capVolt ≤ p.target) :
    startStep p = { p with step := p.target, pending := none } := if_pos (Nat.max_eq_left h)

theorem startStep_capped {p : PwrUnit} (h : p.target < max p.capTherm p.capVolt) : startStep p = p :=
  if_neg (by rw [effectiveStep, Nat.max_eq_right h.le]; exact h.ne')

theorem startStep_frame (p : PwrUnit) : startStep p = { p with step := (startStep p).step, pending := (startStep p).pending } := by
  unfold startStep
  split <;> rfl

/-- A keep check that finds a loss and the latch that holds one lose the same. -/
theorem coldReset_of_lost {bad : Bool} (h : bad = true ∨ s.pwr.latch = true) : coldReset bad s = coldReset true s := by
  have hlost : (bad || s.pwr.latch) = true := by simpa using h
  simp only [coldReset, hlost, Bool.true_or]

/-- The state once the keep check has found keep state kept or lost (R402). -/
def keepChecked (bad : Bool) (s : State) : State :=
  if s.pwr.mainDown = true ∧ (bad = true ∨ s.pwr.latch = true) ∧ ¬s.pwr.keepLost = true then coldReset bad s else s

/-- A zeroisation that waits has its cold reset first (R419). -/
theorem mainSideUp_eq (bad : Bool) (s : State) : exec (.mainSideUp bad) s = .next (
    if (keepChecked bad s).pwr.mainDown then seedDrbg true (mainRaised (
      if (keepChecked bad s).pwr.zeroisePending then coldReset (keepChecked bad s).pwr.keepLost (keepChecked bad s)
      else keepChecked bad s))
    else keepChecked bad s) := rfl

theorem keepChecked_kept {bad : Bool} (h : s.pwr.mainDown = false ∨ s.pwr.keepLost = true ∨ (bad = false ∧ s.pwr.latch = false)) :
    keepChecked bad s = s := by
  refine if_neg ?_
  rcases h with h | h | ⟨hb, hl⟩ <;> simp [*]

theorem keepChecked_lost {bad : Bool} (hd : s.pwr.mainDown = true) (hk : s.pwr.keepLost = false) (h : bad = true ∨ s.pwr.latch = true) :
    keepChecked bad s = coldReset true s :=
  (if_pos ⟨hd, h, Bool.eq_false_iff.1 hk⟩).trans (coldReset_of_lost h)

theorem mainSideUp_intact {bad : Bool} (hd : s.pwr.mainDown = true) (hz : s.pwr.zeroisePending = false)
    (h : s.pwr.keepLost = true ∨ (bad = false ∧ s.pwr.latch = false)) :
    exec (.mainSideUp bad) s = .next (seedDrbg true (mainRaised s)) := by
  rw [mainSideUp_eq, keepChecked_kept (.inr h), if_pos hd, if_neg (Bool.eq_false_iff.1 hz)]

theorem mainSideUp_lost {bad : Bool} (hd : s.pwr.mainDown = true) (hz : s.pwr.zeroisePending = false) (hk : s.pwr.keepLost = false)
    (h : bad = true ∨ s.pwr.latch = true) : exec (.mainSideUp bad) s = .next (seedDrbg true (mainRaised (coldReset true s))) := by
  have hd' : (coldReset true s).pwr.mainDown = true := rfl
  have hz' : (coldReset true s).pwr.zeroisePending = false := hz
  rw [mainSideUp_eq, keepChecked_lost hd hk h, if_pos hd', if_neg (Bool.eq_false_iff.1 hz')]

theorem mainSideUp_zeroised {bad : Bool} (hd : s.pwr.mainDown = true) (hz : s.pwr.zeroisePending = true) (hk : s.pwr.keepLost = false)
    (hb : bad = false) (hl : s.pwr.latch = false) :
    exec (.mainSideUp bad) s = .next (seedDrbg true (mainRaised (coldReset false s))) := by
  rw [mainSideUp_eq, keepChecked_kept (.inr (.inr ⟨hb, hl⟩)), if_pos hd, if_pos hz, hk]

theorem mainSideUp_running {bad : Bool} (hd : s.pwr.mainDown = false) : exec (.mainSideUp bad) s = .next s := by
  rw [mainSideUp_eq, keepChecked_kept (.inl hd), if_neg (Bool.eq_false_iff.1 hd)]

/-! ## The self-test's repairs (R316, R317, R411 step 8) -/

/-- What a start-up repair may change: the keep island and the scratchpad's records. -/
def OnlyRepairs (s t : State) : Prop := t = { s with keep := t.keep, isl := t.isl, sp := t.sp }

theorem OnlyRepairs.refl (s : State) : OnlyRepairs s s := rfl

theorem OnlyRepairs.trans (h : OnlyRepairs s t) (k : OnlyRepairs t u) : OnlyRepairs s u := by
  unfold OnlyRepairs at *
  rw [k, h]

theorem OnlyRepairs.foldOn {α : Type} {f : Raising → α → Raising} (h : ∀ a x, OnlyRepairs a.1 (f a x).1) (xs : List α) (a : Raising) :
    OnlyRepairs a.1 (xs.foldl f a).1 :=
  List.foldlRecOn xs f (motive := fun b => OnlyRepairs a.1 b.1) (.refl a.1) fun b hb x _ => hb.trans (h b x)

theorem startupReplace_onlyRepairs (r b : Nat) (a : Raising) : OnlyRepairs a.1 (startupReplace r b a).1 := by
  unfold startupReplace
  extract_lets s rep
  split
  · rfl
  · split <;> rfl

theorem startupRow_onlyRepairs (a : Raising) (r : Nat × Nat × Nat) : OnlyRepairs a.1 (startupRow a r).1 := by
  unfold startupRow
  extract_lets s n used
  split
  · split <;> rfl
  · split
    · exact startupReplace_onlyRepairs ..
    · split <;> rfl

theorem startupSpare_onlyRepairs (a : Raising) (b : Nat × Nat) : OnlyRepairs a.1 (startupSpare a b).1 := by
  unfold startupSpare
  extract_lets rep
  split <;> rfl

theorem startupBank_onlyRepairs (a : Raising) (b : Nat × Nat) : OnlyRepairs a.1 (startupBank a b).1 := by
  unfold startupBank
  split
  · exact startupReplace_onlyRepairs ..
  · rfl

theorem startupRepair_onlyRepairs (f : SelfTest) (s : State) : OnlyRepairs s (startupRepair f s).1 :=
  (OnlyRepairs.foldOn startupSpare_onlyRepairs f.banks (s, [])).trans
    ((OnlyRepairs.foldOn startupBank_onlyRepairs f.banks _).trans (OnlyRepairs.foldOn startupRow_onlyRepairs f.rows _))

/-- One bank that failed and serves, and no row: the bank is replaced. -/
theorem startupRepair_bank {f : SelfTest} {r b k : Nat} (hr : f.rows = []) (hb : f.banks = [(r, b)]) (hk : bankServed s r b = some k) :
    startupRepair f s = startupReplace r k (s, []) := by
  simp [startupRepair, hr, hb, startupSpare, startupBank, hk]

theorem startupReplace_free {r k sb : Nat} (h : [0, 1].find? (fun x => !((spareBanks s r).contains x)) = some sb) :
    (startupReplace r k (s, [])).1.keep.repair.spares = s.keep.repair.spares.filter (fun x => !(x.1 == r && x.2.2 == k)) ++ [(r, sb, k)] ∧
    (startupReplace r k (s, [])).2 = [(evRepairDone, r + 8 * k + 2 ^ 17)] ++
      (if sb = 1 then [(evSpareExhausted, r + 8 + 32 * k)] else []) := by
  simp only [startupReplace, h]
  exact ⟨rfl, rfl⟩

theorem startupReplace_none {r k : Nat} (h0 : 0 ∈ spareBanks s r) (h1 : 1 ∈ spareBanks s r) (hn : (r, k) ∉ s.sp.noSpare) :
    startupReplace r k (s, []) =
      ({ s with sp := { s.sp with noSpare := s.sp.noSpare ++ [(r, k)] } }, [(evShardMigrate, 1 + 4 * r + 32 * k)]) := by
  have hf : [0, 1].find? (fun x => !((spareBanks s r).contains x)) = none := by simp [h0, h1]
  have hc : s.sp.noSpare.contains (r, k) = false := by simpa using hn
  simp only [startupReplace, hf, hc, Bool.false_eq_true, if_false, List.nil_append]

/-! ## STARTUP_SELF_TEST_END (R411 steps 7 and 8) -/

/-- The events of a list of codes and details, raised in the order of their codes (R430). -/
def raiseAll (xs : List (Nat × Nat)) (s : State) : State := (sortByKey (·.1) xs).foldl (fun t x => raise x.1 none x.2 0 t) s

theorem raiseAll_onlyEvents (xs : List (Nat × Nat)) (s : State) : OnlyEvents s (raiseAll xs s) :=
  List.foldlRecOn _ _ (motive := OnlyEvents s) rfl fun _ h _ _ => h.trans (raise_onlyEvents ..)

/-- The pass bits that the self-test records: bit 8 is 0 once a continuous test has failed (R385). -/
def passBits (f : SelfTest) (s : State) : BitVec 9 := if s.toll.health.failed then f.toll &&& 0xFF#9 else f.toll

/-- The state once rows and banks are repaired and reported. -/
def repaired (f : SelfTest) (s : State) : State := raiseAll (startupRepair f s).2 (startupRepair f s).1

/-- The state once clusters are retired and the pass bits recorded. -/
def selfTested (f : SelfTest) (s : State) : State :=
  let s0 := repaired f s
  let rep := s0.keep.repair
  journal [.repair] { s0.keep with repair := { rep with retired := rep.retired ++ f.clusters.filter (fun c => !rep.retired.contains c) } }
    { s0 with
      ken := { s0.ken with clusters := testedClusters f.clusters s0.ken.clusters, startupPass := true }
      toll := { s0.toll with selftest := passBits f s }
      pwr := { s0.pwr with tested := true } }

/-- A failed test puts the Tollhouse into the error state (R386). -/
def testEnded (f : SelfTest) (s : State) : State :=
  if passBits f s = 0x1FF#9 then selfTested f s else tollError (selfTested f s)

theorem startupSelfTestEnd_runs (hm : mainStopped s = false) (ht : s.pwr.tested = false) (hc : s.crs.moored = true) (f : SelfTest) :
    exec (.startupSelfTestEnd f) s = .next (settle (testEnded f s)) :=
  congrArg Host.Outcome.next (if_neg (by simp [hm, ht, hc]))

theorem startupSelfTestEnd_idle (h : mainStopped s = true ∨ s.pwr.tested = true ∨ s.crs.moored = false) (f : SelfTest) :
    exec (.startupSelfTestEnd f) s = .next s :=
  congrArg Host.Outcome.next (if_pos (by simpa using h))

/-- The last spare bank is reported before the repair. -/
theorem raiseAll_repair (last : Prop) [Decidable last] (spent done : Nat) (s : State) :
    raiseAll ([(evRepairDone, done)] ++ if last then [(evSpareExhausted, spent)] else []) s = reportRepair last spent done s := by
  unfold reportRepair
  split <;> rfl

theorem repaired_frame (f : SelfTest) (s : State) : repaired f s = { s with
    keep := (startupRepair f s).1.keep, isl := (startupRepair f s).1.isl, sp := (startupRepair f s).1.sp, evt := (repaired f s).evt } := by
  have hev := raiseAll_onlyEvents (startupRepair f s).2 (startupRepair f s).1
  have hrep := startupRepair_onlyRepairs f s
  unfold repaired
  generalize raiseAll (startupRepair f s).2 (startupRepair f s).1 = t at hev ⊢
  rw [hev, hrep]

/-- The self-test changes the clusters, the pass bits and that it is over, beside what is repaired and reported. -/
theorem selfTested_frame (f : SelfTest) (s : State) : selfTested f s = { s with
    keep := (selfTested f s).keep, isl := (selfTested f s).isl, sp := (startupRepair f s).1.sp, evt := (repaired f s).evt
    ken := { s.ken with clusters := testedClusters f.clusters s.ken.clusters, startupPass := true }
    toll := { s.toll with selftest := passBits f s }, pwr := { s.pwr with tested := true } } := by
  have h := repaired_frame f s
  unfold selfTested
  generalize repaired f s = t at h ⊢
  rw [h]
  rfl

theorem selfTested_repair (f : SelfTest) (s : State) :
    (selfTested f s).keep.repair.rows = (startupRepair f s).1.keep.repair.rows ∧
    (selfTested f s).keep.repair.spares = (startupRepair f s).1.keep.repair.spares :=
  ⟨congrArg (·.keep.repair.rows) (repaired_frame f s), congrArg (·.keep.repair.spares) (repaired_frame f s)⟩

/-- A failed cluster is RETIRED, and stays so by the repair table (R371). -/
theorem selfTested_retired {f : SelfTest} {c : Nat} (h : f.clusters.contains c = true) (s : State) :
    (selfTested f s).keep.repair.retired.contains c = true := by
  show ((repaired f s).keep.repair.retired ++
    f.clusters.filter (fun c => !(repaired f s).keep.repair.retired.contains c)).contains c = true
  simp only [List.contains_eq_mem, List.mem_append, List.mem_filter, decide_eq_true_eq, Bool.not_eq_true', decide_eq_false_iff_not] at h ⊢
  tauto

theorem testedClusters_failed {failed : List Nat} {cs : List ClusterRec} {c : Nat} (hc : c < cs.length) (hf : failed.contains c = true) :
    ((testedClusters failed cs)[c]?).map (·.st) = some .retired := by
  have hx : cs.zipIdx[c]? = some (cs[c], c) := by simp [hc]
  simp only [testedClusters, List.getElem?_map, hx, Option.map_some, hf, if_true]

theorem testEnded_onlyToll (f : SelfTest) (s : State) : OnlyToll (selfTested f s) (testEnded f s) := .ite (.refl _) (tollError_onlyToll _)

theorem testEnded_toll (f : SelfTest) (s : State) : (testEnded f s).toll.selftest = passBits f s ∧
    (testEnded f s).toll.errorState = (s.toll.errorState || passBits f s != 0x1FF#9) := by
  have htoll : (selfTested f s).toll = { s.toll with selftest := passBits f s } := congrArg (·.toll) (selfTested_frame f s)
  unfold testEnded
  split
  · next hp => simp [htoll, hp]
  · next hp =>
    obtain ⟨c, hc⟩ := tollError_toll (selfTested f s)
    simp [hc, htoll, hp]

/-- Settles O9: the start-up's steps, by what each finds: a keep check or a zeroisation before the main side is up, and the rows, banks and
clusters that failed the self-test. -/
theorem startUpRuns : Obligations.StartUpRuns := by
  unfold Obligations.StartUpRuns
  refine ⟨fun s bad hd => ?_, fun s bad hd => mainSideUp_running hd, fun s => ⟨fun hm => ?_, fun hm => ?_⟩,
    fun s => ⟨fun hf hc hw => ?_, fun h => ?_⟩, fun s f h => startupSelfTestEnd_idle h f, fun s f hm ht hc => ?_⟩
  · intro up
    have hup : ∀ u, up u (seedDrbg true (mainRaised u)) := by
      intro u
      obtain ⟨honly, hslots, hcount, hseeds⟩ := seedDrbg_effect true (mainRaised u)
      generalize seedDrbg true (mainRaised u) = t at honly hslots hcount hseeds ⊢
      have hpwr : t.pwr = { startStep u.pwr with mainDown := false, zeroisePending := false } := congrArg (·.pwr) honly
      refine ⟨?_, fun h => ?_, fun h => ?_, congrArg (·.keep) honly, congrArg (·.isl) honly, hslots, hcount, hseeds,
        congrArg (·.man) honly, congrArg (·.sp) honly, congrArg (·.cq) honly, congrArg (·.evt) honly⟩
      · rw [hpwr]
        unfold startStep
        split <;> rfl
      · rw [hpwr, startStep_uncapped h]
        exact ⟨rfl, rfl⟩
      · rw [hpwr, startStep_capped h]
        exact ⟨rfl, rfl⟩
    have honly := fun u => (seedDrbg_effect true (mainRaised u)).1
    refine ⟨fun hz h => ⟨_, mainSideUp_intact hd hz h, hup s⟩, fun hz hk h => ⟨_, mainSideUp_lost hd hz hk h, hup _, ?_, ?_⟩,
      fun hz hk hb hl => ⟨_, mainSideUp_zeroised hd hz hk hb hl, hup _, ?_⟩⟩
    · exact congrArg (·.keep) (honly (coldReset true s))
    · rw [congrArg (·.pwr.keepLost) (honly (coldReset true s))]
      exact congrArg PwrUnit.keepLost (startStep_frame _)
    · exact congrArg (·.man) (honly (coldReset false s))
  · exact congrArg Host.Outcome.next (if_neg (by simp [hm]))
  · exact congrArg Host.Outcome.next (if_pos hm)
  · exact congrArg Host.Outcome.next (if_pos ⟨mooringOpen_iff.2 ⟨hf, hw⟩, by simp [hc]⟩)
  · refine congrArg Host.Outcome.next (if_neg ?_)
    rw [mooringOpen_iff]
    rcases h with h | h | h <;> simp [h]
  · intro pass
    have hx := startupSelfTestEnd_runs hm ht hc f
    have honly := testEnded_onlyToll f s
    obtain ⟨hpass, herr⟩ := testEnded_toll f s
    have hframe := selfTested_frame f s
    have hrun : s.pwr.mainDown = false := mainDown_of_running hm
    obtain ⟨hrows, hspares⟩ := selfTested_repair f s
    obtain ⟨p, hp, hphase⟩ := settle_eq (testEnded f s)
    have hcrs : (testEnded f s).crs = s.crs := (congrArg (·.crs) honly).trans (congrArg (·.crs) hframe)
    have hpwr : (testEnded f s).pwr = { s.pwr with tested := true } := (congrArg (·.pwr) honly).trans (congrArg (·.pwr) hframe)
    have hkeep : (testEnded f s).keep = (selfTested f s).keep := congrArg (·.keep) honly
    have hsp : (testEnded f s).sp = (startupRepair f s).1.sp := (congrArg (·.sp) honly).trans (congrArg (·.sp) hframe)
    have hevt : (testEnded f s).evt = (repaired f s).evt := (congrArg (·.evt) honly).trans (congrArg (·.evt) hframe)
    have hken : (testEnded f s).ken.clusters = testedClusters f.clusters s.ken.clusters :=
      (congrArg (·.ken.clusters) honly).trans (congrArg (·.ken.clusters) hframe)
    rw [hp] at hx
    refine ⟨_, hx, hpwr, hpass, herr, sameMemory_of_mem (execStartupSelfTestEnd_quiet f hx).mem,
      (congrArg (·.cq) honly).trans (congrArg (·.cq) hframe), (congrArg (·.man) honly).trans (congrArg (·.man) hframe),
      fun hw hn hfirst => ?_, fun hr hb => ?_, fun r b k hr hb hk => ⟨fun sb hfree => ?_, fun h0 h1 hspare => ?_⟩,
      fun c hlt hfailed => ⟨?_, ?_⟩⟩
    · rw [hcrs, hpwr] at hphase
      refine (hphase hc rfl hw hn).trans (if_pos (.inl hfirst))
    · have hnone : startupRepair f s = (s, []) := by simp only [startupRepair, hr, hb, List.foldl_nil]
      have hsame : repaired f s = s := by rw [repaired, hnone]; rfl
      rw [hnone] at hsp hrows hspares
      rw [hsame] at hevt
      exact ⟨hsp, hevt, (congrArg (·.repair.rows) hkeep).trans hrows, (congrArg (·.repair.spares) hkeep).trans hspares⟩
    · obtain ⟨hput, hevents⟩ := startupReplace_free (k := k) hfree
      have hrep := startupReplace_onlyRepairs r k (s, [])
      rw [← startupRepair_bank hr hb hk] at hput hevents hrep
      refine ⟨(congrArg (·.repair.spares) hkeep).trans (hspares.trans hput), (congrArg (·.pending) hevt).trans ?_⟩
      rw [repaired, hevents, raiseAll_repair, reportRepair_pending ((congrArg (·.pwr.mainDown) hrep).trans hrun),
        congrArg (·.evt) hrep]
    · have hmigrate := (startupRepair_bank hr hb hk).trans (startupReplace_none h0 h1 hspare)
      rw [hmigrate] at hsp hspares
      refine ⟨(congrArg (·.repair.spares) hkeep).trans hspares, ?_, (congrArg (·.pending) hevt).trans ?_⟩
      · exact (congrArg (·.noSpare) hsp) ▸ List.mem_append_right _ (List.mem_singleton.2 rfl)
      · rw [repaired, hmigrate]
        exact raise_sets_pending (by exact hrun) ..
    · exact (congrArg (fun cs => (cs[c]?).map (·.st)) hken).trans (testedClusters_failed hlt hfailed)
    · exact (congrArg (·.repair.retired.contains c) hkeep).trans (selfTested_retired hfailed s)

end Sys2Proof.Machine
end

section
/-! SUPPORT. A restore that the statement about the scratchpad's quiet commands counts among them: its list of the rows that may write the
scratchpad names RESTORE_DATA without a place alone (the place is log entry 171's, beside the header), so an answer that holds the COMMITTED
slot, which always has one, is on the quiet side of it, and writes the lines of its snapshot (R342). -/

namespace Sys2Proof.Machine

/-- A partner's snapshot of landing 2 of crossing 5, under tag 7, with one byte of its range at address 64. -/
def oneLineSnap : Snapshot := { (default : Snapshot) with tag := 7, crossing := 5, landing := 2, range := [⟨64, [1], false⟩] }

/-- An idle engine of crossing 5 under a manifest of tag 7, whose last committed landing is 2, with a restore running. -/
def restoreRunning : State :=
  { State.reset with
      man := { ManUnit.cold with active := some { (default : Manifest) with tag := 7 } }
      crs := { CrsUnit.cold with crossing := 5, landing := 2, moored := true, phase := .inSegment, firstOpen := false }
      keep := { State.reset.keep with committed := (5, 2) }
      pwr := { PwrUnit.cold with mainDown := false, keepLost := false, fabReady := true, tested := true }
      tow := { TowUnit.cold 0 with restore := 1 } }

/-- The answer with that snapshot in the slot, as RESTORE_REQ is answered (R342). -/
def slotAnswer : Instr := .restoreData (some oneLineSnap) 7 5 (some (5, 2))

/-- The answer is taken, and the byte of the snapshot stands in the scratchpad. -/
theorem byteAfter_slotAnswer : byteAfter 64 (exec slotAnswer restoreRunning) = some 1 ∧ spByte restoreRunning 64 = 0 := by
  decide +kernel

/-- Refutes O60: an answer that holds the slot and its place is not among the rows excepted, and in `restoreRunning` it writes the byte at
address 64. -/
theorem not_quietCommandsKeepScratchpad : ¬ Obligations.QuietCommandsKeepScratchpad := by
  unfold Obligations.QuietCommandsKeepScratchpad
  intro h
  obtain ⟨t, ht⟩ := exec_next slotAnswer restoreRunning
  obtain ⟨hafter, hbefore⟩ := byteAfter_slotAnswer
  have hsame : spByte t 64 = spByte restoreRunning 64 := h slotAnswer restoreRunning t rfl ht 64
  rw [ht, byteAfter, hsame, hbefore] at hafter
  exact absurd hafter (by decide)

end Sys2Proof.Machine
end

section
/-! SUPPORT. Bursts of the towline: what one that arrives finds in the receive buffer, what becomes of a partner's header, and what an
acknowledgement, a refusal and a resend do to the queue of the messages sent (R323, R333, R340, R341, R374). -/

namespace Sys2Proof.Machine

variable {s t : State}

/-! ## A burst that arrives (R323, R333) -/

theorem towBurstReceived_part (hm : mainStopped s = false) (hd : s.pwr.draining = none) :
    exec (.towBurstReceived .part) s =
      .next (if 1024 ≤ rxUsed s then s else { s with tow := { s.tow with rxPartial := s.tow.rxPartial + 1 } }) :=
  congrArg Host.Outcome.next (if_neg (by simp [hm, hd]))

theorem towBurstReceived_mirrorPart (hm : mainStopped s = false) (hd : s.pwr.draining = none) :
    exec (.towBurstReceived .mirrorPart) s = .next (partBurst s) :=
  congrArg Host.Outcome.next (if_neg (by simp [hm, hd]))

theorem towBurstReceived_mirrorHead (hm : mainStopped s = false) (hd : s.pwr.draining = none) (h : SnapHead) :
    exec (.towBurstReceived (.mirrorHead h)) s = .next (headBurst h s) :=
  congrArg Host.Outcome.next (if_neg (by simp [hm, hd]))

theorem towBurstReceived_discarded (h : mainStopped s = true ∨ s.pwr.draining ≠ none) (x : Burst) :
    exec (.towBurstReceived x) s = .next s :=
  congrArg Host.Outcome.next (if_pos (h.imp_right Option.isSome_iff_ne_none.2))

/-- Without a snapshot that is arriving a further burst of one is discarded. -/
theorem partBurst_none (h : s.tow.rxHead = none) : partBurst s = s := by
  simp only [partBurst, h]

theorem partBurst_some {r : RxSnap} (h : s.tow.rxHead = some r) : partBurst s = if r.fate ≠ .hold ∨ 1024 ≤ rxUsed s then s
    else { s with tow := { s.tow with rxPartial := s.tow.rxPartial + 1, rxHead := some { r with parts := r.parts + 1 } } } := by
  simp only [partBurst, h]

/-- The first burst of a snapshot that is to be held needs room in the buffer. -/
theorem headBurst_hold {h : SnapHead} (hc : tagCheck s h.tag h.crossing h.landing = .hold) :
    headBurst h s = if 1024 ≤ rxUsed (dropArriving s) then s else { dropArriving s with tow := { (dropArriving s).tow with
      rxPartial := (dropArriving s).tow.rxPartial + 1, rxHead := some ⟨h, .hold, 1⟩ } } :=
  if_pos hc

theorem headBurst_now {h : SnapHead} (hc : tagCheck s h.tag h.crossing h.landing ≠ .hold) :
    headBurst h s = receiveHead h (dropArriving s) :=
  if_neg hc

/-! ## A partner's header (R341, R354) -/

/-- A refused header leaves a MISMATCH, and the snapshot's other bursts are to be discarded. -/
theorem refuseHead_spec (hm : s.pwr.mainDown = false) (h : SnapHead) :
    refuseHead h s = { s with tow := { s.tow with rxHead := some ⟨h, .drop, 0⟩ }, evt := (refuseHead h s).evt } ∧
      (refuseHead h s).evt.pending = s.evt.pending ||| BitVec.ofNat 15 (2 ^ 2) :=
  ⟨raise_onlyEvents .., raise_sets_pending (by exact hm) ..⟩

/-- The state in which a header let through leaves the buffer: its snapshot goes to PENDING, which is empty until it is whole. -/
def headTaken (h : SnapHead) (s : State) : State := { s with tow := { s.tow with rxHead := some ⟨h, .take, 0⟩, slotPending := none } }

/-- The digests of a header of this crossing or the one before are compared now. -/
theorem acceptHead_compared {h : SnapHead} (hx : h.crossing = s.crs.crossing ∨ h.crossing + 1 = s.crs.crossing) :
    acceptHead h s = comparePartner h (headTaken h s) :=
  if_pos (by unfold crossingDiff; omega)

/-- Those of a header of the next crossing wait for its opening. -/
theorem acceptHead_waits {h : SnapHead} (hx : h.crossing = s.crs.crossing + 1) :
    acceptHead h s = { s with tow := { s.tow with
      rxHead := some ⟨h, .take, 0⟩, slotPending := none, waitRecs := s.tow.waitRecs ++ [h] } } :=
  (if_neg (by unfold crossingDiff; omega)).trans (if_pos (by unfold crossingDiff; omega))

/-- A comparison notes what it finds, and changes no more of the towline unit. -/
theorem comparePartner_tow (h : SnapHead) (s : State) :
    (comparePartner h s).tow = { s.tow with partnerRecs := (comparePartner h s).tow.partnerRecs } := by
  unfold comparePartner
  dsimp only
  split
  · rfl
  · exact iteInduction (motive := fun t : State => t.tow = { s.tow with partnerRecs := t.tow.partnerRecs }) (fun _ => rfl)
      fun _ => by rw [mismatchDigest, raise_tow]

theorem recClean_setRec (c l : Nat) (xs : List (Nat × Nat × Bool)) : recClean c l (setRec c l true xs) = true := by
  simp [recClean, setRec]

/-- Records that neither differ nor are INVALID are known as clean, and nothing else changes. -/
theorem comparePartner_clean {h : SnapHead} {r : DigRec} (hr : snapshotRecord s h = some r) (hd : r.differ = false) (hi : r.invalid = false)
    (hx : ∀ x, h.cross = some x → x.differ = false ∧ x.invalid = false) :
    comparePartner h s = { s with tow := { s.tow with partnerRecs := setRec h.crossing h.landing true s.tow.partnerRecs } } := by
  unfold comparePartner
  rw [hr]
  cases hc : h.cross with
  | none => simp [hd, hi]
  | some x => simp [hd, hi, hx x hc]

/-- A record that differs or is INVALID is noted with a MISMATCH. -/
theorem comparePartner_differs {h : SnapHead} {r : DigRec} (hm : s.pwr.mainDown = false) (hr : snapshotRecord s h = some r)
    (hd : r.differ = true ∨ r.invalid = true) : (comparePartner h s).dgst.partnerDiffer = true ∧
      (comparePartner h s).evt.pending = s.evt.pending ||| BitVec.ofNat 15 (2 ^ 2) := by
  have hbad : (r.differ || r.invalid) = true := by simpa using hd
  unfold comparePartner
  simp only [hr, hbad, Bool.true_or, Bool.not_true, Bool.false_eq_true, if_false]
  exact ⟨by rw [mismatchDigest, raise_dgst], raise_sets_pending (by exact hm) ..⟩

/-! ## The queue of the messages sent (R323) -/

/-- No free tag, nothing sent. -/
theorem pumpTx_zero (xs : List TxMsg) : pumpTx 0 xs = xs := by
  induction xs with
  | nil => rfl
  | cons x xs ih => simp [pumpTx, ih]

/-- Behind a message that still has bursts to send nothing has been sent: the free tags were fewer than the bursts. -/
theorem pumpTx_stops {xs ys zs : List TxMsg} {x : TxMsg} {free : Nat} (h : pumpTx free xs = ys ++ x :: zs) (hx : 0 < x.left) :
    free < (xs.map (·.left)).sum ∧ zs <:+ xs := by
  induction xs generalizing free ys with
  | nil => simp [pumpTx] at h
  | cons a rest ih =>
    rw [List.map_cons, List.sum_cons]
    cases ys with
    | nil =>
      obtain ⟨rfl, rfl⟩ := List.cons.inj h
      have hlt : free < a.left := by
        simp only at hx
        omega
      rw [Nat.min_eq_left hlt.le, Nat.sub_self, pumpTx_zero]
      exact ⟨by omega, List.suffix_cons ..⟩
    | cons y ys =>
      obtain ⟨hlt, hsuffix⟩ := ih (List.cons.inj h).2
      exact ⟨by omega, hsuffix.trans (List.suffix_cons ..)⟩

/-- A message that is through holds no tag and has nothing to send: the counts are those without it. -/
theorem sum_filter_txDone (f : TxMsg → Nat) (hf : ∀ x, txDone x = true → f x = 0) (xs : List TxMsg) :
    ((xs.filter (fun x => !txDone x)).map f).sum = (xs.map f).sum := by
  induction xs with
  | nil => rfl
  | cons x xs ih =>
    cases hx : txDone x with
    | false => simp [hx, ih]
    | true => simp [hx, ih, hf x hx]

theorem txDone_out (x : TxMsg) (h : txDone x = true) : x.out = 0 := by
  simp only [txDone, Bool.and_eq_true, beq_iff_eq] at h
  exact h.1.2

theorem txDone_left (x : TxMsg) (h : txDone x = true) : x.left = 0 := by
  simp only [txDone, Bool.and_eq_true, beq_iff_eq] at h
  exact h.1.1

/-- One message of a queue changed by its number. -/
theorem map_txMsg_unique {pre post : List TxMsg} {m : TxMsg} (f : TxMsg → TxMsg) (hid : ∀ x ∈ pre ++ post, x.id ≠ m.id) :
    (pre ++ m :: post).map (fun x => if x.id = m.id then f x else x) = pre ++ f m :: post := by
  have hsame : ∀ xs ⊆ pre ++ post, xs.map (fun x => if x.id = m.id then f x else x) = xs := fun xs hxs =>
    (List.map_congr_left fun x hx => if_neg (hid x (hxs hx))).trans (List.map_id' xs)
  rw [List.map_append, List.map_cons, hsame pre (List.subset_append_left ..), hsame post (List.subset_append_right ..), if_pos rfl]

theorem nextSnapshot_tx (s : State) : (nextSnapshot s).tow.tx = s.tow.tx := by
  unfold nextSnapshot
  split
  · split <;> rfl
  · rfl

/-- The next snapshot's read begins where no snapshot is read or sent (R340). -/
theorem nextSnapshot_reads (hr : s.tow.reading = none) (hs : mirrorSending s = false) :
    (nextSnapshot s).tow.reading = s.tow.snapQueued.head? ∧ (nextSnapshot s).tow.snapQueued = s.tow.snapQueued.tail := by
  unfold nextSnapshot
  cases hq : s.tow.snapQueued with
  | nil => exact ⟨hr, hq⟩
  | cons n rest => simp [hr, hs]

/-- Where one is, it waits. -/
theorem nextSnapshot_waits (h : s.tow.reading ≠ none ∨ mirrorSending s = true) : nextSnapshot s = s := by
  unfold nextSnapshot
  split
  · refine if_neg ?_
    rcases h with h | h <;> simp [h, Option.isNone_iff_eq_none]
  · rfl

/-- It concerns the messages sent, the snapshot read and those that wait for it. -/
theorem txUpdate_frame (id : Nat) (f : TxMsg → TxMsg) (s : State) : txUpdate id f s = { s with tow := { s.tow with
    tx := (txUpdate id f s).tow.tx, reading := (txUpdate id f s).tow.reading, snapQueued := (txUpdate id f s).tow.snapQueued } } := by
  unfold txUpdate nextSnapshot
  split
  · split <;> rfl
  · rfl

/-- A queue with one message changed, without the messages that are through. -/
def txKept (pre post : List TxMsg) (m : TxMsg) : List TxMsg := (pre ++ m :: post).filter (fun x => !txDone x)

/-- The state in which one message of the queue has changed, before anything more is sent. -/
def txChanged (s : State) (pre post : List TxMsg) (m : TxMsg) : State := { s with tow := { s.tow with tx := txKept pre post m } }

theorem txUpdate_unique {pre post : List TxMsg} {m : TxMsg} {f : TxMsg → TxMsg} (hq : s.tow.tx = pre ++ m :: post)
    (hid : ∀ x ∈ pre ++ post, x.id ≠ m.id) : txUpdate m.id f s = nextSnapshot (pump (txChanged s pre post (f m))) := by
  rw [txUpdate, hq, map_txMsg_unique f hid]
  rfl

theorem sum_out_txKept (pre post : List TxMsg) (m : TxMsg) :
    ((txKept pre post m).map (·.out)).sum = (pre.map (·.out)).sum + m.out + (post.map (·.out)).sum := by
  rw [txKept, sum_filter_txDone _ txDone_out, List.map_append, List.sum_append, List.map_cons, List.sum_cons, Nat.add_assoc]

theorem sum_left_txKept (pre post : List TxMsg) (m : TxMsg) :
    ((txKept pre post m).map (·.left)).sum = (pre.map (·.left)).sum + m.left + (post.map (·.left)).sum := by
  rw [txKept, sum_filter_txDone _ txDone_left, List.map_append, List.sum_append, List.map_cons, List.sum_cons, Nat.add_assoc]

/-! ## Acknowledgements, refusals and resends (R323, R333) -/

theorem burstAck_running (hm : mainStopped s = false) (id : Nat) :
    exec (.burstAck id) s = .next (txUpdate id (fun t => { t with out := t.out - 1 }) s) :=
  congrArg Host.Outcome.next (if_neg (by simp [hm]))

/-- A burst refused: its tag returns, and it waits, but not while a reset drains. -/
def burstBack (draining : Bool) (t : TxMsg) : TxMsg :=
  if 0 < t.out then { t with out := t.out - 1, waiting := t.waiting + if draining then 0 else 1 } else t

theorem burstRefused_running (hm : mainStopped s = false) (id : Nat) :
    exec (.burstRefused id) s = .next (txUpdate id (burstBack s.pwr.draining.isSome) s) :=
  congrArg Host.Outcome.next (if_neg (by simp [hm]))

/-- A burst that waited is to be sent again. -/
def burstAgain (t : TxMsg) : TxMsg := if 0 < t.waiting then { t with waiting := t.waiting - 1, left := t.left + 1 } else t

theorem burstResend_running (hm : mainStopped s = false) (id : Nat) : exec (.burstResend id) s = .next (txUpdate id burstAgain s) :=
  congrArg Host.Outcome.next (if_neg (by simp [hm]))

/-- Settles O46: a burst goes by what the buffer holds and by its header's tag; a return changes one message of the queue, and the free tags
go to the first bursts still to send. -/
theorem burstsTakeAndReturnTags : Obligations.BurstsTakeAndReturnTags := by
  unfold Obligations.BurstsTakeAndReturnTags
  refine ⟨fun s hm hd => ⟨fun hroom => ?_, fun hfull => ?_, fun hnone => ?_, fun r hr => ⟨fun hno => ?_, fun hhold hroom => ?_⟩, fun h => ?_⟩,
    fun s x h => towBurstReceived_discarded h x, fun s m pre post hm hq hid => ?_, fun s id hm => ⟨?_, ?_, ?_⟩⟩
  · rw [towBurstReceived_part hm hd, if_neg (by omega)]
  · rw [towBurstReceived_part hm hd, if_pos hfull]
  · rw [towBurstReceived_mirrorPart hm hd, partBurst_none hnone]
  · rw [towBurstReceived_mirrorPart hm hd, partBurst_some hr, if_pos hno]
  · rw [towBurstReceived_mirrorPart hm hd, partBurst_some hr, if_neg (by simp [hhold]; omega)]
  · intro s0 check refused
    have hs0 : dropArriving s = s0 := by
      cases hx : s.tow.rxHead with
      | none => simp only [s0, dropArriving, hx]
      | some r => simp only [s0, dropArriving, rxWhole, hx]
    have hrefuse : headBurst h s = refuseHead h (dropArriving s) → refused := fun hx => by
      obtain ⟨hrest, hevt⟩ := refuseHead_spec (s := dropArriving s) (by rw [dropArriving_eq]; exact mainDown_of_running hm) h
      refine ⟨_, (towBurstReceived_mirrorHead hm hd h).trans (congrArg Host.Outcome.next hx), hs0 ▸ hrest, hevt.trans ?_⟩
      rw [dropArriving_eq]
    have hnow : check = .go ∨ check = .prior → headBurst h s = acceptHead h (dropArriving s) := fun hc =>
      (headBurst_now (by rcases hc with hc | hc <;> exact hc.trans_ne nofun)).trans (receiveHead_through (by rwa [tagCheck_dropArriving]))
    rw [towBurstReceived_mirrorHead hm hd]
    clear_value s0
    subst hs0
    refine ⟨fun hc => ⟨fun hroom => ?_, fun hfull => ?_⟩, fun hc => hrefuse ?_,
      fun hc => ⟨fun hx => ?_, fun hx => congrArg Host.Outcome.next ((hnow hc).trans ?_), fun hx => hrefuse ((hnow hc).trans (acceptHead_far ?_))⟩⟩
    · rw [headBurst_hold hc, if_neg (by omega)]
    · rw [headBurst_hold hc, if_pos hfull]
    · exact (headBurst_now (hc.trans_ne nofun)).trans (receiveHead_refused ((tagCheck_dropArriving ..).trans hc))
    · have hacc := (hnow hc).trans (acceptHead_compared (h := h) (s := dropArriving s) (by rwa [dropArriving_eq]))
      have htow := comparePartner_tow h (headTaken h (dropArriving s))
      have hmirror := (comparePartner_onlyMirror h (headTaken h (dropArriving s))).1
      have hframe : OnlyMirror s (headTaken h (dropArriving s)) := by rw [dropArriving_eq]; rfl
      have hall := hframe.trans hmirror
      refine ⟨_, congrArg Host.Outcome.next hacc, congrArg (·.rxHead) htow, congrArg (·.slotPending) htow, congrArg (·.rxPartial) htow,
        congrArg (·.keep) hall, congrArg (·.crs) hall, sameMemory_of_mem (congrArg (·.sp.mem) hall), fun r hr => ⟨fun hclean => ?_, fun hbad => ?_⟩⟩
      · obtain ⟨hdiff, hinv, hcross⟩ := hclean
        rw [comparePartner_clean (by rw [dropArriving_eq]; exact hr) hdiff hinv hcross]
        refine ⟨recClean_setRec .., ?_, ?_⟩ <;> rw [dropArriving_eq] <;> rfl
      · obtain ⟨hdiff, hevt⟩ := comparePartner_differs (h := h) (s := headTaken h (dropArriving s)) (r := r)
          (by rw [dropArriving_eq]; exact mainDown_of_running hm) (by rw [dropArriving_eq]; exact hr) hbad
        refine ⟨hdiff, hevt.trans ?_⟩
        rw [dropArriving_eq]; rfl
    · rw [acceptHead_waits (by rwa [dropArriving_eq]), dropArriving_eq]
    · rw [dropArriving_eq]
      dsimp only
      omega
  · intro after hle
    have hout : remoteOut s = (pre.map (·.out)).sum + m.out + (post.map (·.out)).sum := by
      rw [remoteOut, hq, List.map_append, List.sum_append, List.map_cons, List.sum_cons, Nat.add_assoc]
    have key : ∀ (c : Instr) (f : TxMsg → TxMsg) (m' : TxMsg) (free : Nat), exec c s = .next (txUpdate m.id f s) → f m = m' →
        free + ((pre.map (·.out)).sum + m'.out + (post.map (·.out)).sum) = 512 → after c free m' := by
      rintro c f m' free hc rfl hfree
      have hout' := sum_out_txKept pre post (f m)
      have hleft' := sum_left_txKept pre post (f m)
      have hpump : (pump (txChanged s pre post (f m))).tow.tx = pumpTx free (txKept pre post (f m)) :=
        congrArg (pumpTx · _) (show 512 - ((txKept pre post (f m)).map (·.out)).sum = free by omega)
      have htx : (txUpdate m.id f s).tow.tx = pumpTx free (txKept pre post (f m)) := by
        rw [txUpdate_unique hq hid, nextSnapshot_tx, hpump]
      have hremote : remoteOut (txUpdate m.id f s) =
          ((txKept pre post (f m)).map (·.out)).sum + min free ((txKept pre post (f m)).map (·.left)).sum := by
        rw [remoteOut, htx, pumpTx_out]
      have hmirror : mirrorSending (pump (txChanged s pre post (f m))) = (txUpdate m.id f s).tow.tx.any TxMsg.mirror := by
        rw [htx, mirrorSending, hpump]
      refine ⟨_, hc, txUpdate_frame .., htx, by omega, fun xs x ys hsplit hx => ?_, fun hr hnone => ?_, fun hsome => ?_⟩
      · obtain ⟨hlt, hsuffix⟩ := pumpTx_stops (htx.symm.trans hsplit) hx
        exact ⟨by omega, fun y hy => ⟨y, (List.mem_filter.1 (hsuffix.subset hy)).1, rfl⟩⟩
      · rw [txUpdate_unique hq hid]
        exact nextSnapshot_reads hr (hmirror.trans (List.any_eq_false.2 fun x hx => by simp [hnone x hx]))
      · rw [txUpdate_unique hq hid, nextSnapshot_waits]
        · exact ⟨rfl, rfl⟩
        · exact hsome.imp_right fun h => hmirror.trans (List.any_eq_true.2 h)
    refine ⟨fun hpos => ⟨?_, fun hd => ?_, fun hd => ?_⟩, fun hpos => ?_⟩
    · exact key _ _ _ _ (burstAck_running hm _) rfl (by dsimp only; omega)
    · exact key _ _ _ _ (burstRefused_running hm _) (by simp [burstBack, hpos, hd]) (by dsimp only; omega)
    · exact key _ _ _ _ (burstRefused_running hm _)
        (by simp [burstBack, hpos, Option.isSome_iff_ne_none.2 hd]) (by dsimp only; omega)
    · exact key _ _ _ _ (burstResend_running hm _) (by simp [burstAgain, hpos]) (by dsimp only; omega)
  all_goals exact congrArg Host.Outcome.next (if_pos hm)

end Sys2Proof.Machine
end

section
/-! SUPPORT. RESTORE and its answer: the message that asks the partner, what becomes of the answer by its tag and its crossing, and what a
snapshot that is restored writes (R332, R342, Tables 2-6, 14-3 and 14-9). -/

namespace Sys2Proof.Machine

variable {s t : State}

/-! ## RESTORE -/

theorem restore_served {p : Port} (h : Served p 4 s) : exec (.restore p) s = .next (restoreOp (dropHeld p s)) :=
  congrArg Host.Outcome.next (onMain_served h)

/-- The message that asks the partner for the snapshot of the landing last committed. -/
def restoreAsk (s : State) : TowMsg :=
  { partnerMsg s (activeTag s) s.crs.crossing s.keep.committed.2 6 none with place := some s.keep.committed }

theorem restoreOp_idle (ha : s.man.active ≠ none) (hn : s.cq.takenSinceApply = false) :
    restoreOp s = sendMsg (restoreAsk s) none false { s with tow := { s.tow with restore := 1 } } :=
  if_pos ⟨Option.isSome_iff_ne_none.2 ha, by simp [hn]⟩

theorem restoreOp_notIdle (h : s.man.active = none ∨ s.cq.takenSinceApply = true) :
    restoreOp s = { s with tow := { s.tow with restore := 5 } } :=
  if_neg (by rcases h with h | h <;> simp [h])

/-- A message without a snapshot or a payload is one burst. -/
theorem towBursts_header {m : TowMsg} (hs : m.snap = none) (hp : m.payload = []) : towBursts m = 1 := by
  simp only [towBursts, msgBytes, hs, hp]
  rfl

/-! ## RESTORE_DATA (R332) -/

/-- The partner's answer as a message. -/
def restoreDataMsg (slot : Option Snapshot) (tag c : Nat) (place : Option (Nat × Nat)) (s : State) : TowMsg :=
  { partnerMsg s tag c ((slot.map (·.landing)).getD 0) 7 slot with source := partnerPlace s, dest := ownPlace s, place := place }

theorem restoreData_taken (hm : mainStopped s = false) (hd : s.pwr.draining = none) (slot : Option Snapshot) (tag c : Nat)
    (place : Option (Nat × Nat)) : exec (.restoreData slot tag c place) s =
      .next (receiveData (restoreDataMsg slot tag c place s) (rxWhole (towBursts (restoreDataMsg slot tag c place s)) s)) :=
  congrArg Host.Outcome.next (if_neg (by simp [hm, hd]))

theorem restoreData_discarded (h : mainStopped s = true ∨ s.pwr.draining ≠ none) (slot : Option Snapshot) (tag c : Nat)
    (place : Option (Nat × Nat)) : exec (.restoreData slot tag c place) s = .next s :=
  congrArg Host.Outcome.next (if_pos (h.imp_right Option.isSome_iff_ne_none.2))

section

variable {m : TowMsg}

theorem receiveData_now (hc : tagCheck s m.tag m.crossing m.landing = .go)
    (hx : m.crossing = s.crs.crossing ∨ m.crossing + 1 = s.crs.crossing) : receiveData m s = takeRestore m.snap m.place s := by
  simp only [receiveData, hc]
  exact if_pos (by unfold crossingDiff; omega)

/-- An answer of the next crossing or of the staged tag is held. -/
theorem receiveData_held (h : tagCheck s m.tag m.crossing m.landing = .hold ∨
    (tagCheck s m.tag m.crossing m.landing = .go ∧ m.crossing = s.crs.crossing + 1)) :
    receiveData m s = { s with tow := { s.tow with heldRestore := s.tow.heldRestore ++ [m] } } := by
  rcases h with hc | ⟨hc, hx⟩
  · simp only [receiveData, hc]
  · simp only [receiveData, hc]
    exact (if_neg (by unfold crossingDiff; omega)).trans (if_pos (by unfold crossingDiff; omega))

theorem receiveData_prior (hc : tagCheck s m.tag m.crossing m.landing = .prior) : receiveData m s = s := by
  simp only [receiveData, hc]

/-- An answer of another crossing or of a strange tag is refused. -/
theorem receiveData_refused (h : tagCheck s m.tag m.crossing m.landing = .refuse ∨ (tagCheck s m.tag m.crossing m.landing = .go ∧
    (m.crossing + 1 < s.crs.crossing ∨ s.crs.crossing + 1 < m.crossing))) : receiveData m s = refuseRestore m s := by
  rcases h with hc | ⟨hc, hx⟩
  · simp only [receiveData, hc]
  · simp only [receiveData, hc]
    exact (if_neg (by unfold crossingDiff; omega)).trans (if_neg (by unfold crossingDiff; omega))

end

/-! ## An answer that is taken (R342, Table 14-9) -/

variable {n : Snapshot} {place : Option (Nat × Nat)}

theorem takeRestore_idle (h : s.tow.restore ≠ 1) (slot : Option Snapshot) : takeRestore slot place s = s :=
  if_pos h

theorem takeRestore_empty (h : s.tow.restore = 1) :
    takeRestore none place s = { s with tow := { s.tow with restore := if place = none then 3 else 4 } } := by
  rw [takeRestore, if_neg (not_not.2 h)]
  cases place <;> rfl

theorem takeRestore_other (h : s.tow.restore = 1) (hn : (n.crossing, n.landing) ≠ s.keep.committed) :
    takeRestore (some n) place s = { s with tow := { s.tow with restore := 4 } } :=
  (if_neg (not_not.2 h)).trans (if_neg fun hc => hn (Prod.ext hc.1 hc.2))

theorem takeRestore_committed (h : s.tow.restore = 1) (hn : (n.crossing, n.landing) = s.keep.committed) :
    takeRestore (some n) place s = restoreFrom n s :=
  (if_neg (not_not.2 h)).trans (if_pos ⟨congrArg (·.1) hn, congrArg (·.2) hn⟩)

/-! ## Array state -/

/-- Reading after writes to distinct keys. -/
theorem sget_foldl_sset {α : Type} [DecidableEq α] (d : α) {xs : List (Nat × α)} (h : (xs.map (·.1)).Pairwise (· < ·)) (m : List (Nat × α))
    (k : Nat) : sget d (xs.foldl (fun m x => sset d m x.1 x.2) m) k = if k ∈ xs.map (·.1) then sget d xs k else sget d m k := by
  induction xs generalizing m with
  | nil => simp
  | cons x xs ih =>
    obtain ⟨j, v⟩ := x
    obtain ⟨hx, hxs⟩ := List.pairwise_cons.1 h
    rw [List.foldl_cons, ih hxs, sget_sset]
    by_cases hk : k ∈ xs.map (·.1)
    · simp [hk, sget, (hx k hk).ne]
    · by_cases hkj : k = j
      · subst hkj
        simp [hk, sget]
      · simp [hk, hkj]

/-- Every accumulator of a snapshot is restored, and every other one cleared. -/
theorem sget_restoredAccs {α : Type} [DecidableEq α] (d : α) {xs : List (Nat × α)} (h : (xs.map (·.1)).Pairwise (· < ·)) (k : Nat) :
    sget d (xs.foldl (fun m x => sset d m x.1 x.2) []) k = sget d xs k := by
  rw [sget_foldl_sset d h]
  split
  · rfl
  · next hk => exact (sget_append_right (xs := []) fun p hp hpk => hk (List.mem_map.2 ⟨p, hp, hpk⟩)).symm

/-- Reading after writes to those of the first keys that pass a test. -/
theorem sget_foldl_sset_if {α : Type} [DecidableEq α] (d : α) (p : Nat → Bool) (v : Nat → α) (m : List (Nat × α)) (j k : Nat) :
    sget d ((List.range j).foldl (fun m k => if p k then sset d m k (v k) else m) m) k = if k < j ∧ p k then v k else sget d m k := by
  induction j with
  | zero => simp
  | succ j ih =>
    rw [List.range_succ, List.foldl_append, List.foldl_cons, List.foldl_nil]
    by_cases hj : k = j
    · subst hj
      rcases hp : p k with _ | _
      · simp [ih]
      · simp
    · have hlt : k < j + 1 ↔ k < j := by omega
      simp only [hlt]
      split
      · rw [sget_sset, if_neg hj, ih]
      · exact ih

/-! ## The mirrored range -/

theorem spByte_restoreLine_outside {x : RangeLine} {a : Nat} (h : a < x.addr ∨ x.addr + x.bytes.length ≤ a) (s : State) :
    spByte (restoreLine s x) a = spByte s a :=
  sget_sblit_outside 0 s.sp.mem x.addr x.bytes a h

theorem spByte_restoreLine_inside {x : RangeLine} {i : Nat} (h : i < x.bytes.length) (s : State) :
    spByte (restoreLine s x) (x.addr + i) = x.bytes.getD i 0 :=
  sget_sblit_inside 0 s.sp.mem x.addr x.bytes i h

theorem lineMarked_restoreLine (x : RangeLine) (s : State) (k : Nat) :
    lineMarked (restoreLine s x) k = if k = x.addr / 64 then x.mark else lineMarked s k := by
  unfold lineMarked restoreLine setMark
  rw [sget_sset]
  split <;> simp

/-- Outside the lines restored every byte stays. -/
theorem spByte_restoreLines_outside {xs : List RangeLine} {a : Nat} (h : ∀ x ∈ xs, a < x.addr ∨ x.addr + x.bytes.length ≤ a) (s : State) :
    spByte (xs.foldl restoreLine s) a = spByte s a :=
  List.foldlRecOn xs restoreLine (motive := fun t => spByte t a = spByte s a) rfl
    fun t ht x hx => (spByte_restoreLine_outside (h x hx) t).trans ht

/-- A line restored has its bytes where later lines lie above it. -/
theorem spByte_restoreLines_inside {xs : List RangeLine} (h : xs.Pairwise (fun x y => x.addr + x.bytes.length ≤ y.addr)) {x : RangeLine}
    (hx : x ∈ xs) {i : Nat} (hi : i < x.bytes.length) (s : State) : spByte (xs.foldl restoreLine s) (x.addr + i) = x.bytes.getD i 0 := by
  obtain ⟨as, bs, rfl⟩ := List.append_of_mem hx
  obtain ⟨-, hpair, -⟩ := List.pairwise_append.1 h
  rw [List.foldl_append, List.foldl_cons, spByte_restoreLines_outside, spByte_restoreLine_inside hi]
  intro y hy
  have := List.rel_of_pairwise_cons hpair hy
  omega

/-- A line restored has its mark where the lines are distinct. -/
theorem lineMarked_restoreLines {xs : List RangeLine} (h : xs.Pairwise (fun x y => x.addr / 64 ≠ y.addr / 64)) {x : RangeLine}
    (hx : x ∈ xs) (s : State) : lineMarked (xs.foldl restoreLine s) (x.addr / 64) = x.mark := by
  obtain ⟨as, bs, rfl⟩ := List.append_of_mem hx
  obtain ⟨-, hpair, -⟩ := List.pairwise_append.1 h
  rw [List.foldl_append, List.foldl_cons]
  refine List.foldlRecOn bs restoreLine (motive := fun t => lineMarked t (x.addr / 64) = x.mark) ?_ fun t ht y hy => ?_
  · rw [lineMarked_restoreLine, if_pos rfl]
  · rw [lineMarked_restoreLine, if_neg (List.rel_of_pairwise_cons hpair hy), ht]

theorem restoreLines_frame (xs : List RangeLine) (s : State) : xs.foldl restoreLine s = { s with sp := (xs.foldl restoreLine s).sp } :=
  List.foldlRecOn xs restoreLine (motive := fun t => t = { s with sp := t.sp }) rfl fun t ht x _ => by
    rw [ht]; rfl

/-! ## A snapshot restored -/

/-- The array state that a snapshot restores: its accumulators, its holds, and the slipways that it holds. -/
def restoredArr (n : Snapshot) (a : ArrayUnit) : ArrayUnit :=
  { a with
      accs := n.accs.foldl (fun m x => sset ⟨0, 0, 0, 0⟩ m x.1 x.2) [], holdA := n.holds.getD 0 none, holdB := n.holds.getD 1 none
      slips := (List.range 64).foldl
        (fun m k => if (n.holds.getD (k % 2) none).isSome then sset [] m k (sget [] n.slips k) else m) a.slips }

theorem sget_restoredSlips (n : Snapshot) (a : ArrayUnit) {k : Nat} (hk : k < 64) : sget [] (restoredArr n a).slips k =
    if (n.holds.getD (k % 2) none).isSome then sget [] n.slips k else sget [] a.slips k := by
  have hread := sget_foldl_sset_if [] (fun k => (n.holds.getD (k % 2) none).isSome) (fun k => sget [] n.slips k) a.slips 64 k
  exact hread.trans (by simp only [hk, true_and])

/-- A restore writes array state, lines of the scratchpad and its own outcome. -/
theorem restoreFrom_eq (n : Snapshot) (s : State) : restoreFrom n s = { s with
    arr := restoredArr n s.arr
    sp := (n.range.foldl restoreLine { s with arr := restoredArr n s.arr }).sp
    tow := { s.tow with restore := if n.tables = tableNames s then 2 else 6 } } := by
  have hlines := restoreLines_frame n.range { s with arr := restoredArr n s.arr }
  show (fun u : State => { u with tow := { u.tow with restore := if n.tables = tableNames s then 2 else 6 } })
    (n.range.foldl restoreLine { s with arr := restoredArr n s.arr }) = _
  rw [hlines]

/-- A refused restore message leaves a MISMATCH and no more. -/
theorem refuseRestore_spec (hm : s.pwr.mainDown = false) (m : TowMsg) : OnlyEvents s (refuseRestore m s) ∧
    (refuseRestore m s).evt.pending = s.evt.pending ||| BitVec.ofNat 15 (2 ^ 2) :=
  ⟨raise_onlyEvents .., raise_sets_pending hm ..⟩

/-- Settles O50: RESTORE sends one message or notes that the engine is not idle; its answer goes by its tag and its crossing, and one that is
taken by what is running and what its slot holds. -/
theorem restoreBringsTheSnapshot : Obligations.RestoreBringsTheSnapshot := by
  unfold Obligations.RestoreBringsTheSnapshot
  refine ⟨fun s p h => ⟨fun ha hn => ?_, fun hno => ?_⟩, fun s tag c slot place hm hd => ?_,
    fun s tag c x place h => restoreData_discarded h x tag c place⟩
  · have hop := restoreOp_idle (s := dropHeld p s) (by rwa [dropHeld_man]) (by rwa [dropHeld_cq])
    obtain ⟨x, hlast, -, -, hmsg, hbursts, -⟩ := sendMsg_last (restoreAsk (dropHeld p s)) none false
      { dropHeld p s with tow := { (dropHeld p s).tow with restore := 1 } }
    refine ⟨_, x, (restore_served h).trans (congrArg Host.Outcome.next hop), rfl, rfl, hlast, hbursts.trans (towBursts_header rfl rfl), ?_⟩
    rw [hmsg]
    cases p <;> exact ⟨rfl, rfl, rfl, rfl, rfl, rfl⟩
  · rw [restore_served h, restoreOp_notIdle (by rwa [dropHeld_man, dropHeld_cq]), dropHeld_tow]
  · intro m s0 check result
    have hx := restoreData_taken hm hd slot tag c place
    refine ⟨fun hc hnear => ?_, fun h => ?_, fun hc => ?_, fun h => ?_⟩
    · have htake := hx.trans (congrArg Host.Outcome.next (receiveData_now (s := s0) (m := m) hc hnear))
      refine ⟨fun hr => ?_, fun hr hs => ?_, fun n hr hs hne => ?_, fun n hr hs heq => ?_⟩
      · exact htake.trans (congrArg Host.Outcome.next (takeRestore_idle (by exact hr) _))
      · subst hs
        exact htake.trans (congrArg Host.Outcome.next (takeRestore_empty (by exact hr)))
      · subst hs
        exact htake.trans (congrArg Host.Outcome.next (takeRestore_other (by exact hr) (by exact hne)))
      · subst hs
        have hfrom := restoreFrom_eq n s0
        let s1 : State := { s0 with arr := restoredArr n s0.arr }
        refine ⟨_, htake.trans (congrArg Host.Outcome.next ((takeRestore_committed (by exact hr) (by exact heq)).trans hfrom)),
          sget_restoredAccs _, fun k hk => sget_restoredSlips n s.arr hk, rfl, rfl, rfl, fun a ha => spByte_restoreLines_outside ha s1,
          fun hp x hmem i hi => spByte_restoreLines_inside hp hmem hi s1, fun hp x hmem => lineMarked_restoreLines hp hmem s1,
          rfl, rfl, rfl, rfl, rfl⟩
    · exact hx.trans (congrArg Host.Outcome.next (receiveData_held (by exact h)))
    · exact hx.trans (congrArg Host.Outcome.next (receiveData_prior (by exact hc)))
    · obtain ⟨honly, hevt⟩ := refuseRestore_spec (s := s0) (mainDown_of_running hm) m
      exact ⟨_, hx.trans (congrArg Host.Outcome.next (receiveData_refused (by exact h))), honly, hevt⟩

end Sys2Proof.Machine
end

section
/-! SUPPORT. The towline port of a member of a group: the messages that it sends, what it changes of a row block, and what the writing of a
block's outputs leaves of the entry and of the other units (R321, R322, R325, R331, R335). -/

namespace Sys2Proof.Machine

variable {s t u : State} {e x y : Entry} {k : TowBlock} {m : TowMsg} {ms ns : List TowMsg}

/-! ## Places -/

/-- What the places of a group's members and the arithmetic of a combination are read from, and the crossing, are the same. -/
structure SameSeat (s t : State) : Prop where
  man : t.man = s.man
  crs : t.crs = s.crs
  position : t.tow.position = s.tow.position
  package : t.tow.package = s.tow.package

theorem SameSeat.trans (h : SameSeat s t) (k : SameSeat t u) : SameSeat s u :=
  ⟨k.man.trans h.man, k.crs.trans h.crs, k.position.trans h.position, k.package.trans h.package⟩

theorem SameSeat.memberOf (h : SameSeat s t) (g : Nat) : memberOf t g = memberOf s g := by
  unfold Machine.memberOf
  rw [h.man, h.position, h.package]

theorem SameSeat.placeOf (h : SameSeat s t) (hc : x.coll = e.coll) : placeOf t x = placeOf s e := by
  unfold Machine.placeOf
  rw [h.memberOf, hc]

theorem SameSeat.memberPlace (h : SameSeat s t) (g cp : Nat) : memberPlace t g cp = memberPlace s g cp := by
  unfold Machine.memberPlace groupRings
  rw [h.man]

theorem recipeOf_congr (h : t.man = s.man) : recipeOf t = recipeOf s := by
  funext c k
  unfold recipeOf
  rw [h]

theorem SameSeat.classesAt (h : SameSeat s t) : classesAt t = classesAt s := by
  funext d pos
  unfold Machine.classesAt
  rw [recipeOf_congr h.man]

theorem SameSeat.combinePayload (h : SameSeat s t) (hd : x.desc = e.desc) (rows : Nat) (a o : List Byte) :
    combinePayload t x rows a o = combinePayload s e rows a o := by
  unfold Machine.combinePayload
  rw [hd, numCfg_congr h.man, h.classesAt]

/-! ## Messages sent -/

/-- From `s` to `t` messages were queued behind those in flight, under new numbers. -/
structure Sent (ms : List TowMsg) (s t : State) : Prop where
  frame : t = { s with tow := { s.tow with tx := t.tow.tx, nextId := t.tow.nextId } }
  msgs : t.tow.tx.map (·.msg) = s.tow.tx.map (·.msg) ++ ms
  next : s.tow.nextId ≤ t.tow.nextId
  ids : ∀ x ∈ t.tow.tx, (∃ y ∈ s.tow.tx, y.id = x.id) ∨ s.tow.nextId ≤ x.id

theorem Sent.refl (s : State) : Sent [] s s := ⟨rfl, (List.append_nil _).symm, le_rfl, fun x hx => .inl ⟨x, hx, rfl⟩⟩

theorem Sent.trans (h : Sent ms s t) (k : Sent ns t u) : Sent (ms ++ ns) s u := by
  refine ⟨by rw [k.frame, h.frame], by rw [k.msgs, h.msgs, List.append_assoc], h.next.trans k.next, fun x hx => ?_⟩
  rcases k.ids x hx with ⟨y, hy, hyx⟩ | hx
  · rw [← hyx]
    exact h.ids y hy
  · exact .inr (h.next.trans hx)

theorem Sent.seat (h : Sent ms s t) : SameSeat s t := by
  rw [h.frame]
  exact ⟨rfl, rfl, rfl, rfl⟩

theorem Sent.cq (h : Sent ms s t) : t.cq = s.cq := by rw [h.frame]
theorem Sent.sp (h : Sent ms s t) : t.sp = s.sp := by rw [h.frame]
theorem Sent.arr (h : Sent ms s t) : t.arr = s.arr := by rw [h.frame]
theorem Sent.evt (h : Sent ms s t) : t.evt = s.evt := by rw [h.frame]
theorem Sent.linkFail (h : Sent ms s t) : t.tow.linkFail = s.tow.linkFail := by rw [h.frame]

theorem Sent.found (h : Sent ms s t) (b q : Nat) : findEntry t b q = findEntry s b q := findEntry_congr (by rw [h.cq])

theorem Sent.mem (h : Sent ms s t) (hm : m ∈ ms) : ∃ x ∈ t.tow.tx, x.msg = m :=
  List.mem_map.1 (h.msgs ▸ List.mem_append_right _ hm)

/-- What holds of a message sent holds of one in flight. -/
theorem Sent.noted {P : TowMsg → Prop} (h : Sent ms s t) (hP : ∃ m ∈ ms, P m) : ∃ x ∈ t.tow.tx, P x.msg := by
  obtain ⟨m, hm, hP⟩ := hP
  obtain ⟨x, hx, rfl⟩ := h.mem hm
  exact ⟨x, hx, hP⟩

/-- The last message sent stands last. -/
theorem Sent.last (h : Sent (ms ++ [m]) s t) : ∃ x, t.tow.tx.getLast? = some x ∧ x.msg = m := by
  have hl : (t.tow.tx.map (·.msg)).getLast? = some m := by rw [h.msgs, ← List.append_assoc, List.getLast?_concat]
  rw [List.getLast?_map] at hl
  exact Option.map_eq_some_iff.1 hl

theorem pumpTx_msgs (free : Nat) (xs : List TxMsg) : (pumpTx free xs).map (fun x => (x.id, x.msg)) = xs.map (fun x => (x.id, x.msg)) := by
  induction xs generalizing free with
  | nil => rfl
  | cons x xs ih => exact congrArg ((x.id, x.msg) :: ·) (ih _)

theorem sendMsg_sent (m : TowMsg) (o : Option (Nat × Nat × Nat)) (r : Bool) (s : State) : Sent [m] s (sendMsg m o r s) := by
  have hp : (sendMsg m o r s).tow.tx.map (fun x => (x.id, x.msg)) = s.tow.tx.map (fun x => (x.id, x.msg)) ++ [(s.tow.nextId, m)] :=
    (pumpTx_msgs _ _).trans (List.map_append ..)
  refine ⟨rfl, ?_, Nat.le_succ _, fun x hx => ?_⟩
  · have hs := congrArg (List.map Prod.snd) hp
    rwa [List.map_append, List.map_map, List.map_map] at hs
  · have hx : (x.id, x.msg) ∈ s.tow.tx.map (fun x => (x.id, x.msg)) ++ [(s.tow.nextId, m)] := hp ▸ List.mem_map_of_mem hx
    rcases List.mem_append.1 hx with hx | hx
    · obtain ⟨y, hy, hyx⟩ := List.mem_map.1 hx
      exact .inl ⟨y, hy, congrArg (·.1) hyx⟩
    · exact .inr (congrArg (·.1) (List.mem_singleton.1 hx)).ge

/-- The message that a member sends for a row block. -/
def blockMsg (s : State) (e : Entry) (rb : Nat) (ret isVoid : Bool) (reason : Nat) (payload : List Byte) : TowMsg :=
  { tag := activeTag s, crossing := s.crs.crossing, landing := e.desc.landing, kind := towKind e.desc, group := (e.coll.getD (0, 0)).1,
    ret := ret, isVoid := isVoid, reason := reason, senderCp := (placeOf s e).1, coll := (e.coll.getD (0, 0)).2,
    rows := ((towAt e rb).map (·.rows)).getD 0, rowBlock := rowBlockField e.desc rb, source := ownPlace s
    dest := memberPlace s (e.coll.getD (0, 0)).1 (if ret then (placeOf s e).1 - 1 else (placeOf s e).1 + 1), payload := payload, snap := none }

theorem sendTow_sent (e : Entry) (rb : Nat) (ret isVoid : Bool) (reason : Nat) (payload : List Byte) (s : State) :
    Sent [blockMsg s e rb ret isVoid reason payload] s (sendTow e rb ret isVoid reason payload s) := sendMsg_sent ..

/-- Sent where a condition holds. -/
theorem Sent.ite {c : Prop} [Decidable c] (h : c → Sent ms s t) : Sent (if c then ms else []) s (if c then t else s) := by
  split
  · next hc => exact h hc
  · exact .refl s

/-! ## Row blocks -/

theorem towAt_rowBlock {rb : Nat} (h : towAt e rb = some k) : k.rowBlock = rb := by simpa using List.find?_some h

/-- A row block after a change of it. -/
theorem towAt_updTow {rb : Nat} {f : TowBlock → TowBlock} (hf : ∀ k, (f k).rowBlock = k.rowBlock) (h : towAt e rb = some k) :
    towAt (updTow rb f e) rb = some (f k) := by
  have hp : (fun k : TowBlock => k.rowBlock == rb) ∘ (fun k => if k.rowBlock = rb then f k else k) = fun k => k.rowBlock == rb := by
    funext k
    rw [Function.comp]
    split
    · rw [hf]
    · rfl
  unfold towAt updTow
  rw [List.find?_map, hp]
  change Option.map _ (towAt e rb) = _
  rw [h, Option.map_some, if_pos (towAt_rowBlock h)]

theorem voided_of_towAt {rb : Nat} (h : towAt e rb = some k) (hv : k.isVoid = true) : voided e rb = true :=
  List.any_eq_true.2 ⟨k, List.mem_of_find?_eq_some h, by rw [towAt_rowBlock h, hv]; simp⟩

/-! ## Outputs written -/

/-- `x` is `e` after outputs were written: of what it reports only the flags, the poison of the outputs and what was consumed. -/
def Outputted (e x : Entry) : Prop :=
  x = { e with
        res := { e.res with flags := x.res.flags, poisonOut := x.res.poisonOut, consumed := x.res.consumed }
        writes := x.writes, pieces := x.pieces, tiles := x.tiles, sigs := x.sigs }

theorem Outputted.refl (e : Entry) : Outputted e e := rfl

theorem Outputted.trans (h : Outputted e x) (k : Outputted x y) : Outputted e y := by
  unfold Outputted at *
  rw [k, h]

theorem Outputted.after (k : Outputted x y) (h : Outputted e x) : Outputted e y := h.trans k

theorem Outputted.foldOn {α β : Type} (g : β → Entry) {f : β → α → β} (h : ∀ b x, Outputted (g b) (g (f b x))) (xs : List α) (b : β) :
    Outputted (g b) (g (xs.foldl f b)) :=
  List.foldlRecOn xs f (motive := fun a => Outputted (g b) (g a)) (.refl _) fun a ha x _ => ha.trans (h a x)

theorem storeEmit_outputted (h : Option Nat) (m : Emit) (ts : List Stored) (acc : Entry × State) :
    Outputted acc.1 (storeEmit h m ts acc).1 := by
  unfold storeEmit
  dsimp only
  split
  · exact rfl
  · exact .refl _

theorem emitOne_outputted (h : Option Nat) (delta : Nat) (m : Emit) (acc : Entry × State) : Outputted acc.1 (emitOne h delta m acc).1 := by
  unfold emitOne
  exact (storeEmit_outputted h m _ (_, _)).after rfl

theorem emitAll_outputted (h : Option Nat) (delta : Nat) (ms : List Emit) (e : Entry) (s : State) :
    Outputted e (emitAll h delta ms e s).1 :=
  Outputted.foldOn (fun (a : Nat × (Entry × State)) => a.2.1) (fun a m => emitOne_outputted h a.1 m a.2) ms (delta, (e, s))

theorem addNotes_outputted (n : Notes) (e : Entry) : Outputted e (addNotes n e) := rfl

theorem closeTile_outputted (delta rb c : Nat) (x : Coord) (ms : List Emit) (n : Notes) (sent : List (Coord × PVal)) (e : Entry) (s : State) :
    Outputted e (closeTile delta rb c x ms n sent e s).1 := by
  unfold closeTile
  dsimp only
  split
  · exact (addNotes_outputted n e).trans (emitAll_outputted ..)
  · exact (addNotes_outputted n e).trans ((emitAll_outputted ..).trans rfl)

theorem emitLate_outputted (rb delta : Nat) (ms : List Emit) (fl : Flags) (e : Entry) (s : State) :
    Outputted e (emitLate rb delta ms fl e s).1 := by
  unfold emitLate
  dsimp only
  split
  · exact rfl
  · exact (closeTile_outputted ..).after rfl

theorem rewriteOne_outputted (m : Emit) (acc : Entry × State) : Outputted acc.1 (rewriteOne m acc).1 :=
  (storeEmit_outputted none m _ acc).trans rfl

theorem rewriteOne_near (m : Emit) (acc : Entry × State) : Near acc.2 (rewriteOne m acc).2 := storeEmit_near none m _ acc

/-- From `s` to `u` outputs of a command were written: the command stands in the queue with what it had, and the towline, the manifest and the
crossing stay. -/
structure Wrote (e : Entry) (s u : State) : Prop where
  entry : ∃ y, findEntry u e.berth e.seq = some y ∧ Outputted e y
  man : u.man = s.man
  crs : u.crs = s.crs
  tow : u.tow = s.tow

theorem Outputted.found (h : Outputted e x) (ht : t.cq = s.cq) (hf : (findEntry s e.berth e.seq).isSome) :
    findEntry (setEntry x t) e.berth e.seq = some x := by
  have hq : x.berth = e.berth ∧ x.seq = e.seq := by
    rw [h]
    exact ⟨rfl, rfl⟩
  rw [← hq.1, ← hq.2] at hf ⊢
  exact setEntry_found x t ((findEntry_congr (congrArg CqUnit.entries ht)).symm ▸ hf)

theorem Wrote.refl (hf : findEntry s e.berth e.seq = some e) : Wrote e s s := ⟨⟨e, hf, .refl e⟩, rfl, rfl, rfl⟩

/-- An entry set in its place after its outputs were written. -/
theorem setEntry_wrote (hf : (findEntry s e.berth e.seq).isSome) (hx : Outputted e x) (ht : Near s t) : Wrote e s (setEntry x t) :=
  ⟨⟨x, hx.found ht.cq hf, hx⟩, ht.man, ht.crs, ht.tow⟩

theorem emitInto_wrote (hf : (findEntry s e.berth e.seq).isSome) (rb : Nat) (ms : List Emit) (fl : Flags) (delta : Nat) :
    Wrote e s (emitInto rb ms fl delta e s) := setEntry_wrote hf (emitLate_outputted ..) (emitLate_near ..)

/-! ## Outputs written again as poisoned (R335) -/

/-- A command and the state after what may have been written of a row block is written again. -/
def rewritten (rb : Nat) (e : Entry) (s : State) : Entry × State := (writtenEmits rb e s).foldl (fun a m => rewriteOne m a) (e, s)

theorem poisonBlock_eq (rb : Nat) (e : Entry) (s : State) :
    poisonBlock rb e s = setEntry (rewritten rb e s).1 (rewritten rb e s).2 := rfl

theorem rewritten_outputted (rb : Nat) (e : Entry) (s : State) : Outputted e (rewritten rb e s).1 :=
  Outputted.foldOn (·.1) (fun a m => rewriteOne_outputted m a) _ (e, s)

theorem rewritten_near (rb : Nat) (e : Entry) (s : State) : Near s (rewritten rb e s).2 :=
  Near.foldOn (·.2) (fun a m => rewriteOne_near m a) _ (e, s)

theorem poisonBlock_wrote (hf : (findEntry s e.berth e.seq).isSome) (rb : Nat) : Wrote e s (poisonBlock rb e s) :=
  setEntry_wrote hf (rewritten_outputted ..) (rewritten_near ..)

theorem rewritten_poisonOut {rb : Nat} (h : writtenEmits rb e s ≠ []) : (rewritten rb e s).1.res.poisonOut = true := by
  obtain ⟨m, hm⟩ := List.exists_mem_of_ne_nil _ h
  obtain ⟨as, bs, hw⟩ := List.append_of_mem hm
  unfold rewritten
  rw [hw, List.foldl_append, List.foldl_cons]
  exact List.foldlRecOn bs _ (motive := fun (a : Entry × State) => a.1.res.poisonOut = true) rfl fun _ _ _ _ => rfl

/-- Where something of the block may have been written, the command's outputs are poisoned. -/
theorem poisonBlock_poisonOut {rb : Nat} (hf : (findEntry s e.berth e.seq).isSome) (h : writtenEmits rb e s ≠ [])
    (hy : findEntry (poisonBlock rb e s) e.berth e.seq = some y) : y.res.poisonOut = true := by
  rw [poisonBlock_eq, (rewritten_outputted rb e s).found (rewritten_near rb e s).cq hf] at hy
  rw [← Option.some.inj hy]
  exact rewritten_poisonOut h

theorem lineMarked_setMark_other {l v : Nat} (h : l ≠ v) (b : Bool) (s : State) : lineMarked (setMark v b s) l = lineMarked s l := by
  unfold lineMarked setMark
  rw [sget_sset, if_neg h]

theorem lineMarked_writeRun {r : Run} {l : Nat} (hl : l ∈ unitsOf r.addr r.bytes.length) (hb : l ∈ r.bad) (s : State) :
    lineMarked (writeRun r s) l = true := by
  obtain ⟨as, bs, h⟩ := List.append_of_mem hl
  unfold writeRun
  rw [h, List.foldl_append, List.foldl_cons, if_pos (by simpa using hb)]
  refine List.foldlRecOn bs _ (motive := fun t => lineMarked t l = true) ?_ fun t ht u _ => ?_
  · rw [lineMarked_setMark, decide_eq_true rfl, Bool.true_or]
  · rcases eq_or_ne l u with rfl | hu
    · rw [if_pos (by simpa using hb), lineMarked_setMark, decide_eq_true rfl, Bool.true_or]
    · split
      · rw [lineMarked_setMark_other hu, ht]
      · split
        · rw [lineMarked_setMark_other hu, ht]
        · exact ht

/-- The units of the one run that a block's outputs make, marked where the run is poisoned. -/
theorem poisonBlock_marks {rb : Nat} {x : Emit} {r : Run} (hw : writtenEmits rb e s = [x]) (hj : (e.desc.slot x.slot).job = false)
    (hr : emitRuns s e x = [r]) {l : Nat} (hl : l ∈ unitsOf r.addr r.bytes.length) (hb : l ∈ r.bad) :
    lineMarked (poisonBlock rb e s) l = true := by
  have hs : storeEmit none x (emitStored s e x) (e, s) = (e, writeRun r s) := by
    unfold storeEmit
    rw [if_neg (by rw [hj]; decide)]
    change (e, (emitRuns s e x).foldl _ s) = _
    rw [hr]
    rfl
  have hp : (poisonBlock rb e s).sp = (writeRun r s).sp := by
    rw [poisonBlock_eq, rewritten, hw, List.foldl_cons, List.foldl_nil, setEntry_sp]
    exact congrArg (fun a : Entry × State => a.2.sp) hs
  rw [lineMarked_congr hp]
  exact lineMarked_writeRun hl hb s

/-! ## Voids (R335) -/

/-- A row block as voided; `first`: by this member itself, as the first of its command's. -/
def voidedAs (reason : Nat) (first : Bool) (k : TowBlock) : TowBlock :=
  { k with isVoid := true, reason := reason, selfVoided := first, fwdHeld := none, timer := first && (k.timer || k.final.isSome) }

/-- A command with a row block voided, its waiting rows let past the finisher, and the reason in its report. -/
def voidBy (rb reason : Nat) (mine : Bool) (e : Entry) : Entry :=
  let e1 := releaseRows rb .done (updTow rb (voidedAs reason (mine && !(e.tow.any (·.selfVoided)))) e)
  { e1 with res := { e1.res with
      mismatch := e1.res.mismatch || reason == voidMismatch, timeout := e1.res.timeout || reason == voidTimeout && mine } }

theorem voidBy_same (rb reason : Nat) (mine : Bool) (e : Entry) : SameCommand e (voidBy rb reason mine e) := by
  constructor <;> rfl

theorem towAt_voidBy {rb : Nat} (h : towAt e rb = some k) (reason : Nat) (mine : Bool) :
    towAt (voidBy rb reason mine e) rb = some (voidedAs reason (mine && !(e.tow.any (·.selfVoided))) k) :=
  towAt_updTow (fun _ => rfl) h

/-- A VOID message, its direction, its reason and the place that it goes to. -/
def VoidNote (ret : Bool) (reason : Nat) (place : TowPlace) (m : TowMsg) : Prop :=
  m.isVoid = true ∧ m.ret = ret ∧ m.reason = reason ∧ m.dest = place

/-- The VOID messages of a row block: toward the head, and toward the tail where no forward message has left. -/
def voidNotes (rb reason : Nat) (k : TowBlock) (x : Entry) (s : State) : State :=
  let s2 := if 0 < (placeOf s x).1 then sendTow x rb true true reason [] s else s
  if (placeOf s x).1 + 1 < (placeOf s x).2 ∧ ¬k.sentFwd then sendTow x rb false true reason [] s2 else s2

theorem voidNotes_sent (rb reason : Nat) (k : TowBlock) (x : Entry) (s : State) :
    ∃ ms, Sent ms s (voidNotes rb reason k x s) ∧
      (0 < (placeOf s x).1 → ∃ m ∈ ms, VoidNote true reason (memberPlace s (x.coll.getD (0, 0)).1 ((placeOf s x).1 - 1)) m) ∧
      ((placeOf s x).1 + 1 < (placeOf s x).2 → k.sentFwd = false →
        ∃ m ∈ ms, VoidNote false reason (memberPlace s (x.coll.getD (0, 0)).1 ((placeOf s x).1 + 1)) m) := by
  have h1 : Sent _ s _ := Sent.ite fun _ : 0 < (placeOf s x).1 => sendTow_sent x rb true true reason [] s
  have h2 := Sent.ite fun _ : (placeOf s x).1 + 1 < (placeOf s x).2 ∧ ¬k.sentFwd =>
    sendTow_sent x rb false true reason [] (if 0 < (placeOf s x).1 then sendTow x rb true true reason [] s else s)
  refine ⟨_, h1.trans h2, fun hp => ?_, fun hp hf => ?_⟩
  · rw [if_pos hp]
    exact ⟨_, List.mem_append_left _ (List.mem_singleton_self _), rfl, rfl, rfl, rfl⟩
  · rw [if_pos (⟨hp, by simp [hf]⟩ : _ ∧ ¬k.sentFwd)]
    refine ⟨_, List.mem_append_right _ (List.mem_singleton_self _), rfl, rfl, rfl, ?_⟩
    exact (h1.seat.memberPlace ..).trans (by rw [if_neg (by decide), h1.seat.placeOf rfl])

theorem voidBlock_void {rb : Nat} (hk : towAt e rb = some k) (hv : k.isVoid = true) (reason : Nat) (mine : Bool) (delta : Nat) :
    voidBlock rb reason mine delta e s = s := by
  unfold voidBlock
  rw [hk]
  exact if_pos hv

/-- A row block that is open is voided, its VOID messages leave, and what its outputs had, or have now, is written as poisoned. -/
theorem voidBlock_open {rb : Nat} (hk : towAt e rb = some k) (hv : k.isVoid = false) (reason : Nat) (mine : Bool) (delta : Nat) :
    voidBlock rb reason mine delta e s =
      let x := voidBy rb reason mine e
      let w := voidNotes rb reason k x (setEntry x s)
      if k.final.isSome then poisonBlock rb (entryNow x w) w
      else if isChain e.desc ∧ e.life = .ran ∧ k.own.isSome then emitInto rb (voidResults e.desc) flagNone delta (entryNow x w) w
      else w := by
  unfold voidBlock
  rw [hk]
  exact if_neg (by simp [hv])

/-- From `s` over `w`, where its VOID messages have left, to `u`, where its outputs are poisoned, an open row block was voided. -/
structure Voids (rb reason : Nat) (mine : Bool) (e : Entry) (k : TowBlock) (s w u : State) : Prop where
  sent : ∃ ms, Sent ms (setEntry (voidBy rb reason mine e) s) w
  head : 0 < (placeOf s e).1 →
    ∃ x ∈ u.tow.tx, VoidNote true reason (memberPlace s (e.coll.getD (0, 0)).1 ((placeOf s e).1 - 1)) x.msg
  tail : (placeOf s e).1 + 1 < (placeOf s e).2 → k.sentFwd = false →
    ∃ x ∈ u.tow.tx, VoidNote false reason (memberPlace s (e.coll.getD (0, 0)).1 ((placeOf s e).1 + 1)) x.msg
  found : findEntry w e.berth e.seq = some (voidBy rb reason mine e)
  wrote : Wrote (voidBy rb reason mine e) w u
  poison : k.final ≠ none → u = poisonBlock rb (voidBy rb reason mine e) w
  quiet : k.final = none → isChain e.desc = false → u = w

theorem voidBlock_voids {rb : Nat} (hf : (findEntry s e.berth e.seq).isSome) (hk : towAt e rb = some k) (hv : k.isVoid = false) (reason : Nat)
    (mine : Bool) (delta : Nat) : ∃ w, Voids rb reason mine e k s w (voidBlock rb reason mine delta e s) := by
  obtain ⟨ms, hs, hhead, htail⟩ := voidNotes_sent rb reason k (voidBy rb reason mine e) (setEntry (voidBy rb reason mine e) s)
  rw [voidBlock_open hk hv]
  extract_lets x w
  have hfound : findEntry w x.berth x.seq = some x := (hs.found ..).trans (setEntry_found x s hf)
  have hsome := Option.isSome_of_mem hfound
  rw [entryNow_found hfound]
  have hwrote : Wrote x w (if k.final.isSome then poisonBlock rb x w else
      if isChain e.desc ∧ e.life = .ran ∧ k.own.isSome then emitInto rb (voidResults e.desc) flagNone delta x w else w) := by
    split
    · exact poisonBlock_wrote hsome rb
    · split
      · exact emitInto_wrote hsome ..
      · exact .refl hfound
  refine ⟨w, ⟨ms, hs⟩, fun hp => ?_, fun hp hq => ?_, hfound, hwrote, fun hz => ?_, fun hz hc => ?_⟩
  · rw [hwrote.tow]
    exact hs.noted (hhead hp)
  · rw [hwrote.tow]
    exact hs.noted (htail hp hq)
  · rw [if_pos (Option.isSome_iff_ne_none.2 hz)]
  · rw [if_neg (by simp [hz]), if_neg (by simp [hc])]

section

variable {rb reason : Nat} {mine : Bool} {w : State} (h : Voids rb reason mine e k s w u)

include h

theorem Voids.crs : u.crs = s.crs := by
  obtain ⟨ms, hs⟩ := h.sent
  exact h.wrote.crs.trans hs.seat.crs

theorem Voids.man : u.man = s.man := by
  obtain ⟨ms, hs⟩ := h.sent
  exact h.wrote.man.trans hs.seat.man

theorem Voids.linkFail : u.tow.linkFail = s.tow.linkFail := by
  obtain ⟨ms, hs⟩ := h.sent
  rw [h.wrote.tow, hs.linkFail]
  rfl

/-- The command after its row block was voided. -/
theorem Voids.entry (hk : towAt e rb = some k) : ∃ y, findEntry u e.berth e.seq = some y ∧
    towAt y rb = some (voidedAs reason (mine && !(e.tow.any (·.selfVoided))) k) ∧ y.life = e.life ∧
    y.res.refusedMsg = e.res.refusedMsg ∧ y.res.mismatch = (e.res.mismatch || reason == voidMismatch) ∧
    y.res.timeout = (e.res.timeout || reason == voidTimeout && mine) := by
  obtain ⟨y, hy, hyx⟩ := h.wrote.entry
  refine ⟨y, hy, ?_⟩
  rw [hyx]
  exact ⟨towAt_voidBy hk reason mine, rfl, rfl, rfl, rfl⟩

/-- Where a command is no CHAIN command and the block has no final record, the scratchpad, the array and the events stay. -/
theorem Voids.still (hc : isChain e.desc = false) (hz : k.final = none) : SameMemory s u ∧ u.arr = s.arr ∧ u.evt = s.evt := by
  obtain ⟨ms, hs⟩ := h.sent
  rw [h.quiet hz hc]
  exact ⟨sameMemory_of_mem (congrArg Scratch.mem hs.sp), hs.arr, hs.evt⟩

/-- A block with its final record: what may have been written is written again, as poisoned. -/
theorem Voids.poisoned (hk : towAt e rb = some k) (hz : k.final ≠ none) (hy : findEntry u e.berth e.seq = some y) :
    ∃ y0, findEntry w e.berth e.seq = some y0 ∧ voided y0 rb = true ∧ y0.desc = e.desc ∧ y0.emitted = e.emitted ∧ y0.life = e.life ∧
      u = poisonBlock rb y0 w ∧ (writtenEmits rb y0 w ≠ [] → y.res.poisonOut = true) ∧
      (∀ x r, writtenEmits rb y0 w = [x] → (e.desc.slot x.slot).job = false → emitRuns w y0 x = [r] →
        ∀ l ∈ unitsOf r.addr r.bytes.length, l ∈ r.bad → lineMarked u l = true) := by
  have hpoison := h.poison hz
  have hdesc := (voidBy_same rb reason mine e).desc
  refine ⟨voidBy rb reason mine e, h.found, voided_of_towAt (towAt_voidBy hk reason mine) rfl, hdesc, rfl, rfl, hpoison, fun hne => ?_,
    fun x r hx hj hr l hl hb => ?_⟩
  · rw [hpoison] at hy
    exact poisonBlock_poisonOut (e := voidBy rb reason mine e) (Option.isSome_of_mem h.found) hne hy
  · rw [← hdesc] at hj
    rw [hpoison]
    exact poisonBlock_marks hx hj hr hl hb

end

end Sys2Proof.Machine
end

section
/-! SUPPORT. Abandoned hops and expired timers: which row block they void, and the messages of a command that has completed (R325, R334,
R335). -/

namespace Sys2Proof.Machine

variable {s t u : State} {e : Entry} {k : TowBlock} {m : TxMsg} {id b q rb : Nat}

/-! ## The message that is gone -/

/-- The message of an abandoned hop is gone, and LINK_FAIL is set. -/
def hopGone (id : Nat) (s : State) : State :=
  nextSnapshot (pump { s with tow := { s.tow with tx := s.tow.tx.filter (fun x => x.id != id), linkFail := true } })

theorem hopGone_frame (id : Nat) (s : State) : hopGone id s = { s with tow := { s.tow with
    tx := (hopGone id s).tow.tx, linkFail := true, reading := (hopGone id s).tow.reading, snapQueued := (hopGone id s).tow.snapQueued } } := by
  unfold hopGone nextSnapshot
  split
  · split <;> rfl
  · rfl

theorem hopGone_other (id : Nat) (s : State) : ∀ x ∈ (hopGone id s).tow.tx, x.id ≠ id := by
  intro x hx
  have hx : (x.id, x.msg) ∈ (s.tow.tx.filter (fun x => x.id != id)).map (fun x => (x.id, x.msg)) := by
    rw [hopGone, nextSnapshot_tx] at hx
    rw [← pumpTx_msgs]
    exact List.mem_map_of_mem hx
  obtain ⟨y, hy, hyx⟩ := List.mem_map.1 hx
  have hid : y.id = x.id := congrArg Prod.fst hyx
  rw [← hid]
  simpa using (List.mem_filter.1 hy).2

theorem hopGone_seat (id : Nat) (s : State) : SameSeat s (hopGone id s) := by
  rw [hopGone_frame]
  exact ⟨rfl, rfl, rfl, rfl⟩

theorem hopGone_onlyTow (id : Nat) (s : State) : hopGone id s = { s with tow := (hopGone id s).tow } := by
  rw [hopGone_frame]

theorem hopGone_linkFail (id : Nat) (s : State) : (hopGone id s).tow.linkFail = true := by rw [hopGone_frame]

theorem hopGone_found (id : Nat) (s : State) (b q : Nat) : findEntry (hopGone id s) b q = findEntry s b q :=
  findEntry_congr (by rw [hopGone_frame])

/-! ## HOP_ABANDONED by the owner of the message -/

theorem hopAbandoned_partner (hm : mainStopped s = false) (hf : s.tow.tx.find? (fun t => t.id == id) = some m) (ho : m.owner = none)
    (env : RunEnv) : exec (.hopAbandoned id env) s = .next (hopGone id s) := by
  change execHopAbandoned id env s = _
  simp [execHopAbandoned, hm, hf, ho, hopGone]

theorem hopAbandoned_completed (hm : mainStopped s = false) (hf : s.tow.tx.find? (fun t => t.id == id) = some m)
    (ho : m.owner = some (b, q, rb)) (he : findEntry s b q = none) (env : RunEnv) :
    exec (.hopAbandoned id env) s = .next (if m.msg.isVoid then hopGone id s else voidLate m.msg (hopGone id s)) := by
  rw [← hopGone_found id] at he
  change execHopAbandoned id env s = _
  unfold hopGone at *
  simp [execHopAbandoned, hm, hf, ho, he]

theorem hopAbandoned_own (hm : mainStopped s = false) (hf : s.tow.tx.find? (fun t => t.id == id) = some m)
    (ho : m.owner = some (b, q, rb)) (he : findEntry s b q = some e) (env : RunEnv) :
    exec (.hopAbandoned id env) s = .next (settleRows (voidHop rb m.msg env.storeDelta e (hopGone id s))) := by
  rw [← hopGone_found id] at he
  change execHopAbandoned id env s = _
  unfold hopGone at *
  simp [execHopAbandoned, hm, hf, ho, he]

theorem hopAbandoned_nothing (h : mainStopped s = true ∨ s.tow.tx.find? (fun t => t.id == id) = none) (env : RunEnv) :
    exec (.hopAbandoned id env) s = .next s := by
  change execHopAbandoned id env s = _
  unfold execHopAbandoned
  rcases h with h | h
  · rw [if_pos h]
  · rw [h]
    exact congrArg Host.Outcome.next (ite_self s)

/-! ## The messages of a command that has completed -/

/-- A VOID message with the header of an abandoned one (log entry 174). -/
def lateNote (m : TowMsg) (ret : Bool) (cp : Nat) (s : State) : TowMsg :=
  { m with ret := ret, isVoid := true, reason := voidLink, payload := [], source := ownPlace s, dest := memberPlace s m.group cp }

theorem voidLate_sent (m : TowMsg) (s : State) : ∃ ms, Sent ms s (voidLate m s) ∧
    (0 < m.senderCp → ∃ x ∈ ms, VoidNote true 3 (memberPlace s m.group (m.senderCp - 1)) x) ∧
    (m.ret = false → m.senderCp + 1 < ((memberOf s m.group).getD (0, 1)).2 →
      ∃ x ∈ ms, VoidNote false 3 (memberPlace s m.group (m.senderCp + 1)) x) := by
  have h1 := Sent.ite fun _ : 0 < m.senderCp => sendMsg_sent (lateNote m true (m.senderCp - 1) s) none false s
  generalize hs : (if 0 < m.senderCp then sendMsg (lateNote m true (m.senderCp - 1) s) none false s else s) = s1 at h1
  have h2 := Sent.ite fun _ : !m.ret ∧ m.senderCp + 1 < ((memberOf s m.group).getD (0, 1)).2 =>
    sendMsg_sent (lateNote m false (m.senderCp + 1) s1) none false s1
  subst hs
  refine ⟨_, h1.trans h2, fun hp => ?_, fun hr hp => ?_⟩
  · rw [if_pos hp]
    exact ⟨_, List.mem_append_left _ (List.mem_singleton_self _), rfl, rfl, rfl, rfl⟩
  · rw [if_pos (⟨by simp [hr], hp⟩ : !m.ret ∧ _)]
    exact ⟨_, List.mem_append_right _ (List.mem_singleton_self _), rfl, rfl, rfl, h1.seat.memberPlace ..⟩

/-! ## The row block of the message -/

theorem voidHop_arrived {x : TowMsg} (h : ¬(x.ret = false ∧ x.isVoid = false)) (delta : Nat) :
    voidHop rb x delta e s = voidBlock rb voidLink true delta e s :=
  if_pos (by revert h; cases x.ret <;> cases x.isVoid <;> decide)

/-- A command whose forward message of a row block has not left. -/
def unsent (rb : Nat) (e : Entry) : Entry := updTow rb (fun x => { x with sentFwd := false }) e

theorem towAt_unsent (hk : towAt e rb = some k) : towAt (unsent rb e) rb = some { k with sentFwd := false } := towAt_updTow (fun _ => rfl) hk

theorem voidHop_lostOpen {x : TowMsg} (h : x.ret = false ∧ x.isVoid = false) (hk : towAt e rb = some k) (hv : k.isVoid = false) (delta : Nat) :
    voidHop rb x delta e s = voidBlock rb voidLink true delta (unsent rb e) (setEntry (unsent rb e) s) :=
  (if_neg (by simp [h])).trans (if_neg (by simp [hk, hv]))

/-- A forward message lost, whose block had been voided behind it: the VOID goes toward the tail in its place. -/
theorem voidHop_lostVoid {x : TowMsg} (h : x.ret = false ∧ x.isVoid = false) (hk : towAt e rb = some k) (hv : k.isVoid = true) (delta : Nat) :
    voidHop rb x delta e s = if (placeOf s e).1 + 1 < (placeOf s e).2
      then sendTow (unsent rb e) rb false true voidLink [] (setEntry (unsent rb e) s) else setEntry (unsent rb e) s := by
  refine (if_neg (by simp [h])).trans ?_
  by_cases hp : (placeOf s e).1 + 1 < (placeOf s e).2
  · exact (if_pos (by simp [hk, hv, hp])).trans (if_pos hp).symm
  · exact (if_neg (by simp [hp])).trans ((voidBlock_void (towAt_unsent hk) hv ..).trans (if_neg hp).symm)

/-- An open block: it is voided, and a forward message that did not arrive counts as not sent. -/
theorem voidHop_open {x : TowMsg} (hf : findEntry s e.berth e.seq = some e) (hk : towAt e rb = some k) (hv : k.isVoid = false) (delta : Nat) :
    ∃ bs j t w, towAt { e with tow := bs } rb = some j ∧ j.final = k.final ∧
      ((x.ret = false ∧ x.isVoid = false) ∨ k.sentFwd = false → j.sentFwd = false) ∧ t = { s with cq := t.cq } ∧
      Voids rb 3 true { e with tow := bs } j t w (voidHop rb x delta e s) := by
  have hsome := Option.isSome_of_mem hf
  by_cases h : x.ret = false ∧ x.isVoid = false
  · rw [voidHop_lostOpen h hk hv]
    obtain ⟨w, hw⟩ := voidBlock_voids (s := setEntry (unsent rb e) s) (Option.isSome_of_mem (setEntry_found (unsent rb e) s hsome))
      (towAt_unsent hk) hv 3 true delta
    exact ⟨_, _, _, w, towAt_unsent hk, rfl, fun _ => rfl, rfl, hw⟩
  · rw [voidHop_arrived h]
    obtain ⟨w, hw⟩ := voidBlock_voids hsome hk hv 3 true delta
    exact ⟨e.tow, k, s, w, hk, rfl, fun hs => hs.resolve_left h, rfl, hw⟩

/-- A void block: the entry alone changes, and of the towline what is sent. -/
theorem Sent.onlyEntry {ms : List TowMsg} {x : Entry} (hg : t = { s with tow := t.tow }) (h : Sent ms (setEntry x t) u) :
    OnlyEntry x.berth x.seq { s with tow := u.tow } u := by
  refine ⟨?_, fun b q hne => ?_⟩
  · rw [h.frame, hg]
    rfl
  · refine (h.found ..).trans ((findEntry_setEntry_other x b q fun hc => hne (Prod.ext hc.1 hc.2)).trans ?_)
    exact findEntry_congr (by rw [hg])

/-! ## TOWLINE_TIMER_EXPIRY -/

/-- A command with the timer of a row block stopped. -/
def timerStopped (rb : Nat) (e : Entry) : Entry := updTow rb (fun x => { x with timer := false }) e

theorem towAt_timerStopped (hk : towAt e rb = some k) : towAt (timerStopped rb e) rb = some { k with timer := false } :=
  towAt_updTow (fun _ => rfl) hk

theorem towTimerExpiry_running (hm : mainStopped s = false) (b : BitVec 5) (rb : Nat) (env : RunEnv) :
    exec (.towTimerExpiry b rb env) s = .next (settleRows (timerExpiry b.toNat rb env s)) :=
  congrArg Host.Outcome.next (if_neg (by simp [hm]))

theorem timerExpiry_void (hf : (berthEntries s b).find? (fun x => (towAt x rb).any (·.timer)) = some e) (hk : towAt e rb = some k)
    (hv : k.isVoid = true) (env : RunEnv) : timerExpiry b rb env s = setEntry (timerStopped rb e) s := by
  unfold timerExpiry
  rw [hf]
  dsimp only
  rw [hk]
  exact if_pos hv

/-- TOWLINE_TIMEOUT, once for a command. -/
def timeoutRaised (rb : Nat) (e : Entry) (s : State) : State :=
  if e.res.timeout then s
  else raise evTowlineTimeout (some (e.berth, e.seq)) ((e.coll.getD (0, 0)).1 + rowBlockField e.desc rb * 2 ^ 16) 0 s

theorem timerExpiry_open (hf : (berthEntries s e.berth).find? (fun x => (towAt x rb).any (·.timer)) = some e) (hk : towAt e rb = some k)
    (hv : k.isVoid = false) (env : RunEnv) : timerExpiry e.berth rb env s =
      voidBlock rb voidTimeout true env.storeDelta (timerStopped rb e) (setEntry (timerStopped rb e) (timeoutRaised rb e s)) := by
  unfold timerExpiry
  rw [hf]
  dsimp only
  rw [hk]
  exact if_neg (by simp [hv])

theorem timerExpiry_nothing (hf : (berthEntries s b).find? (fun x => (towAt x rb).any (·.timer)) = none) (env : RunEnv) :
    timerExpiry b rb env s = s := by
  unfold timerExpiry
  rw [hf]

theorem timeoutRaised_onlyEvents (rb : Nat) (e : Entry) (s : State) : OnlyEvents s (timeoutRaised rb e s) :=
  .ite rfl (raise_onlyEvents ..)

/-! ## BlocksAreVoided -/

/-- The VOID messages of a command that has completed leave by the message's own header. -/
theorem hopAbandoned_late (hm : mainStopped s = false) (hf : s.tow.tx.find? (fun t => t.id == id) = some m)
    (ho : m.owner = some (b, q, rb)) (he : findEntry s b q = none) (hv : m.msg.isVoid = false) (env : RunEnv) :
    ∃ ms t, exec (.hopAbandoned id env) s = .next t ∧ Sent ms (hopGone id s) t ∧
      (0 < m.msg.senderCp → ∃ x ∈ t.tow.tx, VoidNote true 3 (memberPlace s m.msg.group (m.msg.senderCp - 1)) x.msg) ∧
      (m.msg.ret = false → m.msg.senderCp + 1 < ((memberOf s m.msg.group).getD (0, 1)).2 →
        ∃ x ∈ t.tow.tx, VoidNote false 3 (memberPlace s m.msg.group (m.msg.senderCp + 1)) x.msg) := by
  obtain ⟨ms, hs, hhead, htail⟩ := voidLate_sent m.msg (hopGone id s)
  simp only [(hopGone_seat id s).memberPlace, (hopGone_seat id s).memberOf] at hhead htail
  refine ⟨ms, _, (hopAbandoned_completed hm hf ho he env).trans (congrArg _ (if_neg (by simp [hv]))), hs, fun hp => ?_, fun hr hp => ?_⟩
  · exact hs.noted (hhead hp)
  · exact hs.noted (htail hr hp)

/-- The row block that was open is voided with the reason LINK. -/
theorem hopAbandoned_open (hm : mainStopped s = false) (hf : s.tow.tx.find? (fun t => t.id == id) = some m)
    (ho : m.owner = some (b, q, rb)) (he : findEntry s b q = some e) (hk : towAt e rb = some k) (hv : k.isVoid = false) (env : RunEnv) :
    ∃ u y v, exec (.hopAbandoned id env) s = .next (settleRows u) ∧ u.tow.linkFail = true ∧
      findEntry u b q = some y ∧ towAt y rb = some v ∧ v.isVoid = true ∧ v.reason = 3 ∧ v.fwdHeld = none ∧ y.life = e.life ∧
      (0 < (placeOf s e).1 →
        ∃ x ∈ u.tow.tx, VoidNote true 3 (memberPlace s (e.coll.getD (0, 0)).1 ((placeOf s e).1 - 1)) x.msg) ∧
      ((placeOf s e).1 + 1 < (placeOf s e).2 → ((m.msg.ret = false ∧ m.msg.isVoid = false) ∨ k.sentFwd = false) →
        ∃ x ∈ u.tow.tx, VoidNote false 3 (memberPlace s (e.coll.getD (0, 0)).1 ((placeOf s e).1 + 1)) x.msg) ∧
      u.crs = s.crs ∧ u.man = s.man ∧ (isChain e.desc = false → k.final = none → SameMemory s u ∧ u.arr = s.arr) ∧
      (k.final ≠ none → ∃ y0 w, w.sp = s.sp ∧ w.man = s.man ∧ findEntry w b q = some y0 ∧ voided y0 rb = true ∧ y0.desc = e.desc ∧
        y0.emitted = e.emitted ∧ y0.life = e.life ∧ u = poisonBlock rb y0 w ∧ (writtenEmits rb y0 w ≠ [] → y.res.poisonOut = true) ∧
        (∀ x r, writtenEmits rb y0 w = [x] → (e.desc.slot x.slot).job = false → emitRuns w y0 x = [r] →
          ∀ l ∈ unitsOf r.addr r.bytes.length, l ∈ r.bad → lineMarked u l = true)) := by
  obtain ⟨-, rfl, rfl⟩ := findEntry_mem he
  have hg := hopGone_onlyTow id s
  have hseat := hopGone_seat id s
  obtain ⟨bs, j, t, w, hj, hfin, hsent, ht, hw⟩ := voidHop_open (x := m.msg) ((hopGone_found id s ..).trans he) hk hv env.storeDelta
  generalize hu : voidHop rb m.msg env.storeDelta e (hopGone id s) = u at hw
  have hts : SameSeat s t := hseat.trans (by rw [ht]; exact ⟨rfl, rfl, rfl, rfl⟩)
  have htsp : t.sp = s.sp ∧ t.arr = s.arr := by
    rw [ht, hg]
    exact ⟨rfl, rfl⟩
  have hplace : placeOf t { e with tow := bs } = placeOf s e := hts.placeOf rfl
  obtain ⟨y, hy, hyv, hlife, -⟩ := hw.entry hj
  have hhead := hw.head
  have htail := hw.tail
  rw [hplace, hts.memberPlace] at hhead htail
  refine ⟨u, y, _, (hopAbandoned_own hm hf ho he env).trans (by rw [hu]), ?_, hy, hyv, rfl, rfl, rfl, hlife, hhead,
    fun hp hl => htail hp (hsent hl), hw.crs.trans hts.crs, hw.man.trans hts.man, fun hc hz => ?_, fun hz => ?_⟩
  · rw [hw.linkFail, ht]
    exact hopGone_linkFail id s
  · obtain ⟨hmem, harr, -⟩ := hw.still hc (hfin.trans hz)
    exact ⟨fun a => (hmem a).trans (by rw [spByte, htsp.1, spByte]), harr.trans htsp.2⟩
  · obtain ⟨ms, hs⟩ := hw.sent
    obtain ⟨y0, hy0⟩ := hw.poisoned hj (by rw [hfin]; exact hz) hy
    exact ⟨y0, w, hs.sp.trans htsp.1, hs.seat.man.trans hts.man, hy0⟩

/-- A row block that was void stays as it is, but for the VOID that a lost forward message leaves to send. -/
theorem hopAbandoned_void (hm : mainStopped s = false) (hf : s.tow.tx.find? (fun t => t.id == id) = some m)
    (ho : m.owner = some (b, q, rb)) (he : findEntry s b q = some e) (hk : towAt e rb = some k) (hv : k.isVoid = true) (env : RunEnv) :
    ∃ u, exec (.hopAbandoned id env) s = .next (settleRows u) ∧ u.tow.linkFail = true ∧ OnlyEntry b q { s with tow := u.tow } u ∧
      (m.msg.ret = false ∧ m.msg.isVoid = false → findEntry u b q = some (unsent rb e)) ∧
      (¬(m.msg.ret = false ∧ m.msg.isVoid = false) → findEntry u b q = some e) ∧
      (m.msg.ret = false ∧ m.msg.isVoid = false → (placeOf s e).1 + 1 < (placeOf s e).2 →
        ∃ x ∈ u.tow.tx, VoidNote false 3 (memberPlace s (e.coll.getD (0, 0)).1 ((placeOf s e).1 + 1)) x.msg) := by
  obtain ⟨-, rfl, rfl⟩ := findEntry_mem he
  have hg := hopGone_onlyTow id s
  have hseat := hopGone_seat id s
  have hfound := (hopGone_found id s e.berth e.seq).trans he
  refine ⟨_, hopAbandoned_own hm hf ho he env, ?_⟩
  by_cases hl : m.msg.ret = false ∧ m.msg.isVoid = false
  · rw [voidHop_lostVoid hl hk hv, hseat.placeOf rfl]
    have hs := Sent.ite fun _ : (placeOf s e).1 + 1 < (placeOf s e).2 =>
      sendTow_sent (unsent rb e) rb false true voidLink [] (setEntry (unsent rb e) (hopGone id s))
    have honly := hs.onlyEntry hg
    refine ⟨hs.linkFail.trans (hopGone_linkFail id s), honly,
      fun _ => (hs.found ..).trans (setEntry_found (unsent rb e) _ (Option.isSome_of_mem hfound)), fun h => absurd hl h, fun _ hp => ?_⟩
    refine hs.noted ?_
    rw [if_pos hp]
    refine ⟨_, List.mem_singleton_self _, rfl, rfl, rfl, ?_⟩
    change memberPlace (hopGone id s) _ ((placeOf (hopGone id s) e).1 + 1) = _
    rw [hseat.memberPlace, hseat.placeOf rfl]
    rfl
  · rw [voidHop_arrived hl, voidBlock_void hk hv]
    exact ⟨hopGone_linkFail id s, ⟨by rw [hg], fun b q _ => (hopGone_found id s b q).trans (findEntry_congr rfl)⟩,
      fun h => absurd h hl, fun _ => hfound, fun h => absurd h hl⟩

theorem towTimerExpiry_open (hm : mainStopped s = false) {b : BitVec 5} (hb : e.berth = b.toNat)
    (hf : (berthEntries s b.toNat).find? (fun x => (towAt x rb).any (·.timer)) = some e) (he : findEntry s b.toNat e.seq = some e)
    (hk : towAt e rb = some k) (hv : k.isVoid = false) (env : RunEnv) :
    ∃ u y v, exec (.towTimerExpiry b rb env) s = .next (settleRows u) ∧
      findEntry u b.toNat e.seq = some y ∧ towAt y rb = some v ∧ v.isVoid = true ∧ v.reason = 2 ∧ (k.final = none → v.timer = false) ∧
      y.res.timeout = true ∧ u.crs = s.crs ∧ u.man = s.man ∧
      (isChain e.desc = false → k.final = none → SameMemory s u ∧ u.arr = s.arr ∧ (e.res.timeout = true → u.evt = s.evt) ∧
        (e.res.timeout = false → u.evt.pending = s.evt.pending ||| BitVec.ofNat 15 (2 ^ 0x0B))) := by
  rw [← hb] at hf he ⊢
  have ht := timeoutRaised_onlyEvents rb e s
  have hfound : findEntry (setEntry (timerStopped rb e) (timeoutRaised rb e s)) (timerStopped rb e).berth (timerStopped rb e).seq =
      some (timerStopped rb e) := setEntry_found _ _ (Option.isSome_of_mem ((findEntry_congr (by rw [ht])).trans he))
  obtain ⟨w, hw⟩ := voidBlock_voids (Option.isSome_of_mem hfound) (towAt_timerStopped hk) hv 2 true env.storeDelta
  obtain ⟨y, hy, hyv, -, -, -, hto⟩ := hw.entry (towAt_timerStopped hk)
  refine ⟨_, y, _, ?_, hy, hyv, rfl, rfl, fun hz => ?_, hto.trans (Bool.or_true _), hw.crs.trans ?_, hw.man.trans ?_, fun hc hz => ?_⟩
  · rw [towTimerExpiry_running hm, ← hb, timerExpiry_open hf hk hv]
    rfl
  · simp [voidedAs, hz]
  · rw [setEntry_crs, ht]
  · rw [setEntry_man, ht]
  · obtain ⟨hmem, harr, hevt⟩ := hw.still hc hz
    refine ⟨fun a => (hmem a).trans ?_, harr.trans ?_, fun h => hevt.trans ?_, fun h => (congrArg _ hevt).trans ?_⟩
    · rw [ht]
      rfl
    · rw [ht]
      rfl
    · rw [setEntry_evt, timeoutRaised, if_pos h]
    · rw [setEntry_evt, timeoutRaised, if_neg (by simp [h])]
      exact raise_sets_pending (mainDown_of_running hm) ..

/-- Settles O48, by the message of the hop, its owner and the state of the row block, and for a timer by the state of its row block. -/
theorem blocksAreVoided : Obligations.BlocksAreVoided := by
  unfold Obligations.BlocksAreVoided
  refine ⟨fun s id env m hm hf => ⟨fun h => ?_, fun b q rb ho he hv => ?_, fun b q rb e k ho he hk => ⟨fun hv => ?_, fun hv => ?_⟩⟩,
    fun s id env h => hopAbandoned_nothing h env, fun s b rb env e k hm hf he hk => ⟨fun hv => ?_, fun hv => ?_⟩,
    fun s b rb env => ⟨fun hm => ?_, fun hm hf => ?_⟩⟩
  · refine ⟨hopGone id s, ?_, hopGone_linkFail id s, hopGone_other id s, hopGone_onlyTow id s, by rw [hopGone_frame]⟩
    rcases h with ho | ⟨hv, b, q, rb, ho, he⟩
    · exact hopAbandoned_partner hm hf ho env
    · exact (hopAbandoned_completed hm hf ho he env).trans (congrArg _ (if_pos hv))
  · obtain ⟨ms, t, ht, hs, hhead, htail⟩ := hopAbandoned_late hm hf ho he hv env
    refine ⟨t, ht, hs.linkFail.trans (hopGone_linkFail id s), fun hid x hx => ?_, ?_, hhead, htail⟩
    · rcases hs.ids x hx with ⟨y, hy, hyx⟩ | hx
      · rw [← hyx]
        exact hopGone_other id s y hy
      · rw [hopGone_frame] at hx
        exact (hid.trans_le hx).ne'
    · rw [hs.frame, hopGone_onlyTow]
  · exact hopAbandoned_open hm hf ho he hk hv env
  · exact hopAbandoned_void hm hf ho he hk hv env
  · obtain ⟨-, hb, -⟩ := findEntry_mem he
    refine ⟨_, timerStopped rb e, (towTimerExpiry_running hm ..).trans (by rw [timerExpiry_void hf hk hv]), ?_,
      towAt_timerStopped hk, ?_⟩
    · rw [← hb] at he ⊢
      exact setEntry_found (timerStopped rb e) s (Option.isSome_of_mem he)
    · rw [← hb]
      exact setEntry_onlyEntry (timerStopped rb e) s
  · obtain ⟨-, hb, -⟩ := findEntry_mem he
    exact towTimerExpiry_open hm hb hf he hk hv env
  · exact congrArg Host.Outcome.next (if_pos hm)
  · rw [towTimerExpiry_running hm, timerExpiry_nothing hf]

end Sys2Proof.Machine
end

section
/-! SUPPORT. Towline messages that arrive: what the tag, the crossing and the collective of a message decide, and what becomes of one that its
command expects and of one that is refused (R322, R328, R331, R332, R336). -/

namespace Sys2Proof.Machine

variable {s t u : State} {e x : Entry} {k : TowBlock} {m : TowMsg} {env : RunEnv} {rb : Nat}

/-! ## By the destination and the kind (R322, Table 14-4) -/

theorem towMessage_discarded (h : mainStopped s = true ∨ s.pwr.draining ≠ none) (m : TowMsg) (env : RunEnv) :
    exec (.towMessage m env) s = .next s :=
  congrArg Host.Outcome.next (if_pos (h.imp_right Option.isSome_iff_ne_none.2))

theorem towMessage_relayed (hm : mainStopped s = false) (hd : s.pwr.draining = none) (ho : m.dest ≠ ownPlace s) (env : RunEnv) :
    exec (.towMessage m env) s = .next (sendMsg m none true (rxWhole (towBursts m) s)) := by
  change execTowMessage m env s = _
  simp [execTowMessage, hm, hd, ho]

/-- A message for this engine of a kind other than MIRROR leaves the partial count. -/
theorem towMessage_own (hm : mainStopped s = false) (hd : s.pwr.draining = none) (ho : m.dest = ownPlace s) (h5 : m.kind ≠ 5) (env : RunEnv) :
    exec (.towMessage m env) s = .next (takeMsg m env (rxWhole (towBursts m) s)) := by
  change execTowMessage m env s = _
  simp [execTowMessage, hm, hd, ho, h5]

theorem towMessage_mirror (hm : mainStopped s = false) (hd : s.pwr.draining = none) (ho : m.dest = ownPlace s) (h5 : m.kind = 5)
    {n : Snapshot} (hn : m.snap = some n) (env : RunEnv) : exec (.towMessage m env) s = exec (.mirrorReceived n) s := by
  rw [mirrorReceived_taken hm hd]
  change execTowMessage m env s = _
  simp [execTowMessage, hm, hd, ho, h5, takeMsg, hn]

theorem takeMsg_collective (h : m.kind < 5) (env : RunEnv) (s : State) : takeMsg m env s = settleRows (receiveMsg m env s) := by
  unfold takeMsg
  split
  · omega
  · omega
  · omega
  · rfl

theorem takeMsg_request (h : m.kind = 6) (env : RunEnv) (s : State) : takeMsg m env s = receiveReq m s := by
  simp [takeMsg, h]

theorem takeMsg_restoreData (h : m.kind = 7) (env : RunEnv) (s : State) : takeMsg m env s = receiveData m s := by
  simp [takeMsg, h]

theorem settleRows_nothing (h : ∀ e ∈ s.cq.entries, runsApart e.desc = true → e.started = true → e.life = .ran) : settleRows s = s := by
  unfold settleRows
  rw [List.filter_eq_nil_iff.2 fun e he => ?_]
  · rfl
  · have := h e he
    simp only [Bool.and_eq_true, decide_eq_true_iff]
    tauto

/-! ## By the tag, the crossing and the collective (R332) -/

/-- A message held. -/
def heldBehind (m : TowMsg) (s : State) : State := { s with tow := { s.tow with held := s.tow.held ++ [m] } }

theorem receiveMsg_now (ha : s.man.active ≠ none) (ht : m.tag = activeTag s) (hc : m.crossing = s.crs.crossing) :
    receiveMsg m env s = checkColl m env s := (if_pos ⟨Option.isSome_iff_ne_none.2 ha, ht⟩).trans (if_pos hc)

theorem receiveMsg_next (ha : s.man.active ≠ none) (ht : m.tag = activeTag s) (hc : m.crossing = s.crs.crossing + 1) :
    receiveMsg m env s = heldBehind m s :=
  (if_pos ⟨Option.isSome_iff_ne_none.2 ha, ht⟩).trans ((if_neg (by omega)).trans (if_pos hc))

theorem receiveMsg_far (ha : s.man.active ≠ none) (ht : m.tag = activeTag s)
    (hc : m.crossing < s.crs.crossing ∨ s.crs.crossing + 1 < m.crossing) : receiveMsg m env s = refuseMsg m env s :=
  (if_pos ⟨Option.isSome_iff_ne_none.2 ha, ht⟩).trans ((if_neg (by omega)).trans (if_neg (by omega)))

/-- A message of another tag. -/
theorem receiveMsg_otherTag (h : s.man.active = none ∨ m.tag ≠ activeTag s) : receiveMsg m env s =
    if stagedTagHeld s m.tag then heldBehind m s
    else if priorTagOk s m.tag m.crossing m.landing then s
    else refuseMsg m env s :=
  if_neg (by rcases h with h | h <;> simp [h])

theorem checkColl_toCome (h : sget 0 s.tow.coll m.group ≤ m.coll) : checkColl m env s = heldBehind m s := if_pos h

/-- A message is of the kind, the rows and the length that a row block has. -/
def Fits (m : TowMsg) (e : Entry) (k : TowBlock) : Prop := m.kind = towKind e.desc ∧ m.rows = k.rows ∧
  m.payload.length = (if m.isVoid then 0 else if isChain e.desc then towRowBytes e.desc else k.rows * towRowBytes e.desc)

section

variable (hc : m.coll < sget 0 s.tow.coll m.group)

include hc

theorem checkColl_completed (he : towEntry s m = none) : checkColl m env s = s := by
  unfold checkColl
  rw [if_neg (by omega), he]

variable (he : towEntry s m = some e)

include he

theorem checkColl_ended (hn : endedEarly e = true) : checkColl m env s = s := by
  unfold checkColl
  rw [if_neg (by omega), he]
  exact if_pos hn

variable (hn : endedEarly e = false)

include hn

theorem checkColl_noBlock (hb : towBlockOf e m = none) : checkColl m env s = refuseMsg m env s := by
  unfold checkColl
  rw [if_neg (by omega), he]
  dsimp only
  rw [if_neg (by simp [hn]), hb]

/-- A message for a row block that its command has. -/
theorem checkColl_block (hb : towBlockOf e m = some k) : checkColl m env s =
    if k.isVoid then s
    else if m.kind ≠ towKind e.desc ∨ m.rows ≠ k.rows ∨
        m.payload.length ≠ (if m.isVoid then 0 else if isChain e.desc then towRowBytes e.desc else k.rows * towRowBytes e.desc) then
      refuseMsg m env s
    else if k.final.isSome ∨ (m.ret ∧ (placeOf s e).1 + 1 = (placeOf s e).2) ∨ (¬m.ret ∧ (placeOf s e).1 = 0) then s
    else acceptMsg m k env e s := by
  unfold checkColl
  rw [if_neg (by omega), he]
  dsimp only
  rw [if_neg (by simp [hn]), hb]

variable (hb : towBlockOf e m = some k) (hv : k.isVoid = false)

include hb

theorem checkColl_void (hv : k.isVoid = true) : checkColl m env s = s := (checkColl_block hc he hn hb).trans (if_pos hv)

include hv

theorem checkColl_misfit (h : ¬Fits m e k) : checkColl m env s = refuseMsg m env s :=
  (checkColl_block hc he hn hb).trans ((if_neg (by simp [hv])).trans (if_pos (by unfold Fits at h; tauto)))

theorem checkColl_over (h : Fits m e k) (ho : k.final ≠ none ∨ m.ret = true ∧ (placeOf s e).1 + 1 = (placeOf s e).2 ∨
    m.ret = false ∧ (placeOf s e).1 = 0) : checkColl m env s = s := by
  obtain ⟨h1, h2, h3⟩ := h
  refine (checkColl_block hc he hn hb).trans ((if_neg (by simp [hv])).trans ((if_neg (by simp [h1, h2, h3])).trans (if_pos ?_)))
  simpa [Option.isSome_iff_ne_none] using ho

theorem checkColl_fits (h : Fits m e k) (hz : k.final = none) (hr : m.ret = true → (placeOf s e).1 + 1 < (placeOf s e).2)
    (hf : m.ret = false → 0 < (placeOf s e).1) : checkColl m env s = acceptMsg m k env e s := by
  obtain ⟨h1, h2, h3⟩ := h
  refine (checkColl_block hc he hn hb).trans ((if_neg (by simp [hv])).trans ((if_neg (by simp [h1, h2, h3])).trans (if_neg ?_)))
  rintro (h | ⟨h, hp⟩ | ⟨h, hp⟩)
  · simp [hz] at h
  · have := hr h
    omega
  · have := hf (by simpa using h)
    omega

end

/-! ## A message refused (R332, R59) -/

/-- MISMATCH of a towline message. -/
def mismatchRaised (m : TowMsg) (cmd : Option (Nat × Nat)) (s : State) : State :=
  raise evMismatch cmd (1 + m.group % 32 * 8 + m.crossing * 2 ^ 16) m.tag s

/-- A command that a message was refused for. -/
def refusedFor (e : Entry) : Entry := { e with res := { e.res with refusedMsg := true, mismatch := true } }

/-- MISMATCH, once for a command. -/
def mismatchOnce (m : TowMsg) (e : Entry) (s : State) : State := if e.res.refusedMsg then s else mismatchRaised m (some (e.berth, e.seq)) s

theorem mismatchOnce_onlyEvents (m : TowMsg) (e : Entry) (s : State) : OnlyEvents s (mismatchOnce m e s) := .ite rfl (raise_onlyEvents ..)

theorem mismatchOnce_pending (h : mainStopped s = false) (m : TowMsg) (e : Entry) : (mismatchOnce m e s).evt.pending =
    if e.res.refusedMsg then s.evt.pending else s.evt.pending ||| BitVec.ofNat 15 (2 ^ 2) := by
  unfold mismatchOnce
  split
  · rfl
  · exact raise_sets_pending (mainDown_of_running h) ..

theorem refuseMsg_noCommand (h : towEntry s m = none) : refuseMsg m env s = mismatchRaised m none s := by
  unfold refuseMsg
  rw [h]
  rfl

theorem refuseMsg_noBlock (he : towEntry s m = some e) (hb : towBlockOf e m = none) :
    refuseMsg m env s = setEntry (refusedFor e) (mismatchOnce m e s) := by
  unfold refuseMsg
  rw [he]
  dsimp only
  rw [hb]
  rfl

theorem refuseMsg_block (he : towEntry s m = some e) (hb : towBlockOf e m = some k) : refuseMsg m env s =
    voidBlock k.rowBlock voidMismatch true env.storeDelta (refusedFor e) (setEntry (refusedFor e) (mismatchOnce m e s)) := by
  unfold refuseMsg
  rw [he]
  dsimp only
  rw [hb]
  rfl

/-- What a refusal leads to, by the command and the row block that the message names: for a message of `s` that is whole in `s0`. -/
def RefusedTo (ends : State → Prop) (m : TowMsg) (s s0 : State) : Prop :=
  (towEntry s m = none → ∃ u, ends u ∧ u = { s0 with evt := u.evt } ∧ u.evt.pending = s.evt.pending ||| BitVec.ofNat 15 (2 ^ 2)) ∧
  (∀ e, towEntry s m = some e → findEntry s e.berth e.seq = some e →
    let loud := fun (u : State) => u.evt.pending = if e.res.refusedMsg then s.evt.pending else s.evt.pending ||| BitVec.ofNat 15 (2 ^ 2)
    (∀ b, towBlockOf e m = some b → towAt e b.rowBlock = some b → b.isVoid = false → ∃ u y v, ends u ∧
      findEntry u e.berth e.seq = some y ∧ y.res.refusedMsg = true ∧ y.res.mismatch = true ∧ y.life = e.life ∧
      towAt y b.rowBlock = some v ∧ v.isVoid = true ∧ v.reason = 1 ∧ u.crs = s.crs ∧ u.man = s.man ∧
      (isChain e.desc = false → b.final = none → SameMemory s u ∧ u.arr = s.arr ∧ loud u)) ∧
    ((towBlockOf e m = none ∨ ∃ b, towBlockOf e m = some b ∧ towAt e b.rowBlock = some b ∧ b.isVoid = true) → ∃ u, ends u ∧
      findEntry u e.berth e.seq = some (refusedFor e) ∧ OnlyEntry e.berth e.seq { s0 with evt := u.evt } u ∧ loud u))

section

variable {ends : State → Prop} {n : Nat} (hm : mainStopped s = false) (h : ends (refuseMsg m env (rxWhole n s)))

include hm h

theorem refused_noCommand (he : towEntry s m = none) : ∃ u, ends u ∧ u = { rxWhole n s with evt := u.evt } ∧
    u.evt.pending = s.evt.pending ||| BitVec.ofNat 15 (2 ^ 2) := by
  rw [refuseMsg_noCommand (s := rxWhole n s) he] at h
  exact ⟨_, h, raise_onlyEvents .., raise_sets_pending (s := rxWhole n s) (mainDown_of_running hm) ..⟩

/-- The entry of the command alone changes, with the event. -/
theorem refused_noBlock (he : towEntry s m = some e) (hf : findEntry s e.berth e.seq = some e)
    (hb : towBlockOf e m = none ∨ ∃ b, towBlockOf e m = some b ∧ towAt e b.rowBlock = some b ∧ b.isVoid = true) : ∃ u, ends u ∧
      findEntry u e.berth e.seq = some (refusedFor e) ∧ OnlyEntry e.berth e.seq { rxWhole n s with evt := u.evt } u ∧
      u.evt.pending = if e.res.refusedMsg then s.evt.pending else s.evt.pending ||| BitVec.ofNat 15 (2 ^ 2) := by
  have hu : refuseMsg m env (rxWhole n s) = setEntry (refusedFor e) (mismatchOnce m e (rxWhole n s)) := by
    rcases hb with hb | ⟨b, hb, hk, hv⟩
    · exact refuseMsg_noBlock (s := rxWhole n s) he hb
    · exact (refuseMsg_block (s := rxWhole n s) he hb).trans (voidBlock_void (e := refusedFor e) hk hv ..)
  rw [hu] at h
  have ht := mismatchOnce_onlyEvents m e (rxWhole n s)
  refine ⟨_, h, setEntry_found (refusedFor e) _ ?_, ?_, mismatchOnce_pending (s := rxWhole n s) hm m e⟩
  · exact Option.isSome_of_mem ((findEntry_congr (by rw [ht]; rfl)).trans hf)
  · rw [setEntry_evt, ← ht]
    exact setEntry_onlyEntry (refusedFor e) _

/-- The row block that was open is voided. -/
theorem refused_block (he : towEntry s m = some e) (hf : findEntry s e.berth e.seq = some e) (hb : towBlockOf e m = some k)
    (hk : towAt e k.rowBlock = some k) (hv : k.isVoid = false) : ∃ u y v, ends u ∧
      findEntry u e.berth e.seq = some y ∧ y.res.refusedMsg = true ∧ y.res.mismatch = true ∧ y.life = e.life ∧
      towAt y k.rowBlock = some v ∧ v.isVoid = true ∧ v.reason = 1 ∧ u.crs = s.crs ∧ u.man = s.man ∧
      (isChain e.desc = false → k.final = none → SameMemory s u ∧ u.arr = s.arr ∧
        u.evt.pending = if e.res.refusedMsg then s.evt.pending else s.evt.pending ||| BitVec.ofNat 15 (2 ^ 2)) := by
  rw [refuseMsg_block (s := rxWhole n s) he hb] at h
  have ht := mismatchOnce_onlyEvents m e (rxWhole n s)
  have hfound : findEntry (setEntry (refusedFor e) (mismatchOnce m e (rxWhole n s))) (refusedFor e).berth (refusedFor e).seq =
      some (refusedFor e) :=
    setEntry_found _ _ (Option.isSome_of_mem ((findEntry_congr (by rw [ht]; rfl)).trans hf))
  obtain ⟨w, hw⟩ := voidBlock_voids (e := refusedFor e) (Option.isSome_of_mem hfound) hk hv 1 true env.storeDelta
  obtain ⟨y, hy, hyv, hlife, hmsg, hmis, -⟩ := hw.entry hk
  refine ⟨_, y, _, h, hy, hmsg, hmis.trans (Bool.true_or _), hlife, hyv, rfl, rfl, hw.crs.trans ?_, hw.man.trans ?_, fun hc hz => ?_⟩
  · rw [setEntry_crs, ht]
    rfl
  · rw [setEntry_man, ht]
    rfl
  · obtain ⟨hmem, harr, hevt⟩ := hw.still hc hz
    refine ⟨fun a => (hmem a).trans ?_, harr.trans ?_, (congrArg _ hevt).trans (mismatchOnce_pending (s := rxWhole n s) hm m e)⟩
    · rw [ht]
      rfl
    · rw [setEntry_arr, ht]
      rfl

theorem refusedTo : RefusedTo ends m s (rxWhole n s) :=
  ⟨refused_noCommand hm h, fun _ he hf => ⟨fun _ hb hk hv => refused_block hm h he hf hb hk hv, refused_noBlock hm h he hf⟩⟩

end

/-! ## A message that its command expects (R328, R331) -/

/-- A state in which a message has reached its command: places, the scratchpad, the array and the messages in flight are as before. -/
structure Reached (s t : State) : Prop extends SameSeat s t where
  sp : t.sp = s.sp
  arr : t.arr = s.arr
  tx : t.tow.tx = s.tow.tx

theorem Reached.trans (h : Reached s t) (k : Reached t u) : Reached s u :=
  ⟨h.toSameSeat.trans k.toSameSeat, k.sp.trans h.sp, k.arr.trans h.arr, k.tx.trans h.tx⟩

theorem rxWhole_reached (n : Nat) (s : State) : Reached s (rxWhole n s) := ⟨⟨rfl, rfl, rfl, rfl⟩, rfl, rfl, rfl⟩
theorem setEntry_reached (e : Entry) (s : State) : Reached s (setEntry e s) := ⟨⟨rfl, rfl, rfl, rfl⟩, rfl, rfl, rfl⟩

theorem Reached.of_onlyEvents (h : OnlyEvents s t) : Reached s t := by
  rw [h]
  exact ⟨⟨rfl, rfl, rfl, rfl⟩, rfl, rfl, rfl⟩

/-- Entries that differ in their report alone. -/
def SameButReport (e x : Entry) : Prop := x = { e with res := x.res }

theorem SameButReport.refl (e : Entry) : SameButReport e e := rfl

theorem SameButReport.key (h : SameButReport e x) : x.berth = e.berth ∧ x.seq = e.seq := by
  rw [h]
  exact ⟨rfl, rfl⟩

theorem withFlags_report (fl : Flags) (e : Entry) : SameButReport e (withFlags fl e) := rfl

/-- A final record was taken for a row block: it is sent on toward the head, and only a CHAIN command changes the scratchpad or the array. -/
structure FinalTaken (rb : Nat) (bs : List Byte) (e : Entry) (k : TowBlock) (s u : State) : Prop where
  entry : ∃ y, findEntry u e.berth e.seq = some y ∧ towAt y rb = some { k with final := some bs, timer := false, fwdHeld := none }
  head : (placeOf s e).1 = 0 → u.tow.tx = s.tow.tx
  sent : 0 < (placeOf s e).1 → ∃ x, u.tow.tx.getLast? = some x ∧ x.msg.payload = bs ∧
    x.msg.dest = memberPlace s (e.coll.getD (0, 0)).1 ((placeOf s e).1 - 1) ∧ x.msg.ret = true ∧ x.msg.isVoid = false
  crs : u.crs = s.crs
  man : u.man = s.man
  still : isChain e.desc = false → SameMemory s u ∧ u.arr = s.arr

theorem FinalTaken.of_reached {bs : List Byte} (h : FinalTaken rb bs x k t u) (hx : SameButReport e x) (ht : Reached s t) :
    FinalTaken rb bs e k s u := by
  rw [hx] at h
  have hp : placeOf t { e with res := x.res } = placeOf s e := ht.placeOf rfl
  have hsent := h.sent
  rw [hp, ht.memberPlace] at hsent
  refine ⟨h.entry, fun hz => (h.head (by rw [hp]; exact hz)).trans ht.tx, hsent, h.crs.trans ht.crs, h.man.trans ht.man, fun hc => ?_⟩
  obtain ⟨hmem, harr⟩ := h.still hc
  exact ⟨fun a => (hmem a).trans (by rw [spByte, ht.sp, spByte]), harr.trans ht.arr⟩

/-- A command with a final record for a row block, whose waiting rows go on to the finisher. -/
def finalBy (rb : Nat) (bs : List Byte) (e : Entry) : Entry :=
  releaseRows rb .ready (updTow rb (fun t => { t with final := some bs, timer := false, fwdHeld := none }) e)

/-- The final record sent on toward the head. -/
def finalSent (rb : Nat) (bs : List Byte) (e : Entry) (s : State) : State :=
  if 0 < (placeOf s e).1 then sendTow (finalBy rb bs e) rb true false 0 bs (setEntry (finalBy rb bs e) s) else setEntry (finalBy rb bs e) s

theorem acceptFinal_eq (rb : Nat) (bs : List Byte) (delta : Nat) (e : Entry) (s : State) : acceptFinal rb bs delta e s =
    if isChain e.desc then chainFinal bs delta (finalBy rb bs e) (finalSent rb bs e s) else finalSent rb bs e s := rfl

theorem finalSent_sent (rb : Nat) (bs : List Byte) (e : Entry) (s : State) :
    Sent (if 0 < (placeOf s e).1 then [blockMsg (setEntry (finalBy rb bs e) s) (finalBy rb bs e) rb true false 0 bs] else [])
      (setEntry (finalBy rb bs e) s) (finalSent rb bs e s) :=
  Sent.ite fun _ => sendTow_sent ..

theorem acceptFinal_wrote (hf : (findEntry s e.berth e.seq).isSome) (rb : Nat) (bs : List Byte) (delta : Nat) :
    Wrote (finalBy rb bs e) (finalSent rb bs e s) (acceptFinal rb bs delta e s) := by
  have hfound : findEntry (finalSent rb bs e s) (finalBy rb bs e).berth (finalBy rb bs e).seq = some (finalBy rb bs e) :=
    ((finalSent_sent rb bs e s).found ..).trans (setEntry_found _ s hf)
  rw [acceptFinal_eq]
  split
  · exact emitInto_wrote (Option.isSome_of_mem hfound) ..
  · exact .refl hfound

theorem acceptFinal_taken {bs : List Byte} (hf : (findEntry s e.berth e.seq).isSome) (hk : towAt e rb = some k) (delta : Nat) :
    FinalTaken rb bs e k s (acceptFinal rb bs delta e s) := by
  have hs := finalSent_sent rb bs e s
  have hw := acceptFinal_wrote hf rb bs delta
  have hk : towAt (finalBy rb bs e) rb = some { k with final := some bs, timer := false, fwdHeld := none } := towAt_updTow (fun _ => rfl) hk
  refine ⟨?_, fun hz => ?_, fun hp => ?_, hw.crs.trans hs.seat.crs, hw.man.trans hs.seat.man, fun hc => ?_⟩
  · obtain ⟨y, hy, hyx⟩ := hw.entry
    refine ⟨y, hy, ?_⟩
    rw [hyx]
    exact hk
  · rw [hw.tow, finalSent, if_neg (by omega)]
    rfl
  · rw [if_pos hp] at hs
    obtain ⟨x, hx, hxm⟩ := Sent.last (ms := []) hs
    refine ⟨x, by rw [hw.tow]; exact hx, ?_⟩
    rw [hxm]
    exact ⟨rfl, rfl, rfl, rfl⟩
  · rw [acceptFinal_eq, if_neg (by simp [hc])]
    exact ⟨sameMemory_of_mem (congrArg Scratch.mem hs.sp), hs.arr⟩

/-- The command that a message has reached: marked late, where it is the first late arrival. -/
def arrivedEntry (e : Entry) (s : State) : Entry := (lateCheck 1 e s).1

/-- The state in which a message has reached its command. -/
def arrivedState (e : Entry) (s : State) : State := setEntry (lateCheck 1 e s).1 (lateCheck 1 e s).2

theorem arrivedEntry_report (e : Entry) (s : State) : SameButReport e (arrivedEntry e s) := by
  obtain ⟨⟨r, hr⟩, -⟩ := lateCheck_effect 1 e s
  unfold SameButReport arrivedEntry
  rw [hr]

theorem arrivedState_reached (hm : mainStopped s = false) (e : Entry) : Reached s (arrivedState e s) :=
  (Reached.of_onlyEvents (lateCheck_evt hm 1 e)).trans (setEntry_reached ..)

theorem arrivedState_found (hf : findEntry s e.berth e.seq = some e) :
    (findEntry (arrivedState e s) (arrivedEntry e s).berth (arrivedEntry e s).seq) = some (arrivedEntry e s) := by
  obtain ⟨-, -, hentries⟩ := lateCheck_effect 1 e s
  refine setEntry_found _ _ (Option.isSome_iff_exists.2 ⟨e, ?_⟩)
  change findEntry (lateCheck 1 e s).2 (arrivedEntry e s).berth (arrivedEntry e s).seq = some e
  rw [findEntry_congr hentries, arrivedEntry_report e s]
  exact hf

section

variable (hv : m.isVoid = false)

include hv

theorem acceptMsg_return (hr : m.ret = true) : acceptMsg m k env e s =
    acceptFinal k.rowBlock m.payload env.storeDelta (arrivedEntry e s) (arrivedState e s) :=
  (if_neg (by simp [hv])).trans (if_pos hr)

/-- A forward message waits for the member's own record. -/
theorem acceptMsg_waits (hr : m.ret = false) (ho : k.own = none) : acceptMsg m k env e s =
    setEntry (updTow k.rowBlock (fun y => { y with fwdHeld := some m.payload }) (arrivedEntry e s)) (arrivedState e s) := by
  unfold acceptMsg
  rw [if_neg (by simp [hv])]
  dsimp only
  rw [if_neg (by simp [hr]), ho]
  rfl

/-- A forward message is combined with the member's own record. -/
theorem acceptMsg_combined {o : List Byte} (hr : m.ret = false) (ho : k.own = some o) : acceptMsg m k env e s =
    passOn k.rowBlock (combinePayload (arrivedState e s) (arrivedEntry e s) k.rows m.payload o).1 env.storeDelta
      (withFlags (combinePayload (arrivedState e s) (arrivedEntry e s) k.rows m.payload o).2 (arrivedEntry e s)) (arrivedState e s) := by
  unfold acceptMsg
  rw [if_neg (by simp [hv])]
  dsimp only
  rw [if_neg (by simp [hr]), ho]
  rfl

end

/-- A row block for which a forward message waits. -/
def waitingFor (rb : Nat) (bs : List Byte) (e : Entry) : Entry := updTow rb (fun y => { y with fwdHeld := some bs }) e

theorem towAt_waitingFor {bs : List Byte} (hk : towAt e rb = some k) : towAt (waitingFor rb bs e) rb = some { k with fwdHeld := some bs } :=
  towAt_updTow (fun _ => rfl) hk

theorem acceptMsg_void (hv : m.isVoid = true) : acceptMsg m k env e s = voidBlock k.rowBlock m.reason false env.storeDelta e s := if_pos hv

theorem passOn_tail {bs : List Byte} {delta : Nat} (h : (placeOf s e).1 + 1 = (placeOf s e).2) :
    passOn rb bs delta e s = acceptFinal rb bs delta e s := if_pos h

/-- A row block's combination was sent on toward the tail. -/
structure ForwardSent (rb : Nat) (bs : List Byte) (e : Entry) (k : TowBlock) (s u : State) : Prop where
  entry : ∃ y, findEntry u e.berth e.seq = some y ∧ towAt y rb = some { k with sentFwd := true, fwdHeld := none }
  sent : ∃ x, u.tow.tx.getLast? = some x ∧ x.msg.payload = bs ∧ x.msg.dest = memberPlace s (e.coll.getD (0, 0)).1 ((placeOf s e).1 + 1) ∧
    x.msg.ret = false ∧ x.msg.isVoid = false ∧ x.msg.coll = (e.coll.getD (0, 0)).2
  arr : u.arr = s.arr
  crs : u.crs = s.crs
  man : u.man = s.man
  mem : SameMemory s u

/-- A command whose combination of a row block has been sent on. -/
def forwarded (rb : Nat) (e : Entry) : Entry := updTow rb (fun t => { t with sentFwd := true, fwdHeld := none }) e

theorem towAt_forwarded (hk : towAt e rb = some k) : towAt (forwarded rb e) rb = some { k with sentFwd := true, fwdHeld := none } :=
  towAt_updTow (fun _ => rfl) hk

theorem passOn_middle {bs : List Byte} {delta : Nat} (h : (placeOf s e).1 + 1 ≠ (placeOf s e).2) :
    passOn rb bs delta e s = sendTow (forwarded rb e) rb false false 0 bs (setEntry (forwarded rb e) s) := if_neg h

section

variable (hf : findEntry s e.berth e.seq = some e) (hk : towAt e rb = some k)

include hf hk

/-- What of an entry reached differs in its report alone has the row block, and stands in the queue. -/
theorem arrived_block (hx : SameButReport (arrivedEntry e s) x) :
    SameButReport e x ∧ towAt x rb = some k ∧ (findEntry (arrivedState e s) x.berth x.seq).isSome := by
  have he := arrivedEntry_report e s
  have hxe : SameButReport e x := by
    unfold SameButReport at *
    rw [hx, he]
  refine ⟨hxe, ?_, ?_⟩
  · rw [hxe]
    exact hk
  · rw [hx]
    exact Option.isSome_of_mem (arrivedState_found hf)

variable (hm : mainStopped s = false)

include hm

theorem acceptFinal_arrived (hx : SameButReport (arrivedEntry e s) x) (bs : List Byte) (delta : Nat) :
    FinalTaken rb bs e k s (acceptFinal rb bs delta x (arrivedState e s)) := by
  obtain ⟨hxe, hxk, hxf⟩ := arrived_block hf hk hx
  exact (acceptFinal_taken hxf hxk delta).of_reached hxe (arrivedState_reached hm e)

theorem passOn_arrived (hx : SameButReport (arrivedEntry e s) x) (hp : (placeOf s e).1 + 1 ≠ (placeOf s e).2) (bs : List Byte)
    (delta : Nat) : ForwardSent rb bs e k s (passOn rb bs delta x (arrivedState e s)) := by
  have ht := arrivedState_reached hm e
  obtain ⟨hxe, hxk, hxf⟩ := arrived_block hf hk hx
  have hplace : placeOf (arrivedState e s) x = placeOf s e := ht.placeOf (by rw [hxe])
  rw [passOn_middle (by rw [hplace]; exact hp)]
  have hs := sendTow_sent (forwarded rb x) rb false false 0 bs (setEntry (forwarded rb x) (arrivedState e s))
  obtain ⟨z, hz, hzm⟩ := Sent.last (ms := []) hs
  have hfound := (hs.found x.berth x.seq).trans (setEntry_found (forwarded rb x) (arrivedState e s) hxf)
  refine ⟨⟨forwarded rb x, ?_, towAt_forwarded hxk⟩, ⟨z, hz, ?_⟩, hs.arr.trans ht.arr, hs.seat.crs.trans ht.crs,
    hs.seat.man.trans ht.man, sameMemory_of_mem (congrArg Scratch.mem (hs.sp.trans ht.sp))⟩
  · obtain ⟨hb, hq⟩ := hxe.key
    rw [← hb, ← hq]
    exact hfound
  · rw [hzm]
    refine ⟨rfl, ?_, rfl, rfl, ?_⟩
    · change memberPlace (arrivedState e s) (x.coll.getD (0, 0)).1 ((placeOf (arrivedState e s) x).1 + 1) = _
      rw [ht.memberPlace, hplace, hxe]
    · rw [hxe]
      rfl

end

section

variable (hm : mainStopped s = false) (hf : findEntry s e.berth e.seq = some e) (hk : towAt e k.rowBlock = some k) (hv : m.isVoid = false)

include hm hf hk hv

theorem acceptMsg_return_final (hr : m.ret = true) : FinalTaken k.rowBlock m.payload e k s (acceptMsg m k env e s) := by
  rw [acceptMsg_return hv hr]
  exact acceptFinal_arrived hf hk hm (.refl _) ..

theorem acceptMsg_tail_final {o : List Byte} (hr : m.ret = false) (ho : k.own = some o) (hp : (placeOf s e).1 + 1 = (placeOf s e).2) :
    FinalTaken k.rowBlock (combinePayload s e k.rows m.payload o).1 e k s (acceptMsg m k env e s) := by
  have ht := arrivedState_reached hm e
  have he := arrivedEntry_report e s
  rw [acceptMsg_combined hv hr ho, passOn_tail, ht.combinePayload (e := e) (by rw [he]; rfl)]
  · exact acceptFinal_arrived hf hk hm (withFlags_report ..) ..
  · rw [ht.placeOf (e := e) (by rw [he]; rfl)]
    exact hp

theorem acceptMsg_held (hr : m.ret = false) (ho : k.own = none) : Reached s (acceptMsg m k env e s) ∧
    ∃ y, findEntry (acceptMsg m k env e s) e.berth e.seq = some y ∧ towAt y k.rowBlock = some { k with fwdHeld := some m.payload } ∧
      y.life = e.life := by
  obtain ⟨he, hxk, hxf⟩ := arrived_block hf hk (.refl _)
  rw [acceptMsg_waits hv hr ho]
  refine ⟨(arrivedState_reached hm e).trans (setEntry_reached ..), waitingFor k.rowBlock m.payload (arrivedEntry e s), ?_,
    towAt_waitingFor hxk, ?_⟩
  · obtain ⟨hb, hq⟩ := he.key
    rw [← hb, ← hq]
    exact setEntry_found (waitingFor k.rowBlock m.payload (arrivedEntry e s)) _ hxf
  · rw [he]
    rfl

theorem acceptMsg_forward {o : List Byte} (hr : m.ret = false) (ho : k.own = some o) (hp : (placeOf s e).1 + 1 ≠ (placeOf s e).2) :
    ForwardSent k.rowBlock (combinePayload s e k.rows m.payload o).1 e k s (acceptMsg m k env e s) := by
  have he := arrivedEntry_report e s
  rw [acceptMsg_combined hv hr ho, (arrivedState_reached hm e).combinePayload (e := e) (by rw [he]; rfl)]
  exact passOn_arrived hf hk hm (withFlags_report ..) hp ..

end

end Sys2Proof.Machine
end

section
/-! SUPPORT. The arrival of a towline message, from its destination to what becomes of its row block, settled (R322, R328, R331, R332, R336). -/

namespace Sys2Proof.Machine

variable {s : State} {m : TowMsg} {env : RunEnv}

/-- A message for another engine is the last of the messages sent. -/
theorem towMessage_onward (hm : mainStopped s = false) (hd : s.pwr.draining = none) (ho : m.dest ≠ ownPlace s) :
    ∃ t x, exec (.towMessage m env) s = .next t ∧ t = { rxWhole (towBursts m) s with tow := t.tow } ∧
      t.tow.tx.getLast? = some x ∧ x.id = s.tow.nextId ∧ x.msg = m ∧ x.relay = true ∧ x.left + x.out = towBursts m ∧
      t.tow.held = s.tow.held ∧ (remoteOut s ≤ 512 → remoteOut t ≤ 512) := by
  obtain ⟨x, hx, hid, hrelay, hmsg, hbursts, -⟩ := sendMsg_last m none true (rxWhole (towBursts m) s)
  exact ⟨_, x, towMessage_relayed hm hd ho env, rfl, hx, hid, hmsg, hrelay, hbursts, rfl,
    fun h => sendMsg_remoteOut (s := rxWhole (towBursts m) s) h m none true⟩

/-- Settles O47, by the destination, the kind, the tag, the crossing and the collective of the message, and the state of its row block. -/
theorem messagesReachTheirBlocks : Obligations.MessagesReachTheirBlocks := by
  unfold Obligations.MessagesReachTheirBlocks
  refine ⟨fun s m env hm hd => ?_, fun s m env h => towMessage_discarded h m env, fun s h => settleRows_nothing h⟩
  intro s0 ends payloadFits mine held refused
  refine ⟨fun ho => ?_, fun ho => ⟨fun n h5 hn => towMessage_mirror hm hd ho h5 hn env, fun h6 => ?_, fun h7 => ?_⟩, fun ho hkind => ?_⟩
  · exact towMessage_onward hm hd ho
  · rw [towMessage_own hm hd ho (by omega), takeMsg_request h6]
  · rw [towMessage_own hm hd ho (by omega), takeMsg_restoreData h7]
  have hends : ∀ {u}, receiveMsg m env s0 = u → ends u := by
    rintro _ rfl
    change exec _ _ = _
    rw [towMessage_own hm hd ho (by omega), takeMsg_collective hkind]
  have hrefused : receiveMsg m env s0 = refuseMsg m env s0 → refused := fun h => refusedTo hm (hends h)
  have hnow : ∀ {e}, mine e → receiveMsg m env s0 = checkColl m env s0 ∧ m.coll < sget 0 s0.tow.coll m.group ∧ towEntry s0 m = some e :=
    fun ⟨ha, ht, hc, hn, he, _⟩ => ⟨receiveMsg_now (s := s0) ha ht hc, hn, he⟩
  refine ⟨fun e b hme hne hb hk hv hz hfit => ?_, fun e b hme hne hb => ?_, fun e hme => ?_, fun ha ht => ?_, fun h => ?_⟩
  · obtain ⟨hnow, hn, he⟩ := hnow hme
    obtain ⟨-, -, -, -, -, hf⟩ := hme
    have hreached : Reached s s0 := rxWhole_reached ..
    intro p g final
    have haccept : (m.ret = true → p.1 + 1 < p.2) → (m.ret = false → 0 < p.1) → ends (acceptMsg m b env e s0) := fun hr hq =>
      hends (hnow.trans (checkColl_fits (s := s0) hn he hne hb hv hfit hz hr hq))
    have hfinal : ∀ {bs}, ends (acceptMsg m b env e s0) → FinalTaken b.rowBlock bs e b s0 (acceptMsg m b env e s0) → final bs := by
      intro bs hu ht
      obtain ⟨⟨y, hy, hyb⟩, hhead, hsent, hcrs, hman, hstill⟩ := ht.of_reached (.refl e) hreached
      exact ⟨_, y, hu, hy, hyb, hhead, hsent, hcrs, hman, hstill⟩
    refine ⟨fun hnv => ⟨fun hr hp ho => ?_, fun hr hp hq o ho => ?_, fun hr hp hq o ho => ?_, fun hr hp => ?_⟩, fun hvoid hr hq => ?_,
      fun h => hends (hnow.trans (checkColl_over (s := s0) hn he hne hb hv hfit (.inr h)))⟩
    · obtain ⟨ht, y, hy, hyb, hlife⟩ := acceptMsg_held (s := s0) (env := env) hm hf hk hnv hr ho
      exact ⟨_, y, haccept (by simp [hr]) fun _ => hp, hy, hyb, hlife, ht.tx, ht.arr, ht.crs, ht.man,
        sameMemory_of_mem (congrArg Scratch.mem ht.sp)⟩
    · obtain ⟨⟨y, hy, hyb⟩, ⟨x, hx, hpay, hdest, hret, hnote, hcoll⟩, harr, hcrs, hman, hmem⟩ :=
        acceptMsg_forward (s := s0) (env := env) hm hf hk hnv hr ho (show p.1 + 1 ≠ p.2 by omega)
      rw [hreached.combinePayload rfl] at hpay
      exact ⟨_, y, x, haccept (by simp [hr]) fun _ => hp, hy, hyb, hx, hpay, hdest, hret, hnote, hcoll, harr, hcrs, hman, hmem⟩
    · rw [← hreached.combinePayload (x := e) rfl]
      exact hfinal (haccept (by simp [hr]) fun _ => hp) (acceptMsg_tail_final (s := s0) hm hf hk hnv hr ho hq)
    · exact hfinal (haccept (fun _ => hp) (by simp [hr])) (acceptMsg_return_final (s := s0) hm hf hk hnv hr)
    · have hu := haccept hr hq
      rw [acceptMsg_void hvoid] at hu
      obtain ⟨w, hw⟩ := voidBlock_voids (s := s0) (Option.isSome_of_mem hf) hk hv m.reason false env.storeDelta
      obtain ⟨y, hy, hyb, hlife, -⟩ := hw.entry hk
      refine ⟨_, y, _, hu, hy, hlife, hyb, rfl, rfl, rfl, rfl, rfl, hw.head, hw.tail, hw.crs, hw.man, fun hc => ?_⟩
      obtain ⟨hmem, harr, -⟩ := hw.still hc hz
      exact ⟨hmem, harr⟩
  · obtain ⟨hnow, hn, he⟩ := hnow hme
    refine ⟨fun hv => hends ?_, fun hv hfit hz => hends ?_, fun hv hfit => hrefused ?_⟩
    · exact hnow.trans (checkColl_void hn he hne hb hv)
    · exact hnow.trans (checkColl_over hn he hne hb hv hfit (.inl hz))
    · exact hnow.trans (checkColl_misfit hn he hne hb hv hfit)
  · obtain ⟨hnow, hn, he⟩ := hnow hme
    exact ⟨fun hne => hends (hnow.trans (checkColl_ended hn he hne)), fun hne hb => hrefused (hnow.trans (checkColl_noBlock hn he hne hb))⟩
  · refine ⟨fun hc hn he => hends ?_, fun h => hends ?_, fun hc => hrefused (receiveMsg_far (s := s0) ha ht hc)⟩
    · exact (receiveMsg_now (s := s0) ha ht hc).trans (checkColl_completed (s := s0) hn he)
    · rcases h with ⟨hc, hn⟩ | hc
      · exact (receiveMsg_now (s := s0) ha ht hc).trans (checkColl_toCome (s := s0) hn)
      · exact receiveMsg_next (s := s0) ha ht hc
  · have hr := receiveMsg_otherTag (s := s0) (m := m) (env := env) h
    refine ⟨fun hs => hends (hr.trans (if_pos hs)), fun hs hp => hends (hr.trans ?_), fun hs hp => hrefused (hr.trans ?_)⟩
    · exact (if_neg (by rw [show stagedTagHeld s0 m.tag = false from hs]; decide)).trans (if_pos hp)
    · exact (if_neg (by rw [show stagedTagHeld s0 m.tag = false from hs]; decide)).trans
        (if_neg (by rw [show priorTagOk s0 m.tag m.crossing m.landing = false from hp]; decide))

end Sys2Proof.Machine
end

section
/-! SUPPORT. The front of the queue, a trace that is armed, and the read pointer of the event log (R355, R395, R433). -/

namespace Sys2Proof.Machine

variable {s : State} {p : Port}

/-- Settles O1: a step takes the front command off the queue and runs it. -/
theorem frontCommandRuns : Obligations.FrontCommandRuns := by
  unfold Obligations.FrontCommandRuns
  intro c rest s
  rfl

theorem armTrace_crossingEnd (c : Nat) (s : State) : armTrace c 0xFFFF s = s := rfl

/-- A segment of which no command has been taken (R355). -/
theorem armTrace_fresh {c l : Nat} (hl : l ≠ 0xFFFF) (hn : (c, l) ∉ s.dgst.taken) :
    armTrace c l s = { s with dgst := { s.dgst with traceCrossing := c, traceLanding := l, trace := 1, records := 0 } } := by
  rw [armTrace, if_neg hl, if_neg (by simpa using hn)]

/-- A segment of which a command has been taken (R355). -/
theorem armTrace_late {c l : Nat} (hl : l ≠ 0xFFFF) (hn : (c, l) ∈ s.dgst.taken) :
    armTrace c l s = { s with dgst := { s.dgst with traceCrossing := c, traceLanding := l, trace := 0, missed := true } } := by
  rw [armTrace, if_neg hl, if_pos (by simpa using hn)]

theorem logRdOp_within {v : Nat} (hv : v < 2 ^ 16) (h : (v + 2 ^ 16 - s.evt.rd) % 2 ^ 16 ≤ unread s.evt) :
    logRdOp v s = { s with evt := { s.evt with rd := v } } := by
  rw [logRdOp, Nat.mod_eq_of_lt hv]
  exact if_pos h

theorem logRdOp_beyond {v : Nat} (hv : v < 2 ^ 16) (h : unread s.evt < (v + 2 ^ 16 - s.evt.rd) % 2 ^ 16) : logRdOp v s = s := by
  rw [logRdOp, Nat.mod_eq_of_lt hv]
  exact if_neg (Nat.not_le.2 h)

/-- Settles O51: a trace is armed or missed by whether its segment has begun; a served move of the pointer is bounded by the unread entries. -/
theorem tracesArmAndTheLogIsRead : Obligations.TracesArmAndTheLogIsRead := by
  unfold Obligations.TracesArmAndTheLogIsRead
  intro s p hs
  have hne : ∀ {l : BitVec 16}, l ≠ 0xFFFF#16 → l.toNat ≠ 0xFFFF := fun hl h => hl (BitVec.eq_of_toNat_eq h)
  refine ⟨fun c l => ⟨fun hl => ?_, fun hl hn => ?_, fun hl hn => ?_⟩, fun v => ⟨fun h => ?_, fun h => ?_⟩⟩
  · exact next_onMain_served hs (by rw [hl]; exact armTrace_crossingEnd ..)
  · refine next_onMain_served hs ((armTrace_fresh (hne hl) (by rwa [dropHeld_dgst])).trans ?_)
    rw [dropHeld_dgst]
  · refine next_onMain_served hs ((armTrace_late (hne hl) (by rwa [dropHeld_dgst])).trans ?_)
    rw [dropHeld_dgst]
  · refine next_onMain_served hs ((logRdOp_within v.isLt (by rwa [dropHeld_evt])).trans ?_)
    rw [dropHeld_evt]
  · exact next_onMain_served hs (logRdOp_beyond v.isLt (by rwa [dropHeld_evt]))

end Sys2Proof.Machine
end

section
/-! SUPPORT. The kennel's rows: the end of a static copy, of an in-line test and of an out-of-line test (R367, R369, R370). -/

namespace Sys2Proof.Machine

variable {s : State} {c : Nat} {k : ClusterRec} {r : LandingRun}

theorem clusterOf_found (h : s.ken.clusters[c]? = some k) : clusterOf s c = k := by
  rw [clusterOf, List.getD_eq_getElem?_getD, h, Option.getD_some]

theorem setCluster_found (h : s.ken.clusters[c]? = some k) (x : ClusterRec) : (setCluster c x s).ken.clusters[c]? = some x :=
  List.getElem?_set_self (List.getElem?_eq_some_iff.1 h).1

/-! ## The static copy (R367) -/

theorem staticCopyEnd_stopped (hm : mainStopped s = true) (x : Nat) : exec (.kennelStaticCopyEnd x) s = .next s :=
  congrArg Host.Outcome.next (if_pos hm)

theorem staticCopyEnd_running (hm : mainStopped s = false) (x : Nat) : exec (.kennelStaticCopyEnd x) s = .next { s with ken := { s.ken with
    copying := s.ken.copying.filter (fun c => c / 4 != x), copied := s.ken.copied ++ s.ken.copying.filter (fun c => c / 4 == x) } } :=
  congrArg Host.Outcome.next (if_neg (Bool.eq_false_iff.1 hm))

/-! ## The in-line test (R370) -/

/-- The landing's run no longer holds the test, and the cluster's record is replaced. -/
def inlineEnded (c : Nat) (x : ClusterRec) (r : LandingRun) (s : State) : State :=
  setCluster c x { s with
    ken := { s.ken with inlineRan := true }, crs := { s.crs with run := some { r with tests := r.tests.filter (· != c) } } }

theorem inlineTestEnd_running (hr : s.crs.run = some r) (hg : r.stage = .closing) (hc : c ∈ r.tests) (hk : s.ken.clusters[c]? = some k)
    (hm : mainStopped s = false) (pass : Bool) : exec (.inlineTestEnd c pass) s = .next (
      if pass then inlineEnded c { k with lastPass := s.crs.crossing, inline := true } r s
      else raise evTestFail none (c / 5 + 8 * (c % 5) + 64) 0 (raise evShardMigrate none (2 + 4 * (c / 5) + 32 * (c % 5)) 0
        (inlineEnded c { k with inline := true } r s))) := by
  change execInlineTestEnd c pass s = _
  have hunder : (r.tests.contains c && r.stage == .closing) = true := by simp [hc, hg]
  simp only [execInlineTestEnd, testDone, hr, hm, hunder, clusterOf_found hk, Bool.not_true, Bool.or_false, Bool.false_eq_true, ↓reduceIte]
  rfl

theorem inlineTestEnd_idle (h : mainStopped s = true ∨ s.crs.run = none ∨ ∃ r, s.crs.run = some r ∧ (r.stage ≠ .closing ∨ c ∉ r.tests))
    (pass : Bool) : exec (.inlineTestEnd c pass) s = .next s := by
  refine congrArg Host.Outcome.next (if_pos ?_)
  rcases h with hm | hr | ⟨r, hr, hg | hc⟩
  · simp [hm]
  · simp [hr]
  · simp [hr, hg]
  · simp [hr, hc]

/-! ## The out-of-line test (R369) -/

/-- The cluster is retired for good: the repair table holds it. -/
def clusterRetired (c : Nat) (k : ClusterRec) (s : State) : State :=
  let s1 := setCluster c { k with st := .retired, inline := false } s
  journal [.repair] { s.keep with repair := { s.keep.repair with retired := s.keep.repair.retired ++ [c] } } s1

theorem outOfLineTestEnd_testing (hk : s.ken.clusters[c]? = some k) (ht : k.st = .testing) (hm : mainStopped s = false) (pass : Bool) :
    exec (.outOfLineTestEnd c pass) s = .next (
      if pass then setCluster c ⟨.ready, s.crs.crossing, false⟩ s
      else raise evSpareExhausted none (c / 5 + 8 * 3) 0 (raise evTestFail none (c / 5 + 8 * (c % 5)) 0 (clusterRetired c k s))) := by
  change execOutOfLineTestEnd c pass s = _
  simp only [execOutOfLineTestEnd, clusterOf_found hk, hm, ht, ne_eq, not_true_eq_false, Bool.false_eq_true, or_self, ↓reduceIte]
  rfl

theorem outOfLineTestEnd_idle (h : mainStopped s = true ∨ (clusterOf s c).st ≠ .testing) (pass : Bool) :
    exec (.outOfLineTestEnd c pass) s = .next s :=
  congrArg Host.Outcome.next (if_pos h)

/-- Two events raised while the main side runs are both pending. -/
theorem raise_twice_pending (hm : mainStopped s = false) (i j : Nat) (a b : Option (Nat × Nat)) (d d' e e' : Nat) :
    (raise j b e e' (raise i a d d' s)).evt.pending = s.evt.pending ||| (BitVec.ofNat 15 (2 ^ i) ||| BitVec.ofNat 15 (2 ^ j)) := by
  have h := mainDown_of_running hm
  rw [raise_sets_pending (by rwa [raise_pwr]), raise_sets_pending h, BitVec.or_assoc]

/-- Settles O39: each row by what it finds under test; a failed test raises its two events on the state that the test leaves. -/
theorem clustersAreTested : Obligations.ClustersAreTested := by
  unfold Obligations.ClustersAreTested
  refine ⟨fun s x hm => staticCopyEnd_stopped hm x, fun s x hm => ⟨_, staticCopyEnd_running hm x, fun c => ?_, fun c => ?_, rfl⟩,
    fun s c r k hr hg hc hk hm => ⟨⟨_, inlineTestEnd_running hr hg hc hk hm true, ?_⟩,
      ⟨_, inlineTestEnd_running hr hg hc hk hm false, ?_⟩⟩,
    fun s c k hk ht hm => ⟨⟨_, outOfLineTestEnd_testing hk ht hm true, setCluster_found hk _, rfl⟩,
      ⟨_, outOfLineTestEnd_testing hk ht hm false, ?_⟩⟩,
    fun s c pass h => outOfLineTestEnd_idle h pass, fun s c pass h => inlineTestEnd_idle h pass⟩
  · simp [List.mem_filter]
  · simp [List.mem_filter]
  · exact ⟨setCluster_found (by exact hk) _, rfl, rfl, rfl, rfl, rfl, rfl⟩
  · have hrun : mainStopped (inlineEnded c { k with inline := true } r s) = false := hm
    simp only [Bool.false_eq_true, ↓reduceIte, raise_twice_pending hrun, raise_ken, raise_crs, raise_keep, raise_sp]
    exact ⟨setCluster_found (by exact hk) _, rfl, rfl, rfl, rfl, rfl⟩
  · have hrun : mainStopped (clusterRetired c k s) = false := hm
    simp only [Bool.false_eq_true, ↓reduceIte, raise_twice_pending hrun, raise_ken, raise_keep, raise_sp]
    exact ⟨setCluster_found hk _, rfl, rfl, rfl, rfl⟩

end Sys2Proof.Machine
end

section
/-! SUPPORT. The Tollhouse's services: whom they are open to, and what their results and the error state change (R379 to R389). -/

namespace Sys2Proof.Machine

variable {s : State} {p : Port} {n : Need} {f : State → State}

/-! ## What a port's low half does not touch (R428) -/

@[simp] theorem mainStopped_dropHeld (p : Port) (s : State) : mainStopped (dropHeld p s) = mainStopped s := by
  rw [mainStopped, dropHeld_pwr, mainStopped]

@[simp] theorem tollRunning_dropHeld (p : Port) (s : State) : tollRunning (dropHeld p s) = tollRunning s := by
  rw [tollRunning, dropHeld_toll, dropHeld_man, tollRunning]

@[simp] theorem keySlot_dropHeld (p : Port) (s : State) (k : Nat) : keySlot (dropHeld p s) k = keySlot s k := by
  rw [keySlot, dropHeld_toll, keySlot]

@[simp] theorem slotSigning_dropHeld (p : Port) (s : State) (k : Nat) : slotSigning (dropHeld p s) k = slotSigning s k := by
  rw [slotSigning, dropHeld_toll, slotSigning]

@[simp] theorem tollInput_dropHeld (p q : Port) (s : State) (k : Nat) : tollInput (dropHeld p s) q k = tollInput s q k := by
  rw [tollInput, tollPort_dropHeld, tollInput]

/-! ## Results -/

section
variable (r : Nat) (p : Port) (s : State)

@[simp] theorem tollResult_slots : (tollResult r p s).toll.slots = s.toll.slots := by cases p <;> rfl
@[simp] theorem tollResult_busy : (tollResult r p s).toll.busy = s.toll.busy := by cases p <;> rfl
@[simp] theorem tollResult_selftest : (tollResult r p s).toll.selftest = s.toll.selftest := by cases p <;> rfl
@[simp] theorem tollResult_errorState : (tollResult r p s).toll.errorState = s.toll.errorState := by cases p <;> rfl
@[simp] theorem tollResult_zeroised : (tollResult r p s).toll.zeroised = s.toll.zeroised := by cases p <;> rfl
@[simp] theorem tollResult_drbg : (tollResult r p s).toll.drbg = s.toll.drbg := by cases p <;> rfl
@[simp] theorem tollResult_cert : (tollResult r p s).toll.cert = s.toll.cert := by cases p <;> rfl
@[simp] theorem tollResult_rtv : (tollResult r p s).rtv = s.rtv := by cases p <;> rfl
@[simp] theorem tollResult_result : (tollPort (tollResult r p s) p).result = r := by cases p <;> rfl
@[simp] theorem tollResult_data : (tollPort (tollResult r p s) p).data = (tollPort s p).data := by cases p <;> rfl

@[simp] theorem keySlot_tollResult (k : Nat) : keySlot (tollResult r p s) k = keySlot s k := by rw [keySlot, tollResult_slots, keySlot]

/-- A result changes the Tollhouse alone. -/
theorem tollResult_toll : tollResult r p s = { s with toll := (tollResult r p s).toll } := by cases p <;> rfl

theorem tollResult_onlyToll : OnlyToll s (tollResult r p s) := by cases p <;> rfl

end

/-! ## Whom a service admits (R379 to R381, R386, R389) -/

/-- A port that is served runs its request, its low half dropped (R419, R428). -/
theorem hostPath (hm : mainStopped s = false) (hp : p = .host → permitted .host 8 s = true) (run : State → State) :
    (if p = .host then (if mainStopped s then s else guarded .host 8 run s) else run (dropHeld .mgr s)) = run (dropHeld p s) := by
  cases p with
  | host => rw [if_pos rfl, if_neg (Bool.eq_false_iff.1 hm), guarded, if_pos (hp rfl)]
  | mgr => exact if_neg nofun

theorem tollRunning_eq_false : tollRunning s = false ↔ s.toll.busy = .none ∧ s.man.stage ≠ .verifying := by
  simp [tollRunning]

theorem Admitted.notBusy (h : Admitted p s) : s.toll.busy = .none := (tollRunning_eq_false.1 h.idle).1

theorem Admitted.slotF (h : Admitted p s) : (p == .mgr && (keySlot s 0x0F).key.isEmpty) = false := by
  cases p with
  | host => rfl
  | mgr => simpa using h.mgr rfl

/-- A service of the port's own role, with the session that it needs. -/
theorem service_admitted (h : Admitted p s) (hr : n.role = none ∨ n.role = some p) (ha : n.auth = false ∨ (tollPort s p).auth = true) :
    service p n f s = f (dropHeld p s) := by
  have hrole : (n.role.isSome && n.role != some p) = false := by rcases hr with hr | hr <;> simp [hr]
  have hauth : (n.auth && !(tollPort s p).auth) = false := by rcases ha with ha | ha <;> simp [ha]
  unfold service
  extract_lets run
  rw [hostPath h.up h.host run]
  simp only [run, mainStopped_dropHeld, dropHeld_toll, tollRunning_dropHeld, keySlot_dropHeld, tollPort_dropHeld, h.up, h.good, h.idle, hrole,
    h.slotF, hauth, Bool.false_and, Bool.false_eq_true, ↓reduceIte]

/-- A service of the other role ends with ROLE (R379). -/
theorem service_role (h : Admitted p s) {q : Port} (hr : n.role = some q) (hq : q ≠ p) : service p n f s = tollResult 1 p (dropHeld p s) := by
  have hrole : (n.role.isSome && n.role != some p) = true := by simp [hr, hq]
  unfold service
  extract_lets run
  rw [hostPath h.up h.host run]
  simp only [run, mainStopped_dropHeld, dropHeld_toll, tollRunning_dropHeld, h.up, h.good, h.idle, hrole, Bool.false_eq_true, ↓reduceIte]

/-! ## The error state (R386) -/

theorem certLive_iff {c : CertUnit} : certLive c = true ↔ c.state ∈ [1, 2, 3] := by
  simp [certLive, or_assoc]

/-- A certificate under way fails with CAUSE ERROR. -/
theorem tollError_cert (h : s.toll.cert.state ∈ [1, 2, 3]) : (tollError s).toll.cert.state = 5 ∧ (tollError s).toll.cert.cause = 5 := by
  rw [tollError, if_pos (certLive_iff.2 h)]
  exact ⟨rfl, rfl⟩

end Sys2Proof.Machine
end
section
/-! SUPPORT. The self-tests and the reading of a public key (R383, R386, R389, log entries 127 and 176). -/

namespace Sys2Proof.Machine

variable {s : State} {p : Port} {pass : BitVec 9} {slot : Byte}

/-! ## SELFTEST (R386, R389) -/

/-- A self-test waits for the running service, or runs. -/
def selftestWaits (p : Port) (s : State) : State := { s with toll := { s.toll with waitSelftest := some p } }
def selftestRuns (p : Port) (s : State) : State := { s with toll := { s.toll with busy := .selftest p } }

/-- A self-test asked for while none runs or waits. -/
theorem tollSelftest_asked (hm : mainStopped s = false) (hp : p = .host → permitted .host 8 s = true)
    (hk : p = .mgr → (keySlot s 0x0F).key ≠ []) (hw : s.toll.waitSelftest = none) (hb : s.toll.busy = .none) :
    exec (.tollSelftest p) s = .next (
      if !(tollPort s p).auth then tollResult 2 p (dropHeld p s)
      else if tollRunning s then selftestWaits p (dropHeld p s) else selftestRuns p (dropHeld p s)) := by
  have hslot : (p == .mgr && (keySlot s 0x0F).key.isEmpty) = false := by
    cases p with
    | host => rfl
    | mgr => simpa using hk rfl
  refine congrArg Host.Outcome.next ?_
  unfold tollSelftestOp
  extract_lets testing run
  have htesting : testing (dropHeld p s) = false := by simp [testing, hw, hb]
  rw [hostPath hm hp run]
  simp only [run, htesting, mainStopped_dropHeld, tollRunning_dropHeld, keySlot_dropHeld, tollPort_dropHeld, hm, hslot,
    Bool.or_false, Bool.false_eq_true, ↓reduceIte]
  rfl

theorem selftestEnd_stopped (hm : mainStopped s = true) (pass : BitVec 9) : exec (.tollSelftestEnd pass) s = .next s :=
  congrArg Host.Outcome.next (if_pos hm)

/-- The tests of a service have ended, before their result is judged. -/
def testsOver (pass : BitVec 9) (s : State) : State := { s with toll := { s.toll with busy := .none, selftest := pass } }

theorem selftestEnd_service (hm : mainStopped s = false) (hb : s.toll.busy = .selftest p) (pass : BitVec 9) :
    exec (.tollSelftestEnd pass) s = .next (
      if pass = 0x1FF#9 then tollResult 0 p (leaveError (testsOver pass s)) else tollResult 6 p (tollError (testsOver pass s))) := by
  refine congrArg Host.Outcome.next ((if_neg (Bool.eq_false_iff.1 hm)).trans ?_)
  rw [hb]
  rfl

theorem selftestEnd_other (hm : mainStopped s = false) (hb : ∀ p, s.toll.busy ≠ .selftest p) (pass : BitVec 9) :
    exec (.tollSelftestEnd pass) s = .next (
      if s.pwr.warmTest ∧ s.pwr.draining = none ∧ s.crs.moored then warmTestsEnd pass s else s) := by
  refine congrArg Host.Outcome.next ((if_neg (Bool.eq_false_iff.1 hm)).trans ?_)
  split
  · next p h => exact absurd h (hb p)
  · rfl

/-- The tests that follow the mooring of a warm reset do not run (log entry 127). -/
theorem selftestEnd_noTests (hb : ∀ p, s.toll.busy ≠ .selftest p)
    (h : s.pwr.warmTest = false ∨ s.pwr.draining ≠ none ∨ s.crs.moored = false) (pass : BitVec 9) :
    exec (.tollSelftestEnd pass) s = .next s := by
  cases hm : mainStopped s with
  | true => exact selftestEnd_stopped hm pass
  | false =>
    rw [selftestEnd_other hm hb, if_neg]
    rintro ⟨hw, hd, hc⟩
    rcases h with h | h | h
    · rw [h] at hw; cases hw
    · exact h hd
    · rw [h] at hc; cases hc

/-- The reset is over with its tests, before they are judged. -/
def warmTested (pass : BitVec 9) (s : State) : State :=
  { s with toll := { s.toll with selftest := pass }, pwr := { s.pwr with warmTest := false } }

/-- The judgement of the tests that follow a warm reset's mooring, before PHASE settles. -/
def warmJudged (pass : BitVec 9) (s : State) : State :=
  if pass = 0x1FF#9 then leaveError (warmTested pass s) else tollError (warmTested pass s)

theorem warmTestsEnd_eq (pass : BitVec 9) (s : State) : warmTestsEnd pass s = settle (warmJudged pass s) := rfl

/-- Beside the Tollhouse only the end of the reset and PHASE are new. -/
theorem warmTestsEnd_frame (pass : BitVec 9) (s : State) : ∃ x, warmTestsEnd pass s = { s with
    toll := (warmJudged pass s).toll, rtv := (warmJudged pass s).rtv, pwr := { s.pwr with warmTest := false }, crs := { s.crs with phase := x } } ∧
      (s.crs.phase ≠ .notMoored → x = s.crs.phase) := by
  have hj : OnlyToll (warmTested pass s) (warmJudged pass s) := .ite rfl (tollError_onlyToll _)
  rw [warmTestsEnd_eq, settle]
  generalize warmJudged pass s = u at hj
  rw [hj]
  split
  · next h => exact ⟨_, rfl, fun hp => absurd h.2.2.2 hp⟩
  · exact ⟨_, rfl, fun _ => rfl⟩

theorem warmJudged_pass (h : pass = 0x1FF#9) (s : State) :
    (warmJudged pass s).toll = { s.toll with selftest := pass, errorState := false, health := .start } :=
  congrArg State.toll (if_pos h)

theorem warmJudged_fail (h : pass ≠ 0x1FF#9) (s : State) :
    warmJudged pass s = tollError (warmTested pass s) := if_neg h

/-- The state after a failed test: the error state, the pass bits, the slots; a certificate under way has failed. -/
theorem tollError_of_test {c : CertUnit} (hc : s.toll.cert = c) (hs : s.toll.selftest = pass) :
    (tollError s).toll.selftest = pass ∧ (tollError s).toll.errorState = true ∧
      (c.state ∈ [1, 2, 3] → (tollError s).toll.cert.state = 5 ∧ (tollError s).toll.cert.cause = 5) := by
  obtain ⟨x, hx⟩ := tollError_toll s
  exact ⟨by rw [hx]; exact hs, by rw [hx], fun h => tollError_cert (hc ▸ h)⟩

/-! ## READ_PUBKEY (R383) -/

/-- The bytes that READ_PUBKEY returns of a slot. -/
def publicBytes (slot : Nat) (key : List Byte) : List Byte := if slot = 0x0C then p384Public (beNat key) else key

theorem readPubkey_admitted (h : Admitted p s) (slot : Byte) : exec (.tollReadPubkey p slot) s = .next (
    if (keySlot s slot.toNat).key.isEmpty ∨ ¬(slot.toNat < 8 ∨ slot.toNat = 0x0C) then tollResult 9 p (dropHeld p s)
    else tollResult 0 p (tollOutput p (publicBytes slot.toNat (keySlot s slot.toNat).key) (dropHeld p s))) := by
  refine congrArg Host.Outcome.next ((service_admitted h (.inl rfl) (.inl rfl)).trans ?_)
  simp only [keySlot_dropHeld, publicBytes]

/-- What an output leaves in TOLL_DATA and elsewhere. -/
theorem tollOutput_answer (p : Port) (bs : List Byte) (s : State) :
    let t := tollResult 0 p (tollOutput p bs (dropHeld p s))
    (tollPort t p).result = 0 ∧ t.toll.slots = s.toll.slots ∧ t = { dropHeld p s with toll := t.toll } ∧
      ∀ i, i < bs.length → sget 0 (tollPort t p).data i = bs.getD i 0 := by
  refine ⟨tollResult_result .., by cases p <;> rfl, by cases p <;> rfl, fun i hi => ?_⟩
  have hdata : (tollPort (tollResult 0 p (tollOutput p bs (dropHeld p s))) p).data = sblit 0 (tollPort (dropHeld p s) p).data 0 bs := by
    cases p <;> rfl
  have hread := sget_sblit_inside 0 (tollPort (dropHeld p s) p).data 0 bs i hi
  rwa [Nat.zero_add, ← hdata] at hread

/-- Settles O54: a self-test runs or waits by what runs; the end of tests is judged alike for a service and for a warm reset. -/
theorem selfTestsAndPublicKeys : Obligations.SelfTestsAndPublicKeys := by
  unfold Obligations.SelfTestsAndPublicKeys
  have hslotC : ∀ slot : Byte, slot.toNat = 0x0C ↔ slot = 0x0C#8 := fun slot => ⟨fun h => BitVec.eq_of_toNat_eq h, fun h => by rw [h]; rfl⟩
  refine ⟨fun s p h hw => ⟨fun ha => ?_, fun ha => ⟨_, ?_, rfl⟩⟩, fun s pass hm => selftestEnd_stopped hm pass, fun s p pass hm hb => ?_,
    fun s p hm hp hk hw hb hv ha => ?_, fun s pass hb h => selftestEnd_noTests hb h pass, fun s pass hm hb hw hd hc => ?_,
    fun s p slot h => ⟨fun hk hs => ?_, fun hx => ⟨_, ?_, rfl⟩⟩⟩
  · rw [tollSelftest_asked h.up h.host h.mgr hw h.notBusy, ha, h.idle]
    rfl
  · rw [tollSelftest_asked h.up h.host h.mgr hw h.notBusy, ha]
    rfl
  · refine ⟨_, selftestEnd_service hm hb pass, ?_⟩
    by_cases hpass : pass = 0x1FF#9
    · rw [if_pos hpass]
      refine ⟨?_, ?_, ?_, ?_, fun _ => ⟨?_, ?_, ?_, ?_⟩, fun h => absurd hpass h⟩
      all_goals cases p <;> rfl
    · obtain ⟨x, hx⟩ := tollError_toll (testsOver pass s)
      obtain ⟨hself, herr, hcert⟩ := tollError_of_test (s := testsOver pass s) (c := s.toll.cert) (pass := pass) rfl rfl
      rw [if_neg hpass]
      simp only [tollResult_busy, tollResult_selftest, tollResult_slots, tollResult_errorState, tollResult_cert, tollResult_result]
      refine ⟨by rw [hx]; rfl, hself, by rw [hx]; rfl, ?_, fun h => absurd h hpass, fun _ => ⟨herr, trivial, hcert⟩⟩
      have htests : OnlyToll s (testsOver pass s) := rfl
      exact htests.trans ((tollError_onlyToll _).trans (tollResult_onlyToll ..))
  · have hrun : tollRunning s = true := by simp [tollRunning, hv]
    rw [tollSelftest_asked hm hp hk hw hb, ha, hrun]
    rfl
  · obtain ⟨x, hx, hphase⟩ := warmTestsEnd_frame pass s
    refine ⟨warmTestsEnd pass s, ?_, ?_⟩
    · rw [selftestEnd_other hm (by simp [hb]), if_pos ⟨hw, hd, hc⟩]
    rw [hx]
    refine ⟨rfl, ?_⟩
    by_cases hpass : pass = 0x1FF#9
    · rw [warmJudged_pass hpass]
      exact ⟨rfl, rfl, by simp [hpass], rfl, rfl, rfl, fun h => by rw [hphase h], fun _ => rfl, fun h => absurd hpass h⟩
    · obtain ⟨hself, herr, hcert⟩ := tollError_of_test (s := warmTested pass s) (c := s.toll.cert) (pass := pass) rfl rfl
      rw [warmJudged_fail hpass]
      exact ⟨hself, tollError_slots _, by simpa [hpass] using herr, rfl, rfl, rfl, fun h => by rw [hphase h],
          fun h => absurd h hpass, fun _ => hcert⟩
  · obtain ⟨hr, hslots, hrest, hdata⟩ := tollOutput_answer p
      (if slot = 0x0C#8 then p384Public (beNat (keySlot s slot.toNat).key) else (keySlot s slot.toNat).key) s
    refine ⟨_, ?_, hr, hslots, hrest, hdata⟩
    rw [readPubkey_admitted h, if_neg, publicBytes, if_congr (hslotC slot) rfl rfl]
    rintro (he | hn)
    · exact hk (List.isEmpty_iff.1 he)
    · exact hn (by rwa [hslotC])
  · rw [readPubkey_admitted h, if_pos]
    rwa [List.isEmpty_iff, hslotC]

end Sys2Proof.Machine
end

section
/-! SUPPORT. The key services of the manager's session (R381 to R383, R385, R387, R389, R394). -/

namespace Sys2Proof.Machine

variable {s : State} {slot : Byte} {key : List Byte} {n : Nat}

/-! ## A key that is entered (R387) -/

/-- A service of the manager has entered a key. -/
def keyEntered (n : Nat) (key : List Byte) (s : State) : State := tollResult 0 .mgr (enterKey n key (dropHeld .mgr s))

theorem keyEntered_slot (n : Nat) (key : List Byte) (s : State) : keySlot (keyEntered n key s) n = ⟨key, 0⟩ := by
  rw [keyEntered, keySlot_tollResult, keySlot, enterKey, sget_sset, if_pos rfl]

theorem keyEntered_others {k : Nat} (h : k ≠ n) (key : List Byte) (s : State) : keySlot (keyEntered n key s) k = keySlot s k := by
  rw [keyEntered, keySlot_tollResult, keySlot, enterKey, sget_sset, if_neg h, dropHeld_toll, keySlot]

/-! ## LOAD_PUBKEY, LOAD_WRAPPED (R382) -/

theorem loadPubkey_admitted (h : Admitted .mgr s) (ha : s.toll.mgr.auth = true) (slot : Byte) : exec (.tollLoadPubkey .mgr slot) s = .next (
    let k := tollInput s .mgr 96
    if 8 ≤ slot.toNat then tollResult 9 .mgr (dropHeld .mgr s)
    else if beNat (k.take 48) < p384P ∧ beNat (k.drop 48) < p384P ∧ onP384 (beNat (k.take 48)) (beNat (k.drop 48)) then
      keyEntered slot.toNat k s
    else tollResult 4 .mgr (dropHeld .mgr s)) := by
  refine congrArg Host.Outcome.next ((service_admitted h (.inr rfl) (.inr ha)).trans ?_)
  simp only [tollInput_dropHeld, keyEntered]

/-- The key that the wrapped bytes of TOLL_DATA hold, where a tag holds under a key-wrapping key. -/
def wrappedKey (s : State) (slot : Byte) (kwk : List Byte) : Option (List Byte) :=
  let m := wrappedSize slot.toNat
  let w := tollInput s .mgr (28 + m)
  gcmOpen kwk (w.take 12) [slot, BitVec.ofNat 8 m, 0, 0] (slice w 12 (12 + m)) (w.drop (12 + m))

theorem loadWrapped_admitted (h : Admitted .mgr s) (ha : s.toll.mgr.auth = true) (slot : Byte) : exec (.tollLoadWrapped .mgr slot) s = .next (
    if wrappedSize slot.toNat = 0 then tollResult 9 .mgr (dropHeld .mgr s)
    else if s.toll.fuses.revoke then tollResult 8 .mgr (dropHeld .mgr s)
    else if slotSigning s slot.toNat then tollResult 5 .mgr (dropHeld .mgr s)
    else (s.toll.fuses.kwk.bind (wrappedKey s slot)).elim (tollResult 3 .mgr (dropHeld .mgr s)) (fun k => keyEntered slot.toNat k s)) := by
  have hslot : BitVec.ofNat 8 slot.toNat = slot := by simp
  refine congrArg Host.Outcome.next ?_
  unfold tollLoadWrappedOp
  rw [service_admitted h (.inr rfl) (.inr ha)]
  simp only [tollInput_dropHeld, slotSigning_dropHeld, dropHeld_toll, hslot]
  cases s.toll.fuses.kwk with
  | none => rfl
  | some k =>
    simp only [Option.bind_some, wrappedKey]
    generalize gcmOpen k _ _ _ _ = opened
    cases opened <;> rfl

/-! ## CLEAR_SLOT and FIELD_LOCK (R383, R394) -/

/-- The slot has been emptied. -/
def slotCleared (n : Nat) (s : State) : State :=
  tollResult 0 .mgr { dropHeld .mgr s with toll := { s.toll with slots := sput s.toll.slots n none } }

theorem slotCleared_slot (n : Nat) (s : State) (k : Nat) : keySlot (slotCleared n s) k = if k = n then default else keySlot s k := by
  rw [slotCleared, keySlot_tollResult, keySlot, sget_sput]
  rfl

theorem clearSlot_admitted (h : Admitted .mgr s) (ha : s.toll.mgr.auth = true) (slot : Byte) : exec (.tollClearSlot .mgr slot) s = .next (
    if 16 ≤ slot.toNat then tollResult 9 .mgr (dropHeld .mgr s)
    else if slotSigning s slot.toNat then tollResult 5 .mgr (dropHeld .mgr s)
    else slotCleared slot.toNat s) := by
  refine congrArg Host.Outcome.next ((service_admitted h (.inr rfl) (.inr ha)).trans ?_)
  simp only [slotSigning_dropHeld, dropHeld_toll, slotCleared]

theorem fieldLock_admitted (h : Admitted .mgr s) (ha : s.toll.mgr.auth = true) : exec (.tollFieldLock .mgr) s = .next (
    if leNat (tollInput s .mgr 4) = 0x4B434F4C then
      tollResult 0 .mgr { dropHeld .mgr s with toll := { s.toll with fuses := { s.toll.fuses with lock := true } } }
    else tollResult 9 .mgr (dropHeld .mgr s)) := by
  refine congrArg Host.Outcome.next ((service_admitted h (.inr rfl) (.inr ha)).trans ?_)
  simp only [tollInput_dropHeld, dropHeld_toll]

/-! ## GENKEY (R383, R385) -/

/-- A reseeding does not touch a port's low half. -/
theorem reseedDrbg_dropHeld (p : Port) (s : State) : reseedDrbg (dropHeld p s) = dropHeld p (reseedDrbg s) := by
  unfold reseedDrbg seedDrbg tollError
  cases p
  all_goals
    dsimp only [dropHeld]
    split
    · split <;> rfl
    · rfl

@[simp] theorem scalarNext_slots (s : State) : (scalarNext s).toll.slots = s.toll.slots := by
  unfold scalarNext
  generalize (drbgScalarFrom 64 s.toll.drbg).2 = d
  rfl

/-- The generator's key stands in slot 0x0C. -/
def keyDrawn (s0 : State) : State := tollResult 0 .mgr (enterKey 0x0C (beBytes 48 (drbgScalar s0)) (scalarNext s0))

/-- The pairwise consistency test has failed: the slot is empty, and the error state entered. -/
def keyInconsistent (s0 : State) : State :=
  tollResult 6 .mgr (tollError (scalarNext { s0 with toll := { s0.toll with slots := sput s0.toll.slots 0x0C none } }))

theorem genkey_admitted (h : Admitted .mgr s) (ha : s.toll.mgr.auth = true) (g : Bool) : exec (.tollGenkey .mgr g) s = .next (
    if slotSigning s 0x0C then tollResult 5 .mgr (dropHeld .mgr s)
    else if (reseedDrbg s).toll.errorState then tollResult 6 .mgr (dropHeld .mgr (reseedDrbg s))
    else if g then keyDrawn (dropHeld .mgr (reseedDrbg s)) else keyInconsistent (dropHeld .mgr (reseedDrbg s))) := by
  refine congrArg Host.Outcome.next ((service_admitted h (.inr rfl) (.inr ha)).trans ?_)
  simp only [slotSigning_dropHeld, reseedDrbg_dropHeld, dropHeld_toll, keyDrawn, keyInconsistent]

theorem keyDrawn_slot (s0 : State) (k : Nat) :
    keySlot (keyDrawn s0) k = if k = 0x0C then ⟨beBytes 48 (drbgScalar s0), 0⟩ else keySlot s0 k := by
  rw [keyDrawn, keySlot_tollResult, keySlot, enterKey, scalarNext_slots, sget_sset]
  rfl

theorem keyDrawn_drbg (p : Port) (s0 : State) : (keyDrawn (dropHeld p s0)).toll.drbg = (scalarNext s0).toll.drbg := by
  rw [keyDrawn, tollResult_drbg]
  unfold scalarNext
  rw [dropHeld_toll]
  generalize (drbgScalarFrom 64 s0.toll.drbg).2 = d
  rfl

theorem keyDrawn_errorState (s0 : State) : (keyDrawn s0).toll.errorState = s0.toll.errorState := by
  rw [keyDrawn, tollResult_errorState]
  unfold scalarNext
  generalize (drbgScalarFrom 64 s0.toll.drbg).2 = d
  rfl

theorem keyInconsistent_slot (s0 : State) (k : Nat) : keySlot (keyInconsistent s0) k = if k = 0x0C then default else keySlot s0 k := by
  rw [keyInconsistent, keySlot_tollResult, keySlot, tollError_slots, scalarNext_slots, sget_sput]
  rfl

theorem keyInconsistent_error (s0 : State) : (keyInconsistent s0).toll.errorState = true := by
  rw [keyInconsistent, tollResult_errorState]
  rfl

/-- Settles O55: each service is read off its body, which runs on the state whose held low half is dropped; GENKEY goes on from the reseeded
generator. -/
theorem keysAreEntered : Obligations.KeysAreEntered := by
  unfold Obligations.KeysAreEntered
  refine ⟨fun s slot h ha => ⟨⟨fun hn hx hy hc => ?_, fun hn hc => ?_, fun hn => ?_⟩,
      ⟨fun hm => ?_, fun hm hr => ?_, fun hm hr hs kwk hk => ⟨fun key ho => ?_, fun ho => ?_⟩, fun hm hr hs => ?_, fun hm hr hs hk => ?_⟩,
      fun hn hs => ?_, fun hn hs => ?_, fun hn => ?_⟩,
    fun s h ha => ⟨⟨fun hs g => ?_, fun hs g => ?_⟩, fun hd => ?_, fun hd => ?_⟩, fun s slot g h c hc => ?_⟩
  · exact ⟨_, (loadPubkey_admitted h ha slot).trans (congrArg _ ((if_neg (Nat.not_le.2 hn)).trans (if_pos ⟨hx, hy, hc⟩))),
      keyEntered_slot .., fun k hk => keyEntered_others hk .., rfl, rfl, rfl⟩
  · exact ⟨_, (loadPubkey_admitted h ha slot).trans (congrArg _ ((if_neg (Nat.not_le.2 hn)).trans (if_neg hc))), rfl⟩
  · exact ⟨_, (loadPubkey_admitted h ha slot).trans (congrArg _ (if_pos hn)), rfl⟩
  · exact ⟨_, (loadWrapped_admitted h ha slot).trans (congrArg _ (if_pos hm)), rfl⟩
  · exact ⟨_, (loadWrapped_admitted h ha slot).trans (congrArg _ ((if_neg hm).trans (if_pos hr))), rfl⟩
  · have hkey : s.toll.fuses.kwk.bind (wrappedKey s slot) = some key := by rw [hk, Option.bind_some]; exact ho
    refine ⟨keyEntered slot.toNat key s, ?_, keyEntered_slot .., fun k hk => keyEntered_others hk .., rfl, rfl, rfl⟩
    rw [loadWrapped_admitted h ha, if_neg hm, hr, hs, hkey]
    rfl
  · have hkey : s.toll.fuses.kwk.bind (wrappedKey s slot) = none := by rw [hk, Option.bind_some]; exact ho
    refine ⟨_, ?_, rfl⟩
    rw [loadWrapped_admitted h ha, if_neg hm, hr, hs, hkey]
    rfl
  · refine ⟨_, ?_, rfl⟩
    rw [loadWrapped_admitted h ha, if_neg hm, hr, if_pos hs]
    rfl
  · refine ⟨_, ?_, rfl⟩
    rw [loadWrapped_admitted h ha, if_neg hm, hr, hs, hk]
    rfl
  · refine ⟨slotCleared slot.toNat s, ?_, (slotCleared_slot ..).trans (if_pos rfl), fun k hk => (slotCleared_slot ..).trans (if_neg hk), rfl⟩
    rw [clearSlot_admitted h ha, if_neg (Nat.not_le.2 hn), hs]
    rfl
  · refine ⟨_, ?_, rfl⟩
    rw [clearSlot_admitted h ha, if_neg (Nat.not_le.2 hn), if_pos hs]
  · exact ⟨_, (clearSlot_admitted h ha slot).trans (congrArg _ (if_pos hn)), rfl⟩
  · obtain ⟨-, hslots, -, -⟩ := seedDrbg_effect false s
    have hold : ∀ k, keySlot (dropHeld .mgr (reseedDrbg s)) k = keySlot s k := fun k => by
      rw [keySlot_dropHeld, keySlot, reseedDrbg, hslots, keySlot]
    rw [genkey_admitted h ha, hs, if_neg Bool.false_ne_true]
    cases he : (reseedDrbg s).toll.errorState with
    | true =>
      rw [if_pos rfl]
      exact ⟨_, rfl, fun k _ => (keySlot_tollResult ..).trans (hold k), nofun, nofun, fun _ => ⟨hslots, rfl, he⟩⟩
    | false =>
      rw [if_neg Bool.false_ne_true]
      cases g with
      | true =>
        refine ⟨_, rfl, fun k hk => (keyDrawn_slot ..).trans ((if_neg hk).trans (hold k)),
          fun _ _ => ⟨keyDrawn_slot _ 0x0C, keyDrawn_drbg .., rfl, ?_⟩, nofun, nofun⟩
        rw [if_pos rfl, keyDrawn_errorState, dropHeld_toll, he]
      | false =>
        exact ⟨_, rfl, fun k hk => (keyInconsistent_slot ..).trans ((if_neg hk).trans (hold k)), nofun,
          fun _ _ => ⟨keyInconsistent_slot _ 0x0C, keyInconsistent_error _, rfl⟩, nofun⟩
  · exact ⟨_, (genkey_admitted h ha g).trans (congrArg _ (if_pos hs)), rfl⟩
  · exact ⟨_, (fieldLock_admitted h ha).trans (congrArg _ (if_pos hd)), rfl, rfl, rfl, rfl⟩
  · exact ⟨_, (fieldLock_admitted h ha).trans (congrArg _ (if_neg hd)), rfl⟩
  · simp only [List.mem_cons, List.not_mem_nil, or_false] at hc
    rcases hc with rfl | rfl | rfl | rfl | rfl
    all_goals exact ⟨_, congrArg Host.Outcome.next (service_role h rfl nofun), rfl⟩

end Sys2Proof.Machine
end

section
/-! SUPPORT. Zeroisation, debug access, and what a cold reset leaves (R387, R393, R394, R402, R407, R411). -/

namespace Sys2Proof.Machine

variable {s t : State} {p : Port} {perm : Bool}

/-! ## A cold reset (R402, Table 16-7) -/

/-- What every cold reset leaves, with keep state lost or kept. -/
def MainCleared (s t : State) : Prop :=
  t.man = .cold ∧ t.crs = .cold ∧ t.cq = .cold ∧ t.rtv = .cold ∧ t.sp = .cold ∧ t.tbl = .cold ∧ t.arr = .cold ∧
  t.dgst = .cold ∧ t.hostp = .zero ∧ t.tow = .cold s.tow.position ∧ t.evt.log = [] ∧ t.pwr.mainDown = true ∧
  t.pwr.tested = false ∧ t.toll.fuses = s.toll.fuses ∧ t.toll.shadow = s.toll.fuses ∧ t.toll.host.auth = false ∧
  t.toll.mgr.auth = false ∧ t.toll.errorState = false ∧ t.isl.shadow = none ∧ t.pending = s.pending ∧
  t.stepping = s.stepping ∧ t.free = s.free

/-- The Tollhouse after a cold reset that found keep state lost: its keys are gone, and the serial with them. -/
def tollLost (s : State) : TollUnit :=
  { TollUnit.lost s.toll.fuses with
    drbg := .blank s.toll.drbg.seeds, cert := if certLive s.toll.cert then { certReset s with serial := 0 } else .zero }

theorem coldReset_toll (bad : Bool) (s : State) : (coldReset bad s).toll = if bad || s.pwr.latch then tollLost s else tollCold s := rfl

theorem coldReset_cleared (bad : Bool) (s : State) : MainCleared s (coldReset bad s) := by
  have htoll : ∀ u, u = tollLost s ∨ u = tollCold s → u.fuses = s.toll.fuses ∧ u.shadow = s.toll.fuses ∧ u.host.auth = false ∧
      u.mgr.auth = false ∧ u.errorState = false := by
    rintro u (rfl | rfl) <;> exact ⟨rfl, rfl, rfl, rfl, rfl⟩
  obtain ⟨hf, hs, hh, hm, he⟩ := htoll (coldReset bad s).toll (by rw [coldReset_toll]; split <;> simp)
  have hshadow : (coldReset bad s).isl.shadow = none := by
    unfold coldReset
    dsimp only
    split <;> rfl
  exact ⟨rfl, rfl, rfl, rfl, rfl, rfl, rfl, rfl, rfl, rfl, rfl, rfl, rfl, hf, hs, hh, hm, he, hshadow, rfl, rfl, rfl⟩

/-- What a loss of keep state takes beside (R402). -/
theorem coldReset_lost {bad : Bool} (h : bad = true ∨ s.pwr.latch = true) :
    (coldReset bad s).sb = .lost ∧ (coldReset bad s).keep = .lost s.toll.fuses.factory ∧ (coldReset bad s).toll.slots = [] ∧
      (coldReset bad s).evt.kept = [] ∧ (coldReset bad s).pwr.keepLost = true := by
  rw [coldReset_of_lost h]
  exact ⟨rfl, rfl, rfl, rfl, rfl⟩

/-- What a cold reset keeps with the island (R402, R407). -/
theorem coldReset_kept_island (h : s.pwr.latch = false) :
    (coldReset false s).toll = tollCold s ∧ (coldReset false s).evt.kept = s.evt.kept ∧ (coldReset false s).pwr.keepLost = false ∧
      (coldReset false s).keep = keepAtReset s.keep ∧ (coldReset false s).sb = s.sb := by
  simp [coldReset, h]

/-- Erased keys stay erased over a cold reset, and what ran has ended. -/
theorem coldReset_erased (bad : Bool) (hs : s.toll.slots = []) (hz : s.toll.zeroised = true) :
    (coldReset bad s).toll.slots = [] ∧ (coldReset bad s).toll.zeroised = true ∧ (coldReset bad s).toll.busy = .none ∧
      (coldReset bad s).toll.host.nonce = none ∧ (coldReset bad s).toll.mgr.nonce = none := by
  rw [coldReset_toll]
  split
  · exact ⟨rfl, rfl, rfl, rfl, rfl⟩
  · exact ⟨hs, hz, rfl, rfl, rfl⟩

/-- A generator that holds nothing holds nothing after a cold reset. -/
theorem coldReset_blank (bad : Bool) {n : Nat} (h : s.toll.drbg = .blank n) : (coldReset bad s).toll.drbg = .blank n := by
  rw [coldReset_toll]
  split
  · exact congrArg (fun d => Drbg.blank d.seeds) h
  · exact h

/-- Of a certificate only its state, cause and serial outlast a cold reset (R391). -/
theorem coldReset_cert (bad : Bool) (s : State) : (coldReset bad s).toll.cert = { CertUnit.zero with
    state := (coldReset bad s).toll.cert.state, cause := (coldReset bad s).toll.cert.cause, serial := (coldReset bad s).toll.cert.serial } := by
  rw [coldReset_toll]
  split
  · unfold tollLost
    dsimp only
    split <;> rfl
  · rfl

/-- The ledger's committed counts and the repair table outlast a cold reset that keeps the island. -/
theorem coldReset_ledger (h : s.pwr.latch = false) : (coldReset false s).keep.committed = s.keep.committed ∧
    (coldReset false s).keep.commitSeq = s.keep.commitSeq ∧ (coldReset false s).keep.repair = s.keep.repair := by
  obtain ⟨-, -, -, hkeep, -⟩ := coldReset_kept_island h
  rw [hkeep]
  exact ⟨rfl, rfl, rfl⟩

/-! ## The overwrite (R387) -/

theorem tollResult_ports (r : Nat) (p : Port) (s : State) :
    ∃ x y, tollResult r p s = { s with toll := { s.toll with host := x, mgr := y } } := by
  cases p <;> exact ⟨_, _, rfl⟩

/-- The services that a zeroisation ends report to their ports; a verification under way is over (R384, R387). -/
theorem endServices_frame (s : State) : ∃ x y m, endServices s =
    { s with toll := { s.toll with host := x, mgr := y, waitSelftest := none }, man := m } ∧ m.stage ≠ .verifying := by
  unfold endServices
  extract_lets s1 s2
  have h1 : ∃ x y, s1 = { s with toll := { s.toll with host := x, mgr := y } } := by
    unfold s1
    split
    · exact tollResult_ports ..
    · exact ⟨_, _, rfl⟩
  have h2 : ∃ x y, s2 = { s with toll := { s.toll with host := x, mgr := y } } := by
    obtain ⟨x, y, h⟩ := h1
    unfold s2
    split
    · rw [h]
      exact tollResult_ports 7 _ { s with toll := { s.toll with host := x, mgr := y } }
    · exact ⟨x, y, h⟩
  obtain ⟨x, y, h⟩ := h2
  clear_value s2
  subst h
  split
  · exact ⟨x, y, _, rfl, nofun⟩
  · next hv => exact ⟨x, y, s.man, rfl, hv⟩

/-- A zeroisation that runs has erased the keys and is busy. -/
def zeroising (perm : Bool) (s : State) : State :=
  let t := eraseKeys perm (endServices (dropHeld .mgr s))
  tollResult 0 .mgr { t with toll := { t.toll with busy := .zeroise perm } }

theorem zeroise_mgr (hm : mainStopped s = false) (perm : Bool) : tollZeroiseOp .mgr perm s =
    if s.toll.errorState then tollResult 6 .mgr (dropHeld .mgr s)
    else if (keySlot s 0x0F).key.isEmpty then tollResult 2 .mgr (dropHeld .mgr s)
    else if perm && !s.toll.mgr.auth then tollResult 2 .mgr (dropHeld .mgr s)
    else zeroising perm s := by
  unfold tollZeroiseOp
  extract_lets run
  rw [hostPath (p := .mgr) hm nofun run]
  simp only [run, mainStopped_dropHeld, dropHeld_toll, keySlot_dropHeld, hm, Bool.false_eq_true, ↓reduceIte]
  rfl

theorem zeroise_error (hm : mainStopped s = false) (he : s.toll.errorState = true) (perm : Bool) :
    tollZeroiseOp .mgr perm s = tollResult 6 .mgr (dropHeld .mgr s) := by
  rw [zeroise_mgr hm, if_pos he]

/-- While slot 0x0F is empty the manager is not known (R381). -/
theorem zeroise_emptySlot (hm : mainStopped s = false) (he : s.toll.errorState = false) (hk : (keySlot s 0x0F).key = []) (perm : Bool) :
    tollZeroiseOp .mgr perm s = tollResult 2 .mgr (dropHeld .mgr s) := by
  rw [zeroise_mgr hm, he, hk]
  rfl

/-- A permanent one needs a session. -/
theorem zeroise_noSession (hm : mainStopped s = false) (he : s.toll.errorState = false) (ha : s.toll.mgr.auth = false) :
    tollZeroiseOp .mgr true s = tollResult 2 .mgr (dropHeld .mgr s) := by
  rw [zeroise_mgr hm, he, ha]
  exact ite_self _

theorem zeroise_begins (hm : mainStopped s = false) (he : s.toll.errorState = false) (hk : (keySlot s 0x0F).key ≠ [])
    (ha : perm = true → s.toll.mgr.auth = true) : tollZeroiseOp .mgr perm s = zeroising perm s := by
  have hauth : (perm && !s.toll.mgr.auth) = false := by
    cases perm with
    | false => rfl
    | true => rw [ha rfl]; rfl
  rw [zeroise_mgr hm, he, if_neg (hk ∘ List.isEmpty_iff.1), hauth]
  rfl

/-- The keys are erased while nothing runs, and the cold reset waits for the start-up (R419, log entry 176). -/
def erasedStopped (s : State) : State :=
  tollResult 0 .mgr (eraseKeys false { dropHeld .mgr s with pwr := { s.pwr with zeroisePending := true } })

theorem zeroise_mgr_stopped (hm : mainStopped s = true) (perm : Bool) : tollZeroiseOp .mgr perm s =
    if perm then tollResult 5 .mgr (dropHeld .mgr s)
    else if (keySlot s 0x0F).key.isEmpty then tollResult 2 .mgr (dropHeld .mgr s)
    else erasedStopped s := by
  unfold tollZeroiseOp
  extract_lets run
  rw [if_neg nofun]
  simp only [run, mainStopped_dropHeld, keySlot_dropHeld, hm, ↓reduceIte]
  rfl

theorem zeroise_host_stopped (hm : mainStopped s = true) (perm : Bool) : tollZeroiseOp .host perm s = s :=
  if_pos hm

theorem zeroise_host (h : Admitted .host s) (perm : Bool) : tollZeroiseOp .host perm s = tollResult 1 .host (dropHeld .host s) := by
  unfold tollZeroiseOp
  extract_lets run
  rw [hostPath h.up h.host run]
  simp only [run, mainStopped_dropHeld, dropHeld_toll, h.up, h.good, Bool.false_eq_true, ↓reduceIte]

/-- What a zeroisation has erased, and what it leaves. -/
def KeysErased (perm : Bool) (s t : State) : Prop := t.toll.slots = [] ∧ t.toll.busy = .zeroise perm ∧
  t.toll.zeroised = true ∧ t.toll.host.auth = false ∧ t.toll.mgr.auth = false ∧ t.toll.host.nonce = none ∧
  t.toll.mgr.nonce = none ∧ t.toll.mgr.result = 0 ∧ t.toll.fuses.revoke = (s.toll.fuses.revoke || perm) ∧
  t.man.stage ≠ .verifying ∧ t.keep = s.keep ∧ t.sp = s.sp ∧ t.cq = s.cq

theorem zeroising_erased (perm : Bool) (s : State) : KeysErased perm s (zeroising perm s) := by
  obtain ⟨x, y, m, he, hm⟩ := endServices_frame (dropHeld .mgr s)
  rw [zeroising, he]
  exact ⟨rfl, rfl, rfl, rfl, rfl, rfl, rfl, rfl, rfl, hm, rfl, rfl, rfl⟩

/-- Where no zeroisation runs, or the clock is stopped, none ends (log entry 176). -/
theorem zeroiseEnd_idle (h : mainStopped s = true ∨ ∀ perm, s.toll.busy ≠ .zeroise perm) : exec .zeroiseEnd s = .next s := by
  refine congrArg Host.Outcome.next ?_
  cases hm : mainStopped s with
  | true => exact if_pos rfl
  | false =>
    refine (if_neg nofun).trans ?_
    split
    · next perm hb => exact absurd hb ((h.resolve_left (Bool.eq_false_iff.1 hm)) perm)
    · rfl

/-- Settles O56: a zeroisation erases on the state whose services have ended, and its end is a cold reset of an erased state. -/
theorem zeroisationErasesEveryKey : Obligations.ZeroisationErasesEveryKey := by
  unfold Obligations.ZeroisationErasesEveryKey
  have next : ∀ {s t : State} {p : Port} {perm : Bool}, tollZeroiseOp p perm s = t →
      (.next (tollZeroiseOp p perm s) : Host.Outcome State Fault Refusal) = .next t := congrArg _
  refine ⟨fun s hm he hk => ⟨⟨_, next (zeroise_begins hm he hk nofun), zeroising_erased false s⟩,
      fun ha => ⟨_, next (zeroise_begins hm he hk fun _ => ha), zeroising_erased true s⟩,
      fun ha => ⟨_, next (zeroise_noSession hm he ha), rfl⟩⟩,
    fun s hm => ⟨fun he => ⟨⟨_, next (zeroise_error hm he false), rfl⟩, fun _ => ⟨_, next (zeroise_error hm he true), rfl⟩⟩,
      fun he hk => ⟨⟨_, next (zeroise_emptySlot hm he hk false), rfl⟩, fun _ => ⟨_, next (zeroise_emptySlot hm he hk true), rfl⟩⟩,
      fun perm he _ hs => ?_⟩,
    fun s hm hk => ⟨erasedStopped s, next ?_, rfl, rfl, rfl, rfl⟩,
    fun s hm => ⟨⟨_, next (zeroise_mgr_stopped hm true), rfl⟩, next (zeroise_host_stopped hm false), next (zeroise_host_stopped hm true)⟩,
    fun s h => ⟨⟨_, next (zeroise_host h false), rfl⟩, ⟨_, next (zeroise_host h true), rfl⟩⟩,
    fun s perm hm hb => ⟨_, zeroiseEnd_running hm hb, ?_⟩, fun s h => zeroiseEnd_idle h⟩
  · have hk : (keySlot s 0x0F).key = [] := by rw [keySlot, hs]; rfl
    exact ⟨⟨_, next (zeroise_emptySlot hm he hk false), rfl⟩, fun _ => ⟨_, next (zeroise_emptySlot hm he hk true), rfl⟩⟩
  · rw [zeroise_mgr_stopped hm, if_neg (hk ∘ List.isEmpty_iff.1)]
    rfl
  · obtain ⟨hslots, hz, hbusy, -, -⟩ := coldReset_erased (s := eraseKeys perm s) false rfl rfl
    exact ⟨hslots, hbusy, hz, rfl, rfl, rfl, rfl, fun hl => coldReset_ledger (s := eraseKeys perm s) hl⟩

/-- Settles O52: without the field lock the keys are erased before the cold reset that lets the instruments in. -/
theorem debugAccessErasesTheKeys : Obligations.DebugAccessErasesTheKeys := by
  unfold Obligations.DebugAccessErasesTheKeys
  intro s
  refine ⟨fun hl => congrArg Host.Outcome.next (if_pos hl),
    fun hl => ⟨_, congrArg Host.Outcome.next (if_neg (Bool.eq_false_iff.1 hl)), ?_⟩⟩
  obtain ⟨x, y, m, he, -⟩ := endServices_frame s
  rw [he]
  generalize hu : eraseKeys false _ = u
  have hblank : u.toll.drbg = .blank s.toll.drbg.seeds := by rw [← hu]; rfl
  obtain ⟨hslots, hz, -, hhn, hmn⟩ := coldReset_erased (s := u) false (by rw [← hu]; rfl) (by rw [← hu]; rfl)
  obtain ⟨-, -, -, -, -, -, -, -, -, -, -, -, -, -, -, hh, hm, -⟩ := coldReset_cleared false u
  refine ⟨hslots, rfl, hz, hh, hm, hhn, hmn, coldReset_blank false hblank, coldReset_cert false u, rfl, rfl, rfl, rfl, rfl, rfl, rfl, rfl, rfl,
    fun hl => ?_⟩
  subst hu
  exact coldReset_ledger hl

end Sys2Proof.Machine
end

section
/-! SUPPORT. Certificates: armed, cancelled and written (R390, R392). -/

namespace Sys2Proof.Machine

variable {s : State}

/-- What R390 asks of a range to be certified: its crossings are to come, in order; nothing is under way; and the mode has a key. -/
def mayArm (s : State) : Prop :=
  let c0 := s.toll.cert.range0 / 2 ^ 16
  (s.crs.firstOpen = true ∨ s.crs.crossing < c0) ∧ c0 ≤ s.toll.cert.range1 / 2 ^ 16 ∧ s.toll.cert.state ∉ [1, 2, 3] ∧
    ∃ m, s.man.active = some m ∧ (keySlot s (if m.certHmac then 0x0D else 0x0C)).key ≠ []

/-- The certificate as CERT_ARM arms it (Table 17-5). -/
def armedCert (c : CertUnit) : CertUnit :=
  { c with
    state := 1, cause := 0, dest := c.addr / 512 * 512, c0 := c.range0 / 2 ^ 16, c1 := c.range1 / 2 ^ 16, lVec := c.range0 % 2 ^ 16,
    lOut := c.range1 % 2 ^ 16, lIn := c.lInHigh * 512 + c.addr % 512, captured := none, tvd := [], vec := none, inp := none, outp := none }

/-- What CERT_ARM reads off the state (R390). -/
theorem armable_iff : ((s.crs.firstOpen || decide (s.crs.crossing < s.toll.cert.range0 / 2 ^ 16)) &&
      decide (s.toll.cert.range0 / 2 ^ 16 ≤ s.toll.cert.range1 / 2 ^ 16) &&
      (match s.man.active with
        | some m => !(keySlot s (certSlot m.certHmac)).key.isEmpty
        | none => false) && !certLive s.toll.cert) = true ↔ mayArm s := by
  have hlive : (!certLive s.toll.cert) = true ↔ s.toll.cert.state ∉ [1, 2, 3] := by rw [Bool.not_eq_true', ← Bool.not_eq_true, certLive_iff]
  have hkey : (match s.man.active with
      | some m => !(keySlot s (certSlot m.certHmac)).key.isEmpty
      | none => false) = true ↔ ∃ m, s.man.active = some m ∧ (keySlot s (if m.certHmac then 0x0D else 0x0C)).key ≠ [] := by
    cases s.man.active <;> simp [certSlot]
  simp only [Bool.and_eq_true, Bool.or_eq_true, decide_eq_true_eq, hlive, hkey, mayArm, and_assoc, and_comm, and_left_comm]

theorem certArm_may (h : Admitted .host s) (ha : s.toll.host.auth = true) (hc : mayArm s) : exec (.certArm .host) s =
    .next (tollResult 0 .host { dropHeld .host s with toll := { s.toll with cert := armedCert s.toll.cert } }) :=
  congrArg Host.Outcome.next ((service_admitted h (.inr rfl) (.inr ha)).trans (if_pos (armable_iff.2 hc)))

theorem certArm_mayNot (h : Admitted .host s) (ha : s.toll.host.auth = true) (hc : ¬mayArm s) :
    exec (.certArm .host) s = .next (tollResult 9 .host (dropHeld .host s)) :=
  congrArg Host.Outcome.next ((service_admitted h (.inr rfl) (.inr ha)).trans (if_neg (hc ∘ armable_iff.1)))

/-- One whose write has left counts as written (log entry 150). -/
theorem bit_certSent (s : State) :
    bit (certSent s) = if s.toll.cert.state = 3 ∧ (s.rtv.posts.any (fun x => x.1.isCert)) = false then 1 else 0 := by
  unfold bit certSent
  exact if_congr (by simp only [Bool.and_eq_true, beq_iff_eq, Bool.not_eq_true']) rfl rfl

theorem certCancel_admitted (h : Admitted .host s) (ha : s.toll.host.auth = true) : exec (.certCancel .host) s = .next (
    if certLive s.toll.cert then tollResult 0 .host (endCert 6 0 (dropHeld .host s)) else tollResult 9 .host (dropHeld .host s)) :=
  congrArg Host.Outcome.next (service_admitted h (.inr rfl) (.inr ha))

/-- The certificate's own write is still on its way, in the Retriever's two lists. -/
def certUnwritten (s : State) : Prop :=
  (∃ x ∈ s.rtv.posts, x.1 = .cert s.toll.cert.serial) ∨ (∃ q ∈ s.rtv.out, q.owner = .cert s.toll.cert.serial)

theorem certUnwritten_iff : (s.rtv.posts.any (fun p => p.1 == .cert s.toll.cert.serial) ||
    s.rtv.out.any (fun q => q.owner == .cert s.toll.cert.serial)) = true ↔ certUnwritten s := by
  simp only [certUnwritten, Bool.or_eq_true, List.any_eq_true, beq_iff_eq]

theorem certificateWritten_through (hm : mainStopped s = false) (hs : s.toll.cert.state = 3) (hw : ¬certUnwritten s) (fault : Bool) :
    exec (.certificateWritten fault) s = .next (setCert (
      if fault then { s.toll.cert with state := 5, cause := 3 } else { s.toll.cert with state := 4, serial := s.toll.cert.serial + 1 }) s) :=
  congrArg Host.Outcome.next ((if_neg (Bool.eq_false_iff.1 hm)).trans (if_pos ⟨hs, hw ∘ certUnwritten_iff.1⟩))

theorem certificateWritten_waits (h : mainStopped s = true ∨ s.toll.cert.state ≠ 3 ∨ certUnwritten s) (fault : Bool) :
    exec (.certificateWritten fault) s = .next s := by
  refine congrArg Host.Outcome.next ?_
  cases hm : mainStopped s with
  | true => exact if_pos rfl
  | false =>
    refine (if_neg nofun).trans (if_neg ?_)
    rintro ⟨hs, hw⟩
    rcases h with h | h | h
    · rw [hm] at h; cases h
    · exact h hs
    · exact hw (certUnwritten_iff.2 h)

/-- Settles O57: arming by R390's condition, cancelling by whether one is under way, writing by whether its write is through. -/
theorem certificatesAreArmedAndWritten : Obligations.CertificatesAreArmedAndWritten := by
  unfold Obligations.CertificatesAreArmedAndWritten
  refine ⟨fun s h ha => ⟨fun hc => ⟨_, certArm_may h ha hc, rfl, rfl, rfl, rfl, rfl, rfl, rfl, rfl, rfl⟩,
      fun hc => ⟨_, certArm_mayNot h ha hc, rfl⟩,
      fun hc => ⟨_, (certCancel_admitted h ha).trans (congrArg _ (if_pos (certLive_iff.2 hc))), ?_, fun x => ?_, rfl, rfl, rfl⟩,
      fun hc => ⟨_, (certCancel_admitted h ha).trans (congrArg _ (if_neg (hc ∘ certLive_iff.1))), rfl⟩⟩,
    fun s h => ⟨⟨_, congrArg Host.Outcome.next (service_role h rfl nofun), rfl⟩,
      ⟨_, congrArg Host.Outcome.next (service_role h rfl nofun), rfl⟩⟩,
    fun s hm hs hp ho => ?_, fun s f h => certificateWritten_waits h f⟩
  · rw [tollResult_cert, ← bit_certSent]
    rfl
  · rw [tollResult_rtv]
    simp [endCert, List.mem_filter]
  · have hw : ¬certUnwritten s := by
      rintro (⟨x, hx, he⟩ | ⟨q, hq, he⟩)
      · exact hp x hx he
      · exact ho q hq he
    exact ⟨certificateWritten_through hm hs hw false, certificateWritten_through hm hs hw true⟩

end Sys2Proof.Machine
end

section
/-! SUPPORT. Cold resets and the rails (R397, R402, R407, R411, R412, R414). -/

namespace Sys2Proof.Machine

variable {s : State} {p : Port} {bad : Bool} {cause : ColdCause}

/-- The state whose cold reset a cause begins: JQ_CTL.COLD, a write of the manager, drops its low half (R428). -/
def coldFrom (cause : ColdCause) (s : State) : State := if cause = .jqCtl then dropHeld .mgr s else s

/-- A cold reset that is not ignored. -/
theorem coldReset_taken (h : cause = .jqCtl → s.pwr.mainDown = false ∧ s.pwr.tested = true) (bad : Bool) :
    exec (.coldReset cause bad) s = .next (coldReset (bad || cause == .powerOn) (coldFrom cause s)) := by
  refine congrArg Host.Outcome.next ?_
  unfold coldOp coldFrom
  split
  · next hc =>
    obtain ⟨hm, ht⟩ := h hc
    subst hc
    exact (if_neg (Bool.eq_false_iff.1 (coldBusy_raised hm ht))).trans (congrArg (coldReset · _) (Bool.or_false bad).symm)
  · rfl

theorem coldReset_ignored (h : s.pwr.mainDown = true ∨ s.pwr.tested = false) (bad : Bool) :
    exec (.coldReset .jqCtl bad) s = .next (dropHeld .mgr s) := by
  have hbusy : coldBusy s = true := by simpa [coldBusy] using h
  exact congrArg Host.Outcome.next ((if_pos rfl).trans (if_pos hbusy))

/-- A cold reset leaves of the state before it what a dropped low half is no part of. -/
theorem coldFrom_cleared (bad : Bool) (cause : ColdCause) (s : State) : MainCleared s (coldReset bad (coldFrom cause s)) := by
  unfold coldFrom
  split
  · exact coldReset_cleared bad (dropHeld .mgr s)
  · exact coldReset_cleared bad s

/-- A drop of a low half changes no part of the state but the two ports. -/
theorem coldFrom_frame (cause : ColdCause) (s : State) : coldFrom cause s =
    { s with hostp := (coldFrom cause s).hostp, sb := { s.sb with heldLow := if cause = .jqCtl then none else s.sb.heldLow } } := by
  unfold coldFrom
  split <;> rfl

/-- What is lost with keep state, beside what every cold reset clears (R402). -/
def KeepStateLost (s t : State) : Prop :=
  MainCleared s t ∧ t.sb = .lost ∧ t.keep = .lost s.toll.fuses.factory ∧ t.toll.slots = [] ∧ t.evt.kept = [] ∧ t.pwr.keepLost = true

/-- What a cold reset keeps with the island (R402, R407). -/
def KeepStateKept (s t : State) : Prop :=
  MainCleared s t ∧ t.toll.slots = s.toll.slots ∧ t.evt.kept = s.evt.kept ∧ t.pwr.keepLost = false ∧ t.keep = keepAtReset s.keep

theorem coldReset_loses (h : bad = true ∨ s.pwr.latch = true) (cause : ColdCause) : KeepStateLost s (coldReset bad (coldFrom cause s)) := by
  have hframe := coldFrom_frame cause s
  have hlost := coldReset_lost (s := coldFrom cause s) (bad := bad) (by rwa [hframe])
  rw [show (coldFrom cause s).toll = s.toll by rw [hframe]] at hlost
  exact ⟨coldFrom_cleared bad cause s, hlost⟩

theorem coldReset_keeps (h : s.pwr.latch = false) (cause : ColdCause) : KeepStateKept s (coldReset false (coldFrom cause s)) ∧
    (coldReset false (coldFrom cause s)).sb = { s.sb with heldLow := if cause = .jqCtl then none else s.sb.heldLow } := by
  have hframe := coldFrom_frame cause s
  obtain ⟨htoll, hevt, hloss, hkeep, hsb⟩ := coldReset_kept_island (s := coldFrom cause s) (by rwa [hframe])
  refine ⟨⟨coldFrom_cleared false cause s, ?_, ?_, hloss, ?_⟩, ?_⟩
  · rw [htoll, hframe]; rfl
  · rw [hevt, hframe]
  · rw [hkeep, hframe]
  · rw [hsb, hframe]

/-- Settles O6: a loss by its three causes, a reset that keeps the island by the rest, and an ignored JQ_CTL.COLD. -/
theorem coldResetsClearTheMainSide : Obligations.ColdResetsClearTheMainSide := by
  unfold Obligations.ColdResetsClearTheMainSide
  intro s
  refine ⟨fun cause bad hc => ⟨fun hl => ?_, fun hp hb hl => ?_⟩, fun bad hbusy => coldReset_ignored hbusy bad, fun hl => ?_, fun hl => ?_⟩
  · exact ⟨_, coldReset_taken hc bad, coldReset_loses (by simpa [or_comm, or_assoc, or_left_comm] using hl) cause⟩
  · have hnot : (bad || cause == .powerOn) = false := by simpa [hb] using hp
    obtain ⟨hkept, hsb⟩ := coldReset_keeps hl cause
    exact ⟨_, (coldReset_taken hc bad).trans (by rw [hnot]), hkept, hsb⟩
  · exact ⟨_, rfl, coldReset_loses (.inr hl) .pin⟩
  · exact ⟨_, rfl, coldReset_keeps hl .pin⟩

/-- Settles O7: the next reset that is taken, by the pin or by a port, is the cold reset of a collapse. -/
theorem brokenRailOrderMakesNextResetCold : Obligations.BrokenRailOrderMakesNextResetCold := by
  unfold Obligations.BrokenRailOrderMakesNextResetCold
  refine ⟨fun s => rfl, fun s hc hm => ?_, fun s p hc hm ht hw hd hp => ⟨?_, ?_⟩⟩
  · exact congrArg Host.Outcome.next ((if_neg (Bool.eq_false_iff.1 hm)).trans (resetOrCold_of_coldNext hc .warm))
  · have hcold : jqWarm (dropHeld p s) = coldReset false (dropHeld p s) := by
      rw [jqWarm_taken (coldBusy_raised (by simpa) (by simpa)) (by simpa) (by simp [hd]), resetOrCold_of_coldNext (by simpa)]
    exact (warmReset_jqCtl hm hp).trans (congrArg _ hcold)
  · have hcold : jqReplay (dropHeld p s) = coldReset false (dropHeld p s) := by
      rw [jqReplay_taken (coldBusy_raised (by simpa) (by simpa)) (by simpa) (by simpa), resetOrCold_of_coldNext (by simpa)]
    exact (replayReset_jqCtl hm hp).trans (congrArg _ hcold)

end Sys2Proof.Machine
end
section
/-! SUPPORT. The keep island's supplies, its failure and its seal check (R398 to R402). -/

namespace Sys2Proof.Machine

variable {s : State}

/-- The event unit after KEEP_SWITCHOVER is raised, with the supplies left and taken in its first word (Table 19-7). -/
def switchRecorded (d0 : Nat) (s : State) : EvtUnit :=
  if s.pwr.mainDown = true then { s.evt with kept := s.evt.kept ++ [⟨0x04, none, s.isl.tide, d0, s.isl.tide % 2 ^ 64⟩] }
  else logEvent s.evt ⟨0x04, none, s.crs.tide, d0, s.crs.tide % 2 ^ 64⟩

theorem keepSwitch_eq {left taken : Nat} (h : left + 4 * taken < 2 ^ 64) (s : State) :
    keepSwitch left taken s = { s with evt := switchRecorded (left + 4 * taken) s } := by
  unfold keepSwitch switchRecorded tideNow
  split
  · next hd => rw [raise_down hd, Nat.mod_eq_of_lt h]; rfl
  · next hd => rw [raise_up (Bool.eq_false_iff.2 hd), Nat.mod_eq_of_lt h]; rfl

theorem fullAfter_none (rs : List Judged) : fullAfter [] [] rs = rs := by
  induction rs with
  | nil => rfl
  | cons j rs ih => simp [fullAfter, ih]

/-- With no write torn the failing island tears nothing. -/
theorem tearWrites_none (s : State) : tearWrites Torn.none s = s := by
  have htorn : ∀ xs : List Judged, xs.drop (xs.length - 0) = [] := fun xs => List.drop_length
  simp [tearWrites, tearAccepts, Torn.none, fullAfter_none]

/-- A rewritten block takes its bytes from the shadow; only its cell changes beside it. -/
theorem rewriteBlocks (k : Keep) : ∀ (bs : List KeepBlock) (s : State), s.isl.shadow = some k → ∃ cells,
    bs.foldl (fun t b => rewriteBlock b t) s =
      { s with keep := bs.foldl (fun x b => copyBlock b k x) s.keep, isl := { s.isl with cells := cells } }
  | [], s, _ => ⟨s.isl.cells, rfl⟩
  | b :: bs, s, h => by
    have hone : ∃ cells, rewriteBlock b s = { s with keep := copyBlock b k s.keep, isl := { s.isl with cells := cells } } := by
      unfold rewriteBlock
      rw [h]
      exact ⟨_, rfl⟩
    obtain ⟨cells, hone⟩ := hone
    obtain ⟨cells', hrest⟩ := rewriteBlocks k bs (rewriteBlock b s) (by rw [hone]; exact h)
    exact ⟨cells', by rw [List.foldl_cons, hrest, hone]; rfl⟩

theorem rewriteBlocks_noShadow (h : s.isl.shadow = none) (bs : List KeepBlock) : bs.foldl (fun t b => rewriteBlock b t) s = s := by
  have hone : ∀ b, rewriteBlock b s = s := fun b => by unfold rewriteBlock; rw [h]
  induction bs with
  | nil => rfl
  | cons b bs ih => rw [List.foldl_cons, hone, ih]

theorem supplyFell_switches (h : s.pwr.srcB = false) (hb : s.pwr.bOk = true) : exec .keepSupplyALow s = .next { s with
    pwr := { s.pwr with aOk := false, srcB := true, switched := true }, isl := { s.isl with goodA := 0 }, evt := switchRecorded 4 s } := by
  refine congrArg Host.Outcome.next ((if_pos ⟨h, hb⟩).trans ?_)
  rw [keepSwitch_eq (by decide)]
  rfl

theorem supplyReturned_switches (h : s.pwr.srcB = true) : exec .keepSupplyReturn s = .next { s with
    pwr := { s.pwr with aOk := true, srcB := false, switched := true }, isl := { s.isl with goodA := 100 }, evt := switchRecorded 1 s } := by
  refine congrArg Host.Outcome.next ((if_pos h).trans ?_)
  rw [keepSwitch_eq (by decide)]
  rfl

theorem islandFailing_untorn (s : State) : exec (.keepIslandFailing Torn.none) s = .next { s with
    pwr := { s.pwr with keepFail := true, aOk := false, bOk := false }
    isl := { s.isl with goodA := 0, goodB := 0 }
    evt := switchRecorded (bit s.pwr.srcB + 12) s } := by
  refine congrArg Host.Outcome.next ?_
  dsimp only
  have hlt := bit_lt s.pwr.srcB
  rw [tearWrites_none, keepSwitch_eq (by omega)]
  rfl

/-- The island after supply `b` came back, fed from it. -/
def supplyGood (b : Bool) (s : State) : State := { s with
  pwr := { s.pwr with aOk := s.pwr.aOk || !b, bOk := s.pwr.bOk || b }
  isl := { s.isl with goodA := (if b = true then s.isl.goodA else 100), goodB := (if b = true then 100 else s.isl.goodB) } }

/-- A failing island that a supply feeds again checks its seals (R401). -/
def sealsChecked (b : Bool) (s : State) : State :=
  { supplyGood b s with pwr := { (supplyGood b s).pwr with keepFail := false, sealCheck := true } }

theorem supplyRestored_eq (b : Bool) (s : State) : exec (.keepSupplyRestored b) s = .next (
    if s.pwr.keepFail = false then supplyGood b s
    else if s.pwr.srcB = b then sealsChecked b s
    else { sealsChecked b s with
      pwr := { (sealsChecked b s).pwr with srcB := b, switched := true }, evt := switchRecorded (bit s.pwr.srcB + 4 * bit b) s }) := by
  refine congrArg Host.Outcome.next ?_
  dsimp only
  refine if_congr (by simp) rfl (if_congr Iff.rfl rfl ?_)
  have hfed := bit_lt s.pwr.srcB
  have hback := bit_lt b
  rw [keepSwitch_eq (by omega)]
  rfl

theorem sealCheck_ends (h : s.pwr.sealCheck = true) (failed : List KeepBlock) :
    exec (.keepSealCheckEnd failed) s = .next (
      let s1 := failed.foldl (fun t b => rewriteBlock b t) s
      { s1 with pwr := { s1.pwr with sealCheck := false, latch := s.pwr.latch || (s.isl.shadow.isNone && !failed.isEmpty) } }) :=
  congrArg Host.Outcome.next (if_pos h)

/-- Nothing is rewritten without a shadow, and nothing where no seal fails; only the former can lose keep state. -/
theorem sealCheck_unwritten (h : s.pwr.sealCheck = true) {failed : List KeepBlock} (hn : s.isl.shadow = none ∨ failed = []) :
    exec (.keepSealCheckEnd failed) s = .next { s with
      pwr := { s.pwr with sealCheck := false, latch := s.pwr.latch || !failed.isEmpty } } := by
  rw [sealCheck_ends h]
  refine congrArg Host.Outcome.next ?_
  rcases hn with hn | rfl
  · rw [rewriteBlocks_noShadow hn, hn]
    rfl
  · simp

/-- Settles O13, supply by supply; each switch raises one record. -/
theorem keepSuppliesSwitchAndFail : Obligations.KeepSuppliesSwitchAndFail := by
  unfold Obligations.KeepSuppliesSwitchAndFail
  intro s
  refine ⟨⟨supplyFell_switches, fun h => ?_⟩, ⟨supplyReturned_switches, fun h => ?_⟩, islandFailing_untorn s,
    fun b => ⟨fun hf => ?_, fun hf hb => ?_, fun hf hb => ?_⟩,
    fun failed => ⟨fun hc => sealCheck_unwritten hc, fun k hc hk => ?_, fun hc => ?_⟩⟩
  · exact congrArg Host.Outcome.next (if_neg (by rcases h with h | h <;> simp [h]))
  · exact congrArg Host.Outcome.next (if_neg (by simp [h]))
  · exact (supplyRestored_eq b s).trans (congrArg Host.Outcome.next (if_pos hf))
  · exact (supplyRestored_eq b s).trans (congrArg Host.Outcome.next ((if_neg (by simp [hf])).trans (if_pos hb)))
  · exact (supplyRestored_eq b s).trans (congrArg Host.Outcome.next ((if_neg (by simp [hf])).trans (if_neg hb)))
  · obtain ⟨cells, hw⟩ := rewriteBlocks k failed s hk
    refine ⟨_, sealCheck_ends hc failed, ?_⟩
    rw [hw, hk]
    simp
  · exact congrArg Host.Outcome.next (if_neg (by simp [hc]))

end Sys2Proof.Machine
end

section
/-! SUPPORT. Throttle steps follow voltage, heat and target (R398, R404, R406 to R408). -/

namespace Sys2Proof.Machine

variable {s : State} {p : Port} {b : Nat}

/-- Table 18-4's minima. -/
theorem minVcore_eq (n : Nat) : minVcore n = if n = 0 then 740 else if n = 1 then 720 else 700 := by
  match n with
  | 0 => rfl
  | 1 => rfl
  | n + 2 => simp [minVcore]

/-- A new cap for the voltage, or a new target: of the power unit only that and the pending step change (R404). -/
theorem retarget_frame (cause : Nat) (u : PwrUnit) : retarget cause u = { u with pending := (retarget cause u).pending } ∧
    ((retarget cause u).pending = none → effectiveStep u = u.step) := by
  obtain ⟨q, hq, hnone⟩ := retarget_eq cause u
  rw [hq]
  exact ⟨rfl, hnone⟩

/-- A voltage cap is put in force (R407). -/
theorem voltageCap_moved (cap : Nat) (s : State) : ∃ t, t = { s with pwr := retarget 2 { s.pwr with capVolt := cap } } ∧
    t.pwr.capVolt = cap ∧ t.pwr.step = s.pwr.step ∧ t = { s with pwr := t.pwr } ∧
    (t.pwr.pending = none → max s.pwr.target (max s.pwr.capTherm t.pwr.capVolt) = s.pwr.step) := by
  obtain ⟨hframe, hnone⟩ := retarget_frame 2 { s.pwr with capVolt := cap }
  have hcap : (retarget 2 { s.pwr with capVolt := cap }).capVolt = cap := by rw [hframe]
  refine ⟨_, rfl, hcap, ?_, rfl, fun h => ?_⟩
  · dsimp only
    rw [hframe]
  · dsimp only
    rw [hcap]
    exact hnone h

theorem vddCoreBelowMin_moves {mv : Nat} (h : mv < minVcore s.pwr.step) : exec (.vddCoreBelowMin mv) s =
    .next { s with pwr := retarget 2 { s.pwr with capVolt := min 3 (s.pwr.capVolt + 1) } } := congrArg Host.Outcome.next (if_pos h)

theorem vddCoreAboveNext_moves {mv : Nat} (h : minVcore (s.pwr.capVolt - 1) + 10 ≤ mv) : exec (.vddCoreAboveNext mv) s =
    .next { s with pwr := retarget 2 { s.pwr with capVolt := s.pwr.capVolt - 1 } } := congrArg Host.Outcome.next (if_pos h)

/-! ## Samples -/

/-- The thermal cap and its two counters are all that a sample changes of the caps. -/
theorem thermalCap_frame (temp : Int) (u : PwrUnit) : thermalCap temp u =
    { u with capTherm := (thermalCap temp u).capTherm, hot := (thermalCap temp u).hot, cool := (thermalCap temp u).cool } := by
  unfold thermalCap
  extract_lets cool hot
  split
  · rfl
  · split <;> rfl

theorem thermalCap_hot {temp : Int} {u : PwrUnit} (h : 1680 ≤ temp) (hh : 9 ≤ u.hot) (hc : u.capTherm < 3) :
    (thermalCap temp u).capTherm = u.capTherm + 1 ∧ (thermalCap temp u).hot = 0 := by
  have hready : 10 ≤ satInc 10 u.hot := by rw [satInc_eq_min]; omega
  unfold thermalCap
  dsimp only
  rw [if_pos ⟨h, hready, hc⟩]
  exact ⟨rfl, rfl⟩

theorem thermalCap_warm {temp : Int} {u : PwrUnit} (h : 1520 ≤ temp) (hn : temp < 1680 ∨ u.hot < 9 ∨ 3 ≤ u.capTherm) :
    (thermalCap temp u).capTherm = u.capTherm ∧ (thermalCap temp u).cool = 0 := by
  have hwarm : ¬(105 * 16 ≤ temp ∧ 10 ≤ satInc 10 u.hot ∧ u.capTherm < 3) := by rw [satInc_eq_min]; omega
  unfold thermalCap
  dsimp only
  rw [if_neg hwarm, if_neg (show ¬temp < 95 * 16 by omega), if_neg (by decide)]
  exact ⟨rfl, rfl⟩

theorem thermalCap_cool {temp : Int} {u : PwrUnit} (h : temp < 1520) : thermalCap temp u =
    if 100 ≤ u.cool + 1 then { u with capTherm := u.capTherm - 1, hot := satInc 10 u.hot, cool := 0 }
    else { u with hot := satInc 10 u.hot, cool := u.cool + 1 } := by
  unfold thermalCap
  dsimp only
  rw [if_neg (by omega), if_pos (show temp < 95 * 16 by omega)]

/-- The power unit's monitor registers and supplies after a sample (Table 18-12). -/
def sampled (temp : Int) (vcore vkeepA vkeepB : Nat) (s : State) : PwrUnit := { s.pwr with
  temp := temp, vcore := vcore, vkeepA := vkeepA, vkeepB := vkeepB
  aOk := decide (100 ≤ goodFor vkeepA s.isl.goodA), bOk := decide (100 ≤ goodFor vkeepB s.isl.goodB)
  latch := s.pwr.latch || (s.pwr.keepFail && decide ((if s.pwr.srcB then vkeepB else vkeepA) < 550)) }

/-- What a sample does: the registers, the thermal cap, the trip, and the supplies' counts. -/
theorem thermalSample_effect (temp : Int) (vcore a b : Nat) (torn : Torn) (s : State) :
    ∃ t q, exec (.thermalSample temp vcore a b torn) s = .next t ∧
      t.pwr = { thermalCap temp (sampled temp vcore a b s) with pending := q, thermTrip := s.pwr.thermTrip || decide (1920 ≤ temp) } ∧
      t.isl.goodA = goodFor a s.isl.goodA ∧ t.isl.goodB = goodFor b s.isl.goodB ∧
      ((temp < 1920 ∨ mainStopped s = true ∨ torn = Torn.none) → t = { s with pwr := t.pwr, isl := t.isl }) := by
  let u := retarget 1 (thermalCap temp (sampled temp vcore a b s))
  obtain ⟨q, hq, -⟩ := retarget_eq 1 (thermalCap temp (sampled temp vcore a b s))
  have htrip : u.thermTrip = s.pwr.thermTrip := by
    unfold u
    rw [hq, thermalCap_frame]
    rfl
  have hpwr : { u with thermTrip := u.thermTrip || decide (120 * 16 ≤ temp) } =
      { thermalCap temp (sampled temp vcore a b s) with pending := q, thermTrip := s.pwr.thermTrip || decide (1920 ≤ temp) } := by
    rw [htrip]
    unfold u
    rw [hq]
    rfl
  refine ⟨_, q, rfl, hpwr, rfl, rfl, fun h => ?_⟩
  · have hkept : (if decide (120 * 16 ≤ temp) ∧ ¬mainStopped s then tearWrites torn s else s) = s := by
      rcases h with h | h | rfl
      · exact if_neg (by simp; omega)
      · exact if_neg (by simp [h])
      · rw [tearWrites_none, ite_self]
    dsimp only
    rw [hkept]

/-! ## PWR_CTL -/

theorem targetWritten (hs : p = .host → mainStopped s = false) (hp : permitted p 5 s = true) (n : BitVec 2) :
    ∃ t, exec (.pwrCtlTarget p n) s = .next t ∧ t.pwr.target = n.toNat ∧ t.pwr.step = s.pwr.step ∧
      t.pwr.capTherm = s.pwr.capTherm ∧ t.pwr.capVolt = s.pwr.capVolt ∧ t = { dropHeld p s with pwr := t.pwr } ∧
      (t.pwr.pending = none → max n.toNat (max s.pwr.capTherm s.pwr.capVolt) = s.pwr.step) := by
  have hserved : mainStopped s = false ∨ p = .mgr := by cases p <;> simp_all
  obtain ⟨hframe, hnone⟩ := retarget_frame 0 { s.pwr with target := n.toNat }
  have hwritten : setTarget n.toNat (dropHeld p s) = { dropHeld p s with pwr := retarget 0 { s.pwr with target := n.toNat } } := by
    rw [setTarget, dropHeld_pwr]
  refine ⟨_, congrArg Host.Outcome.next ((onKeep_served hserved hp).trans hwritten), ?_, ?_, ?_, ?_, rfl, hnone⟩
  all_goals
    dsimp only
    rw [hframe]

/-- Settles O15: voltage, heat and target, each with the cap that it moves. -/
theorem stepsFollowVoltageHeatAndTarget : Obligations.StepsFollowVoltageHeatAndTarget := by
  unfold Obligations.StepsFollowVoltageHeatAndTarget
  simp only [← minVcore_eq]
  refine ⟨fun s mv => ⟨fun h => ?_, fun h => ?_, fun h => ?_, fun h => ?_⟩, fun s temp a b c torn => ?_,
    fun s p hs hp => ⟨targetWritten hs hp, fun g => ?_⟩, fun s p n g hs hp => ?_⟩
  · obtain ⟨t, rfl, hmoved⟩ := voltageCap_moved (min 3 (s.pwr.capVolt + 1)) s
    exact ⟨_, vddCoreBelowMin_moves h, hmoved⟩
  · exact congrArg Host.Outcome.next (if_neg (Nat.not_lt.2 h))
  · obtain ⟨t, rfl, hmoved⟩ := voltageCap_moved (s.pwr.capVolt - 1) s
    exact ⟨_, vddCoreAboveNext_moves h, hmoved⟩
  · exact congrArg Host.Outcome.next (if_neg (Nat.not_le.2 h))
  · obtain ⟨t, q, ht, hpwr, hA, hB, hrest⟩ := thermalSample_effect temp a b c torn s
    have hframe := thermalCap_frame temp (sampled temp a b c s)
    refine ⟨t, ht, ?_, ?_, ?_, ?_, ?_, by rw [hpwr], fun h hh hc => ?_, fun h hn => ?_, fun h hc => ?_, fun h hc => ?_,
      hA, hB, ?_, ?_, hrest⟩
    · rw [hpwr, hframe]; rfl
    · rw [hpwr, hframe]; rfl
    · rw [hpwr, hframe]; rfl
    · rw [hpwr, hframe]; rfl
    · rw [hpwr, hframe]; rfl
    · rw [hpwr]; exact thermalCap_hot h hh hc
    · rw [hpwr]; exact thermalCap_warm h hn
    · have hfull : 100 ≤ (sampled temp a b c s).cool + 1 := (congrArg (· + 1) hc).ge
      rw [hpwr, thermalCap_cool h, if_pos hfull]
      exact ⟨rfl, rfl⟩
    · have hless : ¬100 ≤ (sampled temp a b c s).cool + 1 := Nat.not_le.2 (Nat.succ_lt_succ hc)
      rw [hpwr, thermalCap_cool h, if_neg hless]
      exact ⟨rfl, rfl⟩
    · rw [hpwr, hframe, hA]; exact decide_eq_true_iff
    · rw [hpwr, hframe, hB]; exact decide_eq_true_iff
  · have hserved : mainStopped s = false ∨ p = .mgr := by cases p <;> simp_all
    exact congrArg Host.Outcome.next ((onKeep_served hserved hp).trans (by rw [setGate, dropHeld_pwr]))
  · have hserved : mainStopped s = false ∨ p = .mgr := by cases p <;> simp_all
    exact ⟨congrArg Host.Outcome.next ((onKeep_denied hserved hp).trans (deny_dropHeld p s)),
      congrArg Host.Outcome.next ((onKeep_denied hserved hp).trans (deny_dropHeld p s))⟩

end Sys2Proof.Machine
end

section
/-! SUPPORT. The throttle switch, and the clocks stopped and started (R404, R408, R434). -/

namespace Sys2Proof.Machine

variable {s : State}

/-- The pending step in force. -/
def stepSwitched (n : Nat) (s : State) : State := { s with pwr := { s.pwr with step := n, pending := none } }

theorem throttleSwitch_raises {n cause : Nat} (ht : s.pwr.thermTrip = false) (hp : s.pwr.pending = some (n, cause)) :
    exec .throttleSwitch s = .next (raise evThrottle none (s.pwr.step + 4 * n + 16 * cause) 0 (stepSwitched n s)) := by
  refine congrArg Host.Outcome.next ((if_neg (Bool.eq_false_iff.1 ht)).trans ?_)
  rw [hp]
  rfl

theorem throttleSwitch_idle (h : s.pwr.pending = none ∨ s.pwr.thermTrip = true) : exec .throttleSwitch s = .next s := by
  refine congrArg Host.Outcome.next ?_
  split
  · rfl
  · next ht =>
    rw [h.resolve_right ht]

/-- The conditions of R408, one by one. -/
theorem gateReady_iff (s : State) : gateReady s = true ↔ s.pwr.gate = true ∧ s.pwr.gated = false ∧ s.cq.entries = [] ∧
    s.cq.asleep = [] ∧ s.crs.run = none ∧ s.crs.decided = [] ∧ s.tow.reading = none ∧ (∀ c ∈ s.ken.clusters, c.st ≠ .testing) ∧
    s.tbl.busy = false ∧ s.toll.busy = .none ∧ s.man.stage ≠ .verifying ∧ s.man.apply ≠ .applying ∧ mainStopped s = false := by
  simp only [gateReady, Bool.and_eq_true, Bool.not_eq_true', List.isEmpty_iff, Option.isNone_iff_eq_none, List.all_eq_true,
    bne_iff_ne, beq_iff_eq, and_assoc]

/-- A submission that wakes the engine is answered, and of the units here only the queue takes it. -/
theorem submit_frame (path : SubPath) (fore : Bool) (bytes : List Byte) (bank : List Word32) (s : State) :
    let t := submit path fore bytes bank s
    t.pwr = s.pwr ∧ t.cq.asleep = s.cq.asleep ∧ t.sp = s.sp ∧ t.man = s.man ∧ t.cq.responses.length = s.cq.responses.length + 1 := by
  rw [submit_eq]
  dsimp only
  split
  · exact ⟨rfl, rfl, rfl, rfl, List.length_append⟩
  · exact ⟨rfl, rfl, rfl, rfl, List.length_append⟩

theorem submits_frame (as : List Asleep) : ∀ s : State,
    let t := as.foldl (fun t a => submit a.path a.fore a.bytes a.bank t) s
    t.pwr = s.pwr ∧ t.cq.asleep = s.cq.asleep ∧ t.sp = s.sp ∧ t.man = s.man ∧
      t.cq.responses.length = s.cq.responses.length + as.length := by
  induction as with
  | nil => exact fun s => ⟨rfl, rfl, rfl, rfl, rfl⟩
  | cons a as ih =>
    intro s
    obtain ⟨hpwr, hasleep, hsp, hman, hlen⟩ := ih (submit a.path a.fore a.bytes a.bank s)
    obtain ⟨hpwr1, hasleep1, hsp1, hman1, hlen1⟩ := submit_frame a.path a.fore a.bytes a.bank s
    refine ⟨hpwr.trans hpwr1, hasleep.trans hasleep1, hsp.trans hsp1, hman.trans hman1, hlen.trans ?_⟩
    rw [hlen1, List.length_cons]
    omega

/-- The engine with its clocks running again. -/
def awake (s : State) : State :=
  { s with pwr := { s.pwr with gated := false, waking := false }, cq := { s.cq with asleep := [] } }

theorem clockWake_submits (hw : s.pwr.waking = true) (hm : mainStopped s = false) : exec .clockWake s =
    .next (s.cq.asleep.foldl (fun t a => submit a.path a.fore a.bytes a.bank t) (awake s)) :=
  congrArg Host.Outcome.next (if_pos ⟨hw, by simp [hm]⟩)

/-- Settles O16: the switch, the gating under its conditions, and the waking submission by submission. -/
theorem switchesThrottleAndGate : Obligations.SwitchesThrottleAndGate := by
  unfold Obligations.SwitchesThrottleAndGate
  refine ⟨fun s n cause ht hp hstep hn hc => ?_, fun s => throttleSwitch_idle, ?_, fun s h => ?_, fun s h => ?_, fun s hw hm ha => ?_,
    fun s a rest hw hm ha => ?_, fun s h => ?_⟩
  · have hword : (s.pwr.step + 4 * n + 16 * cause) % 2 ^ 64 = s.pwr.step + 4 * n + 16 * cause := Nat.mod_eq_of_lt (by omega)
    rw [throttleSwitch_raises ht hp]
    refine congrArg Host.Outcome.next ?_
    split
    · next hd => rw [raise_down (s := stepSwitched n s) hd, hword]; rfl
    · next hd => rw [raise_up (s := stepSwitched n s) (Bool.eq_false_iff.2 hd), hword]; rfl
  · intro s hg hgd he ha hr hd htow hk ht htoll hst hap hm
    exact congrArg Host.Outcome.next (if_pos ((gateReady_iff s).2 ⟨hg, hgd, he, ha, hr, hd, htow, hk, ht, htoll, hst, hap, hm⟩))
  · exact if_pos h
  · refine congrArg Host.Outcome.next (if_neg fun hready => ?_)
    obtain ⟨hg, hgd, he, ha, hr, hd, htow, hk, ht, htoll, hst, hap, hm⟩ := (gateReady_iff s).1 hready
    rcases h with h | h | h | h | h | h | h | ⟨c, hmem, h⟩ | h | h | h | h | h
    all_goals simp_all
  · rw [clockWake_submits hw hm, ha]
    refine congrArg Host.Outcome.next ?_
    rw [List.foldl_nil, awake, ← ha]
  · rw [clockWake_submits hw hm, ha]
    obtain ⟨hpwr, hasleep, hsp, hman, hlen⟩ := submits_frame (a :: rest) (awake s)
    exact ⟨_, rfl, hpwr, hasleep, hsp, hman, hlen⟩
  · exact congrArg Host.Outcome.next (if_neg (by rcases h with h | h <;> simp [h]))

end Sys2Proof.Machine
end

section
/-! SUPPORT. No register operation but JQ_CTL and TOLL_CMD reaches the side-band port. -/

namespace Sys2Proof.Machine

variable {s t u : State}

/-- The side-band port is as it was. -/
def SbKept (s t : State) : Prop := t.sb = s.sb

theorem SbKept.trans (h : SbKept s t) (k : SbKept t u) : SbKept s u := Eq.trans k h

theorem SbKept.after (k : SbKept t u) (h : SbKept s t) : SbKept s u := h.trans k

theorem SbKept.ite {c : Prop} [Decidable c] (h : SbKept s t) (k : SbKept s u) : SbKept s (if c then t else u) := by
  split
  · exact h
  · exact k

theorem OnlyEnds.sbKept (h : OnlyEnds s t) : SbKept s t := by
  have he : t = { s with cq := t.cq, sp := t.sp, dgst := t.dgst, rtv := t.rtv } := h
  rw [SbKept, he]

theorem OnlyTables.sbKept (h : OnlyTables s t) : SbKept s t := by
  rw [SbKept, h.rest]

theorem refuseManifest_sbKept (r : Nat) (s : State) : SbKept s (refuseManifest r s) := refuseManifest_sb s r

theorem startOp_sbKept (code mask slot : Nat) (s : State) : SbKept s (startOp code mask slot s) := by
  unfold startOp
  dsimp only
  exact .ite rfl (.ite rfl ((performOp_onlyTables ..).sbKept.after rfl))

theorem emptyStage_sbKept (st : StageState) (s : State) : SbKept s (emptyStage st s) := by
  by_cases h : s.man.apply = .applying
  · rw [emptyStage_locked h]
    rfl
  · obtain ⟨x, hx, -⟩ := emptyStage_free h st
    rw [hx]
    rfl

theorem applyNowOp_sbKept (s : State) : SbKept s (applyNowOp s) := by
  by_cases h : s.man.active = none
  · by_cases hv : s.man.stage = .verified
    · obtain ⟨v, htables, -, he⟩ := applyNowOp_verified h hv
      rw [he]
      exact .ite (refuseManifest_sbKept ..) (.ite rfl htables.sbKept)
    · rw [applyNowOp_unverified h hv]
      exact refuseManifest_sbKept ..
  · rw [applyNowOp_active h]
    exact refuseManifest_sbKept ..

theorem manCtlOp_sbKept (p : Port) (v : Nat) (s : State) : SbKept s (manCtlOp p v s) := by
  unfold manCtlOp
  split
  · exact emptyStage_sbKept ..
  · exact .ite rfl rfl
  · exact applyNowOp_sbKept s
  · exact emptyStage_sbKept ..
  · exact .ite rfl rfl
  · exact .ite rfl rfl
  · rfl

theorem armApply_sbKept (c l : Nat) (s : State) : SbKept s (armApply c l s) := by
  unfold armApply
  dsimp only
  exact .ite rfl (.ite ((refuseManifest_sbKept ..).after rfl) rfl)

theorem cqCtlOp_sbKept (v : Nat) (s : State) : SbKept s (cqCtlOp v s) := by
  unfold cqCtlOp
  extract_lets s1
  have haborted : SbKept s s1 := .ite (abortBerth_onlyEnds ..).sbKept rfl
  exact .ite haborted haborted

theorem rtvCtlOp_sbKept (v : Nat) (s : State) : SbKept s (rtvCtlOp v s) := by
  unfold rtvCtlOp
  split
  · unfold retryOp
    split
    · rfl
    · next f _ =>
      extract_lets s1
      have hcleared : SbKept s s1 := (clearFault_onlyEnds f.berth f.seq s).sbKept
      split
      · exact hcleared
      · exact hcleared
  · unfold failOp
    split
    · rfl
    · next f _ =>
      split
      · exact ((endEarly_onlyEnds ..).trans (clearFault_onlyEnds f.berth f.seq _)).sbKept
      · exact (clearFault_onlyEnds f.berth f.seq s).sbKept
  · rfl

theorem resumeOp_sbKept (s : State) : SbKept s (resumeOp s) := by
  unfold resumeOp
  split
  · exact .ite rfl rfl
  · rfl

theorem regOp_sbKept {r : Reg} (hj : r ≠ .jqCtl) (ht : r ≠ .tollCmd) (p : Port) (v : Nat) (s : State) : SbKept s (regOp p r v s) := by
  unfold regOp
  cases r
  case jqCtl => exact absurd rfl hj
  case tollCmd => exact absurd rfl ht
  case tblCtl => exact .ite rfl (startOp_sbKept ..)
  case traceCtl => exact .ite rfl (.ite rfl rfl)
  case cqCtl => exact cqCtlOp_sbKept ..
  case manCtl => exact manCtlOp_sbKept ..
  case manApplyAt => exact armApply_sbKept ..
  case rtvLookahead => exact .ite rfl rfl
  case rtvLeash => exact .ite rfl rfl
  case rtvCtl => exact rtvCtlOp_sbKept ..
  case towSelf => exact .ite rfl rfl
  case towMirrorRange => exact .ite rfl rfl
  case towCtl => exact .ite (.ite rfl rfl) rfl
  case towBerthGroup => exact .ite rfl rfl
  case evtLogRd => exact .ite rfl rfl
  case ldgCtl => exact .ite rfl (.ite (.ite rfl rfl) (.ite (resumeOp_sbKept s) rfl))
  all_goals rfl

/-- The manager's write of a register drops the low half it held, and of the side-band port no more (R428). -/
theorem writeReg_sb {r : Reg} (hj : r ≠ .jqCtl) (ht : r ≠ .tollCmd) (v : Nat) (s : State) :
    (writeReg .mgr r v s).sb = { s.sb with heldLow := none } := by
  have hdropped : (dropHeld .mgr s).sb = { s.sb with heldLow := none } := rfl
  have hkept : SbKept (dropHeld .mgr s) (writeReg .mgr r v s) := by
    unfold writeReg
    exact .ite rfl (.ite (regOp_sbKept hj ht ..) rfl)
  exact Eq.trans hkept hdropped

end Sys2Proof.Machine
end

section
/-! SUPPORT. Side-band frames: their checks, their answers, and what each operation does (R416 to R418). -/

namespace Sys2Proof.Machine

variable {s u : State} {v op a d c e : Nat}

/-! ## The checks -/

theorem checkFrame_reserved (h : 2 ≤ v) (op a d c : Nat) : checkFrame v op a d c = some sbBadCmd := if_pos h

theorem checkFrame_crc (hv : v < 2) (h : frameCrc v (frameWord v op a d) ≠ c) : checkFrame v op a d c = some sbCrc :=
  (if_neg (by omega)).trans (if_pos h)

theorem checkFrame_passes (hv : v < 2) (hop : op < 3) (h : frameCrc v (frameWord v op a d) = c) : checkFrame v op a d c = none :=
  (if_neg (by omega)).trans ((if_neg (not_not.2 h)).trans (if_neg (by omega)))

/-! ## Answers -/

/-- An answer is shifted out in its own frame in version 2, and waits for the next frame in version 1 (R416). -/
theorem respond_eq (v status a data : Nat) (u : State) : respond v status a data u = { u with sb := { u.sb with
    lastStatus := status
    shifted := if v = 1 then u.sb.shifted ++ [⟨status, a, data, v⟩] else u.sb.shifted
    waiting := if v = 1 then u.sb.waiting else some ⟨status, a, data, v⟩ } } := by
  unfold respond
  dsimp only
  split <;> rfl

/-- The answer to a frame that has been executed. -/
def Answered (v a data : Nat) (s t : State) : Prop :=
  (v = 0 → t.sb.waiting = some ⟨0, a, data, 0⟩) ∧
    (v = 1 → t.sb.waiting = none ∧ t.sb.shifted = [s.sb.waiting.getD ⟨0, 0, 0, 0⟩, ⟨0, a, data, 1⟩])

/-- What a frame has done while its answer is still to come: what waited is shifted out. -/
def FrameDone (s u : State) : Prop := u.sb.waiting = none ∧ u.sb.shifted = [s.sb.waiting.getD .zero]

theorem executed_answered (h : FrameDone s u) (v a data : Nat) :
    Answered v a data s (respond v sbOk a data (executed v u)) := by
  obtain ⟨hwait, hshift⟩ := h
  rw [respond_eq]
  refine ⟨fun hv => ?_, fun hv => ?_⟩
  · subst hv
    rfl
  · subst hv
    exact ⟨hwait, congrArg (· ++ _) hshift⟩

/-- Beside the answer a finished frame leaves the port what its operation left. -/
theorem executed_frame (v a data : Nat) (u : State) :
    let t := respond v sbOk a data (executed v u)
    t = { u with sb := t.sb } ∧ t.sb.lastStatus = 0 ∧ t.sb.heldLow = u.sb.heldLow ∧ t.sb.capture = u.sb.capture := by
  rw [respond_eq]
  exact ⟨rfl, rfl, rfl, rfl⟩

/-- A frame that carries no data of the engine is answered from the free counter's DATA (log entry 70), and leaves the rest. -/
theorem refuseFrame_port (v status a : Nat) (u : State) :
    let t := refuseFrame v status a u
    t = { u with sb := t.sb, free := u.free + 1 } ∧ t.sb.lastStatus = status ∧ t.sb.crcErr = u.sb.crcErr ∧
      t.sb.frames = u.sb.frames ∧ t.sb.lastVersion = u.sb.lastVersion ∧ t.sb.heldLow = u.sb.heldLow ∧ t.sb.capture = u.sb.capture := by
  rw [refuseFrame, respond_eq]
  exact ⟨rfl, rfl, rfl, rfl, rfl, rfl, rfl⟩

/-- A frame in error of CRC is counted and answered, and no more. -/
theorem crcFailed_effect (v a : Nat) (s : State) :
    let t := failFrame v sbCrc a (frameIn s)
    t = { s with sb := t.sb, free := s.free + 1 } ∧ t.sb.lastStatus = 1 ∧ t.sb.crcErr = min 0xFFFF (s.sb.crcErr + 1) ∧
      t.sb.frames = min (2 ^ 32 - 1) (s.sb.frames + 1) ∧ t.sb.lastVersion = s.sb.lastVersion ∧ t.sb.heldLow = s.sb.heldLow ∧
      t.sb.capture = s.sb.capture := by
  rw [failFrame, if_pos rfl, refuseFrame, respond_eq]
  exact ⟨rfl, rfl, satInc_eq_min .., satInc_eq_min .., rfl, rfl, rfl⟩

theorem reserved_effect (v a : Nat) (s : State) :
    let t := failFrame v sbBadCmd a (frameIn s)
    t = { s with sb := t.sb, free := s.free + 1 } ∧ t.sb.lastStatus = 2 ∧ t.sb.crcErr = s.sb.crcErr := by
  rw [failFrame, if_neg (by decide), refuseFrame, respond_eq]
  exact ⟨rfl, rfl, rfl⟩

/-! ## The three operations -/

section
variable {v : BitVec 2} {a : BitVec 24} {d : BitVec 32} {c : Byte} {x : SbTarget} {e : Nat}

theorem sbNop_fails {op : BitVec 6} (h : checkFrame v.toNat op.toNat a.toNat d.toNat c.toNat = some e) :
    exec (.sbNop v op a d c) s = .next (failFrame v.toNat e a.toNat (frameIn s)) := by
  refine congrArg Host.Outcome.next ?_
  rw [h]

theorem sbRead_fails {late : Bool} (h : checkFrame v.toNat 1 a.toNat d.toNat c.toNat = some e) :
    exec (.sbRead v a d c late) s = .next (failFrame v.toNat e a.toNat (frameIn s)) := by
  refine congrArg Host.Outcome.next ?_
  dsimp only
  rw [h]

theorem sbWrite_fails {late : Bool} (h : checkFrame v.toNat 2 a.toNat d.toNat c.toNat = some e) :
    exec (.sbWrite v a d c late) s = .next (failFrame v.toNat e a.toNat (frameIn s)) := by
  refine congrArg Host.Outcome.next ?_
  dsimp only
  rw [h]

theorem sbNop_executes (h : checkFrame v.toNat 0 a.toNat d.toNat c.toNat = none) :
    exec (.sbNop v 0#6 a d c) s = .next (refuseFrame v.toNat sbOk a.toNat (executed v.toNat (frameIn s))) := by
  refine congrArg Host.Outcome.next ?_
  rw [show (0#6).toNat = 0 from rfl, h]
  rfl

theorem sbRead_misses {late : Bool} (h : checkFrame v.toNat 1 a.toNat d.toNat c.toNat = none) (hx : sbTarget s a.toNat = .error e) :
    exec (.sbRead v a d c late) s = .next (refuseFrame v.toNat e a.toNat (frameIn s)) := by
  refine congrArg Host.Outcome.next ?_
  dsimp only
  rw [h, hx]

theorem sbWrite_misses {late : Bool} (h : checkFrame v.toNat 2 a.toNat d.toNat c.toNat = none) (hx : sbTarget s a.toNat = .error e) :
    exec (.sbWrite v a d c late) s = .next (refuseFrame v.toNat e a.toNat (frameIn s)) := by
  refine congrArg Host.Outcome.next ?_
  dsimp only
  rw [h, hx]

theorem sbLate_inTime (v : Nat) (x : SbTarget) : sbLate v false x = false := by
  rw [sbLate, Bool.and_false, Bool.false_and]

theorem sbRead_executes (h : checkFrame v.toNat 1 a.toNat d.toNat c.toNat = none) (hx : sbTarget s a.toNat = .ok x) :
    exec (.sbRead v a d c false) s =
      .next (respond v.toNat sbOk a.toNat (sbReadAt x (frameIn s)).1 (executed v.toNat (sbReadAt x (frameIn s)).2)) := by
  refine congrArg Host.Outcome.next ?_
  dsimp only
  rw [h, hx]
  exact if_neg (Bool.eq_false_iff.1 (sbLate_inTime ..))

theorem sbWrite_executes (h : checkFrame v.toNat 2 a.toNat d.toNat c.toNat = none) (hx : sbTarget s a.toNat = .ok x)
    (hp : x.allows s = true) (ht : tollDenied x (frameIn s) (sbWriteAt x d.toNat (frameIn s)) = false) :
    exec (.sbWrite v a d c false) s =
      .next (respond v.toNat sbOk a.toNat 0 (executed v.toNat (sbWriteAt x d.toNat (frameIn s)))) := by
  refine congrArg Host.Outcome.next ?_
  dsimp only
  rw [h, hx]
  dsimp only
  rw [hp, ht]
  exact if_neg (Bool.eq_false_iff.1 (sbLate_inTime ..))

theorem sbWrite_denied (h : checkFrame v.toNat 2 a.toNat d.toNat c.toNat = none) (hx : sbTarget s a.toNat = .ok x)
    (hp : x.allows s = false) : exec (.sbWrite v a d c false) s =
      .next (refuseFrame v.toNat sbDenied a.toNat (sbWriteAt x d.toNat (frameIn s))) := by
  refine congrArg Host.Outcome.next ?_
  dsimp only
  rw [h, hx]
  dsimp only
  rw [hp]
  rfl

end

/-! ## What a write reaches -/

theorem tollDenied_otherReg {r : Reg} (h : r ≠ .tollCmd) (off : Nat) (high : Bool) (s t : State) :
    tollDenied (.half off r high) s t = false := by
  unfold tollDenied
  split
  · next he =>
    cases he
    exact absurd rfl h
  · rfl

theorem allows_frameIn (x : Perm) (p : Port) (s : State) : x.allows (frameIn s) p = x.allows s p := by cases x <;> rfl

theorem writeHalf_low_held {p : Port} {r : Reg} (h : r.perm.allows s p = true) (off v : Nat) :
    writeHalf p off r false v s = setHeld p (some (off, v % 2 ^ 32)) (dropHeld p s) := if_pos h

theorem writeHalf_low_denied {p : Port} {r : Reg} (h : r.perm.allows s p = false) (off v : Nat) :
    writeHalf p off r false v s = deny (dropHeld p s) := if_neg (Bool.eq_false_iff.1 h)

/-- A high half completes the low half of its register that the port holds (R418). -/
theorem writeHalf_high_held {p : Port} {off low : Nat} (h : (portHold s p).2 = some (off, low)) (r : Reg) (v : Nat) :
    writeHalf p off r true v s = writeReg p r (low + v % 2 ^ 32 * 2 ^ 32) s := by
  unfold writeHalf
  dsimp only
  rw [h]
  exact if_pos rfl

/-- Settles O18: the count saturates, and nothing answers. -/
theorem cutFrameIsOnlyCounted : Obligations.CutFrameIsOnlyCounted := by
  unfold Obligations.CutFrameIsOnlyCounted
  intro s
  rw [← satInc_eq_min]
  rfl

/-- Settles O17, frame by frame: the checks first, then what the address reaches. -/
theorem sidebandFramesAreJudged : Obligations.SidebandFramesAreJudged := by
  unfold Obligations.SidebandFramesAreJudged
  refine ⟨fun s v op a d c late hv => ⟨fun h => ?_, fun h => ?_, fun h => ?_⟩, fun s v op a d c late hv i hi => ?_,
    fun s v a d c off r hv => ⟨fun h => ?_, fun h hx => ?_, fun h hx hp hr => ?_, fun h low hx hp hr hj hl hlow => ?_,
      fun h high hx hp hj hh => ?_, fun area o hx => ⟨fun h => ?_, fun h hp => ?_⟩, fun e late hx => ⟨fun h => ?_, fun h => ?_⟩⟩⟩
  · exact ⟨_, sbNop_fails (checkFrame_crc hv h), crcFailed_effect ..⟩
  · exact ⟨_, sbRead_fails (checkFrame_crc hv h), crcFailed_effect ..⟩
  · exact ⟨_, sbWrite_fails (checkFrame_crc hv h), crcFailed_effect ..⟩
  · refine ⟨failFrame v.toNat sbBadCmd a.toNat (frameIn s), ?_, reserved_effect ..⟩
    simp only [List.mem_cons, List.not_mem_nil, or_false] at hi
    rcases hi with rfl | rfl | rfl
    · exact sbNop_fails (checkFrame_reserved hv ..)
    · exact sbRead_fails (checkFrame_reserved hv ..)
    · exact sbWrite_fails (checkFrame_reserved hv ..)
  · obtain ⟨hrest, hstatus, -, -, hver, -, -⟩ := refuseFrame_port v.toNat sbOk a.toNat (executed v.toNat (frameIn s))
    exact ⟨_, sbNop_executes (checkFrame_passes hv (by decide) h), hrest, hstatus, hver⟩
  · obtain ⟨hrest, hstatus, -, hcap⟩ := executed_frame v.toNat a.toNat (sbReadAt (.half off r false) (frameIn s)).1
      (sbReadAt (.half off r false) (frameIn s)).2
    exact ⟨_, sbRead_executes (checkFrame_passes hv (by decide) h) hx, executed_answered ⟨rfl, rfl⟩ .., hcap, hrest, hstatus⟩
  · have hheld : sbWriteAt (.half off r false) d.toNat (frameIn s) = setHeld .mgr (some (off, d.toNat)) (dropHeld .mgr (frameIn s)) := by
      have hlow := writeHalf_low_held (s := frameIn s) (p := .mgr) (r := r) (by rwa [allows_frameIn]) off d.toNat
      rwa [Nat.mod_eq_of_lt d.isLt] at hlow
    have hrun := sbWrite_executes (checkFrame_passes hv (by decide) h) hx hp (tollDenied_otherReg hr ..)
    rw [hheld] at hrun
    obtain ⟨hrest, hstatus, hlow, -⟩ := executed_frame v.toNat a.toNat 0 (setHeld .mgr (some (off, d.toNat)) (dropHeld .mgr (frameIn s)))
    exact ⟨_, hrun, executed_answered ⟨rfl, rfl⟩ .., hlow, hrest, hstatus⟩
  · have hwrite : sbWriteAt (.half off r true) d.toNat (frameIn s) = writeReg .mgr r (low + d.toNat * 2 ^ 32) (frameIn s) := by
      have hheld := writeHalf_high_held (s := frameIn s) (p := .mgr) hl r d.toNat
      rwa [Nat.mod_eq_of_lt d.isLt] at hheld
    have hrun := sbWrite_executes (checkFrame_passes hv (by decide) h) hx hp (tollDenied_otherReg hr ..)
    rw [hwrite] at hrun
    have hdone : FrameDone s (writeReg .mgr r (low + d.toNat * 2 ^ 32) (frameIn s)) := by
      rw [FrameDone, writeReg_sb hj hr]
      exact ⟨rfl, rfl⟩
    obtain ⟨hrest, hstatus, -, -⟩ := executed_frame v.toNat a.toNat 0 (writeReg .mgr r (low + d.toNat * 2 ^ 32) (frameIn s))
    exact ⟨_, hrun, executed_answered hdone .., hstatus, hrest⟩
  · subst hh
    have hdeny : sbWriteAt (.half off r false) d.toNat (frameIn s) = deny (dropHeld .mgr (frameIn s)) :=
      writeHalf_low_denied (by rwa [allows_frameIn]) off _
    have hrun := sbWrite_denied (checkFrame_passes hv (by decide) h) hx hp
    rw [hdeny] at hrun
    obtain ⟨hrest, hstatus, -⟩ := refuseFrame_port v.toNat sbDenied a.toNat (deny (dropHeld .mgr (frameIn s)))
    exact ⟨_, hrun, hstatus, hrest⟩
  · obtain ⟨hrest, hstatus, -, -⟩ := executed_frame v.toNat a.toNat (sbReadAt (.bytes area o) (frameIn s)).1
      (sbReadAt (.bytes area o) (frameIn s)).2
    exact ⟨_, sbRead_executes (checkFrame_passes hv (by decide) h) hx, hrest, hstatus, executed_answered ⟨rfl, rfl⟩ ..⟩
  · obtain ⟨hrest, hstatus, -, -⟩ := executed_frame v.toNat a.toNat 0 (sbWriteAt (.bytes area o) d.toNat (frameIn s))
    exact ⟨_, sbWrite_executes (checkFrame_passes hv (by decide) h) hx hp rfl, hstatus, hrest⟩
  · obtain ⟨hrest, hstatus, -⟩ := refuseFrame_port v.toNat e a.toNat (frameIn s)
    exact ⟨_, sbRead_misses (checkFrame_passes hv (by decide) h) hx, hrest, hstatus⟩
  · obtain ⟨hrest, hstatus, -⟩ := refuseFrame_port v.toNat e a.toNat (frameIn s)
    exact ⟨_, sbWrite_misses (checkFrame_passes hv (by decide) h) hx, hrest, hstatus⟩

end Sys2Proof.Machine
end

section
/-! SUPPORT. Host writes: registers whole and by halves, areas by bytes (R418, R421, R423, R427, R428). -/

namespace Sys2Proof.Machine

variable {s : State} {off o : Nat} {r : Reg} {bs : List Byte} {x : Area}

/-! ## Bytes -/

theorem leNat_lt : ∀ bs : List Byte, leNat bs < 256 ^ bs.length
  | [] => Nat.one_pos
  | b :: bs => by
    have hrest := leNat_lt bs
    have hb : b.toNat < 256 := b.isLt
    rw [leNat, List.length_cons, Nat.pow_succ]
    omega

/-- Eight bytes or fewer are what a 64-bit word holds. -/
theorem leNat_word (h : bs.length ≤ 8) : (BitVec.ofNat 64 (leNat bs)).toNat = leNat bs := by
  rw [BitVec.toNat_ofNat]
  exact Nat.mod_eq_of_lt ((leNat_lt bs).trans_le (Nat.pow_le_pow_right (by decide) h))

theorem leBytes_getD : ∀ {n i : Nat}, i < n → ∀ v, (leBytes n v).getD i 0 = BitVec.ofNat 8 (v / 2 ^ (8 * i))
  | n + 1, 0, _, v => by rw [Nat.mul_zero, Nat.pow_zero, Nat.div_one]; rfl
  | n + 1, i + 1, h, v => by
    have hnext := leBytes_getD (Nat.lt_of_succ_lt_succ h) (v / 256)
    rw [Nat.div_div_eq_div_mul, show (256 : Nat) = 2 ^ 8 from rfl, ← Nat.pow_add, Nat.add_comm, ← Nat.mul_succ] at hnext
    exact hnext

/-! ## Registers -/

/-- With the main side running a write to a register is judged by its permission alone. -/
theorem writeReg_running (hm : mainStopped s = false) (p : Port) (r : Reg) (v : Nat) : writeReg p r v s =
    if r.perm.allows s p then regOp p r (v % 2 ^ 64) (dropHeld p s) else deny (dropHeld p s) := by
  have htrip : s.pwr.thermTrip = false := (Bool.or_eq_false_iff.1 hm).2
  unfold writeReg
  dsimp only
  rw [htrip]
  rfl

theorem writeReg_allowed (hm : mainStopped s = false) {p : Port} (hp : r.perm.allows s p = true) (v : Word64) :
    writeReg p r v.toNat s = regOp p r v.toNat (dropHeld p s) := by
  rw [writeReg_running hm, if_pos hp, Nat.mod_eq_of_lt v.isLt]

theorem writeReg_denied (hm : mainStopped s = false) {p : Port} (hp : r.perm.allows s p = false) (v : Nat) :
    writeReg p r v s = { dropHeld p s with man := { s.man with permDenied := true } } := by
  rw [writeReg_running hm, if_neg (Bool.eq_false_iff.1 hp), deny_dropHeld]

/-- The state with a low half held for the host. -/
def lowHeld (off v : Nat) (s : State) : State := { s with hostp := { s.hostp with heldLow := some (off, v) } }

theorem allows_lowHeld (y : Perm) (p : Port) (off v : Nat) (s : State) : y.allows (lowHeld off v s) p = y.allows s p := by
  cases y <;> rfl

/-- A held low half is no part of what a whole write does: the write drops it. -/
theorem writeReg_lowHeld (r : Reg) (off v n : Nat) (s : State) : writeReg .host r n (lowHeld off v s) = writeReg .host r n s := by
  unfold writeReg
  dsimp only
  rw [allows_lowHeld]
  rfl

/-! ## What an offset takes -/

theorem hostWrite_whole (hm : mainStopped s = false) (hr : regAt off = some r) (v : Nat) :
    hostWrite off .whole v s = writeReg .host r v s := by
  unfold hostWrite
  rw [hm, hr]
  rfl

theorem hostWrite_low (hm : mainStopped s = false) (hr : regAt off = some r) (v : Nat) :
    hostWrite off .low v s = writeHalf .host off r false v s := by
  unfold hostWrite
  rw [hm, hr]
  rfl

theorem hostWrite_high (hm : mainStopped s = false) (hr : regAt off = some r) (v : Nat) :
    hostWrite off .high v s = writeHalf .host off r true v s := by
  unfold hostWrite
  rw [hm, hr]
  rfl

/-- Bytes written where no register takes them: into the area there, if they lie in one block of it (R421). -/
def areaTakes (off : Nat) (bs : List Byte) (s : State) : State :=
  (areaAt off).elim (dropHeld .host s) fun y => if inOneBlock y.1 y.2 bs.length then writeArea .host y.1 y.2 bs s else dropHeld .host s

theorem areaTakes_nothing (h : areaAt off = none) (bs : List Byte) (s : State) : areaTakes off bs s = dropHeld .host s := by
  rw [areaTakes, h]
  rfl

theorem areaTakes_cut (h : areaAt off = some (x, o)) (hb : inOneBlock x o bs.length = false) :
    areaTakes off bs s = dropHeld .host s := by
  rw [areaTakes, h]
  exact if_neg (Bool.eq_false_iff.1 hb)

theorem areaTakes_block (h : areaAt off = some (x, o)) (hb : inOneBlock x o bs.length = true) :
    areaTakes off bs s = writeArea .host x o bs s := by
  rw [areaTakes, h]
  exact if_pos hb

theorem hostWrite_area (hm : mainStopped s = false) (hr : regAt off = none) (a : Access) (v : Nat) :
    hostWrite off a v s = areaTakes (accessSpan off a).1 (leBytes (accessSpan off a).2 v) s := by
  unfold hostWrite areaTakes
  rw [hm, hr]
  dsimp only
  rw [length_leBytes]
  cases areaAt (accessSpan off a).1 <;> rfl

theorem hostWriteBytes_area (hm : mainStopped s = false) (ha : bytesAccess off bs.length = none) :
    hostWriteBytes off bs s = areaTakes off bs s := by
  unfold hostWriteBytes areaTakes
  rw [ha, hm]
  cases areaAt off <;> rfl

theorem hostWriteBytes_register {off' : Nat} {a : Access} (ha : bytesAccess off bs.length = some (off', a)) :
    hostWriteBytes off bs s = hostWrite off' a (leNat bs) s := by
  unfold hostWriteBytes
  rw [ha]

/-! ## What an area takes -/

theorem running_untripped (hm : mainStopped s = false) : s.pwr.thermTrip = false := (Bool.or_eq_false_iff.1 hm).2

/-- The rings, the event log and the result windows take no write. -/
theorem writeArea_readOnly (h : x = .rings ∨ x = .log ∨ x = .results) (p : Port) (o : Nat) (bs : List Byte) (s : State) :
    writeArea p x o bs s = dropHeld p s := by
  unfold writeArea
  rcases h with rfl | rfl | rfl <;> exact ite_self _

theorem writeArea_staging (hm : mainStopped s = false) (p : Port) (o : Nat) (bs : List Byte) :
    writeArea p .staging o bs s = guarded p 1 (stageWrite o bs) s := by
  unfold writeArea
  rw [running_untripped hm]
  rfl

theorem writeArea_shadow (hm : mainStopped s = false) (p : Port) (o : Nat) (bs : List Byte) :
    writeArea p .shadow o bs s = guarded p 7 (shadowWrite o bs) s := by
  unfold writeArea
  rw [running_untripped hm]
  rfl

theorem writeArea_submit (hm : mainStopped s = false) (ho : portsOpen s = true) (p : Port) (o : Nat) (bs : List Byte) :
    writeArea p .submit o bs s = cqSubmitWrite p o bs s := by
  unfold writeArea
  rw [running_untripped hm, ho]
  rfl

theorem writeArea_submit64 (hm : mainStopped s = false) (ho : portsOpen s = true) (p : Port) (o : Nat) (bs : List Byte) :
    writeArea p .submit64 o bs s = cqSubmit64Write p o bs s := by
  unfold writeArea
  rw [running_untripped hm, ho]
  rfl

theorem writeArea_tollData (o : Nat) (bs : List Byte) (s : State) : writeArea .host .tollData o bs s =
    if permitted .host 8 s then tollDataOp .host o bs (dropHeld .host s) else deny (dropHeld .host s) := by
  unfold writeArea
  rw [show (Area.tollData != .tollData) = false from rfl, Bool.and_false]
  rfl

/-- Bytes in TOLL_DATA, one by one, and nothing else (R421). -/
theorem tollDataWritten (hp : permitted .host 8 s = true) (hb : inOneBlock .tollData o bs.length = true) :
    ∃ t, writeArea .host .tollData o bs s = t ∧
      t = { dropHeld .host s with toll := { s.toll with host := { s.toll.host with data := t.toll.host.data } } } ∧
      (∀ i, i < bs.length → sget 0 t.toll.host.data (o + i) = bs.getD i 0) ∧
      ∀ i, (i < o ∨ o + bs.length ≤ i) → sget 0 t.toll.host.data i = sget 0 s.toll.host.data i := by
  have hfit : bs.take (256 - o) = bs := by
    have hend : o + bs.length ≤ 256 := fits_of_oneBlock hb
    exact List.take_of_length_le (by omega)
  rw [writeArea_tollData, if_pos hp, tollDataOp, hfit]
  exact ⟨_, rfl, rfl, fun i hi => sget_sblit_inside _ _ _ _ _ hi, fun i hi => sget_sblit_outside _ _ _ _ _ hi⟩

theorem tollDataDenied (hp : permitted .host 8 s = false) (o : Nat) (bs : List Byte) :
    writeArea .host .tollData o bs s = { dropHeld .host s with man := { s.man with permDenied := true } } := by
  rw [writeArea_tollData, if_neg (Bool.eq_false_iff.1 hp), deny_dropHeld]

/-- The shadow window's offsets lie in a table image (Table 7-3). -/
theorem areaAt_shadow (h : areaAt off = some (.shadow, o)) : inImage o = true := by
  unfold areaAt at h
  split_ifs at h with h1 h2 h3 h4 h5 h6 h7 h8
  all_goals simp only [Option.some.injEq, Prod.mk.injEq, reduceCtorEq, false_and, true_and] at h
  rw [← h]
  exact h7.2.2

/-- A permitted write of bytes is that of the window's own command. -/
theorem onWindow_running (hm : mainStopped s = false) {ok : Bool} (hok : ok = true) (p : Port) (b : Nat) (f : State → State) :
    onWindow p b ok f s = guarded p b f s := by
  rw [onWindow_placed hok, onMain, if_neg (Bool.eq_false_iff.1 hm)]

/-! ## Register writes by command -/

section
variable {off : BitVec 28} {a : Access} {v : Word64}

/-- Bytes that a register takes are the command of that register and access. -/
theorem bytesCommand {reg : BitVec 28} {part : Access} (hl : bs.length ≤ 8)
    (ha : bytesAccess off.toNat bs.length = some (reg.toNat, part)) :
    exec (.registerWrite off a v (some bs)) s = exec (.registerWrite reg part (BitVec.ofNat 64 (leNat bs))) s := by
  refine congrArg Host.Outcome.next ((hostWriteBytes_register ha).trans ?_)
  dsimp only
  rw [leNat_word hl]

/-- Bytes that no register takes are for the area there. -/
theorem bytesForArea (hm : mainStopped s = false) (ha : bytesAccess off.toNat bs.length = none) :
    exec (.registerWrite off a v (some bs)) s = .next (areaTakes off.toNat bs s) :=
  congrArg Host.Outcome.next (hostWriteBytes_area hm ha)

theorem wholeWrite (hm : mainStopped s = false) (hr : regAt off.toNat = some r) (hp : r.perm.allows s .host = true) :
    exec (.registerWrite off .whole v) s = .next (regOp .host r v.toNat (dropHeld .host s)) :=
  congrArg Host.Outcome.next ((hostWrite_whole hm hr _).trans (writeReg_allowed hm hp v))

/-- A low half and then the high half of a register are one whole write of it (R418). -/
theorem halvesWrite (hm : mainStopped s = false) (hr : regAt off.toNat = some r) (hp : r.perm.allows s .host = true) (lo hi : Word64) :
    exec (.registerWrite off .low lo) s = .next (lowHeld off.toNat (lo.toNat % 2 ^ 32) s) ∧
      exec (.registerWrite off .high hi) (lowHeld off.toNat (lo.toNat % 2 ^ 32) s) =
        exec (.registerWrite off .whole (BitVec.ofNat 64 (lo.toNat % 2 ^ 32 + hi.toNat % 2 ^ 32 * 2 ^ 32))) s := by
  have hword : (BitVec.ofNat 64 (lo.toNat % 2 ^ 32 + hi.toNat % 2 ^ 32 * 2 ^ 32)).toNat = lo.toNat % 2 ^ 32 + hi.toNat % 2 ^ 32 * 2 ^ 32 := by
    rw [BitVec.toNat_ofNat]
    omega
  have hlow : exec (.registerWrite off .low lo) s = .next (lowHeld off.toNat (lo.toNat % 2 ^ 32) s) :=
    congrArg Host.Outcome.next ((hostWrite_low hm hr _).trans (writeHalf_low_held hp ..))
  have hhigh : hostWrite off.toNat .high hi.toNat (lowHeld off.toNat (lo.toNat % 2 ^ 32) s) =
      writeReg .host r (lo.toNat % 2 ^ 32 + hi.toNat % 2 ^ 32 * 2 ^ 32) s := by
    rw [hostWrite_high (s := lowHeld ..) hm hr, writeHalf_high_held (p := .host) rfl, writeReg_lowHeld]
  have hwhole := hostWrite_whole hm hr (BitVec.ofNat 64 (lo.toNat % 2 ^ 32 + hi.toNat % 2 ^ 32 * 2 ^ 32)).toNat
  rw [hword] at hwhole
  exact ⟨hlow, congrArg Host.Outcome.next (hhigh.trans (by rw [hword]; exact hwhole.symm))⟩

theorem deniedWrite (hm : mainStopped s = false) (hr : regAt off.toNat = some r) (hp : r.perm.allows s .host = false) (ha : a ≠ .high) :
    exec (.registerWrite off a v) s = .next { dropHeld .host s with man := { s.man with permDenied := true } } := by
  refine congrArg Host.Outcome.next ?_
  cases a with
  | whole => exact (hostWrite_whole hm hr _).trans (writeReg_denied hm hp _)
  | low => exact (hostWrite_low hm hr _).trans ((writeHalf_low_denied hp ..).trans (deny_dropHeld ..))
  | high => exact absurd rfl ha

end

/-- Settles O58: registers and areas apart, each through its own write. -/
theorem registerWritesTakeEffect : Obligations.RegisterWritesTakeEffect := by
  unfold Obligations.RegisterWritesTakeEffect
  refine ⟨fun s off a v bs hm => ?_, fun s off a v bs hm => ⟨fun hl hr => ?_, fun hl hr => ?_, fun hl o ho hr => ?_, fun ha => ⟨fun hx => ?_,
      fun x o hx => ⟨fun h => ?_, fun hb => ⟨fun h => ?_, fun h => ?_, fun h ho => ?_, fun h ho => ?_, fun h hp => ?_, fun h hp => ?_⟩⟩⟩⟩,
    fun s off hm => ⟨fun r lo hi hr hp => ?_, fun r a v hr hp ha => deniedWrite hm hr hp ha, fun a v hr hx => ?_,
      fun a v o hr hx hp hb => ?_, fun v hp => ⟨fun hr => ?_, fun hr => ?_⟩, fun v hp hr => ?_⟩⟩
  · refine congrArg Host.Outcome.next ?_
    cases bs with
    | none => exact if_pos hm
    | some bs =>
      dsimp only
      unfold hostWriteBytes
      split
      · exact if_pos hm
      · exact if_pos hm
  · exact bytesCommand (by omega) (by rw [hl]; exact bytesAccess_whole (Option.isSome_iff_ne_none.2 hr))
  · exact bytesCommand (by omega) (by rw [hl]; exact bytesAccess_low (Option.isSome_iff_ne_none.2 hr))
  · exact bytesCommand (by omega) (by rw [hl, ho]; exact bytesAccess_high (Option.isSome_iff_ne_none.2 hr))
  · rw [bytesForArea hm ha, areaTakes_nothing hx]
  · rw [bytesForArea hm ha]
    rcases h with h | h
    · rw [areaTakes_cut hx h]
    · by_cases hb : inOneBlock x o bs.length = true
      · rw [areaTakes_block hx hb, writeArea_readOnly h]
      · rw [areaTakes_cut hx (Bool.eq_false_iff.2 hb)]
  · subst h
    rw [bytesForArea hm ha, areaTakes_block hx hb, writeArea_staging hm]
    exact congrArg Host.Outcome.next (onWindow_running hm hb ..).symm
  · subst h
    rw [bytesForArea hm ha, areaTakes_block hx hb, writeArea_shadow hm]
    exact congrArg Host.Outcome.next (onWindow_running hm (Bool.and_eq_true_iff.2 ⟨hb, areaAt_shadow hx⟩) ..).symm
  · subst h
    rw [bytesForArea hm ha, areaTakes_block hx hb, writeArea_submit hm ho]
    exact congrArg Host.Outcome.next ((if_neg (by simp [ho])).trans (if_pos hb)).symm
  · subst h
    rw [bytesForArea hm ha, areaTakes_block hx hb, writeArea_submit64 hm ho]
    exact congrArg Host.Outcome.next ((if_neg (by simp [ho])).trans (if_pos hb)).symm
  · subst h
    obtain ⟨t, ht, hrest, hin, hout⟩ := tollDataWritten hp hb
    refine ⟨t, by rw [bytesForArea hm ha, areaTakes_block hx hb, ht], hrest, fun i => ?_⟩
    split
    · next hi =>
      have hbyte := hin (i - o) (by omega)
      rwa [Nat.add_sub_cancel' hi.1] at hbyte
    · exact hout i (by omega)
  · subst h
    rw [bytesForArea hm ha, areaTakes_block hx hb, tollDataDenied hp]
  · obtain ⟨hlow, hhigh⟩ := halvesWrite hm hr hp lo hi
    exact ⟨_, _, hlow, rfl, hhigh, rfl⟩
  · exact congrArg Host.Outcome.next ((hostWrite_area hm hr ..).trans (areaTakes_nothing hx ..))
  · obtain ⟨t, ht, hrest, hin, hout⟩ := tollDataWritten (s := s) (o := o) (bs := leBytes (accessSpan off.toNat a).2 v.toNat) hp
      (by rwa [length_leBytes])
    rw [length_leBytes] at hin hout
    have hwrite := (hostWrite_area hm hr a v.toNat).trans ((areaTakes_block hx (by rwa [length_leBytes])).trans ht)
    exact ⟨t, congrArg Host.Outcome.next hwrite, hrest, fun i hi => (hin i hi).trans (leBytes_getD hi _), hout⟩
  · rw [wholeWrite hm hr hp, ← BitVec.ofNat_toNat]
    rfl
  · rw [wholeWrite hm hr hp, ← BitVec.ofNat_toNat]
    rfl
  · exact wholeWrite hm hr hp

end Sys2Proof.Machine
end
